-- ==== Sys2Proof/Word.lean ====
section
/-!
DEFINITION. Sys2Proof/Word.lean: the word types of the machine.
-/
namespace Sys2Proof

/-- A 32-bit instruction word or lane register (02 R45, 01 R13). -/
abbrev Word := BitVec 32
/-- A 64-bit scalar register or address (01 R13). -/
abbrev DWord := BitVec 64
/-- One byte of memory. -/
abbrev Byte := BitVec 8
/-- A 64-lane mask (01 R13, J registers). -/
abbrev Mask := BitVec 64

end Sys2Proof
end

