-- ==== Sys2Proof/Syntax.lean ====
section
/-!
DEFINITION. Sys2Proof/Syntax.lean: the one inductive of the machine's steps, one constructor per row of the
opcode table. An instruction word carries its operand fields at the widths its format gives them (02 R48 to R62);
an operation or event of the device carries the objects it concerns.
-/
namespace Sys2Proof

/-- One rank's side of a collective as the fabric delivers it (18 R406, R407): how it is split over flits is not
architectural, so the whole contribution is the event's argument. -/
structure RankData where
  rank  : Nat
  /-- The instruction: 0 ALLRED, 1 ALLGATH, 2 REDSCAT, 3 BCAST, 4 ALL2ALL. -/
  kind  : Nat
  spec  : BitVec 32
  count : Nat
  /-- The rank reported a condition that ends the collective with STATUS RECORD (18 R406). -/
  bad   : Bool
  data  : List (BitVec 32 × Bool)
deriving DecidableEq, Repr

/-- The fields of a flit (18 R402). -/
structure Flit where
  ftype : BitVec 4
  dst   : BitVec 12
  src   : BitVec 12
  comm  : BitVec 32
  cseq  : BitVec 32
  index : BitVec 36
  payload : List (BitVec 8)
  tag   : List (BitVec 8)
  lseq  : BitVec 32
  ack   : BitVec 32
  credit : BitVec 32
  crc   : BitVec 32
deriving DecidableEq, Repr

/-- An access of a requester outside the device (18 R410, R484; 23 R473): offset and, for a write, its bytes. -/
structure HostAccess where
  offset : Nat
  len    : Nat
  write  : Option (List (BitVec 8))
deriving DecidableEq, Repr

/-- What a hart's access does (18 R413, R414): an AMO, LR or SC with its .aq and .rl bits. -/
inductive HartOp where
  | load | loadAcq | store | storeRel | amo (op : BitVec 4) (aq rl : Bool) | lr (aq rl : Bool) | sc (aq rl : Bool)
deriving DecidableEq, Repr

/-- A hart that writes a control register, and whether it runs in machine mode (18 R412). -/
structure HartMode where
  hart    : Nat
  machine : Bool
deriving DecidableEq, Repr

/-- A hart's access to a physical address (18 R413). -/
structure HartAccess where
  addr : Nat
  len  : Nat
  op   : HartOp
  data : BitVec 64
deriving DecidableEq, Repr

/-- The register a REGISTER_WRITE names: the physical function's or world 60's view of the Trust Controller's area,
a Link port, a memory interface, or a virtual function's window (05 R126, 17 R372, R390, 18 R401, 23 R478). -/
inductive RegAddr where
  | trust (world60 : Bool) (offset : Nat)
  | port  (k : Nat) (offset : Nat)
  | phy   (p : Nat) (offset : Nat)
  | vf    (w : Nat) (offset : Nat)
deriving DecidableEq, Repr

/-- An SPDM request other than those with a row of their own (17 R397). -/
inductive SpdmReq where
  | getVersion | getCapabilities | negotiateAlgorithms | getDigests | getCertificate (offset len : Nat)
  | challenge | keyExchange | finish | endSession | other (code : BitVec 8)
  /-- IDE_KM over the session (18 R409): the stream of a virtual function is established or stopped. -/
  | ideKm (w : Nat) (go : Bool)
deriving DecidableEq, Repr

/-- An error in on-chip storage (20 R433). -/
inductive ChipError where
  | singleBit (w : Nat)
  | l1Word (core line : Nat)
  | framePool (gid lane level reg : Nat)
  | scratchWord (team word : Nat)
  | tileRow (team slot row : Nat)
  | groupControl (gid : Nat)
  | tagEntry (core entry : Nat)
  | mergePartial (cluster atom : Nat)
  | deviceControl
deriving DecidableEq, Repr

/-- The steps of the machine: every row of the opcode table, those that only the outside begins, and two without fields, last. -/
inductive Instr where
  /-- CLAUSE_ISSUE (R71). -/
  | clauseIssue (gid : Nat)
  /-- LONG_LATENCY_COMPLETION (R37). -/
  | longLatencyCompletion (op : Nat)
  /-- SADD (R113). -/
  | sadd (y : BitVec 1) (x : BitVec 1) (b : BitVec 5) (a : BitVec 5) (d : BitVec 5)
  /-- SSUB (R113). -/
  | ssub (y : BitVec 1) (x : BitVec 1) (b : BitVec 5) (a : BitVec 5) (d : BitVec 5)
  /-- SAND (R113). -/
  | sand (y : BitVec 1) (x : BitVec 1) (b : BitVec 5) (a : BitVec 5) (d : BitVec 5)
  /-- SOR (R113). -/
  | sor (y : BitVec 1) (x : BitVec 1) (b : BitVec 5) (a : BitVec 5) (d : BitVec 5)
  /-- SXOR (R113). -/
  | sxor (y : BitVec 1) (x : BitVec 1) (b : BitVec 5) (a : BitVec 5) (d : BitVec 5)
  /-- SSHL (R113). -/
  | sshl (y : BitVec 1) (x : BitVec 1) (b : BitVec 5) (a : BitVec 5) (d : BitVec 5)
  /-- SSHR (R113). -/
  | sshr (y : BitVec 1) (x : BitVec 1) (b : BitVec 5) (a : BitVec 5) (d : BitVec 5)
  /-- SSAR (R113). -/
  | ssar (y : BitVec 1) (x : BitVec 1) (b : BitVec 5) (a : BitVec 5) (d : BitVec 5)
  /-- SMUL (R113). -/
  | smul (y : BitVec 1) (x : BitVec 1) (b : BitVec 5) (a : BitVec 5) (d : BitVec 5)
  /-- SMULH (R113). -/
  | smulh (y : BitVec 1) (x : BitVec 1) (t : BitVec 1) (b : BitVec 5) (a : BitVec 5) (d : BitVec 5)
  /-- SMIN (R113). -/
  | smin (y : BitVec 1) (x : BitVec 1) (t : BitVec 1) (b : BitVec 5) (a : BitVec 5) (d : BitVec 5)
  /-- SMAX (R113). -/
  | smax (y : BitVec 1) (x : BitVec 1) (t : BitVec 1) (b : BitVec 5) (a : BitVec 5) (d : BitVec 5)
  /-- SCMP (R116). -/
  | scmp (y : BitVec 1) (x : BitVec 1) (t : BitVec 2) (c : BitVec 4) (b : BitVec 5) (a : BitVec 5) (k : BitVec 2)
  /-- SSEL (R117). -/
  | ssel (y : BitVec 1) (x : BitVec 1) (s : BitVec 2) (b : BitVec 5) (a : BitVec 5) (d : BitVec 5)
  /-- SMOVS (R118). -/
  | smovs (n : BitVec 6) (d : BitVec 5)
  /-- SMOVS_WRITE (R119). -/
  | smovsWrite (x : BitVec 1) (a : BitVec 5)
  /-- SADDI (R114). -/
  | saddi (i : BitVec 12) (a : BitVec 5) (d : BitVec 5)
  /-- SANDI (R114). -/
  | sandi (i : BitVec 12) (a : BitVec 5) (d : BitVec 5)
  /-- SORI (R114). -/
  | sori (i : BitVec 12) (a : BitVec 5) (d : BitVec 5)
  /-- SXORI (R114). -/
  | sxori (i : BitVec 12) (a : BitVec 5) (d : BitVec 5)
  /-- SSHLI (R114). -/
  | sshli (n : BitVec 6) (a : BitVec 5) (d : BitVec 5)
  /-- SSHRI (R114). -/
  | sshri (n : BitVec 6) (a : BitVec 5) (d : BitVec 5)
  /-- SSARI (R114). -/
  | ssari (n : BitVec 6) (a : BitVec 5) (d : BitVec 5)
  /-- SCMPI (R116). -/
  | scmpi (c : BitVec 3) (i : BitVec 12) (a : BitVec 5) (k : BitVec 2)
  /-- SLUI (R115). -/
  | slui (i : BitVec 20) (d : BitVec 5)
  /-- SAPC (R115). -/
  | sapc (i : BitVec 20) (d : BitVec 5)
  /-- MRD (R125). -/
  | mrd (m : BitVec 5) (d : BitVec 5)
  /-- SPUSH (R123). -/
  | spush (x : BitVec 1) (a : BitVec 5) (q : BitVec 2)
  /-- SLD (R120). -/
  | sld (w : BitVec 3) (i : BitVec 12) (a : BitVec 5) (d : BitVec 5) (f : BitVec 1)
  /-- SST (R120). -/
  | sst (w : BitVec 3) (i : BitVec 12) (a : BitVec 5) (d : BitVec 5) (f : BitVec 1)
  /-- CLD (R127). -/
  | cld (w : BitVec 3) (i : BitVec 12) (a : BitVec 5) (d : BitVec 5) (f : BitVec 1)
  /-- CST (R127). -/
  | cst (w : BitVec 3) (i : BitVec 12) (a : BitVec 5) (d : BitVec 5) (f : BitVec 1)
  /-- TLBINV (R129). -/
  | tlbinv (s : BitVec 2) (k : BitVec 2) (b : BitVec 5) (a : BitVec 5)
  /-- TLBINV_COMPLETION (R130). -/
  | tlbinvCompletion (gid : Nat)
  /-- TLBSYNC (R130). -/
  | tlbsync
  /-- CMAINT (R131). -/
  | cmaint (o : BitVec 2) (b : BitVec 5) (a : BitVec 5)
  /-- CMAINT_W (R131). -/
  | cmaintW (o : BitVec 2) (a : BitVec 5)
  /-- CMAINT_COMPLETION (R132). -/
  | cmaintCompletion (gid : Nat)
  /-- CSYNC (R132). -/
  | csync
  /-- VADD_B32 (R139). -/
  | vaddB32 (g : BitVec 4) (b : BitVec 7) (a : BitVec 7) (d : BitVec 7)
  /-- VSUB_B32 (R139). -/
  | vsubB32 (g : BitVec 4) (b : BitVec 7) (a : BitVec 7) (d : BitVec 7)
  /-- VMUL_B32 (R139). -/
  | vmulB32 (g : BitVec 4) (b : BitVec 7) (a : BitVec 7) (d : BitVec 7)
  /-- VMULH_S32 (R139). -/
  | vmulhS32 (g : BitVec 4) (b : BitVec 7) (a : BitVec 7) (d : BitVec 7)
  /-- VMULH_N32 (R139). -/
  | vmulhN32 (g : BitVec 4) (b : BitVec 7) (a : BitVec 7) (d : BitVec 7)
  /-- VMIN_S32 (R139). -/
  | vminS32 (g : BitVec 4) (b : BitVec 7) (a : BitVec 7) (d : BitVec 7)
  /-- VMAX_S32 (R139). -/
  | vmaxS32 (g : BitVec 4) (b : BitVec 7) (a : BitVec 7) (d : BitVec 7)
  /-- VMIN_N32 (R139). -/
  | vminN32 (g : BitVec 4) (b : BitVec 7) (a : BitVec 7) (d : BitVec 7)
  /-- VMAX_N32 (R139). -/
  | vmaxN32 (g : BitVec 4) (b : BitVec 7) (a : BitVec 7) (d : BitVec 7)
  /-- VSHL_B32 (R139). -/
  | vshlB32 (g : BitVec 4) (b : BitVec 7) (a : BitVec 7) (d : BitVec 7)
  /-- VSHR_N32 (R139). -/
  | vshrN32 (g : BitVec 4) (b : BitVec 7) (a : BitVec 7) (d : BitVec 7)
  /-- VSHR_S32 (R139). -/
  | vshrS32 (g : BitVec 4) (b : BitVec 7) (a : BitVec 7) (d : BitVec 7)
  /-- VBFE_N32 (R141). -/
  | vbfeN32 (g : BitVec 4) (b : BitVec 7) (a : BitVec 7) (d : BitVec 7)
  /-- VBFE_S32 (R141). -/
  | vbfeS32 (g : BitVec 4) (b : BitVec 7) (a : BitVec 7) (d : BitVec 7)
  /-- VBCNT_B32 (R140). -/
  | vbcntB32 (g : BitVec 4) (a : BitVec 7) (d : BitVec 7)
  /-- VCLZ_B32 (R140). -/
  | vclzB32 (g : BitVec 4) (a : BitVec 7) (d : BitVec 7)
  /-- VBREV_B32 (R140). -/
  | vbrevB32 (g : BitVec 4) (a : BitVec 7) (d : BitVec 7)
  /-- VMOV_B32 (R140). -/
  | vmovB32 (g : BitVec 4) (a : BitVec 7) (d : BitVec 7)
  /-- VSEL_B32 (R145). -/
  | vselB32 (g : BitVec 4) (b : BitVec 7) (a : BitVec 7) (d : BitVec 7)
  /-- VADD_B64 (R139). -/
  | vaddB64 (g : BitVec 4) (b : BitVec 7) (a : BitVec 7) (d : BitVec 7)
  /-- VSUB_B64 (R139). -/
  | vsubB64 (g : BitVec 4) (b : BitVec 7) (a : BitVec 7) (d : BitVec 7)
  /-- VFADD_F32 (R148). -/
  | vfaddF32 (g : BitVec 4) (b : BitVec 7) (a : BitVec 7) (d : BitVec 7)
  /-- VFSUB_F32 (R148). -/
  | vfsubF32 (g : BitVec 4) (b : BitVec 7) (a : BitVec 7) (d : BitVec 7)
  /-- VFMUL_F32 (R148). -/
  | vfmulF32 (g : BitVec 4) (b : BitVec 7) (a : BitVec 7) (d : BitVec 7)
  /-- VFMIN_F32 (R149). -/
  | vfminF32 (g : BitVec 4) (b : BitVec 7) (a : BitVec 7) (d : BitVec 7)
  /-- VFMAX_F32 (R149). -/
  | vfmaxF32 (g : BitVec 4) (b : BitVec 7) (a : BitVec 7) (d : BitVec 7)
  /-- VFADD_F16X2 (R148). -/
  | vfaddF16x2 (g : BitVec 4) (b : BitVec 7) (a : BitVec 7) (d : BitVec 7)
  /-- VFMUL_F16X2 (R148). -/
  | vfmulF16x2 (g : BitVec 4) (b : BitVec 7) (a : BitVec 7) (d : BitVec 7)
  /-- VFADD_BF16X2 (R148). -/
  | vfaddBf16x2 (g : BitVec 4) (b : BitVec 7) (a : BitVec 7) (d : BitVec 7)
  /-- VFMUL_BF16X2 (R148). -/
  | vfmulBf16x2 (g : BitVec 4) (b : BitVec 7) (a : BitVec 7) (d : BitVec 7)
  /-- VFADD_F64 (R148). -/
  | vfaddF64 (g : BitVec 4) (b : BitVec 7) (a : BitVec 7) (d : BitVec 7)
  /-- VFSUB_F64 (R148). -/
  | vfsubF64 (g : BitVec 4) (b : BitVec 7) (a : BitVec 7) (d : BitVec 7)
  /-- VFMUL_F64 (R148). -/
  | vfmulF64 (g : BitVec 4) (b : BitVec 7) (a : BitVec 7) (d : BitVec 7)
  /-- VFMIN_F64 (R149). -/
  | vfminF64 (g : BitVec 4) (b : BitVec 7) (a : BitVec 7) (d : BitVec 7)
  /-- VFMAX_F64 (R149). -/
  | vfmaxF64 (g : BitVec 4) (b : BitVec 7) (a : BitVec 7) (d : BitVec 7)
  /-- FRCP_F32 (R103). -/
  | frcpF32 (g : BitVec 4) (a : BitVec 7) (d : BitVec 7)
  /-- FRSQ_F32 (R103). -/
  | frsqF32 (g : BitVec 4) (a : BitVec 7) (d : BitVec 7)
  /-- FEX2_F32 (R103). -/
  | fex2F32 (g : BitVec 4) (a : BitVec 7) (d : BitVec 7)
  /-- FLG2_F32 (R103). -/
  | flg2F32 (g : BitVec 4) (a : BitVec 7) (d : BitVec 7)
  /-- SHFL_B32 (R156). -/
  | shflB32 (g : BitVec 4) (b : BitVec 7) (a : BitVec 7) (d : BitVec 7)
  /-- BCAST_B32 (R156). -/
  | bcastB32 (g : BitVec 4) (l : BitVec 6) (a : BitVec 7) (d : BitVec 7)
  /-- BALLOT (R157). -/
  | ballot (g : BitVec 4) (p : BitVec 3) (d : BitVec 7)
  /-- POPC (R157). -/
  | popc (g : BitVec 4) (m : BitVec 7) (p : BitVec 3) (d : BitVec 7)
  /-- SCAN_ADD_B32 (R158). -/
  | scanAddB32 (g : BitVec 4) (a : BitVec 7) (d : BitVec 7)
  /-- SCAN_FADD_F32 (R158). -/
  | scanFaddF32 (g : BitVec 4) (a : BitVec 7) (d : BitVec 7)
  /-- MATCH_B32 (R159). -/
  | matchB32 (g : BitVec 4) (a : BitVec 7) (d : BitVec 7)
  /-- VRED_FADD_F32 (R158). -/
  | vredFaddF32 (g : BitVec 4) (a : BitVec 7) (d : BitVec 7)
  /-- SRSEED (R160). -/
  | srseed (g : BitVec 4) (a : BitVec 7)
  /-- VMOVS (R161). -/
  | vmovs (g : BitVec 4) (s : BitVec 6) (d : BitVec 7)
  /-- VCMP (R147). -/
  | vcmp (g : BitVec 4) (b : BitVec 7) (a : BitVec 7) (p2 : BitVec 3) (p1 : BitVec 3) (qb : BitVec 1) (qa : BitVec 1) (j : BitVec 3) (t : BitVec 3) (c : BitVec 4)
  /-- VFCMP (R147). -/
  | vfcmp (g : BitVec 4) (b : BitVec 7) (a : BitVec 7) (p2 : BitVec 3) (p1 : BitVec 3) (qb : BitVec 1) (qa : BitVec 1) (j : BitVec 3) (t : BitVec 3) (c : BitVec 4)
  /-- VFMA_F32 (R150). -/
  | vfmaF32 (g : BitVec 4) (b : BitVec 7) (a : BitVec 7) (d : BitVec 7) (qc : BitVec 1) (qb : BitVec 1) (qa : BitVec 1) (abs : BitVec 1) (neg : BitVec 1) (sat : BitVec 1) (rm : BitVec 3) (c : BitVec 7)
  /-- VFMA_F64 (R150). -/
  | vfmaF64 (g : BitVec 4) (b : BitVec 7) (a : BitVec 7) (d : BitVec 7) (abs : BitVec 1) (neg : BitVec 1) (sat : BitVec 1) (rm : BitVec 3) (c : BitVec 7)
  /-- VFMA_F16X2 (R150). -/
  | vfmaF16x2 (g : BitVec 4) (b : BitVec 7) (a : BitVec 7) (d : BitVec 7) (qc : BitVec 1) (qb : BitVec 1) (qa : BitVec 1) (abs : BitVec 1) (neg : BitVec 1) (sat : BitVec 1) (rm : BitVec 3) (c : BitVec 7)
  /-- VFMA_BF16X2 (R150). -/
  | vfmaBf16x2 (g : BitVec 4) (b : BitVec 7) (a : BitVec 7) (d : BitVec 7) (qc : BitVec 1) (qb : BitVec 1) (qa : BitVec 1) (abs : BitVec 1) (neg : BitVec 1) (sat : BitVec 1) (rm : BitVec 3) (c : BitVec 7)
  /-- VLOP3_B32 (R143). -/
  | vlop3B32 (g : BitVec 4) (b : BitVec 7) (a : BitVec 7) (d : BitVec 7) (lut : BitVec 8) (qc : BitVec 1) (qb : BitVec 1) (qa : BitVec 1) (c : BitVec 7)
  /-- VBFI_B32 (R142). -/
  | vbfiB32 (g : BitVec 4) (b : BitVec 7) (a : BitVec 7) (d : BitVec 7) (len : BitVec 6) (pos : BitVec 5) (qb : BitVec 1) (qa : BitVec 1)
  /-- VCVT (R154). -/
  | vcvt (g : BitVec 4) (a : BitVec 7) (d : BitVec 7) (dst : BitVec 4) (src : BitVec 4) (qa : BitVec 1) (sat : BitVec 1) (rm : BitVec 3)
  /-- VMAD_B32 (R144). -/
  | vmadB32 (g : BitVec 4) (b : BitVec 7) (a : BitVec 7) (d : BitVec 7) (qc : BitVec 1) (qb : BitVec 1) (qa : BitVec 1) (c : BitVec 7)
  /-- VADDI_B32 (R146). -/
  | vaddiB32 (g : BitVec 4) (a : BitVec 7) (d : BitVec 7) (i : BitVec 16) (qa : BitVec 1)
  /-- VMOVI_B32 (R146). -/
  | vmoviB32 (g : BitVec 4) (a : BitVec 7) (d : BitVec 7) (i : BitVec 16) (m : BitVec 2)
  /-- LD_N8 (R170). -/
  | ldN8 (g : BitVec 4) (s : BitVec 2) (b : BitVec 5) (o : BitVec 7) (d : BitVec 7) (f : BitVec 1)
  /-- LD_S8 (R170). -/
  | ldS8 (g : BitVec 4) (s : BitVec 2) (b : BitVec 5) (o : BitVec 7) (d : BitVec 7) (f : BitVec 1)
  /-- LD_N16 (R170). -/
  | ldN16 (g : BitVec 4) (s : BitVec 2) (b : BitVec 5) (o : BitVec 7) (d : BitVec 7) (f : BitVec 1)
  /-- LD_S16 (R170). -/
  | ldS16 (g : BitVec 4) (s : BitVec 2) (b : BitVec 5) (o : BitVec 7) (d : BitVec 7) (f : BitVec 1)
  /-- LD_B32 (R170). -/
  | ldB32 (g : BitVec 4) (s : BitVec 2) (b : BitVec 5) (o : BitVec 7) (d : BitVec 7) (f : BitVec 1)
  /-- LD_B64 (R170). -/
  | ldB64 (g : BitVec 4) (s : BitVec 2) (b : BitVec 5) (o : BitVec 7) (d : BitVec 7) (f : BitVec 1)
  /-- LD_B128 (R170). -/
  | ldB128 (g : BitVec 4) (s : BitVec 2) (b : BitVec 5) (o : BitVec 7) (d : BitVec 7) (f : BitVec 1)
  /-- ST_B8 (R171). -/
  | stB8 (g : BitVec 4) (s : BitVec 2) (b : BitVec 5) (o : BitVec 7) (d : BitVec 7) (f : BitVec 1)
  /-- ST_B16 (R171). -/
  | stB16 (g : BitVec 4) (s : BitVec 2) (b : BitVec 5) (o : BitVec 7) (d : BitVec 7) (f : BitVec 1)
  /-- ST_B32 (R171). -/
  | stB32 (g : BitVec 4) (s : BitVec 2) (b : BitVec 5) (o : BitVec 7) (d : BitVec 7) (f : BitVec 1)
  /-- ST_B64 (R171). -/
  | stB64 (g : BitVec 4) (s : BitVec 2) (b : BitVec 5) (o : BitVec 7) (d : BitVec 7) (f : BitVec 1)
  /-- ST_B128 (R171). -/
  | stB128 (g : BitVec 4) (s : BitVec 2) (b : BitVec 5) (o : BitVec 7) (d : BitVec 7) (f : BitVec 1)
  /-- TLOOK (R186). -/
  | tlook (g : BitVec 4) (a : BitVec 7) (d : BitVec 7)
  /-- TINS (R186). -/
  | tins (g : BitVec 4) (b : BitVec 7) (a : BitVec 7) (d : BitVec 7)
  /-- TINV (R186). -/
  | tinv (g : BitVec 4) (a : BitVec 7) (d : BitVec 7)
  /-- FENCE (R184). -/
  | fence (s : BitVec 2) (p : BitVec 4)
  /-- ATOM_B32 (R176). -/
  | atomB32 (g : BitVec 4) (s : BitVec 2) (b : BitVec 5) (o : BitVec 7) (d : BitVec 7) (f : BitVec 1) (i : BitVec 16) (x : BitVec 4) (c : BitVec 7)
  /-- ATOM_B64 (R176). -/
  | atomB64 (g : BitVec 4) (s : BitVec 2) (b : BitVec 5) (o : BitVec 7) (d : BitVec 7) (f : BitVec 1) (i : BitVec 16) (x : BitVec 4) (c : BitVec 7)
  /-- UPD (R178). -/
  | upd (g : BitVec 4) (s : BitVec 2) (b : BitVec 5) (o : BitVec 7) (d : BitVec 7) (f : BitVec 1) (i : BitVec 16) (x : BitVec 4)
  /-- REL_B32 (R181). -/
  | relB32 (g : BitVec 4) (s : BitVec 2) (b : BitVec 5) (o : BitVec 7) (d : BitVec 7) (f : BitVec 1) (i : BitVec 16) (x : BitVec 4)
  /-- REL_B64 (R181). -/
  | relB64 (g : BitVec 4) (s : BitVec 2) (b : BitVec 5) (o : BitVec 7) (d : BitVec 7) (f : BitVec 1) (i : BitVec 16) (x : BitVec 4)
  /-- ACQ_B32 (R182). -/
  | acqB32 (g : BitVec 4) (s : BitVec 2) (b : BitVec 5) (o : BitVec 7) (d : BitVec 7) (f : BitVec 1) (i : BitVec 16) (x : BitVec 4)
  /-- ACQ_B64 (R182). -/
  | acqB64 (g : BitVec 4) (s : BitVec 2) (b : BitVec 5) (o : BitVec 7) (d : BitVec 7) (f : BitVec 1) (i : BitVec 16) (x : BitVec 4)
  /-- LOAD_PERFORMED (R273). -/
  | loadPerformed (op : Nat)
  /-- STORE_PERFORMED (R273). -/
  | storePerformed (op : Nat)
  /-- TZERO (R228). -/
  | tzero (t : BitVec 6) (f : BitVec 1)
  /-- MMA (R223). -/
  | mma (asrc : BitVec 1) (reuse : BitVec 1) (la : BitVec 5) (lb : BitVec 5) (a : BitVec 7) (t : BitVec 6) (f : BitVec 1) (shape : BitVec 3) (exact : BitVec 1) (fmtb : BitVec 4) (fmta : BitVec 4)
  /-- MMA_PAIR (R226). -/
  | mmaPair (asrc : BitVec 1) (reuse : BitVec 1) (la : BitVec 5) (lb : BitVec 5) (a : BitVec 7) (t : BitVec 6) (f : BitVec 1) (shape : BitVec 3) (exact : BitVec 1) (fmtb : BitVec 4) (fmta : BitVec 4)
  /-- TLOAD (R228). -/
  | tload (sl : BitVec 5) (t : BitVec 6) (f : BitVec 1) (fmt : BitVec 4)
  /-- DRAIN (R229). -/
  | drain (sl : BitVec 5) (ss : BitVec 5) (se : BitVec 5) (t : BitVec 6) (f : BitVec 1) (sck : BitVec 1) (rm : BitVec 3) (fmt : BitVec 4)
  /-- MATRIX_GRANT (R309). -/
  | matrixGrant (op : Nat)
  /-- MATRIX_PASS_COMPLETION (R223). -/
  | matrixPassCompletion (op : Nat)
  /-- CPY_LD (R233). -/
  | cpyLd (r : BitVec 1) (w : BitVec 1) (k : BitVec 2) (c : BitVec 5) (b : BitVec 5) (a : BitVec 5) (f : BitVec 1)
  /-- CPY_ST (R233). -/
  | cpySt (k : BitVec 2) (c : BitVec 5) (b : BitVec 5) (a : BitVec 5) (f : BitVec 1)
  /-- CPY_GATH (R233). -/
  | cpyGath (r : BitVec 1) (w : BitVec 1) (k : BitVec 2) (c : BitVec 5) (b : BitVec 5) (a : BitVec 5) (f : BitVec 1)
  /-- CPY_SCAT (R233). -/
  | cpyScat (k : BitVec 2) (c : BitVec 5) (b : BitVec 5) (a : BitVec 5) (f : BitVec 1)
  /-- COPY_START (R296). -/
  | copyStart (op : Nat)
  /-- COPY_ELEMENT_MOVE (R231). -/
  | copyElementMove (op : Nat)
  /-- STREAM_ENTRY_PUSH (R235). -/
  | streamEntryPush (op : Nat)
  /-- COPY_COMPLETION (R233). -/
  | copyCompletion (op : Nat)
  /-- TASKP (R237). -/
  | taskp (c : BitVec 5) (b : BitVec 5) (a : BitVec 5) (f : BitVec 1)
  /-- BK_ADD (R239). -/
  | bkAdd (y : BitVec 1) (t : BitVec 2) (c : BitVec 5) (b : BitVec 5) (a : BitVec 5) (f : BitVec 1)
  /-- BK_SCALE (R239). -/
  | bkScale (y : BitVec 1) (t : BitVec 2) (c : BitVec 5) (b : BitVec 5) (a : BitVec 5) (f : BitVec 1)
  /-- BK_MAX (R239). -/
  | bkMax (y : BitVec 1) (t : BitVec 2) (c : BitVec 5) (b : BitVec 5) (a : BitVec 5) (f : BitVec 1)
  /-- BK_EXPSUM (R240). -/
  | bkExpsum (y : BitVec 1) (t : BitVec 2) (c : BitVec 5) (b : BitVec 5) (a : BitVec 5) (f : BitVec 1)
  /-- BK_FILL (R239). -/
  | bkFill (y : BitVec 1) (t : BitVec 2) (c : BitVec 5) (b : BitVec 5) (a : BitVec 5) (f : BitVec 1)
  /-- BANK_COMMAND_COMPLETION (R238). -/
  | bankCommandCompletion (op : Nat)
  /-- MEMCALL (R241). -/
  | memcall (g : BitVec 4) (q : BitVec 1) (n : BitVec 1) (j : BitVec 2) (c : BitVec 5) (s : BitVec 5) (a : BitVec 7) (f : BitVec 1)
  /-- COLL_ALLRED (R247). -/
  | collAllred (a : BitVec 5) (f : BitVec 1)
  /-- COLL_ALLGATH (R247). -/
  | collAllgath (a : BitVec 5) (f : BitVec 1)
  /-- COLL_REDSCAT (R247). -/
  | collRedscat (a : BitVec 5) (f : BitVec 1)
  /-- COLL_BCAST (R247). -/
  | collBcast (a : BitVec 5) (f : BitVec 1)
  /-- COLL_ALL2ALL (R247). -/
  | collAll2all (a : BitVec 5) (f : BitVec 1)
  /-- COLLECTIVE_COMPLETION (R247). -/
  | collectiveCompletion (op : Nat) (ranks : List RankData)
  /-- BR (R193). -/
  | br (o : BitVec 21) (g : BitVec 4)
  /-- BRU (R194). -/
  | bru (o : BitVec 22) (n : BitVec 1) (c : BitVec 2)
  /-- BRX (R195). -/
  | brx (a : BitVec 7) (g : BitVec 4)
  /-- RET (R197). -/
  | ret (g : BitVec 4)
  /-- UNWIND (R198). -/
  | unwind (b : BitVec 5) (a : BitVec 5) (g : BitVec 4)
  /-- EXIT (R199). -/
  | exit (g : BitVec 4)
  /-- SPAWN (R200). -/
  | spawn (a : BitVec 5) (p : BitVec 7) (g : BitVec 4)
  /-- REGROUP (R202). -/
  | regroup (a : BitVec 7)
  /-- BAR_TEAM (R203). -/
  | barTeam (k : BitVec 4)
  /-- BAR_GANG (R203). -/
  | barGang (k : BitVec 4)
  /-- ARRIVE (R207). -/
  | arrive (c : BitVec 2) (b : BitVec 5) (a : BitVec 5)
  /-- SWAIT (R208). -/
  | swait (b : BitVec 5) (a : BitVec 5)
  /-- CWAIT (R209). -/
  | cwait (b : BitVec 5) (a : BitVec 5)
  /-- ENGINE_ARRIVAL (R304). -/
  | engineArrival (task : Nat)
  /-- QBIND (R210). -/
  | qbind (r : BitVec 1) (q : BitVec 2) (o : BitVec 4)
  /-- QCLOSE (R212). -/
  | qclose (q : BitVec 2)
  /-- REJOIN (R214). -/
  | rejoin (j : BitVec 2)
  /-- IMPLICIT_REJOIN (R214). -/
  | implicitRejoin (gid : Nat) (j : Nat)
  /-- TRAP (R217). -/
  | trap (c : BitVec 7) (g : BitVec 4)
  /-- YIELD (R218). -/
  | yield
  /-- WALK (R215). -/
  | walk (b : BitVec 5) (a : BitVec 5)
  /-- NOP (R218). -/
  | nop (g : BitVec 4)
  /-- LAUNCH (R216). -/
  | launch (b : BitVec 5) (a : BitVec 5)
  /-- CALL (R196). -/
  | call (dm : BitVec 7) (g : BitVec 4) (o : BitVec 32)
  /-- CALLX (R196). -/
  | callx (dm : BitVec 7) (a : BitVec 7) (g : BitVec 4)
  /-- XLD (R249). -/
  | xld (i : BitVec 13) (n : BitVec 2) (d : BitVec 3)
  /-- XST (R249). -/
  | xst (i : BitVec 13) (n : BitVec 2) (s : BitVec 3)
  /-- BAND (R249). -/
  | band (b : BitVec 3) (a : BitVec 3) (d : BitVec 3)
  /-- BOR (R249). -/
  | bor (b : BitVec 3) (a : BitVec 3) (d : BitVec 3)
  /-- BXOR (R249). -/
  | bxor (b : BitVec 3) (a : BitVec 3) (d : BitVec 3)
  /-- BNOT (R249). -/
  | bnot (a : BitVec 3) (d : BitVec 3)
  /-- BMAJ (R249). -/
  | bmaj (c : BitVec 3) (b : BitVec 3) (a : BitVec 3) (d : BitVec 3)
  /-- BSEL (R249). -/
  | bsel (c : BitVec 3) (b : BitVec 3) (a : BitVec 3) (d : BitVec 3)
  /-- BSHL (R249). -/
  | bshl (s : BitVec 13) (a : BitVec 3) (d : BitVec 3)
  /-- BADDC (R249). -/
  | baddc (i : BitVec 2) (b : BitVec 3) (a : BitVec 3) (d : BitVec 3)
  /-- ADDN (R250). -/
  | addn (w : BitVec 13)
  /-- SUBN (R250). -/
  | subn (w : BitVec 13)
  /-- MULN (R250). -/
  | muln (w : BitVec 13)
  /-- BLOOP (R251). -/
  | bloop (n : BitVec 13) (l : BitVec 3)
  /-- ROWSTEP (R249). -/
  | rowstep (v : BitVec 13) (s : BitVec 1) (n : BitVec 2)
  /-- ROW_DOT (R249). -/
  | rowDot (y : BitVec 1) (m : BitVec 10) (b : BitVec 3) (a : BitVec 3)
  /-- ROW_AXPY (R249). -/
  | rowAxpy (b : BitVec 3) (a : BitVec 3) (d : BitVec 3)
  /-- XREDUCE (R249). -/
  | xreduce (d : BitVec 3)
  /-- BANK_CALL_BLOCK (R244). -/
  | bankCallBlock (blk : Nat)
  /-- KERNEL (R321). -/
  | kernel (blk : Nat)
  /-- DOT (R243). -/
  | dot (blk : Nat)
  /-- REDUCE (R243). -/
  | reduce (blk : Nat)
  /-- AXPY (R243). -/
  | axpy (blk : Nat)
  /-- TRANSPOSE (R315). -/
  | transpose (blk : Nat)
  /-- FILL (R243). -/
  | fill (blk : Nat)
  /-- COPYROW (R316). -/
  | copyrow (blk : Nat)
  /-- BANK_CALL_REPLY (R245). -/
  | bankCallReply (blk : Nat)
  /-- WALK_TASK_POST (R269). -/
  | walkTaskPost (core : Nat) (i : Nat) (j : Nat) (k : Nat)
  /-- TASK_ENTER (R301). -/
  | taskEnter (task : Nat)
  /-- TASK_BUFFER (R301). -/
  | taskBuffer (task : Nat)
  /-- TASK_INPUTS (R301). -/
  | taskInputs (task : Nat)
  /-- TASK_READY (R301). -/
  | taskReady (task : Nat)
  /-- TASK_RUN (R301). -/
  | taskRun (task : Nat)
  /-- TASK_END (R301). -/
  | taskEnd (task : Nat)
  /-- BINTIMER_EXPIRY (R201). -/
  | bintimerExpiry (team : Nat) (bin : Nat)
  /-- BIN_LAUNCH (R201). -/
  | binLaunch (team : Nat) (bin : Nat)
  /-- FRAME_REQUEST_SERVED (R263). -/
  | frameRequestServed (gid : Nat)
  /-- SPILLWAIT_EXPIRY (R264). -/
  | spillwaitExpiry (gid : Nat)
  /-- TRAP_ENTRY (R439). -/
  | trapEntry (gid : Nat)
  /-- TEAM_PLACEMENT (R358). -/
  | teamPlacement (w : Nat)
  /-- HEAD_RESERVING (R357). -/
  | headReserving (w : Nat) (prio : Nat)
  /-- GRID_COMPLETION (R363). -/
  | gridCompletion (grid : Nat)
  /-- GRAPH_NODE_READY (R367). -/
  | graphNodeReady (graph : Nat) (node : Nat)
  /-- GRAPH_COPY_NODE (R367). -/
  | graphCopyNode (graph : Nat) (node : Nat)
  /-- GRAPH_NODE_COMPLETION (R367). -/
  | graphNodeCompletion (graph : Nat) (node : Nat)
  /-- LOCKKEEPER_RESTART (R351). -/
  | lockkeeperRestart (w : Nat)
  /-- CREATE (R382). -/
  | create (healthy : Bool)
  /-- RELEASE (R462). -/
  | release
  /-- SERVICE (R486). -/
  | service
  /-- SUSPEND (R448). -/
  | suspend
  /-- RESUME (R452). -/
  | resume
  /-- GROW (R453). -/
  | grow
  /-- SHRINK (R453). -/
  | shrink
  /-- SLUICE_OPEN (R454). -/
  | sluiceOpen
  /-- SLUICE_PASS (R455). -/
  | sluicePass
  /-- SLUICE_CLOSE (R456). -/
  | sluiceClose
  /-- SLUICE_ABORT (R446). -/
  | sluiceAbort
  /-- IMPORT_KEY (R459). -/
  | importKey
  /-- IMPORT (R461). -/
  | importStream
  /-- WORLD_LATCH_CHANGE (R384). -/
  | worldLatchChange (c : Nat)
  /-- INVCTL_COMPLETION (R391). -/
  | invctlCompletion (w : Nat)
  /-- PASSAGE_OF_TIME (R277). -/
  | passageOfTime (cycles : Nat)
  /-- MAILBOX_BADOP (R380). -/
  | mailboxBadop
  /-- SUSPEND_TIMEOUT (R448). -/
  | suspendTimeout
  /-- POWER_ON_RESET (R3). -/
  | powerOnReset
  /-- POWER_OFF (R3). -/
  | powerOff
  /-- CORRECTED_LINE_REWRITE (R431). -/
  | correctedLineRewrite (line : Nat)
  /-- COLLECTIVE_LINK_TIMEOUT (R407). -/
  | collectiveLinkTimeout (op : Nat)
  /-- FBRESP_RETRY (R438). -/
  | fbrespRetry (w : Nat) (seq : BitVec 32)
  /-- FBRESP_ABORT (R438). -/
  | fbrespAbort (w : Nat) (seq : BitVec 32)
  /-- CLOWN_WRITE (R384). -/
  | clownWrite (c : Nat) (v : BitVec 32)
  /-- PCOWN_WRITE (R377). -/
  | pcownWrite (p : Nat) (v : BitVec 32)
  /-- WAYMASK_WRITE (R377). -/
  | waymaskWrite (w : Nat) (die : Nat) (v : BitVec 64)
  /-- REGISTER_WRITE (R9). -/
  | registerWrite (reg : RegAddr) (v : BitVec 64)
  /-- INVCTL_ADDRESS (R391). -/
  | invctlAddress (w : Nat)
  /-- INVCTL_WORLD (R391). -/
  | invctlWorld (w : Nat)
  /-- RNG_STARTUP_TEST (R392). -/
  | rngStartupTest (pass : Bool)
  /-- RNG_HEALTH_FAILURE (R392). -/
  | rngHealthFailure
  /-- GET_TDISP_VERSION (R378). -/
  | getTdispVersion (w : Nat)
  /-- GET_TDISP_CAPABILITIES (R378). -/
  | getTdispCapabilities (w : Nat)
  /-- LOCK_INTERFACE_REQUEST (R379). -/
  | lockInterfaceRequest (w : Nat)
  /-- GET_DEVICE_INTERFACE_REPORT (R378). -/
  | getDeviceInterfaceReport (w : Nat)
  /-- GET_DEVICE_INTERFACE_STATE (R378). -/
  | getDeviceInterfaceState (w : Nat)
  /-- START_INTERFACE_REQUEST (R379). -/
  | startInterfaceRequest (w : Nat)
  /-- STOP_INTERFACE_REQUEST (R462). -/
  | stopInterfaceRequest (w : Nat)
  /-- TDISP_UNSUPPORTED_REQUEST (R378). -/
  | tdispUnsupportedRequest (w : Nat)
  /-- SPDM_REQUEST (R397). -/
  | spdmRequest (req : SpdmReq)
  /-- GET_MEASUREMENTS (R398). -/
  | getMeasurements (index : Nat)
  /-- COMM_OPEN (R404). -/
  | commOpen (req : List (BitVec 8))
  /-- COMM_CLOSE (R405). -/
  | commClose (req : List (BitVec 8))
  /-- DEBUG_OPEN (R468). -/
  | debugOpen (secured : Bool) (req : List (BitVec 8))
  /-- GET_RELEASE (R467). -/
  | getRelease (req : List (BitVec 8))
  /-- FLIT_RECEIVE (R406). -/
  | flitReceive (port : Nat) (flit : List (BitVec 8))
  /-- FLIT_REPLAY (R403). -/
  | flitReplay (port : Nat)
  /-- LCTL_WRITE (R401). -/
  | lctlWrite (port : Nat) (v : BitVec 32)
  /-- PORT_TRAINING_END (R401). -/
  | portTrainingEnd (port : Nat) (ok : Bool) (peer : BitVec 12) (peerPort : BitVec 5)
  /-- PORT_DOWN (R407). -/
  | portDown (port : Nat)
  /-- BAR2_ACCESS (R410). -/
  | bar2Access (w : Nat) (acc : HostAccess)
  /-- BAR4_ACCESS (R484). -/
  | bar4Access (acc : HostAccess)
  /-- CXL_MEM_ACCESS (R484). -/
  | cxlMemAccess (acc : HostAccess)
  /-- BOOT_WINDOW_ACCESS (R473). -/
  | bootWindowAccess (acc : HostAccess)
  /-- HART_ACCESS (R413). -/
  | hartAccess (hart : Nat) (acc : HartAccess)
  /-- HWORLD_WRITE (R412). -/
  | hworldWrite (hart : HartMode) (v : BitVec 64)
  /-- DBGREQ_SCAN (R471). -/
  | dbgreqScan (v : BitVec 32)
  /-- DBGREQ_MEMORY_TEST (R471). -/
  | dbgreqMemoryTest (v : BitVec 32)
  /-- TEST_ACCESS_PORT_ENTRY (R471). -/
  | testAccessPortEntry (mode : BitVec 2)
  /-- DBGDATA_READ (R469). -/
  | dbgdataRead
  /-- DBGDATA_WRITE (R469). -/
  | dbgdataWrite (v : BitVec 64)
  /-- BOOTCTL_GO (R475). -/
  | bootctlGo (v : BitVec 32)
  /-- BOOT_READY (R476). -/
  | bootReady
  /-- PHYCTL_WRITE (R478). -/
  | phyctlWrite (p : Nat) (v : BitVec 32)
  /-- REPAIR_WRITE (R478). -/
  | repairWrite (p : Nat) (v : BitVec 32)
  /-- PATTERN_RUN_WRITE (R479). -/
  | patternRunWrite (p : Nat)
  /-- PATTERN_RUN_READ (R479). -/
  | patternRunRead (p : Nat)
  /-- PATTERN_RUN_COMPLETION (R479). -/
  | patternRunCompletion (p : Nat) (err : BitVec 36)
  /-- RDLYALL_WRITE (R478). -/
  | rdlyallWrite (p : Nat) (v : BitVec 32)
  /-- WDLYALL_WRITE (R478). -/
  | wdlyallWrite (p : Nat) (v : BitVec 32)
  /-- THERMAL_THROTTLE (R483). -/
  | thermalThrottle
  /-- SYMBOLS_IN_ERROR (R430). -/
  | symbolsInError (line : Nat) (syms : List (Nat × BitVec 8))
  /-- ON_CHIP_STORAGE_ERROR (R433). -/
  | onChipStorageError (err : ChipError)
  /-- READING_BELOW_LIMIT (R483). -/
  | readingBelowLimit
  /-- TDISP_ERROR_TRANSITION (R379). -/
  | tdispErrorTransition (w : Nat)
  /-- LSHARE_WRITE (R377). -/
  | lshareWrite (w : Nat) (port : Nat) (v : BitVec 32)
  /-- HOST_LINK_TRAINING (R411). -/
  | hostLinkTraining (cxl : Bool)
deriving DecidableEq, Repr

end Sys2Proof
end

