-- ==== Sys2Proof/WellFormed.lean ====
section
/-!
DEFINITION. Sys2Proof/WellFormed.lean: the checks on the operand fields of an instruction word that do not depend on
the machine's state: steps 8 and 9 of 02 R71, with the tables of 05 R112, 06 R138, 07 R168, 08 R192, 09 R222, R232,
R241 and R249. An operation or event of the device has no fields to check.
-/
namespace Sys2Proof

/-- Detail RESERVED of ILLEGAL_OP (02 R70). -/
def detailReserved : Nat := 5
/-- Detail OPERAND of ILLEGAL_OP (02 R70). -/
def detailOperand : Nat := 6

/-- Step 8 of 02 R71, then step 9: the detail of the first that fails. -/
def verdict (reserved operand : Bool) : Option Nat :=
  if !reserved then some detailReserved else if !operand then some detailOperand else none

/-- A guard field other than 0xF, "never" (02 R46). -/
def guardOk (g : BitVec 4) : Bool := g != 15#4

/-- A marked queue source holds Q0 to Q3: the field's other bits are zero (02 R48, R49). -/
def qOk {n : Nat} (q : BitVec 1) (f : BitVec n) : Bool := q == 0#1 || f.toNat < 4

/-- The first register of a pair (02 R47). -/
def even (r : BitVec 7) : Bool := r.toNat % 2 == 0

/-- The integer types of 02 R51: S8, S4, S32, N32, S16, N16, N8. -/
def isIntType (t : Nat) : Bool := 9 ≤ t

/-- 3 for F64, 2 for a 32-bit type, 1 for a 16-bit type, 0 for a narrow one (02 R51, 06 R152). -/
def widthClass (t : Nat) : Nat :=
  if t = 0 then 3 else if t = 1 ∨ t = 11 ∨ t = 12 then 2
  else if t = 2 ∨ t = 3 ∨ t = 13 ∨ t = 14 then 1 else 0

/-- The elements per lane and the register spans of destination and source that VCVT accepts (06 R152). -/
def cvtShape (d s : Nat) : Option (Nat × Nat × Nat) :=
  match widthClass d, widthClass s with
  | 3, 2 => some (1, 2, 1)
  | 2, 3 => some (1, 1, 2)
  | 2, 2 => if d = s then none else some (1, 1, 1)
  | 2, 1 => some (2, 2, 1)
  | 1, 2 => some (2, 1, 2)
  | 2, 0 => some (4, 4, 1)
  | 0, 2 => some (4, 1, 4)
  | 1, 0 => if d ≤ 3 then some (4, 2, 1) else none
  | 0, 1 => if s ≤ 3 then some (4, 1, 2) else none
  | 1, 1 => if d ≤ 3 ∧ s ≤ 3 ∧ d ≠ s then some (2, 1, 1) else none
  | _, _ => none

/-- VCVT's fields: an accepted pair, each span aligned, a queue source only where the source is one register
(06 R138, R152, R135). -/
def cvtFits (dst src d a : Nat) (q : Bool) : Bool :=
  match cvtShape dst src with
  | none => false
  | some (_, sd, ss) => d % sd == 0 && a % ss == 0 && (!q || ss == 1)

/-- The tags of UPD that are 64 bits wide: IADD64, ORB64, AND64, XORB64 (02 R55). -/
def updWide (x : Nat) : Bool := x == 1 || x == 6 || x == 7 || x == 8

/-- The format pairs and EXACT values that MMA accepts (09 R224). -/
def mmaOk (fa fb : Nat) (exact : BitVec 1) : Bool :=
  if (fa = 2 ∧ fb = 2) ∨ (fa = 3 ∧ fb = 3) then exact == 0#1
  else if 4 ≤ fa ∧ fa ≤ 8 ∧ 4 ≤ fb ∧ fb ≤ 8 then true
  else if (fa = 9 ∨ fa = 10) ∧ (fb = 9 ∨ fb = 10) then exact == 1#1
  else false

/-- Elements of a matrix operand per register (09 R224). -/
def mmaPerReg (f : Nat) : Nat := if f ≤ 3 then 2 else if f = 8 ∨ f = 10 then 8 else 4

/-- Registers of operand A with ASRC = 0: 2K / w (09 R224). -/
def mmaSpan (shape fa : Nat) : Nat := 2 * (32 * 2 ^ shape) / mmaPerReg fa

/-- The checks of one instruction: the detail of the first failure, none where it is well formed. -/
def illFormed : Instr → Option Nat
  | .powerOnReset => none
  | .powerOff => none
  | .clauseIssue _ => none
  | .longLatencyCompletion _ => none
  | .sadd y x b a _ => verdict (qOk x a ∧ qOk y b) (True)
  | .ssub y x b a _ => verdict (qOk x a ∧ qOk y b) (True)
  | .sand y x b a _ => verdict (qOk x a ∧ qOk y b) (True)
  | .sor y x b a _ => verdict (qOk x a ∧ qOk y b) (True)
  | .sxor y x b a _ => verdict (qOk x a ∧ qOk y b) (True)
  | .sshl y x b a _ => verdict (qOk x a ∧ qOk y b) (True)
  | .sshr y x b a _ => verdict (qOk x a ∧ qOk y b) (True)
  | .ssar y x b a _ => verdict (qOk x a ∧ qOk y b) (True)
  | .smul y x b a _ => verdict (qOk x a ∧ qOk y b) (True)
  | .smulh y x _ b a _ => verdict (qOk x a ∧ qOk y b) (True)
  | .smin y x _ b a _ => verdict (qOk x a ∧ qOk y b) (True)
  | .smax y x _ b a _ => verdict (qOk x a ∧ qOk y b) (True)
  | .scmp y x _ c b a _ => verdict (qOk x a ∧ qOk y b) (c.toNat ≤ 5)
  | .ssel y x _ b a _ => verdict (qOk x a ∧ qOk y b) (True)
  | .smovs n _ => verdict (True) (2 ≤ n.toNat ∧ n.toNat ≤ 9)
  | .smovsWrite x a => verdict (qOk x a) (True)
  | .saddi _ _ _ => none
  | .sandi _ _ _ => none
  | .sori _ _ _ => none
  | .sxori _ _ _ => none
  | .sshli _ _ _ => none
  | .sshri _ _ _ => none
  | .ssari _ _ _ => none
  | .scmpi c _ _ _ => verdict (True) (c.toNat ≤ 5)
  | .slui _ _ => none
  | .sapc _ _ => none
  | .mrd _ _ => none
  | .spush x a _ => verdict (qOk x a) (True)
  | .sld w _ _ _ _ => verdict (True) (w.toNat ≠ 7)
  | .sst w _ _ _ _ => verdict (True) (w.toNat ≠ 7)
  | .cld w _ _ _ _ => verdict (True) ((w.toNat = 2 ∨ w.toNat = 3 ∨ w.toNat = 6))
  | .cst w _ _ _ _ => verdict (True) ((w.toNat = 2 ∨ w.toNat = 3 ∨ w.toNat = 6))
  | .tlbinv s k _ _ => verdict (True) (k.toNat ≠ 3 ∧ s.toNat ≠ 3)
  | .tlbinvCompletion _ => none
  | .tlbsync => none
  | .cmaint o _ _ => verdict (True) (o.toNat ≠ 3)
  | .cmaintW o _ => verdict (True) (o.toNat ≠ 3)
  | .cmaintCompletion _ => none
  | .csync => none
  | .vaddB32 g _ _ _ => verdict (True) (guardOk g)
  | .vsubB32 g _ _ _ => verdict (True) (guardOk g)
  | .vmulB32 g _ _ _ => verdict (True) (guardOk g)
  | .vmulhS32 g _ _ _ => verdict (True) (guardOk g)
  | .vmulhN32 g _ _ _ => verdict (True) (guardOk g)
  | .vminS32 g _ _ _ => verdict (True) (guardOk g)
  | .vmaxS32 g _ _ _ => verdict (True) (guardOk g)
  | .vminN32 g _ _ _ => verdict (True) (guardOk g)
  | .vmaxN32 g _ _ _ => verdict (True) (guardOk g)
  | .vshlB32 g _ _ _ => verdict (True) (guardOk g)
  | .vshrN32 g _ _ _ => verdict (True) (guardOk g)
  | .vshrS32 g _ _ _ => verdict (True) (guardOk g)
  | .vbfeN32 g _ _ _ => verdict (True) (guardOk g)
  | .vbfeS32 g _ _ _ => verdict (True) (guardOk g)
  | .vbcntB32 g _ _ => verdict (True) (guardOk g)
  | .vclzB32 g _ _ => verdict (True) (guardOk g)
  | .vbrevB32 g _ _ => verdict (True) (guardOk g)
  | .vmovB32 g _ _ => verdict (True) (guardOk g)
  | .vselB32 g _ _ _ => verdict (True) (guardOk g)
  | .vaddB64 g b a d => verdict (True) (guardOk g ∧ even d ∧ even a ∧ even b)
  | .vsubB64 g b a d => verdict (True) (guardOk g ∧ even d ∧ even a ∧ even b)
  | .vfaddF32 g _ _ _ => verdict (True) (guardOk g)
  | .vfsubF32 g _ _ _ => verdict (True) (guardOk g)
  | .vfmulF32 g _ _ _ => verdict (True) (guardOk g)
  | .vfminF32 g _ _ _ => verdict (True) (guardOk g)
  | .vfmaxF32 g _ _ _ => verdict (True) (guardOk g)
  | .vfaddF16x2 g _ _ _ => verdict (True) (guardOk g)
  | .vfmulF16x2 g _ _ _ => verdict (True) (guardOk g)
  | .vfaddBf16x2 g _ _ _ => verdict (True) (guardOk g)
  | .vfmulBf16x2 g _ _ _ => verdict (True) (guardOk g)
  | .vfaddF64 g b a d => verdict (True) (guardOk g ∧ even d ∧ even a ∧ even b)
  | .vfsubF64 g b a d => verdict (True) (guardOk g ∧ even d ∧ even a ∧ even b)
  | .vfmulF64 g b a d => verdict (True) (guardOk g ∧ even d ∧ even a ∧ even b)
  | .vfminF64 g b a d => verdict (True) (guardOk g ∧ even d ∧ even a ∧ even b)
  | .vfmaxF64 g b a d => verdict (True) (guardOk g ∧ even d ∧ even a ∧ even b)
  | .frcpF32 g _ _ => verdict (True) (guardOk g)
  | .frsqF32 g _ _ => verdict (True) (guardOk g)
  | .fex2F32 g _ _ => verdict (True) (guardOk g)
  | .flg2F32 g _ _ => verdict (True) (guardOk g)
  | .shflB32 g _ _ _ => verdict (True) (guardOk g)
  | .bcastB32 g _ _ _ => verdict (True) (guardOk g)
  | .ballot g _ d => verdict (True) (guardOk g ∧ even d)
  | .popc g m _ _ => verdict (True) (guardOk g ∧ m.toNat ≤ 2)
  | .scanAddB32 g _ _ => verdict (True) (guardOk g)
  | .scanFaddF32 g _ _ => verdict (True) (guardOk g)
  | .matchB32 g _ d => verdict (True) (guardOk g ∧ even d)
  | .vredFaddF32 g _ _ => verdict (True) (guardOk g)
  | .srseed g _ => verdict (True) (guardOk g)
  | .vmovs g s _ => verdict (True) (guardOk g ∧ s.toNat ≤ 9)
  | .vcmp g b a _ _ qb qa j t c => verdict (qOk qa a ∧ qOk qb b) (guardOk g ∧ t.toNat ≤ 3 ∧ j.toNat ≠ 7 ∧ c.toNat ≤ 5 ∧ (¬ (2 ≤ t.toNat) ∨ (even a ∧ even b ∧ qa = 0 ∧ qb = 0)))
  | .vfcmp g b a _ _ qb qa j t c => verdict (qOk qa a ∧ qOk qb b) (guardOk g ∧ t.toNat ≤ 3 ∧ j.toNat ≠ 7 ∧ c.toNat ≤ 12 ∧ (¬ (t.toNat = 1) ∨ (even a ∧ even b ∧ qa = 0 ∧ qb = 0)))
  | .vfmaF32 g b a _ qc qb qa _ _ _ rm c => verdict (qOk qa a ∧ qOk qb b ∧ qOk qc c) (guardOk g ∧ rm.toNat ≤ 4)
  | .vfmaF64 g b a d _ _ _ rm c => verdict (True) (guardOk g ∧ rm.toNat ≤ 4 ∧ even d ∧ even a ∧ even b ∧ even c)
  | .vfmaF16x2 g b a _ qc qb qa _ _ _ rm c => verdict (qOk qa a ∧ qOk qb b ∧ qOk qc c) (guardOk g ∧ rm.toNat ≤ 4)
  | .vfmaBf16x2 g b a _ qc qb qa _ _ _ rm c => verdict (qOk qa a ∧ qOk qb b ∧ qOk qc c) (guardOk g ∧ rm.toNat ≤ 4)
  | .vlop3B32 g b a _ _ qc qb qa c => verdict (qOk qa a ∧ qOk qb b ∧ qOk qc c) (guardOk g)
  | .vbfiB32 g b a _ _ _ qb qa => verdict (qOk qa a ∧ qOk qb b) (guardOk g)
  | .vcvt g a d dst src qa _ rm => verdict (qOk qa a ∧ (rm = 0 ∨ ¬ (isIntType src.toNat ∧ isIntType dst.toNat))) (guardOk g ∧ rm.toNat ≤ 4 ∧ cvtFits dst.toNat src.toNat d.toNat a.toNat (qa = 1))
  | .vmadB32 g b a _ qc qb qa c => verdict (qOk qa a ∧ qOk qb b ∧ qOk qc c) (guardOk g)
  | .vaddiB32 g a _ _ qa => verdict (qOk qa a) (guardOk g)
  | .vmoviB32 g a _ i m => verdict ((m.toNat ≠ 0 ∨ a = 0) ∧ (m.toNat < 2 ∨ (a.toNat < 32 ∧ i = 0))) (guardOk g)
  | .ldN8 g _ _ _ _ _ => verdict (True) (guardOk g)
  | .ldS8 g _ _ _ _ _ => verdict (True) (guardOk g)
  | .ldN16 g _ _ _ _ _ => verdict (True) (guardOk g)
  | .ldS16 g _ _ _ _ _ => verdict (True) (guardOk g)
  | .ldB32 g _ _ _ _ _ => verdict (True) (guardOk g)
  | .ldB64 g _ _ _ d _ => verdict (True) (guardOk g ∧ even d)
  | .ldB128 g _ _ _ d _ => verdict (True) (guardOk g ∧ d.toNat % 4 = 0)
  | .stB8 g _ _ _ _ _ => verdict (True) (guardOk g)
  | .stB16 g _ _ _ _ _ => verdict (True) (guardOk g)
  | .stB32 g _ _ _ _ _ => verdict (True) (guardOk g)
  | .stB64 g _ _ _ d _ => verdict (True) (guardOk g ∧ even d)
  | .stB128 g _ _ _ d _ => verdict (True) (guardOk g ∧ d.toNat % 4 = 0)
  | .tlook g _ _ => verdict (True) (guardOk g)
  | .tins g _ _ _ => verdict (True) (guardOk g)
  | .tinv g _ _ => verdict (True) (guardOk g)
  | .fence _ p => verdict (True) ((p.toNat ≤ 6 ∧ p.toNat ≠ 4 ∨ p.toNat = 15))
  | .atomB32 g _ _ _ _ _ _ x _ => verdict (True) (guardOk g ∧ x.toNat ≤ 10)
  | .atomB64 g _ _ _ d _ _ x c => verdict (True) (guardOk g ∧ x.toNat ≤ 9 ∧ even d ∧ even c)
  | .upd g _ _ _ d _ _ x => verdict (True) (guardOk g ∧ x.toNat ≤ 12 ∧ (¬ updWide x.toNat ∨ even d))
  | .relB32 g _ _ _ _ _ _ x => verdict (True) (guardOk g ∧ x.toNat ≤ 3)
  | .relB64 g _ _ _ d _ _ x => verdict (True) (guardOk g ∧ even d ∧ x.toNat ≤ 3)
  | .acqB32 g _ _ _ _ _ _ x => verdict (True) (guardOk g ∧ x.toNat ≤ 3)
  | .acqB64 g _ _ _ d _ _ x => verdict (True) (guardOk g ∧ even d ∧ x.toNat ≤ 3)
  | .loadPerformed _ => none
  | .storePerformed _ => none
  | .correctedLineRewrite _ => none
  | .tzero t _ => verdict (True) (t.toNat < 48)
  | .mma asrc _ la lb a t _ shape exact fmtb fmta => verdict ((if asrc = 0 then la = 0 else a = 0)) (t.toNat < 48 ∧ shape.toNat ≤ 3 ∧ mmaOk fmta.toNat fmtb.toNat exact ∧ la.toNat ≤ 29 ∧ lb.toNat ≤ 29 ∧ (exact = 0 ∨ t.toNat % 2 = 0) ∧ (asrc = 1 ∨ a.toNat + mmaSpan shape.toNat fmta.toNat ≤ 128))
  | .mmaPair asrc _ la lb a t _ shape exact fmtb fmta => verdict ((if asrc = 0 then la = 0 else a = 0)) (t.toNat < 48 ∧ shape.toNat ≤ 3 ∧ mmaOk fmta.toNat fmtb.toNat exact ∧ la.toNat ≤ 29 ∧ lb.toNat ≤ 29 ∧ (exact = 0 ∨ t.toNat % 2 = 0) ∧ (asrc = 1 ∨ a.toNat + mmaSpan shape.toNat fmta.toNat ≤ 128))
  | .tload sl t _ fmt => verdict (True) (t.toNat < 48 ∧ fmt.toNat ≤ 3 ∧ sl.toNat ≤ 29 ∧ (fmt.toNat ≠ 0 ∨ t.toNat % 2 = 0))
  | .drain sl ss _ t _ sck rm fmt => verdict ((4 ≤ fmt.toNat ∨ fmt.toNat = 0 ∨ ss = 0)) (t.toNat < 48 ∧ 1 ≤ fmt.toNat ∧ fmt.toNat ≤ 10 ∧ rm.toNat ≤ 4 ∧ sl.toNat ≤ 29 ∧ (4 ≤ fmt.toNat ∨ sck = 0) ∧ (fmt.toNat < 4 ∨ ss ≠ 0))
  | .matrixGrant _ => none
  | .matrixPassCompletion _ => none
  | .cpyLd _ _ k _ _ _ _ => verdict (True) (k.toNat ≠ 3)
  | .cpySt k _ _ _ _ => verdict (True) ((k.toNat = 0 ∨ k.toNat = 3))
  | .cpyGath _ _ k _ _ _ _ => verdict (True) (k.toNat ≠ 3)
  | .cpyScat k _ _ _ _ => verdict (True) ((k.toNat = 0 ∨ k.toNat = 3))
  | .copyStart _ => none
  | .copyElementMove _ => none
  | .streamEntryPush _ => none
  | .copyCompletion _ => none
  | .taskp _ _ _ _ => none
  | .bkAdd _ t _ _ _ _ => verdict (True) (t.toNat ≤ 1)
  | .bkScale _ t _ _ _ _ => verdict (True) (t.toNat = 0)
  | .bkMax _ t _ _ _ _ => verdict (True) (t.toNat ≤ 1)
  | .bkExpsum _ t _ _ _ _ => verdict (True) (t.toNat = 0)
  | .bkFill _ t _ _ _ _ => verdict (True) (t.toNat = 0)
  | .bankCommandCompletion _ => none
  | .memcall g _ _ _ _ _ a _ => verdict (True) (guardOk g ∧ even a)
  | .collAllred _ _ => none
  | .collAllgath _ _ => none
  | .collRedscat _ _ => none
  | .collBcast _ _ => none
  | .collAll2all _ _ => none
  | .collectiveCompletion _ _ => none
  | .collectiveLinkTimeout _ => none
  | .br _ g => verdict (True) (guardOk g)
  | .bru _ _ _ => none
  | .brx a g => verdict (True) (guardOk g ∧ even a)
  | .ret g => verdict (True) (guardOk g)
  | .unwind _ _ g => verdict (True) (guardOk g)
  | .exit g => verdict (True) (guardOk g)
  | .spawn _ _ g => verdict (True) (guardOk g)
  | .regroup _ => none
  | .barTeam k => verdict (True) (k.toNat ≤ 3)
  | .barGang k => verdict (True) (k.toNat ≤ 3)
  | .arrive _ _ _ => none
  | .swait _ _ => none
  | .cwait _ _ => none
  | .engineArrival _ => none
  | .qbind _ _ _ => none
  | .qclose _ => none
  | .rejoin _ => none
  | .implicitRejoin _ _ => none
  | .trap _ g => verdict (True) (guardOk g)
  | .yield => none
  | .walk _ _ => none
  | .nop g => verdict (True) (guardOk g)
  | .launch _ _ => none
  | .call _ g _ => verdict (True) (guardOk g)
  | .callx _ a g => verdict (True) (guardOk g ∧ even a)
  | .xld _ _ _ => none
  | .xst _ _ _ => none
  | .band _ _ _ => none
  | .bor _ _ _ => none
  | .bxor _ _ _ => none
  | .bnot _ _ => none
  | .bmaj _ _ _ _ => none
  | .bsel _ _ _ _ => none
  | .bshl _ _ _ => none
  | .baddc i _ _ _ => verdict (True) (i.toNat ≤ 2)
  | .addn w => verdict (True) (1 ≤ w.toNat ∧ w.toNat ≤ 64)
  | .subn w => verdict (True) (1 ≤ w.toNat ∧ w.toNat ≤ 64)
  | .muln w => verdict (True) (1 ≤ w.toNat ∧ w.toNat ≤ 32)
  | .bloop n l => verdict (True) (1 ≤ l.toNat ∧ 1 ≤ n.toNat)
  | .rowstep v s _ => verdict (True) ((s = 0 ∨ v.toNat ≤ 2047))
  | .rowDot y m _ _ => verdict (True) ((m.toNat ≤ if y = 1 then 512 else 256))
  | .rowAxpy _ _ _ => none
  | .xreduce _ => none
  | .bankCallBlock _ => none
  | .kernel _ => none
  | .dot _ => none
  | .reduce _ => none
  | .axpy _ => none
  | .transpose _ => none
  | .fill _ => none
  | .copyrow _ => none
  | .bankCallReply _ => none
  | .walkTaskPost _ _ _ _ => none
  | .taskEnter _ => none
  | .taskBuffer _ => none
  | .taskInputs _ => none
  | .taskReady _ => none
  | .taskRun _ => none
  | .taskEnd _ => none
  | .bintimerExpiry _ _ => none
  | .binLaunch _ _ => none
  | .frameRequestServed _ => none
  | .spillwaitExpiry _ => none
  | .trapEntry _ => none
  | .fbrespRetry _ _ => none
  | .fbrespAbort _ _ => none
  | .teamPlacement _ => none
  | .headReserving _ _ => none
  | .gridCompletion _ => none
  | .graphNodeReady _ _ => none
  | .graphCopyNode _ _ => none
  | .graphNodeCompletion _ _ => none
  | .lockkeeperRestart _ => none
  | .create _ => none
  | .release => none
  | .service => none
  | .mailboxBadop => none
  | .suspend => none
  | .suspendTimeout => none
  | .resume => none
  | .grow => none
  | .shrink => none
  | .sluiceOpen => none
  | .sluicePass => none
  | .sluiceClose => none
  | .sluiceAbort => none
  | .importKey => none
  | .importStream => none
  | .clownWrite _ _ => none
  | .worldLatchChange _ => none
  | .pcownWrite _ _ => none
  | .waymaskWrite _ _ _ => none
  | .registerWrite _ _ => none
  | .invctlAddress _ => none
  | .invctlWorld _ => none
  | .invctlCompletion _ => none
  | .rngStartupTest _ => none
  | .rngHealthFailure => none
  | .getTdispVersion _ => none
  | .getTdispCapabilities _ => none
  | .lockInterfaceRequest _ => none
  | .getDeviceInterfaceReport _ => none
  | .getDeviceInterfaceState _ => none
  | .startInterfaceRequest _ => none
  | .stopInterfaceRequest _ => none
  | .tdispUnsupportedRequest _ => none
  | .spdmRequest _ => none
  | .getMeasurements _ => none
  | .commOpen _ => none
  | .commClose _ => none
  | .debugOpen _ _ => none
  | .getRelease _ => none
  | .flitReceive _ _ => none
  | .flitReplay _ => none
  | .lctlWrite _ _ => none
  | .portTrainingEnd _ _ _ _ => none
  | .portDown _ => none
  | .bar2Access _ _ => none
  | .bar4Access _ => none
  | .cxlMemAccess _ => none
  | .bootWindowAccess _ => none
  | .hartAccess _ _ => none
  | .hworldWrite _ _ => none
  | .dbgreqScan _ => none
  | .dbgreqMemoryTest _ => none
  | .testAccessPortEntry _ => none
  | .dbgdataRead => none
  | .dbgdataWrite _ => none
  | .bootctlGo _ => none
  | .bootReady => none
  | .phyctlWrite _ _ => none
  | .repairWrite _ _ => none
  | .patternRunWrite _ => none
  | .patternRunRead _ => none
  | .patternRunCompletion _ _ => none
  | .rdlyallWrite _ _ => none
  | .wdlyallWrite _ _ => none
  | .thermalThrottle => none
  | .passageOfTime _ => none
  | .symbolsInError _ _ => none
  | .onChipStorageError _ => none
  | .readingBelowLimit => none
  | .tdispErrorTransition _ => none
  | .lshareWrite _ _ _ => none
  | .hostLinkTraining _ => none

/-- An instruction whose fields pass the checks of 02 R71 steps 8 and 9. -/
def WellFormed (i : Instr) : Prop := illFormed i = none

end Sys2Proof
end

