-- ==== Sys2Proof/Decode.lean ====
section
/-!
DEFINITION. Sys2Proof/Decode.lean: the decoder of an instruction word within a clause of a class (02 R44 to R71), and
after it the encoder, written from the same tables.
-/
namespace Sys2Proof

/-- What a pair of words decodes to: an instruction and its length in words, or the detail of ILLEGAL_OP (02 R70). -/
inductive Decoded where
  | ok (i : Instr) (len : Nat)
  | illegal (detail : Nat)
deriving DecidableEq, Repr

/-- The reading of one opcode: whether it takes two words, the bits of each word that must be zero, whether a field
holds a value its table marks illegal that no operand of the instruction records, and the instruction. -/
structure Row where
  two   : Bool
  zero0 : Word
  zero1 : Word
  bad   : Bool
  instr : Instr

/-- The opcodes of class 0 (02 R64 to R69). -/
def rowScalar (op : Nat) (w _v : Word) : Option Row :=
  match op with
  | 0x01 =>
    some ⟨false, 0x3FC00000#32, 0#32, false,
     .sadd (w.extractLsb' 31 1) (w.extractLsb' 30 1) (w.extractLsb' 17 5) (w.extractLsb' 12 5) (w.extractLsb' 7 5)⟩
  | 0x02 =>
    some ⟨false, 0x3FC00000#32, 0#32, false,
     .ssub (w.extractLsb' 31 1) (w.extractLsb' 30 1) (w.extractLsb' 17 5) (w.extractLsb' 12 5) (w.extractLsb' 7 5)⟩
  | 0x03 =>
    some ⟨false, 0x3FC00000#32, 0#32, false,
     .sand (w.extractLsb' 31 1) (w.extractLsb' 30 1) (w.extractLsb' 17 5) (w.extractLsb' 12 5) (w.extractLsb' 7 5)⟩
  | 0x04 =>
    some ⟨false, 0x3FC00000#32, 0#32, false,
     .sor (w.extractLsb' 31 1) (w.extractLsb' 30 1) (w.extractLsb' 17 5) (w.extractLsb' 12 5) (w.extractLsb' 7 5)⟩
  | 0x05 =>
    some ⟨false, 0x3FC00000#32, 0#32, false,
     .sxor (w.extractLsb' 31 1) (w.extractLsb' 30 1) (w.extractLsb' 17 5) (w.extractLsb' 12 5) (w.extractLsb' 7 5)⟩
  | 0x06 =>
    some ⟨false, 0x3FC00000#32, 0#32, false,
     .sshl (w.extractLsb' 31 1) (w.extractLsb' 30 1) (w.extractLsb' 17 5) (w.extractLsb' 12 5) (w.extractLsb' 7 5)⟩
  | 0x07 =>
    some ⟨false, 0x3FC00000#32, 0#32, false,
     .sshr (w.extractLsb' 31 1) (w.extractLsb' 30 1) (w.extractLsb' 17 5) (w.extractLsb' 12 5) (w.extractLsb' 7 5)⟩
  | 0x08 =>
    some ⟨false, 0x3FC00000#32, 0#32, false,
     .ssar (w.extractLsb' 31 1) (w.extractLsb' 30 1) (w.extractLsb' 17 5) (w.extractLsb' 12 5) (w.extractLsb' 7 5)⟩
  | 0x09 =>
    some ⟨false, 0x3FC00000#32, 0#32, false,
     .smul (w.extractLsb' 31 1) (w.extractLsb' 30 1) (w.extractLsb' 17 5) (w.extractLsb' 12 5) (w.extractLsb' 7 5)⟩
  | 0x0a =>
    some ⟨false, 0x3F800000#32, 0#32, false,
     .smulh (w.extractLsb' 31 1) (w.extractLsb' 30 1) (w.extractLsb' 22 1) (w.extractLsb' 17 5) (w.extractLsb' 12 5) (w.extractLsb' 7 5)⟩
  | 0x0b =>
    some ⟨false, 0x3F800000#32, 0#32, false,
     .smin (w.extractLsb' 31 1) (w.extractLsb' 30 1) (w.extractLsb' 22 1) (w.extractLsb' 17 5) (w.extractLsb' 12 5) (w.extractLsb' 7 5)⟩
  | 0x0c =>
    some ⟨false, 0x3F800000#32, 0#32, false,
     .smax (w.extractLsb' 31 1) (w.extractLsb' 30 1) (w.extractLsb' 22 1) (w.extractLsb' 17 5) (w.extractLsb' 12 5) (w.extractLsb' 7 5)⟩
  | 0x0d =>
    some ⟨false, 0x30000E00#32, 0#32, false,
     .scmp (w.extractLsb' 31 1) (w.extractLsb' 30 1) (w.extractLsb' 26 2) (w.extractLsb' 22 4) (w.extractLsb' 17 5) (w.extractLsb' 12 5) (w.extractLsb' 7 2)⟩
  | 0x0e =>
    some ⟨false, 0x3F000000#32, 0#32, false,
     .ssel (w.extractLsb' 31 1) (w.extractLsb' 30 1) (w.extractLsb' 22 2) (w.extractLsb' 17 5) (w.extractLsb' 12 5) (w.extractLsb' 7 5)⟩
  | 0x0f =>
    if w.extractLsb' 28 1 = 0#1 then some ⟨false, 0xF03FF000#32, 0#32, false, .smovs (w.extractLsb' 22 6) (w.extractLsb' 7 5)⟩
    else some ⟨false, 0xA03E0F80#32, 0#32, w.extractLsb' 22 6 != 9#6, .smovsWrite (w.extractLsb' 30 1) (w.extractLsb' 12 5)⟩
  | 0x10 =>
    some ⟨false, 0xE0000000#32, 0#32, false, .saddi (w.extractLsb' 17 12) (w.extractLsb' 12 5) (w.extractLsb' 7 5)⟩
  | 0x11 =>
    some ⟨false, 0xE0000000#32, 0#32, false, .sandi (w.extractLsb' 17 12) (w.extractLsb' 12 5) (w.extractLsb' 7 5)⟩
  | 0x12 =>
    some ⟨false, 0xE0000000#32, 0#32, false, .sori (w.extractLsb' 17 12) (w.extractLsb' 12 5) (w.extractLsb' 7 5)⟩
  | 0x13 =>
    some ⟨false, 0xE0000000#32, 0#32, false, .sxori (w.extractLsb' 17 12) (w.extractLsb' 12 5) (w.extractLsb' 7 5)⟩
  | 0x14 =>
    some ⟨false, 0xFF800000#32, 0#32, false, .sshli (w.extractLsb' 17 6) (w.extractLsb' 12 5) (w.extractLsb' 7 5)⟩
  | 0x15 =>
    some ⟨false, 0xFF800000#32, 0#32, false, .sshri (w.extractLsb' 17 6) (w.extractLsb' 12 5) (w.extractLsb' 7 5)⟩
  | 0x16 =>
    some ⟨false, 0xFF800000#32, 0#32, false, .ssari (w.extractLsb' 17 6) (w.extractLsb' 12 5) (w.extractLsb' 7 5)⟩
  | 0x17 =>
    some ⟨false, 0x00000E00#32, 0#32, false,
     .scmpi (w.extractLsb' 29 3) (w.extractLsb' 17 12) (w.extractLsb' 12 5) (w.extractLsb' 7 2)⟩
  | 0x18 => some ⟨false, 0#32, 0#32, false, .slui (w.extractLsb' 12 20) (w.extractLsb' 7 5)⟩
  | 0x19 => some ⟨false, 0#32, 0#32, false, .sapc (w.extractLsb' 12 20) (w.extractLsb' 7 5)⟩
  | 0x1a => some ⟨false, 0xFFC1F000#32, 0#32, false, .mrd (w.extractLsb' 17 5) (w.extractLsb' 7 5)⟩
  | 0x1b =>
    some ⟨false, 0xBFFE0E00#32, 0#32, false, .spush (w.extractLsb' 30 1) (w.extractLsb' 12 5) (w.extractLsb' 7 2)⟩
  | 0x20 | 0x21 =>
    some ⟨false, 0#32, 0#32, false,
     .sld (w.extractLsb' 29 3) (w.extractLsb' 17 12) (w.extractLsb' 12 5) (w.extractLsb' 7 5) (w.extractLsb' 0 1)⟩
  | 0x22 | 0x23 =>
    some ⟨false, 0#32, 0#32, false,
     .sst (w.extractLsb' 29 3) (w.extractLsb' 17 12) (w.extractLsb' 12 5) (w.extractLsb' 7 5) (w.extractLsb' 0 1)⟩
  | _ => none

/-- The bits of a marked source field above the queue's number, which must be zero (02 R49): those of `bits` where bit
`k` of the VX word marks the field. -/
def markedRest (v : Word) (k : Nat) (bits : Word) : Word := if v.getLsbD k then bits else 0#32

/-- The opcodes of class 1 (02 R64 to R69). -/
def rowVector (op : Nat) (w v : Word) : Option Row :=
  match op with
  | 0x01 =>
    some ⟨false, 0#32, 0#32, false,
     .vaddB32 (w.extractLsb' 28 4) (w.extractLsb' 21 7) (w.extractLsb' 14 7) (w.extractLsb' 7 7)⟩
  | 0x02 =>
    some ⟨false, 0#32, 0#32, false,
     .vsubB32 (w.extractLsb' 28 4) (w.extractLsb' 21 7) (w.extractLsb' 14 7) (w.extractLsb' 7 7)⟩
  | 0x03 =>
    some ⟨false, 0#32, 0#32, false,
     .vmulB32 (w.extractLsb' 28 4) (w.extractLsb' 21 7) (w.extractLsb' 14 7) (w.extractLsb' 7 7)⟩
  | 0x04 =>
    some ⟨false, 0#32, 0#32, false,
     .vmulhS32 (w.extractLsb' 28 4) (w.extractLsb' 21 7) (w.extractLsb' 14 7) (w.extractLsb' 7 7)⟩
  | 0x05 =>
    some ⟨false, 0#32, 0#32, false,
     .vmulhN32 (w.extractLsb' 28 4) (w.extractLsb' 21 7) (w.extractLsb' 14 7) (w.extractLsb' 7 7)⟩
  | 0x06 =>
    some ⟨false, 0#32, 0#32, false,
     .vminS32 (w.extractLsb' 28 4) (w.extractLsb' 21 7) (w.extractLsb' 14 7) (w.extractLsb' 7 7)⟩
  | 0x07 =>
    some ⟨false, 0#32, 0#32, false,
     .vmaxS32 (w.extractLsb' 28 4) (w.extractLsb' 21 7) (w.extractLsb' 14 7) (w.extractLsb' 7 7)⟩
  | 0x08 =>
    some ⟨false, 0#32, 0#32, false,
     .vminN32 (w.extractLsb' 28 4) (w.extractLsb' 21 7) (w.extractLsb' 14 7) (w.extractLsb' 7 7)⟩
  | 0x09 =>
    some ⟨false, 0#32, 0#32, false,
     .vmaxN32 (w.extractLsb' 28 4) (w.extractLsb' 21 7) (w.extractLsb' 14 7) (w.extractLsb' 7 7)⟩
  | 0x0a =>
    some ⟨false, 0#32, 0#32, false,
     .vshlB32 (w.extractLsb' 28 4) (w.extractLsb' 21 7) (w.extractLsb' 14 7) (w.extractLsb' 7 7)⟩
  | 0x0b =>
    some ⟨false, 0#32, 0#32, false,
     .vshrN32 (w.extractLsb' 28 4) (w.extractLsb' 21 7) (w.extractLsb' 14 7) (w.extractLsb' 7 7)⟩
  | 0x0c =>
    some ⟨false, 0#32, 0#32, false,
     .vshrS32 (w.extractLsb' 28 4) (w.extractLsb' 21 7) (w.extractLsb' 14 7) (w.extractLsb' 7 7)⟩
  | 0x0d =>
    some ⟨false, 0#32, 0#32, false,
     .vbfeN32 (w.extractLsb' 28 4) (w.extractLsb' 21 7) (w.extractLsb' 14 7) (w.extractLsb' 7 7)⟩
  | 0x0e =>
    some ⟨false, 0#32, 0#32, false,
     .vbfeS32 (w.extractLsb' 28 4) (w.extractLsb' 21 7) (w.extractLsb' 14 7) (w.extractLsb' 7 7)⟩
  | 0x0f =>
    some ⟨false, 0x0FE00000#32, 0#32, false, .vbcntB32 (w.extractLsb' 28 4) (w.extractLsb' 14 7) (w.extractLsb' 7 7)⟩
  | 0x10 =>
    some ⟨false, 0x0FE00000#32, 0#32, false, .vclzB32 (w.extractLsb' 28 4) (w.extractLsb' 14 7) (w.extractLsb' 7 7)⟩
  | 0x11 =>
    some ⟨false, 0x0FE00000#32, 0#32, false, .vbrevB32 (w.extractLsb' 28 4) (w.extractLsb' 14 7) (w.extractLsb' 7 7)⟩
  | 0x12 =>
    some ⟨false, 0x0FE00000#32, 0#32, false, .vmovB32 (w.extractLsb' 28 4) (w.extractLsb' 14 7) (w.extractLsb' 7 7)⟩
  | 0x13 =>
    some ⟨false, 0#32, 0#32, false,
     .vselB32 (w.extractLsb' 28 4) (w.extractLsb' 21 7) (w.extractLsb' 14 7) (w.extractLsb' 7 7)⟩
  | 0x14 =>
    some ⟨false, 0#32, 0#32, false,
     .vaddB64 (w.extractLsb' 28 4) (w.extractLsb' 21 7) (w.extractLsb' 14 7) (w.extractLsb' 7 7)⟩
  | 0x15 =>
    some ⟨false, 0#32, 0#32, false,
     .vsubB64 (w.extractLsb' 28 4) (w.extractLsb' 21 7) (w.extractLsb' 14 7) (w.extractLsb' 7 7)⟩
  | 0x18 =>
    some ⟨false, 0#32, 0#32, false,
     .vfaddF32 (w.extractLsb' 28 4) (w.extractLsb' 21 7) (w.extractLsb' 14 7) (w.extractLsb' 7 7)⟩
  | 0x19 =>
    some ⟨false, 0#32, 0#32, false,
     .vfsubF32 (w.extractLsb' 28 4) (w.extractLsb' 21 7) (w.extractLsb' 14 7) (w.extractLsb' 7 7)⟩
  | 0x1a =>
    some ⟨false, 0#32, 0#32, false,
     .vfmulF32 (w.extractLsb' 28 4) (w.extractLsb' 21 7) (w.extractLsb' 14 7) (w.extractLsb' 7 7)⟩
  | 0x1b =>
    some ⟨false, 0#32, 0#32, false,
     .vfminF32 (w.extractLsb' 28 4) (w.extractLsb' 21 7) (w.extractLsb' 14 7) (w.extractLsb' 7 7)⟩
  | 0x1c =>
    some ⟨false, 0#32, 0#32, false,
     .vfmaxF32 (w.extractLsb' 28 4) (w.extractLsb' 21 7) (w.extractLsb' 14 7) (w.extractLsb' 7 7)⟩
  | 0x20 =>
    some ⟨false, 0#32, 0#32, false,
     .vfaddF16x2 (w.extractLsb' 28 4) (w.extractLsb' 21 7) (w.extractLsb' 14 7) (w.extractLsb' 7 7)⟩
  | 0x21 =>
    some ⟨false, 0#32, 0#32, false,
     .vfmulF16x2 (w.extractLsb' 28 4) (w.extractLsb' 21 7) (w.extractLsb' 14 7) (w.extractLsb' 7 7)⟩
  | 0x22 =>
    some ⟨false, 0#32, 0#32, false,
     .vfaddBf16x2 (w.extractLsb' 28 4) (w.extractLsb' 21 7) (w.extractLsb' 14 7) (w.extractLsb' 7 7)⟩
  | 0x23 =>
    some ⟨false, 0#32, 0#32, false,
     .vfmulBf16x2 (w.extractLsb' 28 4) (w.extractLsb' 21 7) (w.extractLsb' 14 7) (w.extractLsb' 7 7)⟩
  | 0x28 =>
    some ⟨false, 0#32, 0#32, false,
     .vfaddF64 (w.extractLsb' 28 4) (w.extractLsb' 21 7) (w.extractLsb' 14 7) (w.extractLsb' 7 7)⟩
  | 0x29 =>
    some ⟨false, 0#32, 0#32, false,
     .vfsubF64 (w.extractLsb' 28 4) (w.extractLsb' 21 7) (w.extractLsb' 14 7) (w.extractLsb' 7 7)⟩
  | 0x2a =>
    some ⟨false, 0#32, 0#32, false,
     .vfmulF64 (w.extractLsb' 28 4) (w.extractLsb' 21 7) (w.extractLsb' 14 7) (w.extractLsb' 7 7)⟩
  | 0x2b =>
    some ⟨false, 0#32, 0#32, false,
     .vfminF64 (w.extractLsb' 28 4) (w.extractLsb' 21 7) (w.extractLsb' 14 7) (w.extractLsb' 7 7)⟩
  | 0x2c =>
    some ⟨false, 0#32, 0#32, false,
     .vfmaxF64 (w.extractLsb' 28 4) (w.extractLsb' 21 7) (w.extractLsb' 14 7) (w.extractLsb' 7 7)⟩
  | 0x30 =>
    some ⟨false, 0x0FE00000#32, 0#32, false, .frcpF32 (w.extractLsb' 28 4) (w.extractLsb' 14 7) (w.extractLsb' 7 7)⟩
  | 0x31 =>
    some ⟨false, 0x0FE00000#32, 0#32, false, .frsqF32 (w.extractLsb' 28 4) (w.extractLsb' 14 7) (w.extractLsb' 7 7)⟩
  | 0x32 =>
    some ⟨false, 0x0FE00000#32, 0#32, false, .fex2F32 (w.extractLsb' 28 4) (w.extractLsb' 14 7) (w.extractLsb' 7 7)⟩
  | 0x33 =>
    some ⟨false, 0x0FE00000#32, 0#32, false, .flg2F32 (w.extractLsb' 28 4) (w.extractLsb' 14 7) (w.extractLsb' 7 7)⟩
  | 0x38 =>
    some ⟨false, 0#32, 0#32, false,
     .shflB32 (w.extractLsb' 28 4) (w.extractLsb' 21 7) (w.extractLsb' 14 7) (w.extractLsb' 7 7)⟩
  | 0x39 =>
    some ⟨false, 0x08000000#32, 0#32, false,
     .bcastB32 (w.extractLsb' 28 4) (w.extractLsb' 21 6) (w.extractLsb' 14 7) (w.extractLsb' 7 7)⟩
  | 0x3a =>
    some ⟨false, 0x0FFE0000#32, 0#32, false, .ballot (w.extractLsb' 28 4) (w.extractLsb' 14 3) (w.extractLsb' 7 7)⟩
  | 0x3b =>
    some ⟨false, 0x001E0000#32, 0#32, false,
     .popc (w.extractLsb' 28 4) (w.extractLsb' 21 7) (w.extractLsb' 14 3) (w.extractLsb' 7 7)⟩
  | 0x3c =>
    some ⟨false, 0x0FE00000#32, 0#32, false,
     .scanAddB32 (w.extractLsb' 28 4) (w.extractLsb' 14 7) (w.extractLsb' 7 7)⟩
  | 0x3d =>
    some ⟨false, 0x0FE00000#32, 0#32, false,
     .scanFaddF32 (w.extractLsb' 28 4) (w.extractLsb' 14 7) (w.extractLsb' 7 7)⟩
  | 0x3e =>
    some ⟨false, 0x0FE00000#32, 0#32, false, .matchB32 (w.extractLsb' 28 4) (w.extractLsb' 14 7) (w.extractLsb' 7 7)⟩
  | 0x3f =>
    some ⟨false, 0x0FE00000#32, 0#32, false,
     .vredFaddF32 (w.extractLsb' 28 4) (w.extractLsb' 14 7) (w.extractLsb' 7 7)⟩
  | 0x40 => some ⟨false, 0x0FE03F80#32, 0#32, false, .srseed (w.extractLsb' 28 4) (w.extractLsb' 14 7)⟩
  | 0x41 =>
    some ⟨false, 0x0FF00000#32, 0#32, false, .vmovs (w.extractLsb' 28 4) (w.extractLsb' 14 6) (w.extractLsb' 7 7)⟩
  | 0x60 =>
    some ⟨true, 0x00002000#32, 0xFFFF8070#32, false,
     .vcmp (w.extractLsb' 28 4) (w.extractLsb' 21 7) (w.extractLsb' 14 7) (w.extractLsb' 10 3) (w.extractLsb' 7 3) (v.extractLsb' 14 1) (v.extractLsb' 13 1) (v.extractLsb' 10 3) (v.extractLsb' 7 3) (v.extractLsb' 0 4)⟩
  | 0x61 =>
    some ⟨true, 0x00002000#32, 0xFFFF8070#32, false,
     .vfcmp (w.extractLsb' 28 4) (w.extractLsb' 21 7) (w.extractLsb' 14 7) (w.extractLsb' 10 3) (w.extractLsb' 7 3) (v.extractLsb' 14 1) (v.extractLsb' 13 1) (v.extractLsb' 10 3) (v.extractLsb' 7 3) (v.extractLsb' 0 4)⟩
  | 0x62 =>
    some ⟨true, 0#32, 0xFFFF0000#32, false,
     .vfmaF32 (w.extractLsb' 28 4) (w.extractLsb' 21 7) (w.extractLsb' 14 7) (w.extractLsb' 7 7) (v.extractLsb' 15 1) (v.extractLsb' 14 1) (v.extractLsb' 13 1) (v.extractLsb' 12 1) (v.extractLsb' 11 1) (v.extractLsb' 10 1) (v.extractLsb' 7 3) (v.extractLsb' 0 7)⟩
  | 0x63 =>
    some ⟨true, markedRest v 13 0x001F0000#32 ||| markedRest v 14 0x0F800000#32,
     0xFFFF0000#32 ||| markedRest v 15 0x0000007C#32, (v &&& 0x0000E000#32) != 0#32,
     .vfmaF64 (w.extractLsb' 28 4) (w.extractLsb' 21 7) (w.extractLsb' 14 7) (w.extractLsb' 7 7) (v.extractLsb' 12 1) (v.extractLsb' 11 1) (v.extractLsb' 10 1) (v.extractLsb' 7 3) (v.extractLsb' 0 7)⟩
  | 0x64 =>
    some ⟨true, 0#32, 0xFFFF0000#32, false,
     .vfmaF16x2 (w.extractLsb' 28 4) (w.extractLsb' 21 7) (w.extractLsb' 14 7) (w.extractLsb' 7 7) (v.extractLsb' 15 1) (v.extractLsb' 14 1) (v.extractLsb' 13 1) (v.extractLsb' 12 1) (v.extractLsb' 11 1) (v.extractLsb' 10 1) (v.extractLsb' 7 3) (v.extractLsb' 0 7)⟩
  | 0x65 =>
    some ⟨true, 0#32, 0xFFFF0000#32, false,
     .vfmaBf16x2 (w.extractLsb' 28 4) (w.extractLsb' 21 7) (w.extractLsb' 14 7) (w.extractLsb' 7 7) (v.extractLsb' 15 1) (v.extractLsb' 14 1) (v.extractLsb' 13 1) (v.extractLsb' 12 1) (v.extractLsb' 11 1) (v.extractLsb' 10 1) (v.extractLsb' 7 3) (v.extractLsb' 0 7)⟩
  | 0x66 =>
    some ⟨true, 0#32, 0x00001F80#32, (v &&& 0xFF000000#32) != 0#32,
     .vlop3B32 (w.extractLsb' 28 4) (w.extractLsb' 21 7) (w.extractLsb' 14 7) (w.extractLsb' 7 7) (v.extractLsb' 16 8) (v.extractLsb' 15 1) (v.extractLsb' 14 1) (v.extractLsb' 13 1) (v.extractLsb' 0 7)⟩
  | 0x67 =>
    some ⟨true, 0#32, 0x00009FFF#32, (v &&& 0xC0E00000#32) != 0#32,
     .vbfiB32 (w.extractLsb' 28 4) (w.extractLsb' 21 7) (w.extractLsb' 14 7) (w.extractLsb' 7 7) (v.extractLsb' 24 6) (v.extractLsb' 16 5) (v.extractLsb' 14 1) (v.extractLsb' 13 1)⟩
  | 0x68 =>
    some ⟨true, 0x0FE00000#32, 0xFF00D87F#32, false,
     .vcvt (w.extractLsb' 28 4) (w.extractLsb' 14 7) (w.extractLsb' 7 7) (v.extractLsb' 20 4) (v.extractLsb' 16 4) (v.extractLsb' 13 1) (v.extractLsb' 10 1) (v.extractLsb' 7 3)⟩
  | 0x69 =>
    some ⟨true, 0#32, 0xFFFF1F80#32, false,
     .vmadB32 (w.extractLsb' 28 4) (w.extractLsb' 21 7) (w.extractLsb' 14 7) (w.extractLsb' 7 7) (v.extractLsb' 15 1) (v.extractLsb' 14 1) (v.extractLsb' 13 1) (v.extractLsb' 0 7)⟩
  | 0x6a =>
    some ⟨true, 0x0FE00000#32, 0x0000DFFF#32, false,
     .vaddiB32 (w.extractLsb' 28 4) (w.extractLsb' 14 7) (w.extractLsb' 7 7) (v.extractLsb' 16 16) (v.extractLsb' 13 1)⟩
  | 0x6b =>
    some ⟨true, 0x0FE00000#32, 0x0000FFFC#32, false,
     .vmoviB32 (w.extractLsb' 28 4) (w.extractLsb' 14 7) (w.extractLsb' 7 7) (v.extractLsb' 16 16) (v.extractLsb' 0 2)⟩
  | _ => none

/-- The opcodes of class 2 (02 R64 to R69). -/
def rowMatrix (op : Nat) (w v : Word) : Option Row :=
  match op with
  | 0x02 | 0x03 => some ⟨false, 0xFFFFE000#32, 0#32, false, .tzero (w.extractLsb' 7 6) (w.extractLsb' 0 1)⟩
  | 0x60 | 0x61 =>
    some ⟨true, 0#32, 0xFFFFF000#32, false,
     .mma (w.extractLsb' 31 1) (w.extractLsb' 30 1) (w.extractLsb' 25 5) (w.extractLsb' 20 5) (w.extractLsb' 13 7) (w.extractLsb' 7 6) (w.extractLsb' 0 1) (v.extractLsb' 9 3) (v.extractLsb' 8 1) (v.extractLsb' 4 4) (v.extractLsb' 0 4)⟩
  | 0x62 | 0x63 =>
    some ⟨true, 0#32, 0xFFFFF000#32, false,
     .mmaPair (w.extractLsb' 31 1) (w.extractLsb' 30 1) (w.extractLsb' 25 5) (w.extractLsb' 20 5) (w.extractLsb' 13 7) (w.extractLsb' 7 6) (w.extractLsb' 0 1) (v.extractLsb' 9 3) (v.extractLsb' 8 1) (v.extractLsb' 4 4) (v.extractLsb' 0 4)⟩
  | 0x64 | 0x65 =>
    some ⟨true, 0xF07FE000#32, 0xFFFFFFF0#32, false,
     .tload (w.extractLsb' 23 5) (w.extractLsb' 7 6) (w.extractLsb' 0 1) (v.extractLsb' 0 4)⟩
  | 0x66 | 0x67 =>
    some ⟨true, 0xF0000000#32, 0xFFFFFF00#32, false,
     .drain (w.extractLsb' 23 5) (w.extractLsb' 18 5) (w.extractLsb' 13 5) (w.extractLsb' 7 6) (w.extractLsb' 0 1) (v.extractLsb' 7 1) (v.extractLsb' 4 3) (v.extractLsb' 0 4)⟩
  | _ => none

/-- The opcodes of class 3 (02 R64 to R69). -/
def rowMemory (op : Nat) (w v : Word) : Option Row :=
  match op with
  | 0x02 | 0x03 =>
    some ⟨false, 0#32, 0#32, false,
     .ldN8 (w.extractLsb' 28 4) (w.extractLsb' 26 2) (w.extractLsb' 21 5) (w.extractLsb' 14 7) (w.extractLsb' 7 7) (w.extractLsb' 0 1)⟩
  | 0x04 | 0x05 =>
    some ⟨false, 0#32, 0#32, false,
     .ldS8 (w.extractLsb' 28 4) (w.extractLsb' 26 2) (w.extractLsb' 21 5) (w.extractLsb' 14 7) (w.extractLsb' 7 7) (w.extractLsb' 0 1)⟩
  | 0x06 | 0x07 =>
    some ⟨false, 0#32, 0#32, false,
     .ldN16 (w.extractLsb' 28 4) (w.extractLsb' 26 2) (w.extractLsb' 21 5) (w.extractLsb' 14 7) (w.extractLsb' 7 7) (w.extractLsb' 0 1)⟩
  | 0x08 | 0x09 =>
    some ⟨false, 0#32, 0#32, false,
     .ldS16 (w.extractLsb' 28 4) (w.extractLsb' 26 2) (w.extractLsb' 21 5) (w.extractLsb' 14 7) (w.extractLsb' 7 7) (w.extractLsb' 0 1)⟩
  | 0x0a | 0x0b =>
    some ⟨false, 0#32, 0#32, false,
     .ldB32 (w.extractLsb' 28 4) (w.extractLsb' 26 2) (w.extractLsb' 21 5) (w.extractLsb' 14 7) (w.extractLsb' 7 7) (w.extractLsb' 0 1)⟩
  | 0x0c | 0x0d =>
    some ⟨false, 0#32, 0#32, false,
     .ldB64 (w.extractLsb' 28 4) (w.extractLsb' 26 2) (w.extractLsb' 21 5) (w.extractLsb' 14 7) (w.extractLsb' 7 7) (w.extractLsb' 0 1)⟩
  | 0x0e | 0x0f =>
    some ⟨false, 0#32, 0#32, false,
     .ldB128 (w.extractLsb' 28 4) (w.extractLsb' 26 2) (w.extractLsb' 21 5) (w.extractLsb' 14 7) (w.extractLsb' 7 7) (w.extractLsb' 0 1)⟩
  | 0x12 | 0x13 =>
    some ⟨false, 0#32, 0#32, false,
     .stB8 (w.extractLsb' 28 4) (w.extractLsb' 26 2) (w.extractLsb' 21 5) (w.extractLsb' 14 7) (w.extractLsb' 7 7) (w.extractLsb' 0 1)⟩
  | 0x14 | 0x15 =>
    some ⟨false, 0#32, 0#32, false,
     .stB16 (w.extractLsb' 28 4) (w.extractLsb' 26 2) (w.extractLsb' 21 5) (w.extractLsb' 14 7) (w.extractLsb' 7 7) (w.extractLsb' 0 1)⟩
  | 0x16 | 0x17 =>
    some ⟨false, 0#32, 0#32, false,
     .stB32 (w.extractLsb' 28 4) (w.extractLsb' 26 2) (w.extractLsb' 21 5) (w.extractLsb' 14 7) (w.extractLsb' 7 7) (w.extractLsb' 0 1)⟩
  | 0x18 | 0x19 =>
    some ⟨false, 0#32, 0#32, false,
     .stB64 (w.extractLsb' 28 4) (w.extractLsb' 26 2) (w.extractLsb' 21 5) (w.extractLsb' 14 7) (w.extractLsb' 7 7) (w.extractLsb' 0 1)⟩
  | 0x1a | 0x1b =>
    some ⟨false, 0#32, 0#32, false,
     .stB128 (w.extractLsb' 28 4) (w.extractLsb' 26 2) (w.extractLsb' 21 5) (w.extractLsb' 14 7) (w.extractLsb' 7 7) (w.extractLsb' 0 1)⟩
  | 0x20 =>
    some ⟨false, 0x0FE00000#32, 0#32, false, .tlook (w.extractLsb' 28 4) (w.extractLsb' 14 7) (w.extractLsb' 7 7)⟩
  | 0x21 =>
    some ⟨false, 0#32, 0#32, false,
     .tins (w.extractLsb' 28 4) (w.extractLsb' 21 7) (w.extractLsb' 14 7) (w.extractLsb' 7 7)⟩
  | 0x22 =>
    some ⟨false, 0x0FE00000#32, 0#32, false, .tinv (w.extractLsb' 28 4) (w.extractLsb' 14 7) (w.extractLsb' 7 7)⟩
  | 0x24 => some ⟨false, 0xFFFFE000#32, 0#32, false, .fence (w.extractLsb' 11 2) (w.extractLsb' 7 4)⟩
  | 0x60 | 0x61 =>
    some ⟨true, 0#32, 0x0000001F#32, false,
     .atomB32 (w.extractLsb' 28 4) (w.extractLsb' 26 2) (w.extractLsb' 21 5) (w.extractLsb' 14 7) (w.extractLsb' 7 7) (w.extractLsb' 0 1) (v.extractLsb' 16 16) (v.extractLsb' 12 4) (v.extractLsb' 5 7)⟩
  | 0x62 | 0x63 =>
    some ⟨true, 0#32, 0x0000001F#32, false,
     .atomB64 (w.extractLsb' 28 4) (w.extractLsb' 26 2) (w.extractLsb' 21 5) (w.extractLsb' 14 7) (w.extractLsb' 7 7) (w.extractLsb' 0 1) (v.extractLsb' 16 16) (v.extractLsb' 12 4) (v.extractLsb' 5 7)⟩
  | 0x64 | 0x65 =>
    some ⟨true, 0#32, 0x00000FFF#32, false,
     .upd (w.extractLsb' 28 4) (w.extractLsb' 26 2) (w.extractLsb' 21 5) (w.extractLsb' 14 7) (w.extractLsb' 7 7) (w.extractLsb' 0 1) (v.extractLsb' 16 16) (v.extractLsb' 12 4)⟩
  | 0x66 | 0x67 =>
    some ⟨true, 0#32, 0x00000FFF#32, false,
     .relB32 (w.extractLsb' 28 4) (w.extractLsb' 26 2) (w.extractLsb' 21 5) (w.extractLsb' 14 7) (w.extractLsb' 7 7) (w.extractLsb' 0 1) (v.extractLsb' 16 16) (v.extractLsb' 12 4)⟩
  | 0x68 | 0x69 =>
    some ⟨true, 0#32, 0x00000FFF#32, false,
     .relB64 (w.extractLsb' 28 4) (w.extractLsb' 26 2) (w.extractLsb' 21 5) (w.extractLsb' 14 7) (w.extractLsb' 7 7) (w.extractLsb' 0 1) (v.extractLsb' 16 16) (v.extractLsb' 12 4)⟩
  | 0x6a | 0x6b =>
    some ⟨true, 0#32, 0x00000FFF#32, false,
     .acqB32 (w.extractLsb' 28 4) (w.extractLsb' 26 2) (w.extractLsb' 21 5) (w.extractLsb' 14 7) (w.extractLsb' 7 7) (w.extractLsb' 0 1) (v.extractLsb' 16 16) (v.extractLsb' 12 4)⟩
  | 0x6c | 0x6d =>
    some ⟨true, 0#32, 0x00000FFF#32, false,
     .acqB64 (w.extractLsb' 28 4) (w.extractLsb' 26 2) (w.extractLsb' 21 5) (w.extractLsb' 14 7) (w.extractLsb' 7 7) (w.extractLsb' 0 1) (v.extractLsb' 16 16) (v.extractLsb' 12 4)⟩
  | _ => none

/-- The opcodes of class 4 (02 R64 to R69). -/
def rowAsync (op : Nat) (w _v : Word) : Option Row :=
  match op with
  | 0x02 | 0x03 =>
    some ⟨false, 0xFC000000#32, 0#32, false,
     .cpyLd (w.extractLsb' 25 1) (w.extractLsb' 24 1) (w.extractLsb' 22 2) (w.extractLsb' 17 5) (w.extractLsb' 12 5) (w.extractLsb' 7 5) (w.extractLsb' 0 1)⟩
  | 0x04 | 0x05 =>
    some ⟨false, 0xFF000000#32, 0#32, false,
     .cpySt (w.extractLsb' 22 2) (w.extractLsb' 17 5) (w.extractLsb' 12 5) (w.extractLsb' 7 5) (w.extractLsb' 0 1)⟩
  | 0x06 | 0x07 =>
    some ⟨false, 0xFC000000#32, 0#32, false,
     .cpyGath (w.extractLsb' 25 1) (w.extractLsb' 24 1) (w.extractLsb' 22 2) (w.extractLsb' 17 5) (w.extractLsb' 12 5) (w.extractLsb' 7 5) (w.extractLsb' 0 1)⟩
  | 0x08 | 0x09 =>
    some ⟨false, 0xFF000000#32, 0#32, false,
     .cpyScat (w.extractLsb' 22 2) (w.extractLsb' 17 5) (w.extractLsb' 12 5) (w.extractLsb' 7 5) (w.extractLsb' 0 1)⟩
  | 0x0a | 0x0b =>
    some ⟨false, 0xFFC00000#32, 0#32, false,
     .taskp (w.extractLsb' 17 5) (w.extractLsb' 12 5) (w.extractLsb' 7 5) (w.extractLsb' 0 1)⟩
  | 0x0c | 0x0d =>
    some ⟨false, 0xFE000000#32, 0#32, false,
     .bkAdd (w.extractLsb' 24 1) (w.extractLsb' 22 2) (w.extractLsb' 17 5) (w.extractLsb' 12 5) (w.extractLsb' 7 5) (w.extractLsb' 0 1)⟩
  | 0x0e | 0x0f =>
    some ⟨false, 0xFE000000#32, 0#32, false,
     .bkScale (w.extractLsb' 24 1) (w.extractLsb' 22 2) (w.extractLsb' 17 5) (w.extractLsb' 12 5) (w.extractLsb' 7 5) (w.extractLsb' 0 1)⟩
  | 0x10 | 0x11 =>
    some ⟨false, 0xFE000000#32, 0#32, false,
     .bkMax (w.extractLsb' 24 1) (w.extractLsb' 22 2) (w.extractLsb' 17 5) (w.extractLsb' 12 5) (w.extractLsb' 7 5) (w.extractLsb' 0 1)⟩
  | 0x12 | 0x13 =>
    some ⟨false, 0xFE000000#32, 0#32, false,
     .bkExpsum (w.extractLsb' 24 1) (w.extractLsb' 22 2) (w.extractLsb' 17 5) (w.extractLsb' 12 5) (w.extractLsb' 7 5) (w.extractLsb' 0 1)⟩
  | 0x14 | 0x15 =>
    some ⟨false, 0xFE000000#32, 0#32, false,
     .bkFill (w.extractLsb' 24 1) (w.extractLsb' 22 2) (w.extractLsb' 17 5) (w.extractLsb' 12 5) (w.extractLsb' 7 5) (w.extractLsb' 0 1)⟩
  | 0x16 | 0x17 =>
    some ⟨false, 0#32, 0#32, false,
     .memcall (w.extractLsb' 28 4) (w.extractLsb' 27 1) (w.extractLsb' 26 1) (w.extractLsb' 24 2) (w.extractLsb' 19 5) (w.extractLsb' 14 5) (w.extractLsb' 7 7) (w.extractLsb' 0 1)⟩
  | 0x18 | 0x19 => some ⟨false, 0xFFFFF000#32, 0#32, false, .collAllred (w.extractLsb' 7 5) (w.extractLsb' 0 1)⟩
  | 0x1a | 0x1b => some ⟨false, 0xFFFFF000#32, 0#32, false, .collAllgath (w.extractLsb' 7 5) (w.extractLsb' 0 1)⟩
  | 0x1c | 0x1d => some ⟨false, 0xFFFFF000#32, 0#32, false, .collRedscat (w.extractLsb' 7 5) (w.extractLsb' 0 1)⟩
  | 0x1e | 0x1f => some ⟨false, 0xFFFFF000#32, 0#32, false, .collBcast (w.extractLsb' 7 5) (w.extractLsb' 0 1)⟩
  | 0x20 | 0x21 => some ⟨false, 0xFFFFF000#32, 0#32, false, .collAll2all (w.extractLsb' 7 5) (w.extractLsb' 0 1)⟩
  | _ => none

/-- The opcodes of class 5 (02 R64 to R69). -/
def rowControl (op : Nat) (w v : Word) : Option Row :=
  match op with
  | 0x01 => some ⟨false, 0#32, 0#32, false, .br (w.extractLsb' 11 21) (w.extractLsb' 7 4)⟩
  | 0x02 => some ⟨false, 0#32, 0#32, false, .bru (w.extractLsb' 10 22) (w.extractLsb' 9 1) (w.extractLsb' 7 2)⟩
  | 0x03 => some ⟨false, 0xFFFC0000#32, 0#32, false, .brx (w.extractLsb' 11 7) (w.extractLsb' 7 4)⟩
  | 0x04 => some ⟨false, 0xFFFFF800#32, 0#32, false, .ret (w.extractLsb' 7 4)⟩
  | 0x05 =>
    some ⟨false, 0xF003F800#32, 0#32, false, .unwind (w.extractLsb' 23 5) (w.extractLsb' 18 5) (w.extractLsb' 7 4)⟩
  | 0x06 => some ⟨false, 0xFFFFF800#32, 0#32, false, .exit (w.extractLsb' 7 4)⟩
  | 0x07 =>
    some ⟨false, 0xFF800000#32, 0#32, false, .spawn (w.extractLsb' 18 5) (w.extractLsb' 11 7) (w.extractLsb' 7 4)⟩
  | 0x08 => some ⟨false, 0xFFFC0000#32, 0#32, w.extractLsb' 7 4 != 7#4, .regroup (w.extractLsb' 11 7)⟩
  | 0x09 => some ⟨false, 0x0FFFF800#32, 0#32, w.extractLsb' 7 4 != 7#4, .barTeam (w.extractLsb' 28 4)⟩
  | 0x0a => some ⟨false, 0x0FFFF800#32, 0#32, w.extractLsb' 7 4 != 7#4, .barGang (w.extractLsb' 28 4)⟩
  | 0x0b =>
    some ⟨false, 0xC003F800#32, 0#32, w.extractLsb' 7 4 != 7#4,
     .arrive (w.extractLsb' 28 2) (w.extractLsb' 23 5) (w.extractLsb' 18 5)⟩
  | 0x0c =>
    some ⟨false, 0xF003F800#32, 0#32, w.extractLsb' 7 4 != 7#4, .swait (w.extractLsb' 23 5) (w.extractLsb' 18 5)⟩
  | 0x0d =>
    some ⟨false, 0xF003F800#32, 0#32, w.extractLsb' 7 4 != 7#4, .cwait (w.extractLsb' 23 5) (w.extractLsb' 18 5)⟩
  | 0x0e =>
    some ⟨false, 0x8FFF8000#32, 0#32, w.extractLsb' 7 4 != 7#4,
     .qbind (w.extractLsb' 30 1) (w.extractLsb' 28 2) (w.extractLsb' 11 4)⟩
  | 0x0f => some ⟨false, 0xCFFFF800#32, 0#32, w.extractLsb' 7 4 != 7#4, .qclose (w.extractLsb' 28 2)⟩
  | 0x10 => some ⟨false, 0xCFFFF800#32, 0#32, w.extractLsb' 7 4 != 7#4, .rejoin (w.extractLsb' 28 2)⟩
  | 0x11 => some ⟨false, 0xFFFC0000#32, 0#32, false, .trap (w.extractLsb' 11 7) (w.extractLsb' 7 4)⟩
  | 0x12 => some ⟨false, 0xFFFFF800#32, 0#32, w.extractLsb' 7 4 != 7#4, .yield⟩
  | 0x13 =>
    some ⟨false, 0xF003F800#32, 0#32, w.extractLsb' 7 4 != 7#4, .walk (w.extractLsb' 23 5) (w.extractLsb' 18 5)⟩
  | 0x14 => some ⟨false, 0xFFFFF800#32, 0#32, false, .nop (w.extractLsb' 7 4)⟩
  | 0x15 =>
    some ⟨false, 0xF003F800#32, 0#32, w.extractLsb' 7 4 != 7#4, .launch (w.extractLsb' 23 5) (w.extractLsb' 18 5)⟩
  | 0x60 => some ⟨true, 0xFE03F800#32, 0#32, false, .call (w.extractLsb' 18 7) (w.extractLsb' 7 4) v⟩
  | 0x61 =>
    some ⟨true, 0xFE000000#32, 0xFFFFFFFF#32, false,
     .callx (w.extractLsb' 18 7) (w.extractLsb' 11 7) (w.extractLsb' 7 4)⟩
  | _ => none

/-- The opcodes of class 6 (02 R64 to R69). -/
def rowSystem (op : Nat) (w _v : Word) : Option Row :=
  match op with
  | 0x02 | 0x03 =>
    some ⟨false, 0#32, 0#32, false,
     .cld (w.extractLsb' 29 3) (w.extractLsb' 17 12) (w.extractLsb' 12 5) (w.extractLsb' 7 5) (w.extractLsb' 0 1)⟩
  | 0x04 | 0x05 =>
    some ⟨false, 0#32, 0#32, false,
     .cst (w.extractLsb' 29 3) (w.extractLsb' 17 12) (w.extractLsb' 12 5) (w.extractLsb' 7 5) (w.extractLsb' 0 1)⟩
  | 0x08 =>
    some ⟨false, 0xFC000F80#32, 0#32, false,
     .tlbinv (w.extractLsb' 24 2) (w.extractLsb' 22 2) (w.extractLsb' 17 5) (w.extractLsb' 12 5)⟩
  | 0x09 => some ⟨false, 0xFFFFFF80#32, 0#32, false, .tlbsync⟩
  | 0x0a =>
    if w.extractLsb' 24 1 = 0#1 then some ⟨false, 0xFF000F80#32, 0#32, false, .cmaint (w.extractLsb' 22 2) (w.extractLsb' 17 5) (w.extractLsb' 12 5)⟩
    else some ⟨false, 0xFE3E0F80#32, 0#32, false, .cmaintW (w.extractLsb' 22 2) (w.extractLsb' 12 5)⟩
  | 0x0b => some ⟨false, 0xFFFFFF80#32, 0#32, false, .csync⟩
  | _ => none

/-- The opcodes of class 7 (02 R64 to R69). -/
def rowRow (op : Nat) (w _v : Word) : Option Row :=
  match op with
  | 0x01 =>
    some ⟨false, 0x0007F000#32, 0#32, false, .xld (w.extractLsb' 19 13) (w.extractLsb' 10 2) (w.extractLsb' 7 3)⟩
  | 0x02 =>
    some ⟨false, 0x0007F000#32, 0#32, false, .xst (w.extractLsb' 19 13) (w.extractLsb' 10 2) (w.extractLsb' 7 3)⟩
  | 0x03 =>
    some ⟨false, 0xFFFF0000#32, 0#32, false, .band (w.extractLsb' 13 3) (w.extractLsb' 10 3) (w.extractLsb' 7 3)⟩
  | 0x04 =>
    some ⟨false, 0xFFFF0000#32, 0#32, false, .bor (w.extractLsb' 13 3) (w.extractLsb' 10 3) (w.extractLsb' 7 3)⟩
  | 0x05 =>
    some ⟨false, 0xFFFF0000#32, 0#32, false, .bxor (w.extractLsb' 13 3) (w.extractLsb' 10 3) (w.extractLsb' 7 3)⟩
  | 0x06 => some ⟨false, 0xFFFFE000#32, 0#32, false, .bnot (w.extractLsb' 10 3) (w.extractLsb' 7 3)⟩
  | 0x07 =>
    some ⟨false, 0xFFF80000#32, 0#32, false,
     .bmaj (w.extractLsb' 16 3) (w.extractLsb' 13 3) (w.extractLsb' 10 3) (w.extractLsb' 7 3)⟩
  | 0x08 =>
    some ⟨false, 0xFFF80000#32, 0#32, false,
     .bsel (w.extractLsb' 16 3) (w.extractLsb' 13 3) (w.extractLsb' 10 3) (w.extractLsb' 7 3)⟩
  | 0x09 =>
    some ⟨false, 0x0007E000#32, 0#32, false, .bshl (w.extractLsb' 19 13) (w.extractLsb' 10 3) (w.extractLsb' 7 3)⟩
  | 0x0a =>
    some ⟨false, 0xFFE70000#32, 0#32, false,
     .baddc (w.extractLsb' 19 2) (w.extractLsb' 13 3) (w.extractLsb' 10 3) (w.extractLsb' 7 3)⟩
  | 0x0b => some ⟨false, 0x0007FF80#32, 0#32, false, .addn (w.extractLsb' 19 13)⟩
  | 0x0c => some ⟨false, 0x0007FF80#32, 0#32, false, .subn (w.extractLsb' 19 13)⟩
  | 0x0d => some ⟨false, 0x0007FF80#32, 0#32, false, .muln (w.extractLsb' 19 13)⟩
  | 0x0e => some ⟨false, 0x0007FC00#32, 0#32, false, .bloop (w.extractLsb' 19 13) (w.extractLsb' 7 3)⟩
  | 0x0f =>
    some ⟨false, 0x0007FC00#32, 0#32, false, .rowstep (w.extractLsb' 19 13) (w.extractLsb' 9 1) (w.extractLsb' 7 2)⟩
  | 0x10 =>
    some ⟨false, 0x60070380#32, 0#32, false,
     .rowDot (w.extractLsb' 31 1) (w.extractLsb' 19 10) (w.extractLsb' 13 3) (w.extractLsb' 10 3)⟩
  | 0x11 =>
    some ⟨false, 0xFFFF0000#32, 0#32, false, .rowAxpy (w.extractLsb' 13 3) (w.extractLsb' 10 3) (w.extractLsb' 7 3)⟩
  | 0x12 => some ⟨false, 0xFFFFFC00#32, 0#32, false, .xreduce (w.extractLsb' 7 3)⟩
  | _ => none

/-- The reading of a word against the class of its clause's header (02 R44). -/
def rowOf (cls : Nat) (w v : Word) : Option Row :=
  match cls with
  | 0 => rowScalar (w.extractLsb' 0 7).toNat w v
  | 1 => rowVector (w.extractLsb' 0 7).toNat w v
  | 2 => rowMatrix (w.extractLsb' 0 7).toNat w v
  | 3 => rowMemory (w.extractLsb' 0 7).toNat w v
  | 4 => rowAsync (w.extractLsb' 0 7).toNat w v
  | 5 => rowControl (w.extractLsb' 0 7).toNat w v
  | 6 => rowSystem (w.extractLsb' 0 7).toNat w v
  | 7 => rowRow (w.extractLsb' 0 7).toNat w v
  | _ => none

/-- The field checks of an instruction (02 R71, steps 8 and 9). -/
def fieldCheck (i : Instr) : Option Nat := illFormed i

/-- The checks of a row read from its words: a set bit where one must be zero, the reserved and then the illegal
values of its fields. -/
def Row.detail (r : Row) (w v : Word) : Option Nat :=
  if (w &&& r.zero0) != 0#32 || (r.two && (v &&& r.zero1) != 0#32) then some detailReserved
  else if fieldCheck r.instr = some detailReserved then some detailReserved
  else if r.bad then some detailOperand
  else fieldCheck r.instr

/-- The instruction at a word of a clause of class `cls`, with the word after it where the clause has one: opcode,
length, reserved fields, field values, in that order (02 R71, steps 6 to 9). -/
def decode (cls : Nat) (w : Word) (next : Option Word) : Decoded :=
  match rowOf cls w (next.getD 0#32) with
  | none => .illegal 0
  | some r =>
    if r.two && next.isNone then .illegal 4
    else match r.detail w (next.getD 0#32) with
      | some d => .illegal d
      | none => .ok r.instr (if r.two then 2 else 1)

/-! ## The encoder -/

/-- The class of an instruction word (02 R43); none for an operation or event of the device. -/
def classOf : Instr → Option Nat
  | .powerOnReset => none
  | .powerOff => none
  | .clauseIssue _ => none
  | .longLatencyCompletion _ => none
  | .sadd _ _ _ _ _ => some 0
  | .ssub _ _ _ _ _ => some 0
  | .sand _ _ _ _ _ => some 0
  | .sor _ _ _ _ _ => some 0
  | .sxor _ _ _ _ _ => some 0
  | .sshl _ _ _ _ _ => some 0
  | .sshr _ _ _ _ _ => some 0
  | .ssar _ _ _ _ _ => some 0
  | .smul _ _ _ _ _ => some 0
  | .smulh _ _ _ _ _ _ => some 0
  | .smin _ _ _ _ _ _ => some 0
  | .smax _ _ _ _ _ _ => some 0
  | .scmp _ _ _ _ _ _ _ => some 0
  | .ssel _ _ _ _ _ _ => some 0
  | .smovs _ _ => some 0
  | .smovsWrite _ _ => some 0
  | .saddi _ _ _ => some 0
  | .sandi _ _ _ => some 0
  | .sori _ _ _ => some 0
  | .sxori _ _ _ => some 0
  | .sshli _ _ _ => some 0
  | .sshri _ _ _ => some 0
  | .ssari _ _ _ => some 0
  | .scmpi _ _ _ _ => some 0
  | .slui _ _ => some 0
  | .sapc _ _ => some 0
  | .mrd _ _ => some 0
  | .spush _ _ _ => some 0
  | .sld _ _ _ _ _ => some 0
  | .sst _ _ _ _ _ => some 0
  | .cld _ _ _ _ _ => some 6
  | .cst _ _ _ _ _ => some 6
  | .tlbinv _ _ _ _ => some 6
  | .tlbinvCompletion _ => none
  | .tlbsync => some 6
  | .cmaint _ _ _ => some 6
  | .cmaintW _ _ => some 6
  | .cmaintCompletion _ => none
  | .csync => some 6
  | .vaddB32 _ _ _ _ => some 1
  | .vsubB32 _ _ _ _ => some 1
  | .vmulB32 _ _ _ _ => some 1
  | .vmulhS32 _ _ _ _ => some 1
  | .vmulhN32 _ _ _ _ => some 1
  | .vminS32 _ _ _ _ => some 1
  | .vmaxS32 _ _ _ _ => some 1
  | .vminN32 _ _ _ _ => some 1
  | .vmaxN32 _ _ _ _ => some 1
  | .vshlB32 _ _ _ _ => some 1
  | .vshrN32 _ _ _ _ => some 1
  | .vshrS32 _ _ _ _ => some 1
  | .vbfeN32 _ _ _ _ => some 1
  | .vbfeS32 _ _ _ _ => some 1
  | .vbcntB32 _ _ _ => some 1
  | .vclzB32 _ _ _ => some 1
  | .vbrevB32 _ _ _ => some 1
  | .vmovB32 _ _ _ => some 1
  | .vselB32 _ _ _ _ => some 1
  | .vaddB64 _ _ _ _ => some 1
  | .vsubB64 _ _ _ _ => some 1
  | .vfaddF32 _ _ _ _ => some 1
  | .vfsubF32 _ _ _ _ => some 1
  | .vfmulF32 _ _ _ _ => some 1
  | .vfminF32 _ _ _ _ => some 1
  | .vfmaxF32 _ _ _ _ => some 1
  | .vfaddF16x2 _ _ _ _ => some 1
  | .vfmulF16x2 _ _ _ _ => some 1
  | .vfaddBf16x2 _ _ _ _ => some 1
  | .vfmulBf16x2 _ _ _ _ => some 1
  | .vfaddF64 _ _ _ _ => some 1
  | .vfsubF64 _ _ _ _ => some 1
  | .vfmulF64 _ _ _ _ => some 1
  | .vfminF64 _ _ _ _ => some 1
  | .vfmaxF64 _ _ _ _ => some 1
  | .frcpF32 _ _ _ => some 1
  | .frsqF32 _ _ _ => some 1
  | .fex2F32 _ _ _ => some 1
  | .flg2F32 _ _ _ => some 1
  | .shflB32 _ _ _ _ => some 1
  | .bcastB32 _ _ _ _ => some 1
  | .ballot _ _ _ => some 1
  | .popc _ _ _ _ => some 1
  | .scanAddB32 _ _ _ => some 1
  | .scanFaddF32 _ _ _ => some 1
  | .matchB32 _ _ _ => some 1
  | .vredFaddF32 _ _ _ => some 1
  | .srseed _ _ => some 1
  | .vmovs _ _ _ => some 1
  | .vcmp _ _ _ _ _ _ _ _ _ _ => some 1
  | .vfcmp _ _ _ _ _ _ _ _ _ _ => some 1
  | .vfmaF32 _ _ _ _ _ _ _ _ _ _ _ _ => some 1
  | .vfmaF64 _ _ _ _ _ _ _ _ _ => some 1
  | .vfmaF16x2 _ _ _ _ _ _ _ _ _ _ _ _ => some 1
  | .vfmaBf16x2 _ _ _ _ _ _ _ _ _ _ _ _ => some 1
  | .vlop3B32 _ _ _ _ _ _ _ _ _ => some 1
  | .vbfiB32 _ _ _ _ _ _ _ _ => some 1
  | .vcvt _ _ _ _ _ _ _ _ => some 1
  | .vmadB32 _ _ _ _ _ _ _ _ => some 1
  | .vaddiB32 _ _ _ _ _ => some 1
  | .vmoviB32 _ _ _ _ _ => some 1
  | .ldN8 _ _ _ _ _ _ => some 3
  | .ldS8 _ _ _ _ _ _ => some 3
  | .ldN16 _ _ _ _ _ _ => some 3
  | .ldS16 _ _ _ _ _ _ => some 3
  | .ldB32 _ _ _ _ _ _ => some 3
  | .ldB64 _ _ _ _ _ _ => some 3
  | .ldB128 _ _ _ _ _ _ => some 3
  | .stB8 _ _ _ _ _ _ => some 3
  | .stB16 _ _ _ _ _ _ => some 3
  | .stB32 _ _ _ _ _ _ => some 3
  | .stB64 _ _ _ _ _ _ => some 3
  | .stB128 _ _ _ _ _ _ => some 3
  | .tlook _ _ _ => some 3
  | .tins _ _ _ _ => some 3
  | .tinv _ _ _ => some 3
  | .fence _ _ => some 3
  | .atomB32 _ _ _ _ _ _ _ _ _ => some 3
  | .atomB64 _ _ _ _ _ _ _ _ _ => some 3
  | .upd _ _ _ _ _ _ _ _ => some 3
  | .relB32 _ _ _ _ _ _ _ _ => some 3
  | .relB64 _ _ _ _ _ _ _ _ => some 3
  | .acqB32 _ _ _ _ _ _ _ _ => some 3
  | .acqB64 _ _ _ _ _ _ _ _ => some 3
  | .loadPerformed _ => none
  | .storePerformed _ => none
  | .correctedLineRewrite _ => none
  | .tzero _ _ => some 2
  | .mma _ _ _ _ _ _ _ _ _ _ _ => some 2
  | .mmaPair _ _ _ _ _ _ _ _ _ _ _ => some 2
  | .tload _ _ _ _ => some 2
  | .drain _ _ _ _ _ _ _ _ => some 2
  | .matrixGrant _ => none
  | .matrixPassCompletion _ => none
  | .cpyLd _ _ _ _ _ _ _ => some 4
  | .cpySt _ _ _ _ _ => some 4
  | .cpyGath _ _ _ _ _ _ _ => some 4
  | .cpyScat _ _ _ _ _ => some 4
  | .copyStart _ => none
  | .copyElementMove _ => none
  | .streamEntryPush _ => none
  | .copyCompletion _ => none
  | .taskp _ _ _ _ => some 4
  | .bkAdd _ _ _ _ _ _ => some 4
  | .bkScale _ _ _ _ _ _ => some 4
  | .bkMax _ _ _ _ _ _ => some 4
  | .bkExpsum _ _ _ _ _ _ => some 4
  | .bkFill _ _ _ _ _ _ => some 4
  | .bankCommandCompletion _ => none
  | .memcall _ _ _ _ _ _ _ _ => some 4
  | .collAllred _ _ => some 4
  | .collAllgath _ _ => some 4
  | .collRedscat _ _ => some 4
  | .collBcast _ _ => some 4
  | .collAll2all _ _ => some 4
  | .collectiveCompletion _ _ => none
  | .collectiveLinkTimeout _ => none
  | .br _ _ => some 5
  | .bru _ _ _ => some 5
  | .brx _ _ => some 5
  | .ret _ => some 5
  | .unwind _ _ _ => some 5
  | .exit _ => some 5
  | .spawn _ _ _ => some 5
  | .regroup _ => some 5
  | .barTeam _ => some 5
  | .barGang _ => some 5
  | .arrive _ _ _ => some 5
  | .swait _ _ => some 5
  | .cwait _ _ => some 5
  | .engineArrival _ => none
  | .qbind _ _ _ => some 5
  | .qclose _ => some 5
  | .rejoin _ => some 5
  | .implicitRejoin _ _ => none
  | .trap _ _ => some 5
  | .yield => some 5
  | .walk _ _ => some 5
  | .nop _ => some 5
  | .launch _ _ => some 5
  | .call _ _ _ => some 5
  | .callx _ _ _ => some 5
  | .xld _ _ _ => some 7
  | .xst _ _ _ => some 7
  | .band _ _ _ => some 7
  | .bor _ _ _ => some 7
  | .bxor _ _ _ => some 7
  | .bnot _ _ => some 7
  | .bmaj _ _ _ _ => some 7
  | .bsel _ _ _ _ => some 7
  | .bshl _ _ _ => some 7
  | .baddc _ _ _ _ => some 7
  | .addn _ => some 7
  | .subn _ => some 7
  | .muln _ => some 7
  | .bloop _ _ => some 7
  | .rowstep _ _ _ => some 7
  | .rowDot _ _ _ _ => some 7
  | .rowAxpy _ _ _ => some 7
  | .xreduce _ => some 7
  | .bankCallBlock _ => none
  | .kernel _ => none
  | .dot _ => none
  | .reduce _ => none
  | .axpy _ => none
  | .transpose _ => none
  | .fill _ => none
  | .copyrow _ => none
  | .bankCallReply _ => none
  | .walkTaskPost _ _ _ _ => none
  | .taskEnter _ => none
  | .taskBuffer _ => none
  | .taskInputs _ => none
  | .taskReady _ => none
  | .taskRun _ => none
  | .taskEnd _ => none
  | .bintimerExpiry _ _ => none
  | .binLaunch _ _ => none
  | .frameRequestServed _ => none
  | .spillwaitExpiry _ => none
  | .trapEntry _ => none
  | .fbrespRetry _ _ => none
  | .fbrespAbort _ _ => none
  | .teamPlacement _ => none
  | .headReserving _ _ => none
  | .gridCompletion _ => none
  | .graphNodeReady _ _ => none
  | .graphCopyNode _ _ => none
  | .graphNodeCompletion _ _ => none
  | .lockkeeperRestart _ => none
  | .create _ => none
  | .release => none
  | .service => none
  | .mailboxBadop => none
  | .suspend => none
  | .suspendTimeout => none
  | .resume => none
  | .grow => none
  | .shrink => none
  | .sluiceOpen => none
  | .sluicePass => none
  | .sluiceClose => none
  | .sluiceAbort => none
  | .importKey => none
  | .importStream => none
  | .clownWrite _ _ => none
  | .worldLatchChange _ => none
  | .pcownWrite _ _ => none
  | .waymaskWrite _ _ _ => none
  | .registerWrite _ _ => none
  | .invctlAddress _ => none
  | .invctlWorld _ => none
  | .invctlCompletion _ => none
  | .rngStartupTest _ => none
  | .rngHealthFailure => none
  | .getTdispVersion _ => none
  | .getTdispCapabilities _ => none
  | .lockInterfaceRequest _ => none
  | .getDeviceInterfaceReport _ => none
  | .getDeviceInterfaceState _ => none
  | .startInterfaceRequest _ => none
  | .stopInterfaceRequest _ => none
  | .tdispUnsupportedRequest _ => none
  | .spdmRequest _ => none
  | .getMeasurements _ => none
  | .commOpen _ => none
  | .commClose _ => none
  | .debugOpen _ _ => none
  | .getRelease _ => none
  | .flitReceive _ _ => none
  | .flitReplay _ => none
  | .lctlWrite _ _ => none
  | .portTrainingEnd _ _ _ _ => none
  | .portDown _ => none
  | .bar2Access _ _ => none
  | .bar4Access _ => none
  | .cxlMemAccess _ => none
  | .bootWindowAccess _ => none
  | .hartAccess _ _ => none
  | .hworldWrite _ _ => none
  | .dbgreqScan _ => none
  | .dbgreqMemoryTest _ => none
  | .testAccessPortEntry _ => none
  | .dbgdataRead => none
  | .dbgdataWrite _ => none
  | .bootctlGo _ => none
  | .bootReady => none
  | .phyctlWrite _ _ => none
  | .repairWrite _ _ => none
  | .patternRunWrite _ => none
  | .patternRunRead _ => none
  | .patternRunCompletion _ _ => none
  | .rdlyallWrite _ _ => none
  | .wdlyallWrite _ _ => none
  | .thermalThrottle => none
  | .passageOfTime _ => none
  | .symbolsInError _ _ => none
  | .onChipStorageError _ => none
  | .readingBelowLimit => none
  | .tdispErrorTransition _ => none
  | .lshareWrite _ _ _ => none
  | .hostLinkTraining _ => none

/-- The words of an instruction (02 R48 to R62); an operation or event of the device has none. -/
def encode : Instr → List Word
  | .powerOnReset => []
  | .powerOff => []
  | .clauseIssue _ => []
  | .longLatencyCompletion _ => []
  | .sadd y x b a d => [y ++ x ++ 0#8 ++ b ++ a ++ d ++ 0x01#7]
  | .ssub y x b a d => [y ++ x ++ 0#8 ++ b ++ a ++ d ++ 0x02#7]
  | .sand y x b a d => [y ++ x ++ 0#8 ++ b ++ a ++ d ++ 0x03#7]
  | .sor y x b a d => [y ++ x ++ 0#8 ++ b ++ a ++ d ++ 0x04#7]
  | .sxor y x b a d => [y ++ x ++ 0#8 ++ b ++ a ++ d ++ 0x05#7]
  | .sshl y x b a d => [y ++ x ++ 0#8 ++ b ++ a ++ d ++ 0x06#7]
  | .sshr y x b a d => [y ++ x ++ 0#8 ++ b ++ a ++ d ++ 0x07#7]
  | .ssar y x b a d => [y ++ x ++ 0#8 ++ b ++ a ++ d ++ 0x08#7]
  | .smul y x b a d => [y ++ x ++ 0#8 ++ b ++ a ++ d ++ 0x09#7]
  | .smulh y x t b a d => [y ++ x ++ 0#7 ++ t ++ b ++ a ++ d ++ 0x0a#7]
  | .smin y x t b a d => [y ++ x ++ 0#7 ++ t ++ b ++ a ++ d ++ 0x0b#7]
  | .smax y x t b a d => [y ++ x ++ 0#7 ++ t ++ b ++ a ++ d ++ 0x0c#7]
  | .scmp y x t c b a k => [y ++ x ++ 0#2 ++ t ++ c ++ b ++ a ++ 0#3 ++ k ++ 0x0d#7]
  | .ssel y x s b a d => [y ++ x ++ 0#6 ++ s ++ b ++ a ++ d ++ 0x0e#7]
  | .smovs n d => [0#4 ++ n ++ 0#10 ++ d ++ 0x0f#7]
  | .smovsWrite x a => [0#1 ++ x ++ 0#1 ++ 0x49#7 ++ 0#5 ++ a ++ 0#5 ++ 0x0f#7]
  | .saddi i a d => [0#3 ++ i ++ a ++ d ++ 0x10#7]
  | .sandi i a d => [0#3 ++ i ++ a ++ d ++ 0x11#7]
  | .sori i a d => [0#3 ++ i ++ a ++ d ++ 0x12#7]
  | .sxori i a d => [0#3 ++ i ++ a ++ d ++ 0x13#7]
  | .sshli n a d => [0#9 ++ n ++ a ++ d ++ 0x14#7]
  | .sshri n a d => [0#9 ++ n ++ a ++ d ++ 0x15#7]
  | .ssari n a d => [0#9 ++ n ++ a ++ d ++ 0x16#7]
  | .scmpi c i a k => [c ++ i ++ a ++ 0#3 ++ k ++ 0x17#7]
  | .slui i d => [i ++ d ++ 0x18#7]
  | .sapc i d => [i ++ d ++ 0x19#7]
  | .mrd m d => [0#10 ++ m ++ 0#5 ++ d ++ 0x1a#7]
  | .spush x a q => [0#1 ++ x ++ 0#13 ++ a ++ 0#3 ++ q ++ 0x1b#7]
  | .sld w i a d f => [w ++ i ++ a ++ d ++ 0x10#6 ++ f]
  | .sst w i a d f => [w ++ i ++ a ++ d ++ 0x11#6 ++ f]
  | .cld w i a d f => [w ++ i ++ a ++ d ++ 0x01#6 ++ f]
  | .cst w i a d f => [w ++ i ++ a ++ d ++ 0x02#6 ++ f]
  | .tlbinv s k b a => [0#6 ++ s ++ k ++ b ++ a ++ 0#5 ++ 0x08#7]
  | .tlbinvCompletion _ => []
  | .tlbsync => [0#25 ++ 0x09#7]
  | .cmaint o b a => [0#8 ++ o ++ b ++ a ++ 0#5 ++ 0x0a#7]
  | .cmaintW o a => [0#7 ++ 1#1 ++ o ++ 0#5 ++ a ++ 0#5 ++ 0x0a#7]
  | .cmaintCompletion _ => []
  | .csync => [0#25 ++ 0x0b#7]
  | .vaddB32 g b a d => [g ++ b ++ a ++ d ++ 0x01#7]
  | .vsubB32 g b a d => [g ++ b ++ a ++ d ++ 0x02#7]
  | .vmulB32 g b a d => [g ++ b ++ a ++ d ++ 0x03#7]
  | .vmulhS32 g b a d => [g ++ b ++ a ++ d ++ 0x04#7]
  | .vmulhN32 g b a d => [g ++ b ++ a ++ d ++ 0x05#7]
  | .vminS32 g b a d => [g ++ b ++ a ++ d ++ 0x06#7]
  | .vmaxS32 g b a d => [g ++ b ++ a ++ d ++ 0x07#7]
  | .vminN32 g b a d => [g ++ b ++ a ++ d ++ 0x08#7]
  | .vmaxN32 g b a d => [g ++ b ++ a ++ d ++ 0x09#7]
  | .vshlB32 g b a d => [g ++ b ++ a ++ d ++ 0x0a#7]
  | .vshrN32 g b a d => [g ++ b ++ a ++ d ++ 0x0b#7]
  | .vshrS32 g b a d => [g ++ b ++ a ++ d ++ 0x0c#7]
  | .vbfeN32 g b a d => [g ++ b ++ a ++ d ++ 0x0d#7]
  | .vbfeS32 g b a d => [g ++ b ++ a ++ d ++ 0x0e#7]
  | .vbcntB32 g a d => [g ++ 0#7 ++ a ++ d ++ 0x0f#7]
  | .vclzB32 g a d => [g ++ 0#7 ++ a ++ d ++ 0x10#7]
  | .vbrevB32 g a d => [g ++ 0#7 ++ a ++ d ++ 0x11#7]
  | .vmovB32 g a d => [g ++ 0#7 ++ a ++ d ++ 0x12#7]
  | .vselB32 g b a d => [g ++ b ++ a ++ d ++ 0x13#7]
  | .vaddB64 g b a d => [g ++ b ++ a ++ d ++ 0x14#7]
  | .vsubB64 g b a d => [g ++ b ++ a ++ d ++ 0x15#7]
  | .vfaddF32 g b a d => [g ++ b ++ a ++ d ++ 0x18#7]
  | .vfsubF32 g b a d => [g ++ b ++ a ++ d ++ 0x19#7]
  | .vfmulF32 g b a d => [g ++ b ++ a ++ d ++ 0x1a#7]
  | .vfminF32 g b a d => [g ++ b ++ a ++ d ++ 0x1b#7]
  | .vfmaxF32 g b a d => [g ++ b ++ a ++ d ++ 0x1c#7]
  | .vfaddF16x2 g b a d => [g ++ b ++ a ++ d ++ 0x20#7]
  | .vfmulF16x2 g b a d => [g ++ b ++ a ++ d ++ 0x21#7]
  | .vfaddBf16x2 g b a d => [g ++ b ++ a ++ d ++ 0x22#7]
  | .vfmulBf16x2 g b a d => [g ++ b ++ a ++ d ++ 0x23#7]
  | .vfaddF64 g b a d => [g ++ b ++ a ++ d ++ 0x28#7]
  | .vfsubF64 g b a d => [g ++ b ++ a ++ d ++ 0x29#7]
  | .vfmulF64 g b a d => [g ++ b ++ a ++ d ++ 0x2a#7]
  | .vfminF64 g b a d => [g ++ b ++ a ++ d ++ 0x2b#7]
  | .vfmaxF64 g b a d => [g ++ b ++ a ++ d ++ 0x2c#7]
  | .frcpF32 g a d => [g ++ 0#7 ++ a ++ d ++ 0x30#7]
  | .frsqF32 g a d => [g ++ 0#7 ++ a ++ d ++ 0x31#7]
  | .fex2F32 g a d => [g ++ 0#7 ++ a ++ d ++ 0x32#7]
  | .flg2F32 g a d => [g ++ 0#7 ++ a ++ d ++ 0x33#7]
  | .shflB32 g b a d => [g ++ b ++ a ++ d ++ 0x38#7]
  | .bcastB32 g l a d => [g ++ 0#1 ++ l ++ a ++ d ++ 0x39#7]
  | .ballot g p d => [g ++ 0#11 ++ p ++ d ++ 0x3a#7]
  | .popc g m p d => [g ++ m ++ 0#4 ++ p ++ d ++ 0x3b#7]
  | .scanAddB32 g a d => [g ++ 0#7 ++ a ++ d ++ 0x3c#7]
  | .scanFaddF32 g a d => [g ++ 0#7 ++ a ++ d ++ 0x3d#7]
  | .matchB32 g a d => [g ++ 0#7 ++ a ++ d ++ 0x3e#7]
  | .vredFaddF32 g a d => [g ++ 0#7 ++ a ++ d ++ 0x3f#7]
  | .srseed g a => [g ++ 0#7 ++ a ++ 0#7 ++ 0x40#7]
  | .vmovs g s d => [g ++ 0#8 ++ s ++ d ++ 0x41#7]
  | .vcmp g b a p2 p1 qb qa j t c =>
    [g ++ b ++ a ++ 0#1 ++ p2 ++ p1 ++ 0x60#7, 0#17 ++ qb ++ qa ++ j ++ t ++ 0#3 ++ c]
  | .vfcmp g b a p2 p1 qb qa j t c =>
    [g ++ b ++ a ++ 0#1 ++ p2 ++ p1 ++ 0x61#7, 0#17 ++ qb ++ qa ++ j ++ t ++ 0#3 ++ c]
  | .vfmaF32 g b a d qc qb qa abs neg sat rm c =>
    [g ++ b ++ a ++ d ++ 0x62#7, 0#16 ++ qc ++ qb ++ qa ++ abs ++ neg ++ sat ++ rm ++ c]
  | .vfmaF64 g b a d abs neg sat rm c => [g ++ b ++ a ++ d ++ 0x63#7, 0#19 ++ abs ++ neg ++ sat ++ rm ++ c]
  | .vfmaF16x2 g b a d qc qb qa abs neg sat rm c =>
    [g ++ b ++ a ++ d ++ 0x64#7, 0#16 ++ qc ++ qb ++ qa ++ abs ++ neg ++ sat ++ rm ++ c]
  | .vfmaBf16x2 g b a d qc qb qa abs neg sat rm c =>
    [g ++ b ++ a ++ d ++ 0x65#7, 0#16 ++ qc ++ qb ++ qa ++ abs ++ neg ++ sat ++ rm ++ c]
  | .vlop3B32 g b a d lut qc qb qa c => [g ++ b ++ a ++ d ++ 0x66#7, 0#8 ++ lut ++ qc ++ qb ++ qa ++ 0#6 ++ c]
  | .vbfiB32 g b a d len pos qb qa =>
    [g ++ b ++ a ++ d ++ 0x67#7, 0#2 ++ len ++ 0#3 ++ pos ++ 0#1 ++ qb ++ qa ++ 0#13]
  | .vcvt g a d dst src qa sat rm =>
    [g ++ 0#7 ++ a ++ d ++ 0x68#7, 0#8 ++ dst ++ src ++ 0#2 ++ qa ++ 0#2 ++ sat ++ rm ++ 0#7]
  | .vmadB32 g b a d qc qb qa c => [g ++ b ++ a ++ d ++ 0x69#7, 0#16 ++ qc ++ qb ++ qa ++ 0#6 ++ c]
  | .vaddiB32 g a d i qa => [g ++ 0#7 ++ a ++ d ++ 0x6a#7, i ++ 0#2 ++ qa ++ 0#13]
  | .vmoviB32 g a d i m => [g ++ 0#7 ++ a ++ d ++ 0x6b#7, i ++ 0#14 ++ m]
  | .ldN8 g s b o d f => [g ++ s ++ b ++ o ++ d ++ 0x01#6 ++ f]
  | .ldS8 g s b o d f => [g ++ s ++ b ++ o ++ d ++ 0x02#6 ++ f]
  | .ldN16 g s b o d f => [g ++ s ++ b ++ o ++ d ++ 0x03#6 ++ f]
  | .ldS16 g s b o d f => [g ++ s ++ b ++ o ++ d ++ 0x04#6 ++ f]
  | .ldB32 g s b o d f => [g ++ s ++ b ++ o ++ d ++ 0x05#6 ++ f]
  | .ldB64 g s b o d f => [g ++ s ++ b ++ o ++ d ++ 0x06#6 ++ f]
  | .ldB128 g s b o d f => [g ++ s ++ b ++ o ++ d ++ 0x07#6 ++ f]
  | .stB8 g s b o d f => [g ++ s ++ b ++ o ++ d ++ 0x09#6 ++ f]
  | .stB16 g s b o d f => [g ++ s ++ b ++ o ++ d ++ 0x0a#6 ++ f]
  | .stB32 g s b o d f => [g ++ s ++ b ++ o ++ d ++ 0x0b#6 ++ f]
  | .stB64 g s b o d f => [g ++ s ++ b ++ o ++ d ++ 0x0c#6 ++ f]
  | .stB128 g s b o d f => [g ++ s ++ b ++ o ++ d ++ 0x0d#6 ++ f]
  | .tlook g a d => [g ++ 0#7 ++ a ++ d ++ 0x20#7]
  | .tins g b a d => [g ++ b ++ a ++ d ++ 0x21#7]
  | .tinv g a d => [g ++ 0#7 ++ a ++ d ++ 0x22#7]
  | .fence s p => [0#19 ++ s ++ p ++ 0x24#7]
  | .atomB32 g s b o d f i x c => [g ++ s ++ b ++ o ++ d ++ 0x30#6 ++ f, i ++ x ++ c ++ 0#5]
  | .atomB64 g s b o d f i x c => [g ++ s ++ b ++ o ++ d ++ 0x31#6 ++ f, i ++ x ++ c ++ 0#5]
  | .upd g s b o d f i x => [g ++ s ++ b ++ o ++ d ++ 0x32#6 ++ f, i ++ x ++ 0#12]
  | .relB32 g s b o d f i x => [g ++ s ++ b ++ o ++ d ++ 0x33#6 ++ f, i ++ x ++ 0#12]
  | .relB64 g s b o d f i x => [g ++ s ++ b ++ o ++ d ++ 0x34#6 ++ f, i ++ x ++ 0#12]
  | .acqB32 g s b o d f i x => [g ++ s ++ b ++ o ++ d ++ 0x35#6 ++ f, i ++ x ++ 0#12]
  | .acqB64 g s b o d f i x => [g ++ s ++ b ++ o ++ d ++ 0x36#6 ++ f, i ++ x ++ 0#12]
  | .loadPerformed _ => []
  | .storePerformed _ => []
  | .correctedLineRewrite _ => []
  | .tzero t f => [0#19 ++ t ++ 0x01#6 ++ f]
  | .mma asrc reuse la lb a t f shape exact fmtb fmta =>
    [asrc ++ reuse ++ la ++ lb ++ a ++ t ++ 0x30#6 ++ f, 0#20 ++ shape ++ exact ++ fmtb ++ fmta]
  | .mmaPair asrc reuse la lb a t f shape exact fmtb fmta =>
    [asrc ++ reuse ++ la ++ lb ++ a ++ t ++ 0x31#6 ++ f, 0#20 ++ shape ++ exact ++ fmtb ++ fmta]
  | .tload sl t f fmt => [0#4 ++ sl ++ 0#10 ++ t ++ 0x32#6 ++ f, 0#28 ++ fmt]
  | .drain sl ss se t f sck rm fmt => [0#4 ++ sl ++ ss ++ se ++ t ++ 0x33#6 ++ f, 0#24 ++ sck ++ rm ++ fmt]
  | .matrixGrant _ => []
  | .matrixPassCompletion _ => []
  | .cpyLd r w k c b a f => [0#6 ++ r ++ w ++ k ++ c ++ b ++ a ++ 0x01#6 ++ f]
  | .cpySt k c b a f => [0#8 ++ k ++ c ++ b ++ a ++ 0x02#6 ++ f]
  | .cpyGath r w k c b a f => [0#6 ++ r ++ w ++ k ++ c ++ b ++ a ++ 0x03#6 ++ f]
  | .cpyScat k c b a f => [0#8 ++ k ++ c ++ b ++ a ++ 0x04#6 ++ f]
  | .copyStart _ => []
  | .copyElementMove _ => []
  | .streamEntryPush _ => []
  | .copyCompletion _ => []
  | .taskp c b a f => [0#10 ++ c ++ b ++ a ++ 0x05#6 ++ f]
  | .bkAdd y t c b a f => [0#7 ++ y ++ t ++ c ++ b ++ a ++ 0x06#6 ++ f]
  | .bkScale y t c b a f => [0#7 ++ y ++ t ++ c ++ b ++ a ++ 0x07#6 ++ f]
  | .bkMax y t c b a f => [0#7 ++ y ++ t ++ c ++ b ++ a ++ 0x08#6 ++ f]
  | .bkExpsum y t c b a f => [0#7 ++ y ++ t ++ c ++ b ++ a ++ 0x09#6 ++ f]
  | .bkFill y t c b a f => [0#7 ++ y ++ t ++ c ++ b ++ a ++ 0x0a#6 ++ f]
  | .bankCommandCompletion _ => []
  | .memcall g q n j c s a f => [g ++ q ++ n ++ j ++ c ++ s ++ a ++ 0x0b#6 ++ f]
  | .collAllred a f => [0#20 ++ a ++ 0x0c#6 ++ f]
  | .collAllgath a f => [0#20 ++ a ++ 0x0d#6 ++ f]
  | .collRedscat a f => [0#20 ++ a ++ 0x0e#6 ++ f]
  | .collBcast a f => [0#20 ++ a ++ 0x0f#6 ++ f]
  | .collAll2all a f => [0#20 ++ a ++ 0x10#6 ++ f]
  | .collectiveCompletion _ _ => []
  | .collectiveLinkTimeout _ => []
  | .br o g => [o ++ g ++ 0x01#7]
  | .bru o n c => [o ++ n ++ c ++ 0x02#7]
  | .brx a g => [0#14 ++ a ++ g ++ 0x03#7]
  | .ret g => [0#21 ++ g ++ 0x04#7]
  | .unwind b a g => [0#4 ++ b ++ a ++ 0#7 ++ g ++ 0x05#7]
  | .exit g => [0#21 ++ g ++ 0x06#7]
  | .spawn a p g => [0#9 ++ a ++ p ++ g ++ 0x07#7]
  | .regroup a => [0#14 ++ a ++ 7#4 ++ 0x08#7]
  | .barTeam k => [k ++ 0#17 ++ 7#4 ++ 0x09#7]
  | .barGang k => [k ++ 0#17 ++ 7#4 ++ 0x0a#7]
  | .arrive c b a => [0#2 ++ c ++ b ++ a ++ 0#7 ++ 7#4 ++ 0x0b#7]
  | .swait b a => [0#4 ++ b ++ a ++ 0#7 ++ 7#4 ++ 0x0c#7]
  | .cwait b a => [0#4 ++ b ++ a ++ 0#7 ++ 7#4 ++ 0x0d#7]
  | .engineArrival _ => []
  | .qbind r q o => [0#1 ++ r ++ q ++ 0#13 ++ o ++ 7#4 ++ 0x0e#7]
  | .qclose q => [0#2 ++ q ++ 0#17 ++ 7#4 ++ 0x0f#7]
  | .rejoin j => [0#2 ++ j ++ 0#17 ++ 7#4 ++ 0x10#7]
  | .implicitRejoin _ _ => []
  | .trap c g => [0#14 ++ c ++ g ++ 0x11#7]
  | .yield => [0#21 ++ 7#4 ++ 0x12#7]
  | .walk b a => [0#4 ++ b ++ a ++ 0#7 ++ 7#4 ++ 0x13#7]
  | .nop g => [0#21 ++ g ++ 0x14#7]
  | .launch b a => [0#4 ++ b ++ a ++ 0#7 ++ 7#4 ++ 0x15#7]
  | .call dm g o => [0#7 ++ dm ++ 0#7 ++ g ++ 0x60#7, o]
  | .callx dm a g => [0#7 ++ dm ++ a ++ g ++ 0x61#7, 0#32]
  | .xld i n d => [i ++ 0#7 ++ n ++ d ++ 0x01#7]
  | .xst i n s => [i ++ 0#7 ++ n ++ s ++ 0x02#7]
  | .band b a d => [0#16 ++ b ++ a ++ d ++ 0x03#7]
  | .bor b a d => [0#16 ++ b ++ a ++ d ++ 0x04#7]
  | .bxor b a d => [0#16 ++ b ++ a ++ d ++ 0x05#7]
  | .bnot a d => [0#19 ++ a ++ d ++ 0x06#7]
  | .bmaj c b a d => [0#13 ++ c ++ b ++ a ++ d ++ 0x07#7]
  | .bsel c b a d => [0#13 ++ c ++ b ++ a ++ d ++ 0x08#7]
  | .bshl s a d => [s ++ 0#6 ++ a ++ d ++ 0x09#7]
  | .baddc i b a d => [0#11 ++ i ++ 0#3 ++ b ++ a ++ d ++ 0x0a#7]
  | .addn w => [w ++ 0#12 ++ 0x0b#7]
  | .subn w => [w ++ 0#12 ++ 0x0c#7]
  | .muln w => [w ++ 0#12 ++ 0x0d#7]
  | .bloop n l => [n ++ 0#9 ++ l ++ 0x0e#7]
  | .rowstep v s n => [v ++ 0#9 ++ s ++ n ++ 0x0f#7]
  | .rowDot y m b a => [y ++ 0#2 ++ m ++ 0#3 ++ b ++ a ++ 0#3 ++ 0x10#7]
  | .rowAxpy b a d => [0#16 ++ b ++ a ++ d ++ 0x11#7]
  | .xreduce d => [0#22 ++ d ++ 0x12#7]
  | .bankCallBlock _ => []
  | .kernel _ => []
  | .dot _ => []
  | .reduce _ => []
  | .axpy _ => []
  | .transpose _ => []
  | .fill _ => []
  | .copyrow _ => []
  | .bankCallReply _ => []
  | .walkTaskPost _ _ _ _ => []
  | .taskEnter _ => []
  | .taskBuffer _ => []
  | .taskInputs _ => []
  | .taskReady _ => []
  | .taskRun _ => []
  | .taskEnd _ => []
  | .bintimerExpiry _ _ => []
  | .binLaunch _ _ => []
  | .frameRequestServed _ => []
  | .spillwaitExpiry _ => []
  | .trapEntry _ => []
  | .fbrespRetry _ _ => []
  | .fbrespAbort _ _ => []
  | .teamPlacement _ => []
  | .headReserving _ _ => []
  | .gridCompletion _ => []
  | .graphNodeReady _ _ => []
  | .graphCopyNode _ _ => []
  | .graphNodeCompletion _ _ => []
  | .lockkeeperRestart _ => []
  | .create _ => []
  | .release => []
  | .service => []
  | .mailboxBadop => []
  | .suspend => []
  | .suspendTimeout => []
  | .resume => []
  | .grow => []
  | .shrink => []
  | .sluiceOpen => []
  | .sluicePass => []
  | .sluiceClose => []
  | .sluiceAbort => []
  | .importKey => []
  | .importStream => []
  | .clownWrite _ _ => []
  | .worldLatchChange _ => []
  | .pcownWrite _ _ => []
  | .waymaskWrite _ _ _ => []
  | .registerWrite _ _ => []
  | .invctlAddress _ => []
  | .invctlWorld _ => []
  | .invctlCompletion _ => []
  | .rngStartupTest _ => []
  | .rngHealthFailure => []
  | .getTdispVersion _ => []
  | .getTdispCapabilities _ => []
  | .lockInterfaceRequest _ => []
  | .getDeviceInterfaceReport _ => []
  | .getDeviceInterfaceState _ => []
  | .startInterfaceRequest _ => []
  | .stopInterfaceRequest _ => []
  | .tdispUnsupportedRequest _ => []
  | .spdmRequest _ => []
  | .getMeasurements _ => []
  | .commOpen _ => []
  | .commClose _ => []
  | .debugOpen _ _ => []
  | .getRelease _ => []
  | .flitReceive _ _ => []
  | .flitReplay _ => []
  | .lctlWrite _ _ => []
  | .portTrainingEnd _ _ _ _ => []
  | .portDown _ => []
  | .bar2Access _ _ => []
  | .bar4Access _ => []
  | .cxlMemAccess _ => []
  | .bootWindowAccess _ => []
  | .hartAccess _ _ => []
  | .hworldWrite _ _ => []
  | .dbgreqScan _ => []
  | .dbgreqMemoryTest _ => []
  | .testAccessPortEntry _ => []
  | .dbgdataRead => []
  | .dbgdataWrite _ => []
  | .bootctlGo _ => []
  | .bootReady => []
  | .phyctlWrite _ _ => []
  | .repairWrite _ _ => []
  | .patternRunWrite _ => []
  | .patternRunRead _ => []
  | .patternRunCompletion _ _ => []
  | .rdlyallWrite _ _ => []
  | .wdlyallWrite _ _ => []
  | .thermalThrottle => []
  | .passageOfTime _ => []
  | .symbolsInError _ _ => []
  | .onChipStorageError _ => []
  | .readingBelowLimit => []
  | .tdispErrorTransition _ => []
  | .lshareWrite _ _ _ => []
  | .hostLinkTraining _ => []

/-! ## The opcode table's words -/

/-- How many bits of a row are fixed: its opcode and the bits that must be zero. -/
def Row.fixed (r : Row) (w v : Word) : Nat :=
  ((List.range 32).filter (fun i => r.zero0.getLsbD i && !w.getLsbD i)).length +
    (if r.two then ((List.range 32).filter (fun i => r.zero1.getLsbD i && !v.getLsbD i)).length else 0)

/-- The class among `l` in which the words decode to the instruction with the most fixed bits: an opcode means
unrelated instructions in different classes (02 R44), and a bare word does not say its class. -/
def pickClass (w v : Word) : List Nat → Option (Nat × Nat) → Option (Nat × Nat)
  | [], best => best
  | c :: l, best =>
    match rowOf c w v, decode c w (some v) with
    | some r, .ok _ _ =>
      match best with
      | none => pickClass w v l (some (c, r.fixed w v))
      | some (b, n) => pickClass w v l (if n < r.fixed w v then some (c, r.fixed w v) else some (b, n))
    | _, _ => pickClass w v l best

/-- The class taken for a bare word of the opcode table. -/
def tableClass (w v : Word) : Option Nat := (pickClass w v [0, 1, 3, 5, 4, 2, 6, 7] none).map Prod.fst

/-- The instruction of a bare word of the opcode table: bit 0 of `w` is bit 0 of the first word, the second word's
bits count on from 32, and bits from `nbits` up are zero. The choice of its class: DESIGN CHOICE, log entry 1. -/
def decodeTableWord (nbits w : Nat) : Option Instr :=
  let x := BitVec.ofNat 32 (w % 2 ^ nbits)
  let y := BitVec.ofNat 32 (w % 2 ^ nbits / 2 ^ 32)
  match tableClass x y with
  | none => none
  | some c =>
    match decode c x (some y) with
    | .ok i _ => some i
    | .illegal _ => none

end Sys2Proof
end

