-- ==== Sys2Proof/Config.lean ====
section
/-!
DEFINITION. Sys2Proof/Config.lean: what one device fixes and what the spec leaves open. A constant without a body is
a free value: nothing can be proved of it beyond its type. Log entries 12, 14, 15, 19, 22, 23, 25, 26, 30, 31, 32,
33, 34, 37, 39, 43, 45, 46, 50, 52, 55, 57 and 58 say where each is used.
-/
namespace Sys2Proof.Config

/-- A free natural number per draw: the lease λ (11 R276), the use of an evictable copy or translation (07 R174,
05 R129), a new TID (08 R200). -/
opaque freeNat : Nat → Nat
/-- A free 64-bit value per draw: CKID, PID and identifiers from the DRBG (21 R460, 22 R466). -/
opaque freeWord : Nat → BitVec 64
/-- The contents of a tile word before TZERO or TLOAD (01 R13), by team and word. -/
opaque undefTile : Nat → Nat → BitVec 32
/-- RECV words that a lost link leaves undefined (09 R247), by draw and word. -/
opaque undefRecv : Nat → Nat → BitVec 32
/-- A byte of host memory as a read through the host window finds it (18 R411), by draw and device physical address. -/
opaque hostByte : Nat → Nat → BitVec 8
/-- The F field of the NaN scale that DRAIN writes in BS24 form: the spec gives E = 255 alone (04 R89, R104). -/
opaque nanScale : BitVec 16
/-- SHA-384 (17 R398). -/
opaque sha384 : List (BitVec 8) → BitVec 384
/-- The ECDSA P-384 signature under the alias key, which comes from the firmware's measurement and its security version
(17 R397, 22 R467). -/
opaque aliasSign : BitVec 384 → BitVec 32 → List (BitVec 8) → BitVec 768
/-- The certificates of slot 0: Ibgan's root, the DeviceID certificate, and the alias certificate of a firmware's measurement
and security version (17 R397). -/
opaque rootCert : List (BitVec 8)
opaque deviceIdCert : List (BitVec 8)
opaque aliasCert : BitVec 384 → BitVec 32 → List (BitVec 8)
/-- Whether SIG verifies under the firmware key (23 R475). -/
opaque firmwareSigOk : List (BitVec 8) → Bool
/-- Whether the certificate chain and the import-key statement at two addresses verify (21 R459), by draw. -/
opaque statementOk : Nat → Nat → Nat → Bool
/-- The security versions in the statement at an address (21 R459); its layout is not stated. -/
opaque statementVersions : Nat → Nat → Nat × Nat
/-- The digest of measurement 1 to 3 in an import-key statement (21 R459). -/
opaque statementDigest : Nat → Nat → Nat → BitVec 384
/-- The bytes of the statement that IMPORT_KEY writes, signed with the alias key (21 R459): by world, draw of the key pair,
digests of measurements 1 to 3, and both security versions. -/
opaque importStatement : Nat → Nat → List (BitVec 8) → BitVec 32 → BitVec 32 → List (BitVec 8)
/-- A byte of a stream chunk's PAYLOAD as enciphered under the checkpoint key of a draw, then of its TAG from 1024 on, by
associated data, plain payload and place (21 R460). -/
opaque sealByte : Nat → List (BitVec 8) → List (BitVec 8) → Nat → BitVec 8
/-- A byte of the PAYLOAD of a stream's header, by draw, policy, alias chain and place (21 R460): its layout is not stated. -/
opaque headerByte : Nat → List (BitVec 8) → List (BitVec 8) → Nat → BitVec 8
/-- The opened form of a received chunk under the import key of a draw: none where its TAG fails (21 R461). -/
opaque openChunk : Nat → List (BitVec 8) → Option (List (BitVec 8))
/-- Whether the header chunk verifies under the import key of a draw, and its policy holds for the digests of measurements 1
to 3 and both security versions of this device (21 R461). -/
opaque streamHeaderOk : Nat → List (BitVec 8) → List (BitVec 8) → BitVec 32 → BitVec 32 → Bool
/-- Whether the layout at an operand descriptor names an index list (12 R299): the record does not say; by its bytes. -/
opaque layoutIndexed : List (BitVec 8) → Bool
/-- The answers of the SPDM responder to a request without a row of its own (17 R397). -/
opaque spdmAnswer : Nat → List (BitVec 8)
/-- The report of GET_DEVICE_INTERFACE_REPORT (17 R378): its contents are TDISP's. -/
opaque interfaceReport : Nat → List (BitVec 8)
/-- The bytes of measurement 1: the ROM is the part's own (17 R398). -/
opaque romImage : List (BitVec 8)
/-- The entry clause of the firmware lock-keeper (16 R351); the spec gives no address. -/
opaque firmwareLockkeeper : BitVec 64

/-- The bytes of a context image's part whose layout is not stated (21 R450), by draw and offset. -/
opaque partByte : Nat → Nat → BitVec 8
/-- What a context image does not hold of the teams of another device (21 R461), by draw and number: the fields of their launch,
the record of a held trap, the frames that stood in the spill area. -/
opaque imported : Nat → Nat → BitVec 64
/-- The contents of a TDISP response (17 R378), by request and function: they are TDISP's. -/
opaque tdispAnswer : Nat → Nat → List (BitVec 8)

/-- Which of its owner's L2 ways a line takes, by line (17 R375). -/
opaque wayOf : Nat → Nat
/-- The slice of its die that homes a line: the hash is not stated (11 R284). -/
opaque sliceOf : Nat → Nat

/-- The port that the hash of a source, a destination and a communicator selects (18 R401): the hash is not stated. -/
opaque portHash : BitVec 12 → BitVec 12 → BitVec 32 → Nat
/-- Whether a flit's TAG verifies under a key (18 R403). -/
opaque flitTagOk : BitVec 256 → List (BitVec 8) → Bool
/-- A 256-bit value of a draw by its number there: K1, K2 and KM of a key set (17 R394). -/
opaque keyBits : Nat → Nat → BitVec 256

/-- The entries of a slice's range table, less one: its size is not stated (09 R234). -/
opaque rangeEntries : Nat

end Sys2Proof.Config
end

