-- ==== Sys2Proof/Machine/Map.lean ====
section
/-!
DEFINITION. Sys2Proof/Machine/Map.lean: sparse data by number, in one canonical form: keys strictly rising and no
entry equal to what an unlisted key reads as.
-/
namespace Sys2Proof.Machine

/-- The value at key `k`, `d` where nothing is listed. -/
def mapGet {α : Type} (d : α) : List (Nat × α) → Nat → α
  | [], _ => d
  | (j, v) :: m, k => if k = j then v else mapGet d m k

/-- The map with key `k` unlisted. -/
def mapDel {α : Type} : List (Nat × α) → Nat → List (Nat × α)
  | [], _ => []
  | (j, v) :: m, k => if k = j then mapDel m k else (j, v) :: mapDel m k

/-- The map with `v` listed at key `k`. -/
def mapIns {α : Type} : List (Nat × α) → Nat → α → List (Nat × α)
  | [], k, v => [(k, v)]
  | (j, u) :: m, k, v =>
    if k = j then (k, v) :: m else if k < j then (k, v) :: (j, u) :: m else (j, u) :: mapIns m k v

/-- The map with `v` at key `k`: an entry equal to the unlisted value is removed. -/
def mapSet {α : Type} [DecidableEq α] (d : α) (m : List (Nat × α)) (k : Nat) (v : α) : List (Nat × α) :=
  if v = d then mapDel m k else mapIns m k v

/-- The canonical form from a lower bound on the keys. -/
def mapCanonFrom {α : Type} [DecidableEq α] (d : α) : Nat → List (Nat × α) → Bool
  | _, [] => true
  | lo, (k, v) :: m => decide (lo ≤ k) && decide (v ≠ d) && mapCanonFrom d (k + 1) m

/-- Keys strictly rising, no entry equal to the unlisted value. -/
def mapCanon {α : Type} [DecidableEq α] (d : α) (m : List (Nat × α)) : Bool := mapCanonFrom d 0 m

/-- The first entry of a list with a key, by a key function's value. -/
def findBy {α : Type} (f : α → Bool) : List α → Option α
  | [] => none
  | a :: l => if f a then some a else findBy f l

/-- Every entry that a test picks, replaced. -/
def updBy {α : Type} (f : α → Bool) (g : α → α) : List α → List α
  | [] => []
  | a :: l => (if f a then g a else a) :: updBy f g l

/-- The entries that a test does not pick. -/
def dropBy {α : Type} (f : α → Bool) : List α → List α
  | [] => []
  | a :: l => if f a then dropBy f l else a :: dropBy f l

end Sys2Proof.Machine
end

