-- ==== Sys2Proof/Machine/State.lean ====
section
/-!
DEFINITION. Sys2Proof/Machine/State.lean: everything the spec gives the machine, as plain data, and the machine right
after power-on reset. Sparse data is a list of numbered entries in canonical form; what an unlisted entry reads as
stands beside the field.
-/
namespace Sys2Proof.Machine

/-- Why the machine stops. -/
inductive Fault where
  /-- An instruction word with no clause of its class being issued. Raised by every meaning of an instruction word
  when `State.cur` names no group or block standing at such a word, which no step does. Safe: the machine stops. -/
  | noClause
deriving DecidableEq, Repr

/-- Why a step has no meaning. -/
inductive Refusal where
  /-- The instruction's meaning is not written. Raised by Dispatch only. Safe: the machine stops. -/
  | notModelled (mnemonic : String)
deriving DecidableEq, Repr

/-! ## Registers, frames and groups (01, 08, 10) -/

/-- One lane's V register with its poison tag (01 R13, R14); an unlisted register is zero and clear (R16). -/
structure Reg where
  val    : Word
  poison : Bool
deriving DecidableEq, Repr

/-- An S register with its poison tag (01 R13, R14). -/
structure SReg where
  val    : DWord
  poison : Bool
deriving DecidableEq, Repr

/-- What the return from a trap frame needs (20 R439, R440): whether the record was HEADER or ASYNC, the index of the
faulting word and of the word after the faulting instruction, the words of the clause, and the barrier at the head of the
clause, of a gang or a team, that has completed for the group and has not let it pass (08 R204). -/
structure TrapPoint where
  header : Bool
  idx    : Nat
  after  : Nat
  words  : Nat
  bar    : Option (Bool × Nat)
deriving DecidableEq, Repr

/-- A frame shared by its members (08 Frames): the lanes whose chains name `fid`. `born` orders allocation; `rets` and
`points` hold the return addresses and the trap points of single lanes that a `REGROUP` brought in with one of their own
(10 R262). -/
structure Frame where
  fid     : Nat
  count   : Nat
  ret     : DWord
  trap    : Option TrapPoint
  spilled : Bool
  born    : Nat
  rets    : List (Nat × DWord) := []
  points  : List (Nat × Option TrapPoint) := []
deriving DecidableEq, Repr

/-- A lane's own registers in one frame of its chain. -/
structure LaneFrame where
  fid  : Nat
  regs : List (Nat × Reg)
deriving DecidableEq, Repr

/-- A lane of a group: PCV (01 R19), TID (R23), P0 to P6 (R13), SRS (04 R94), its frame chain from the current frame
down, and the resume index a RET from a trap frame left (10 R253), with the frame it left in `back`, 0 where there is
none. -/
structure Lane where
  pcv    : DWord
  tid    : Word
  preds  : BitVec 7
  srs    : Word
  chain  : List LaneFrame
  resume : Option Nat
  back   : Nat
deriving DecidableEq, Repr

/-- PCV of a lane that has exited or was never launched (01 R19). -/
def exitPc : DWord := 0xFFFFFFFFFFFFFFFC#64

/-- A lane without a thread: what an unlisted lane reads as. -/
def Lane.none : Lane := ⟨exitPc, 0#32, 0#7, 0#32, [], Option.none, 0⟩

/-- A Q register's binding (08 R210); an unlisted Q register is unbound. -/
structure QBind where
  obj      : Nat
  producer : Bool
deriving DecidableEq, Repr

/-- How a group came to be (08 R201, R215; 10 R270). -/
inductive GroupKind where
  | launched | spawned
  | task (task : Nat) (walk : Bool) (i j k : Nat)
deriving DecidableEq, Repr

/-- The operand latch of REUSE (09 R225): its fields, the code of element k of row m at 256 m + k, and the poisoned
rows. -/
structure Latch where
  asrc  : BitVec 1
  a     : BitVec 7
  la    : BitVec 5
  fmta  : BitVec 4
  shape : BitVec 3
  codes : List (Nat × Nat)
  poison : BitVec 128
deriving DecidableEq, Repr

/-- The clause a group is issuing (02 R34, R41): header address, class, SETA, SETB, the words after the header as
fetched, the index of the next word, and the lanes still in the clause. -/
structure Issue where
  hdr   : DWord
  cls   : Nat
  seta  : Nat
  setb  : Nat
  words : List Word
  idx   : Nat
  lanes : Mask
deriving DecidableEq, Repr

/-- The 64-byte error record (20 R435). -/
structure Record where
  cause  : BitVec 8
  detail : BitVec 8
  lane   : BitVec 8
  flags  : BitVec 8
  index  : BitVec 32
  pc     : BitVec 64
  addr   : BitVec 64
  mask   : BitVec 64
  aux    : BitVec 64
  seq    : BitVec 32
  link   : BitVec 32
  gridid : BitVec 32
  origin : BitVec 32
  teamlo : BitVec 32
  resume : BitVec 32
deriving DecidableEq, Repr

/-- A trap whose frame is not yet allocated (20 R439): its record, members and return point. -/
structure PendingTrap where
  record  : Record
  members : Mask
  hdr     : DWord
  point   : TrapPoint
deriving DecidableEq, Repr

/-- What a frame request is for (10 R263): a call with the count it declares. -/
inductive FrameUse where
  | call (count : Nat) | trap (t : PendingTrap) | restore (fid : Nat)
  /-- The return of a swapped-out group, with the granules and count of the `CALL` it waited in, if any. -/
  | swapIn (back : Option (Nat × Nat))
deriving DecidableEq, Repr

/-- A frame request: the cycle its wait began, its granules, and whether it has been served. -/
structure FrameReq where
  age      : Nat
  granules : Nat
  use      : FrameUse
  served   : Bool
deriving DecidableEq, Repr

/-- A kernel descriptor (16 R354). -/
structure Kernel where
  entry   : DWord
  trapent : DWord
  frame   : Nat
  groups  : Nat
  tiles   : Nat
  scratch : Nat
  bins    : Nat
  queues  : Nat
  qkind   : BitVec 16
  timer   : Nat
  attr    : BitVec 16
deriving DecidableEq, Repr

/-- A launch record's fields after its checks (16 R353). -/
structure Launch where
  target : DWord
  gx     : Nat
  gy     : Nat
  gz     : Nat
  gang   : Nat
  prio   : Nat
  attr   : BitVec 16
  poolcap : Nat
  args   : DWord
  ctr    : DWord
  cinc   : DWord
deriving DecidableEq, Repr

/-- The body of a graph node as snapshot (16 R365, R366). -/
inductive NodeBody where
  | grid (l : Launch) (k : Kernel)
  | copy (src dst : DWord) (len : Nat)
  | bankcall (addr : DWord) (bytes : List Byte) (poison : Bool)
  | coll (kind : Nat) (addr : DWord) (bytes : List Byte)
deriving DecidableEq, Repr

/-- What a `LAUNCH` that waits for room in its queue read at its second step (08 R216): a grid, or a graph's nodes and
edges, and the logical time of the read. -/
inductive LaunchRead where
  | grid (l : Launch) (k : Kernel) (time : Nat)
  | graph (l : Launch) (nodes : List NodeBody) (edges : List (Nat × Nat)) (time : Nat)
deriving DecidableEq, Repr

/-- The recorded effect of a group instruction that waits (08 R190, R202, R203). -/
inductive Waiting where
  | no
  | barrier (gang : Bool) (n : Nat) (done : Bool)
  | regroup
  | spawn (since : Nat)
deriving DecidableEq, Repr

/-- An entry of a queue object (01 R21, 05 R124): one 64-bit value, or 64 lanes of 32 bits; poison is the entry's as a whole
(20 R433). -/
structure QEntry where
  words  : List Word
  poison : Bool
  clock  : Nat
deriving DecidableEq, Repr

/-- Where the bytes of an access stand once its address is resolved (07 R164, 11 R273). -/
inductive Loc where
  | mem (pa : Nat)
  | ro (pa : Nat)
  | vert (pa : Nat)
  /-- A scratchpad byte, and whether path 0x3 named it. -/
  | scr (gang : Bool) (team offset : Nat)
  /-- A decoded view word: FMT, SCK, the bit offset of the element in its bytes, the element's and the scale's bytes. -/
  | view (fmt : Nat) (sck : Bool) (bit : Nat) (elem scale : List Nat)
deriving DecidableEq, Repr

/-- A group (01 R13; 08; 10). Unlisted: lanes without a thread, S registers zero and clear, Q registers unbound,
flags 0, J registers 0. `popped` holds the queue entries the present instruction has popped (R21), `passed` the bytes of
each lane's access once the present instruction has passed its checks and waits (07 R175), `atoms` the old values of the
lanes of an `ATOM` whose addresses have been performed (R177), `launching` what a `LAUNCH` read (08 R216). `request` is
the frame request of a `CALL`, a trap entry or a swapped-out group's return, `restores` those of returns into spilled
frames (10 R263); `since` is the cycle at which its wait began (R265). `faults` holds the SEQ of the record of each open
trap frame, `lapsed` that of a trap whose lanes exited without resuming (08 R213). `second` is the address of the clause
that the second fetch port pairs with the one being issued, with its lanes (10 R255). `tried` is the word that a group
being stopped was at when it last ran (21 R448). -/
structure Group where
  gid     : Nat
  core    : Nat
  slot    : Nat
  world   : Nat
  team    : Nat
  grid    : Nat
  kind    : GroupKind
  lanes   : List (Nat × Lane)
  sregs   : List (Nat × SReg)
  cregs   : BitVec 4
  qregs   : List (Nat × QBind)
  flags   : List (Nat × Nat)
  jregs   : List (Nat × Mask)
  lclock  : Nat
  lcfrac  : Nat
  gstat   : Word
  latch   : Option Latch
  frames  : List Frame
  issue   : Option Issue
  waiting : Waiting
  request : Option FrameReq
  held    : Option (BitVec 32)
  heldTrap : Option PendingTrap
  asyncs  : List Record
  spush   : Option Nat
  popped  : List QEntry
  swapped : Bool
  tlbinv  : Nat
  cmaint  : Nat
  restores : List FrameReq
  since   : Option Nat
  faults  : List (Nat × BitVec 32)
  lapsed  : Option (BitVec 32)
  second  : Option (DWord × Mask)
  passed  : Option (List (Nat × List Loc))
  atoms   : List (Nat × Nat)
  launching : Option LaunchRead
  tried   : Option (DWord × Nat) := none
deriving DecidableEq, Repr

/-! ## Operations in flight (02 R37, 09, 12) -/

/-- One lane's part of a load or store; lane 64 is the scalar engine. -/
structure LaneAcc where
  lane   : Nat
  fid    : Nat
  locs   : List Loc
  bytes  : List Byte
  poison : Bool
deriving DecidableEq, Repr

/-- A copy layout record as read at issue (09 R230). -/
structure CopyRec where
  elog : Nat
  order : Nat
  swz : Nat
  inner : Bool
  sync : Option Nat
  ctr : DWord
  cinc : Word
  brows : Nat
  bcols : Nat
  n0 : Nat
  n1 : Nat
  n2 : Nat
  grow : Int
  gst0 : Int
  gst1 : Int
  gst2 : Int
  list : Nat
  lrow : Nat
  lst0 : Nat
  lst1 : Nat
  lst2 : Nat
deriving DecidableEq, Repr

/-- A copy in a queue of the SCE (09 R233, 12 R295): `next` is the element to move, `clock` the copy's clock, `snap`
the bytes a check-out read at its one time (11 R290), `entry` the index block being moved and its list entry (12 R297), `lists`
every list entry that a check-in has read,
`doomed` the record of an unresolved miss that its check-out met at an element, at which the copy ends (09 R236). -/
structure Copy where
  load    : Bool
  indexed : Bool
  layout  : CopyRec
  recAddr : Nat
  mbase   : DWord
  sbase   : DWord
  chk     : Nat
  nowait  : Bool
  stream  : Option Nat
  checkin : Bool
  started : Bool
  next    : Nat
  buffer  : List (Byte × Bool)
  range   : Option (Nat × Nat)
  snap    : Option (List (Nat × (Byte × Bool)))
  clock   : Nat
  moved   : Nat
  task    : Option Nat
  opnd    : Nat
  held    : Option Record
  entry   : Option (Nat × Nat)
  doomed  : Option Record
  lists   : List (Nat × Nat) := []
deriving DecidableEq, Repr

/-- A bank command (09 R238): operation 0 ADD, 1 SCALE, 2 MAX, 3 EXPSUM, 4 FILL. -/
structure BankCmd where
  op    : Nat
  ty    : Nat
  team  : Nat
  dst   : Nat
  src   : DWord
  n     : Nat
  sync  : Option Nat
deriving DecidableEq, Repr

/-- A matrix pass (09 R223, R226): the tile's team and slot, the operands as read, the array(s) and the request. -/
structure MatrixOp where
  pair  : Bool
  team  : Nat
  follower : Nat
  slot  : Nat
  depth : Nat
  exact : Bool
  fmta  : Nat
  fmtb  : Nat
  acodes : List (Nat × Nat)
  bcodes : List (Nat × Nat)
  apoison : BitVec 128
  bpoison : BitVec 2
  prio  : Nat
  since : Nat
  granted : Bool
deriving DecidableEq, Repr

/-- A collective in flight (09 R246, R247): kind 0 ALLRED, 1 ALLGATH, 2 REDSCAT, 3 BCAST, 4 ALL2ALL. `known` says that
the communicator was open, `lost` that a link or the communicator was lost, `bad` that a translation was refused,
`finished` that STATUS is written and the counter is left to raise. `size` is the communicator's when it was issued,
`read` the elements of SEND read so far with their poison (18 R408), `wrote` the STATUS left to write once RECV has its
result, `closed` that the communicator was closed (R405). -/
structure Coll where
  kind  : Nat
  comm  : Word
  spec  : Word
  send  : DWord
  recv  : DWord
  count : Nat
  ctr   : DWord
  cinc  : DWord
  recAddr : Nat
  cseq  : Nat
  known : Bool
  lost  : Bool
  bad   : Bool
  finished : Bool
  held  : Option Record
  size  : Nat
  read  : List (Nat × (Nat × Bool))
  wrote : Option Nat
  closed : Bool
deriving DecidableEq, Repr

/-- What a long-latency operation does before it completes. -/
inductive OpKind where
  | load (dst : Nat) (width : Nat) (signed scalar : Bool) (accs : List LaneAcc)
  | store (width : Nat) (accs : List LaneAcc)
  | matrix (m : MatrixOp)
  | copy (c : Copy)
  | bank (b : BankCmd)
  /-- A MEMCALL with this many replies outstanding; `qobj` is its QREPLY queue. -/
  | memcall (left : Nat) (qobj : Option Nat)
  | coll (c : Coll)
  | task (t : Nat)
  /-- The whole effect has taken place. -/
  | plain
deriving DecidableEq, Repr

/-- An outstanding operation: its issuing group, the flag it counts on, whether its effect is in place, and the
greatest logical time of its accesses (11 R280). -/
structure Op where
  id    : Nat
  gid   : Nat
  core  : Nat
  world : Nat
  team  : Nat
  flag  : Option Nat
  kind  : OpKind
  done  : Bool
  time  : Nat
deriving DecidableEq, Repr

/-- The exact accumulator WACC (13 R322). -/
structure Wacc where
  sum  : BitVec 640
  nan  : Bool
  pinf : Bool
  ninf : Bool
  inv  : Bool
deriving DecidableEq, Repr

/-- The context of a KERNEL command (09 R248): registers, carry row, row bases, WACC, poison tags, the page of XA, and
where it stands: the clause words, the current clause's first word and end, the next word, and a running BLOOP; `time` is
the command's in the coherent order (13 R325). Rows
written stay here with their tags until the command ends, so that a command that faults has no effect (R244). -/
structure RowCtx where
  x     : List (Nat × BitVec 8192)
  cy    : BitVec 8192
  bases : List (Nat × Nat)
  wacc  : Wacc
  wpois : Bool
  xpois : BitVec 8
  page  : Nat
  scal  : Word
  words : List Word
  first : Nat
  stop  : Nat
  pos   : Nat
  loop  : Option (Nat × Nat × Nat)
  rows  : List (Nat × (BitVec 8192 × Bool))
  time  : Nat
deriving DecidableEq, Repr

/-- One command of a block (09 R242), as its 32 bytes give it. -/
structure Cmd where
  op   : Nat
  fmt  : Nat
  zero : Bool
  len  : Nat
  xa   : DWord
  ya   : DWord
  scal : Word
deriving DecidableEq, Repr

/-- Where a block stands: sent, running its commands, answered by a reply that is not yet delivered, delivered but for
its addition to the counter. -/
inductive BlockStage where
  | sent | running | answered | delivered
deriving DecidableEq, Repr

/-- A command block at the row sequencer of pseudo-channel `rsq` (09 R241 to R245): its caller (operation, group, core,
team, lane, frame, J if parked, queue), the sync word and counter to raise, its commands with the physical operands of
an ATOMIC block (R244), the command it is at, its answer so far, and the graph node it runs for; `read` is the time at
which it was read, `time` the greatest so far, `order` the number of its answer (13 R328). -/
structure Block where
  id     : Nat
  op     : Nat
  gid    : Nat
  core   : Nat
  world  : Nat
  team   : Nat
  lane   : Nat
  fid    : Nat
  dst    : Nat
  parked : Option Nat
  qobj   : Option Nat
  sync   : Option (Nat × Nat)
  ctr    : DWord
  addr   : Nat
  atomic : Bool
  cmds   : List Cmd
  plans  : List (Nat × Nat)
  rsq    : Nat
  stage  : BlockStage
  idx    : Nat
  status : Nat
  result : Word
  rpois  : Bool
  time   : Nat
  row    : Option RowCtx
  held   : Option Record
  graph  : Option (Nat × Nat)
  read   : Nat
  order  : Nat
deriving DecidableEq, Repr

/-! ## Teams, gangs, queues, tasks and grids (08, 10, 12, 16) -/

/-- A thread record of a spawn bin (08 R200). -/
structure BinRec where
  tid     : Word
  payload : Reg
  posted  : Nat
deriving DecidableEq, Repr

/-- A spawn bin (08 R200, R201): its key, none when free, its records oldest first, whether its timer has expired. -/
structure Bin where
  key  : Option DWord
  recs : List BinRec
  due  : Bool
deriving DecidableEq, Repr

/-- The mode of a tile slot (09 R221). -/
inductive TileMode where
  | f | xl | xh
deriving DecidableEq, Repr

/-- The hidden state of a tile slot (09 R221). -/
structure TileState where
  mode   : TileMode
  nv     : Bool
  poison : BitVec 128
deriving DecidableEq, Repr

/-- A team (16 R358): its core, TEAMID, gang, allocations. Scratchpad bytes are numbered by their offset in the
allocation and their poison by word; tile words by 16384 slot + word, none where undefined; phase clocks by the sync
word's offset (11 R277); `rels` the clocks that `REL`s have carried to words by their offset (07 R183); `past` the GRPID of
each group that has ended (20 R435). -/
structure Team where
  key     : Nat
  grid    : Nat
  world   : Nat
  core    : Nat
  slot    : Nat
  teamid  : Nat
  gang    : Nat
  kernel  : Kernel
  args    : DWord
  scratch : List Host.Cell
  spoison : List (Nat × Bool)
  tiles   : List (Nat × Option Word)
  tstate  : List (Nat × TileState)
  phase   : List (Nat × Nat)
  bins    : List Bin
  error   : Bool
  rels    : List (Nat × Nat) := []
  past    : List (Nat × Nat) := []
deriving DecidableEq, Repr

/-- The producer side of a queue object (08 R211, 10 R259). -/
inductive Producer where
  | never | group (gid : Nat) | stream (op : Nat) | replies (op : Nat) | closed | faulted (seq : BitVec 32)
deriving DecidableEq, Repr

/-- A queue object of a gang (10 R259). -/
structure Queue where
  gang     : Nat
  obj      : Nat
  vector   : Bool
  entries  : List QEntry
  producer : Producer
  consumer : Option Nat
  drained  : Bool
deriving DecidableEq, Repr

/-- The stages of a tile task (12 R301); `draining` while its output copies run, `arriving` while its arrival is held
(R304). -/
inductive TaskStage where
  | posted | entered | buffered | inputs | ready | running | outputs | draining | arriving
deriving DecidableEq, Repr

/-- An operand descriptor as read when the task was posted (12 R299): its record, use (1 in, 2 out, 3 both). -/
structure Operand where
  use   : Nat
  layout : CopyRec
  indexed : Bool
  mbase : DWord
  stepI : Int
  stepJ : Int
  stepK : Int
  lbase : Nat
  lstep : Nat
  nbuf  : Nat
deriving DecidableEq, Repr

/-- A tile task (09 R237, 12 R301): its walk's number if a walk posted it, the tag of its indices; `sent` operands have
been looked at for a copy in the present direction. -/
structure Task where
  id    : Nat
  core  : Nat
  team  : Nat
  gid   : Nat
  walk  : Option Nat
  poison : Bool
  op    : Option Nat
  recAddr : Nat
  entry : DWord
  arg   : DWord
  i     : Nat
  j     : Nat
  k     : Nat
  opnds : List Operand
  sync  : Nat
  stage : TaskStage
  buf   : Nat
  age   : Nat
  clock : Nat
  body  : Option Nat
  failed : Bool
  sent  : Nat
deriving DecidableEq, Repr

/-- A core's tile walker (10 R269). -/
structure Walk where
  id    : Nat
  core  : Nat
  clock : Nat
  team  : Nat
  gid   : Nat
  recAddr : Nat
  e0    : Nat
  e1    : Nat
  e2    : Nat
  sync  : Nat
  opnds : List Operand
  entry : DWord
  arg   : DWord
  posted : List Nat
  failed : Bool
deriving DecidableEq, Repr

/-- A grid (16 R356, R363). `launcher` is the launcher's clock (11 R277), `cluster` the cluster of a SERVICE grid,
`node` the graph node it runs for, `base` the polder's meters when the launch began (05 R125), `clock` the greatest time
of its groups and operations, `error` whether a team of it ended with a recorded error, `held` a held counter fault. -/
structure Grid where
  key     : Nat
  world   : Nat
  gridid  : Word
  prio    : Nat
  strict  : Bool
  ftz     : Bool
  kernel  : Kernel
  gx      : Nat
  gy      : Nat
  gz      : Nat
  gang    : Nat
  args    : DWord
  ctr     : DWord
  cinc    : DWord
  poolcap : Nat
  next    : Nat
  ended   : Nat
  launcher : Nat
  cluster : Option Nat
  node    : Option (Nat × Nat)
  keeper  : Bool
  desc    : DWord
  base    : List (Nat × Nat)
  clock   : Nat
  error   : Bool
  held    : Option Record
deriving DecidableEq, Repr

/-- A node's progress (16 R367); `queued` is ready, behind others in the queue of the graph's priority. -/
inductive NodeState where
  | waiting | queued | running | completed | failed | cancelled
deriving DecidableEq, Repr

/-- A graph node: its progress, the number by which its operation, block or grid is known, the bytes a COPY has moved,
whether an error was recorded for it, the greatest time of its effects, and a held fault of a COPY. -/
structure Node where
  body  : NodeBody
  state : NodeState
  key   : Nat
  next  : Nat
  bad   : Bool
  clock : Nat
  held  : Option Record
deriving DecidableEq, Repr

/-- A graph launch (16 R366 to R368); `clock` is the launcher's, then the greatest time of its nodes' effects, `held` a
held fault of its counter. -/
structure Graph where
  key    : Nat
  world  : Nat
  target : DWord
  prio   : Nat
  reent  : Bool
  ctr    : DWord
  cinc   : DWord
  nodes  : List Node
  edges  : List (Nat × Nat)
  clock  : Nat
  cluster : Option Nat
  held   : Option Record
deriving DecidableEq, Repr

/-- An entry of a launch queue (16 R356): a grid or a graph by its key, and when its head began not to fit. -/
structure LaunchEntry where
  world : Nat
  prio  : Nat
  graph : Bool
  key   : Nat
  since : Nat
  reserving : Bool
deriving DecidableEq, Repr

/-! ## Memory state beside the bytes (05, 07, 11, 20) -/

/-- What stands in a line's codeword beside its data (20 R429): the poison mark and symbols in error. -/
structure LineState where
  marked : Bool
  errs   : List (Nat × BitVec 8)
deriving DecidableEq, Repr

/-- What HBM holds of a line that the L2 holds dirty, with the key set of that codeword (17 R395), and the L2 way of the
line (17 R375). -/
structure DirtyLine where
  cells : List Host.Cell
  was   : LineState
  key   : Nat
  way   : Nat
deriving DecidableEq, Repr

/-- An L1 copy of an atom with its lease (11 R276), or of a line or view word without one (R273). -/
structure Copied where
  bytes  : List Byte
  poison : Bool
  wts    : Nat
  rts    : Nat
deriving DecidableEq, Repr

/-- A merge unit's partial for one word (07 R178). -/
inductive Partial where
  | word (v : DWord)
  | xs (sum : BitVec 320) (nan pinf ninf poison : Bool)
deriving DecidableEq, Repr

/-- An atom in U state (11 R286): its tag, and each holder cluster with its partials by word index and last use; holder
48 stands for exact totals that merge units have evicted (07 R180). -/
structure UAtom where
  atom    : Nat
  tag     : Nat
  holders : List (Nat × (Nat × List (Nat × Partial)))
  bad     : List Nat
  time    : Nat
deriving DecidableEq, Repr

/-- An entry of the sync-variable table (11 R284); `stamp` orders use. -/
structure SyncVar where
  atom   : Nat
  world  : Nat
  writer : BitVec 16
  scope  : BitVec 2
  stamp  : Nat
deriving DecidableEq, Repr

/-- A checked-out range of physical lines (09 R234): first and last line, X or S, the team and copy that hold it, and
their launch. -/
structure Range where
  lo   : Nat
  hi   : Nat
  excl : Bool
  team : Nat
  op   : Nat
  grid : Nat
deriving DecidableEq, Repr

/-- A translation kept by a translation cache (05 R129): the agent (core 0 to 191, 192 + p for a row sequencer, 704 for
the device's other walkers), the 64 KiB page and what it maps to; `log1` and `log2` are the sizes of the pages of each
stage, `log` the lesser; `marks` the groups whose `TLBINV` named it, 0 for a virtual function's INVCTL. -/
structure TlbEntry where
  agent : Nat
  world : Nat
  page  : Nat
  ia    : Nat
  pa    : Nat
  r     : Bool
  w     : Bool
  x     : Bool
  vert  : Bool
  near  : Bool
  log   : Nat
  stale : Bool
  log1  : Nat
  log2  : Nat
  marks : List Nat
deriving DecidableEq, Repr

/-- A tag-table entry (07 R185), with the launch that inserted it. -/
structure TagEntry where
  valid : Bool
  key   : Word
  slot  : Word
  grid  : Nat
deriving DecidableEq, Repr

/-! ## Polders and the Trust Controller (17, 20, 21, 22) -/

/-- The polder states, PSTATE codes 0 to 6 (17 R379, R390). -/
inductive PolderState where
  | free | creating | unlocked | locked | run | quarantined | releasing
deriving DecidableEq, Repr

/-- A team saved by SUSPEND or SHRINK (21 R450): what its section holds, the virtual address and the bytes of the
section, when it was saved, and the virtual address of its image's header. -/
structure Saved where
  team   : Team
  groups : List Group
  ops    : List Op
  tasks  : List Task
  walk   : Option Walk
  tags   : List (Nat × TagEntry)
  queues : List Queue
  image  : Nat
  bytes  : List Byte
  since  : Nat
  header : Nat := 0
deriving DecidableEq, Repr

/-- An open sluice (21 R454): whether it is a STREAM, whether its addresses are world 60's, its sources and destinations by
ascending source with the ordinal of each in PCLIST, a STREAM's policy, its dirty rows (by 2^20 × ordinal + row): those from `upto` on and those of `again`; its block, ring, checkpoint
identifier, next chunk and key. -/
structure Sluice where
  stream  : Bool
  own     : Bool
  pairs   : List (Nat × Nat)
  ords    : List Nat
  policy  : List Byte
  upto    : Nat
  again   : List Nat
  block   : Nat
  ring    : Nat
  ringsize : Nat
  ckid    : Word
  chunk   : Nat
  draw    : Nat
deriving DecidableEq, Repr

/-- The progress of an IMPORT (21 R461): the key's draw, the next SEQ, how it stands, the context images named. -/
structure ImportState where
  draw   : Nat
  nextSeq : Nat
  failed : Bool
  done   : Bool
  images : List Nat
deriving DecidableEq, Repr

/-- A polder: its state (`stopping` since when a SUSPEND stops its groups, `shrink` since when a SHRINK does so for a
mask of clusters, with its mask of channels, `byStop` whether TDISP began its release, `quar` whether it was then
quarantined), its function's registers (17 R390, 20 R432), meters (22 R463) and the
greatest values `MRD` has returned (05 R125), identity and what the Trust
Controller keeps of it. -/
structure Polder where
  state   : PolderState
  rngbad  : Bool
  susp    : Bool
  stopping : Option Nat
  shrink  : Option (Nat × Nat × Nat)
  s2root  : DWord
  s1root  : DWord
  lkdesc  : DWord
  lkargs  : DWord
  spillbase : DWord
  spillsize : DWord
  fbbase  : DWord
  fbsize  : DWord
  spillwait : DWord
  invaddr : DWord
  invkind : Bool
  invgo   : Bool
  fbhead  : DWord
  fbtail  : DWord
  wfault  : Bool
  lost    : Word
  cecnt   : DWord
  uecnt   : DWord
  seq     : BitVec 32
  waitrec : List Record
  meters  : List (Nat × Nat)
  shown   : List (Nat × Nat)
  gridid  : Word
  pid     : DWord
  measseq : DWord
  dbgopen : Word
  keys    : Bool
  keydraw : Nat
  ide     : Bool
  sealed  : Option (List (Nat × Nat))
  imported : Bool
  importing : Option ImportState
  sluice  : Option Sluice
  saved   : List Saved
  lkended : Bool
  byStop  : Bool
  quar    : Bool
deriving DecidableEq, Repr

/-- A polder in FREE, as at reset (17 R379, R390; 20 R432). -/
def Polder.reset : Polder :=
  { state := .free, rngbad := false, susp := false, stopping := none, shrink := none,
    s2root := 0#64, s1root := 0#64,
    lkdesc := 0#64, lkargs := 0#64, spillbase := 0#64, spillsize := 0#64, fbbase := 0#64, fbsize := 0#64,
    spillwait := 16384#64, invaddr := 0#64, invkind := false, invgo := false, fbhead := 0#64, fbtail := 0#64,
    wfault := false, lost := 0#32, cecnt := 0#64, uecnt := 0#64, seq := 1#32, waitrec := [], meters := [], shown := [],
    gridid := 0#32, pid := 0#64, measseq := 0#64, dbgopen := 0#32, keys := false, keydraw := 0, ide := false,
    sealed := none, imported := false, importing := none, sluice := none, saved := [], lkended := false, byStop := false, quar := false }

/-- A mailbox (17 R380). -/
structure Mailbox where
  go    : Bool
  world : BitVec 6
  op    : BitVec 8
  arg   : DWord
  code  : BitVec 8
  lstat : BitVec 8
deriving DecidableEq, Repr

/-- The Trust Controller's registers: mailboxes in service order, slice map and its status, RNGSTAT, the physical
function's fault buffer, debug and boot registers (17 R372 to R392, 20 R485, 22 R470, 23 R474), and what it keeps: the
firmware accepted, the fuses, the release records (22 R467), the records that wait for a range under X over the physical
function's ring with their worlds, the mode that a debug wipe in progress will set. Fields that nothing reads: DESIGN CHOICE, log entry 52. -/
structure Trust where
  mbox0   : Mailbox
  mbox60  : Mailbox
  order   : List Bool
  smstat  : BitVec 4
  fails   : BitVec 16
  retest  : Bool
  ok      : Bool
  drbg    : Bool
  pfbbase : DWord
  pfbsize : DWord
  pfbhead : DWord
  pfbtail : DWord
  waddr   : Bool
  pflost  : Word
  pfseq   : BitVec 32
  pfwait  : List (Nat × Record)
  mode    : BitVec 2
  wiping  : Bool
  wipeto  : BitVec 2
  blocked : Bool
  lcs     : BitVec 1
  dbgerr  : Bool
  dbgworld : BitVec 6
  dbgia   : BitVec 53
  dbgdata : DWord
  boot    : BitVec 4
  reason  : BitVec 8
  bootlen : Word
  image   : List Byte
  tcsvn   : Word
  fwsvn   : Word
  fusetc  : Word
  fusefw  : Word
  vfs     : Bool
  keys    : Bool
  keydraw : Nat
  records : List (Nat × List Byte)
deriving DecidableEq, Repr

/-- A Chaluza Link port (18 R401, R403): EN, LSTAT, counters, failed trainings in a row, the LSEQ it expects, the
lowest LSEQ not acknowledged to it and the replays of that flit. DEDUCED, log entry 31. -/
structure Port where
  en      : Bool
  stat    : BitVec 2
  peer    : BitVec 12
  pport   : BitVec 5
  replays : Word
  tagerr  : Word
  bad     : Nat
  rxseq   : Word
  acked   : Word
  tries   : Nat
deriving DecidableEq, Repr

/-- A port at reset (18 R401). -/
def Port.reset : Port := ⟨false, 0#2, 0#12, 0#5, 0#32, 0#32, 0, 0#32, 0#32, 0⟩

/-- An open communicator (18 R404). -/
structure Comm where
  world  : Nat
  handle : Word
  size   : Nat
  rank   : Nat
  key    : BitVec 256
  devs   : List (BitVec 12)
  cseq   : Nat
deriving DecidableEq, Repr

/-- The interface of a pseudo-channel (23 R478); `run` is a pattern run in progress with REPAIR as it started. -/
structure Phy where
  rate   : BitVec 4
  train  : Bool
  en     : Bool
  ready  : Bool
  repair : Word
  patop  : BitVec 2
  paterr : BitVec 36
  run    : Option (BitVec 2 × Word)
  rdly   : List (Nat × BitVec 6)
  wdly   : List (Nat × BitVec 6)
deriving DecidableEq, Repr

/-- An interface at reset (23 R478). -/
def Phy.reset : Phy := ⟨0#4, true, false, false, 0#32, 0#2, 0#36, none, [], []⟩

/-- A capability of the SPDM responder, and an algorithm that it negotiates (17 R397). -/
inductive SpdmCap where
  | cert | chal | measSig | keyEx | encrypt | mac | chunk
deriving DecidableEq, Repr
inductive SpdmAlg where
  | ecdsaP384 | sha384 | ecdheP384 | aes256Gcm
deriving DecidableEq, Repr

/-- An answer of the device to an agent outside it. -/
inductive Reply where
  /-- Bytes written to host memory through the host window (18 R411), by device physical address. -/
  | hostWrite (addr : Nat) (bytes : List Byte)
  /-- Data returned to a read, with the poisoned bit. -/
  | data (bytes : List Byte) (poison : Bool)
  | unsupportedRequest
  /-- A RISC-V access fault in a hart (18 R413). -/
  | accessFault (hart : Nat)
  | tdisp (w : Nat) (ok : Bool) (bytes : List Byte)
  | tdispUnsupported (w : Nat)
  | spdm (bytes : List Byte)
  /-- The version, the capabilities, the algorithms and a part of the certificate chain of the SPDM responder (17 R397). -/
  | spdmVersion (major minor : Nat)
  | spdmCaps (l : List SpdmCap)
  | spdmAlgs (l : List SpdmAlg)
  | spdmCert (bytes : List Byte)
  | spdmBusy
  | spdmInvalid
  | measurement (index : Nat) (bytes : List Byte)
  | absent
deriving DecidableEq, Repr

/-- The object whose instruction word is being executed: a group's clause or a block's microkernel. -/
inductive Cur where
  | none | group (gid : Nat) | block (id : Nat)
deriving DecidableEq, Repr

/-- One entry of the schedule: the next word of an object, an operation or event of the device, or a stage-2 invalidation
through the physical function of a world's entries, those of one intermediate page or all (17 R391). -/
inductive Move where
  | word (c : Cur)
  | event (i : Instr)
  | invalidate (w : Nat) (ia : Option Nat)
deriving DecidableEq, Repr

/-! ## The machine -/

/-- The machine. Memory is the coherent value of every byte by device physical address (17 R370, 18 R411, 23 R473); an
unlisted byte is zero.
`cvmarks` holds for each core the number of draws at its last discard of path 0x5 copies, from which on a line on path
0x1 may serve path 0x5 (07 R174); `rtimes` the time of each outside requester's last write (11 R293).
`pckeys` gives for each pseudo-channel the key set under which all its rows were last zeroed, that of a line `lkeys` does
not list, and the one that it is read under; `lkeys` that under which a line was last written (17 R395). A polder's set is
one more than its draw, that of the service world 0. `hres` holds the bytes each hart has reserved with LR and the
greatest time of a write to their atoms then (18 R414). `alarms` holds the physical address of each line whose MAC failed
in a merge or an agent's write (20 R431), until its integrity event is taken, before anything else.
The schedule `moves` is the model's own: DESIGN CHOICE, log entry 2; memory reads 0 where unlisted: DESIGN CHOICE, log entry 4. -/
structure State where
  mem     : List Host.Cell
  lines   : List (Nat × LineState)
  lkeys   : List (Nat × Nat)
  pckeys  : List (Nat × (Nat × Nat))
  dirty   : List (Nat × DirtyLine)
  stamps  : List (Nat × (Nat × Nat))
  l1      : List (Nat × Option Copied)
  ro      : List (Nat × Option Copied)
  views   : List (Nat × Option Copied)
  uatoms  : List UAtom
  vars    : List SyncVar
  ranges  : List Range
  tlb     : List TlbEntry
  groups  : List Group
  teams   : List Team
  queues  : List Queue
  ops     : List Op
  blocks  : List Block
  tasks   : List Task
  walks   : List Walk
  tags    : List (Nat × TagEntry)
  grids   : List Grid
  graphs  : List Graph
  launches : List LaunchEntry
  pldrs   : List (Nat × Polder)
  trust   : Trust
  clown   : List (Nat × BitVec 6)
  latch   : List (Nat × BitVec 6)
  changing : List (Nat × Bool)
  service : List (Nat × Bool)
  pcown   : List (Nat × BitVec 6)
  ways    : List (Nat × DWord)
  lshare  : List (Nat × Byte)
  phys    : List (Nat × Phy)
  ports   : List (Nat × Port)
  devid   : BitVec 12
  routes  : List (Nat × BitVec 18)
  comms   : List Comm
  hworld  : List (Nat × BitVec 6)
  hclock  : List (Nat × Nat)
  hres    : List (Nat × (List Nat × Nat))
  cvmarks : List (Nat × Nat)
  rtimes  : List (Nat × Nat)
  alarms  : List Nat
  cxl     : Bool
  throttled : Bool
  clock   : Nat
  fresh   : Nat
  ids     : Nat
  cur     : Cur
  moves   : List Move
  turn    : Nat
  outbox  : List Reply
deriving DecidableEq, Repr

/-- The Trust Controller at power-on reset. -/
def Trust.reset : Trust :=
  { mbox0 := ⟨false, 0#6, 0#8, 0#64, 0#8, 0#8⟩, mbox60 := ⟨false, 0#6, 0#8, 0#64, 0#8, 0#8⟩, order := [],
    smstat := 0#4, fails := 0#16, retest := true, ok := false, drbg := true, pfbbase := 0#64, pfbsize := 0#64,
    pfbhead := 0#64, pfbtail := 0#64, waddr := false, pflost := 0#32, pfseq := 1#32, pfwait := [], mode := 0#2,
    wiping := false, wipeto := 0#2, blocked := false, lcs := 0#1, dbgerr := false, dbgworld := 0#6, dbgia := 0#53, dbgdata := 0#64,
    boot := 0#4, reason := 0#8, bootlen := 0#32, image := [], tcsvn := 0#32, fwsvn := 0#32, fusetc := 0#32,
    fusefw := 0#32, vfs := false, keys := false, keydraw := 0, records := [] }

/-- The machine right after power-on reset (00 R3): every register at the value the spec gives, nothing resident.
WAYMASK[60][0] holds the boot window's ways 0 to 3 (23 R473), at number 2 × 60.
The fuses and the clocks: DESIGN CHOICE, log entries 5 and 6. -/
def State.reset : State :=
  { mem := [], lines := [], lkeys := [], pckeys := [], dirty := [], stamps := [], l1 := [], ro := [], views := [], uatoms := [], vars := [],
    ranges := [], tlb := [], groups := [], teams := [], queues := [], ops := [], blocks := [],
    tasks := [], walks := [], tags := [], grids := [], graphs := [], launches := [], pldrs := [],
    trust := Trust.reset, clown := [], latch := [], changing := [], service := [], pcown := [],
    ways := [(120, 15#64)], lshare := [], phys := [], ports := [], devid := 0#12, routes := [], comms := [],
    hworld := [], hclock := [], hres := [], cvmarks := [], rtimes := [], alarms := [], cxl := false, throttled := false, clock := 0, fresh := 0, ids := 1, cur := .none,
    moves := [], turn := 0, outbox := [] }

end Sys2Proof.Machine
end

