-- ==== Sys2Proof/Machine/Flags.lean ====
section
/-!
DEFINITION. Sys2Proof/Machine/Flags.lean: the status and flag computations: GSTAT (01 R25), predicates and guards
(02 R46, R53), conditions (02 R52), completion flags (02 R37), and a phase of a sync word (08 R205, R206).
-/
namespace Sys2Proof.Machine

/-! ## GSTAT (01 R25) -/

/-- PSN, bit 3. -/
def psnBit : Word := 8#32
/-- REGROUPED, bit 2. -/
def regroupedBit : Word := 4#32
/-- SPILLED, bit 1. -/
def spilledBit : Word := 2#32
/-- UNIF, bit 0. -/
def unifBit : Word := 1#32

/-- FTZ16, bit 5. -/
def Group.ftz (g : Group) : Bool := g.gstat.getLsbD 5
/-- STRICT, bit 4. -/
def Group.strict (g : Group) : Bool := g.gstat.getLsbD 4

/-- A sticky bit set where a condition holds. -/
def Group.stick (g : Group) (bit : Word) (c : Bool) : Group :=
  { g with gstat := if c then g.gstat ||| bit else g.gstat }

/-- The write form of `SMOVS`: ones clear PSN, REGROUPED and UNIF (05 R119). -/
def clearSticky (gstat w : Word) : Word := gstat &&& ~~~(w &&& 0xD#32)

/-- GSTAT at group start from the launch's PRIO, FTZ16 and STRICT. -/
def startStatus (prio : Nat) (ftz strict : Bool) : Word :=
  BitVec.ofNat 32 (prio * 64) ||| (if ftz then 32#32 else 0#32) ||| (if strict then 16#32 else 0#32)

/-! ## Predicates -/

/-- P[p] of a lane: P7 reads true (01). -/
def Lane.pred (l : Lane) (p : Nat) : Bool := p == 7 || l.preds.getLsbD p

/-- P[p] of a lane written: a write to P7 is discarded. -/
def Lane.setPred (l : Lane) (p : Nat) (b : Bool) : Lane :=
  { l with preds := if p = 7 then l.preds
      else if b then l.preds ||| BitVec.ofNat 7 (2 ^ p) else l.preds &&& ~~~(BitVec.ofNat 7 (2 ^ p)) }

/-- A lane's guard value (02 R46): P[G[2:0]] xor G[3]. -/
def Lane.guard (l : Lane) (g : BitVec 4) : Bool := xor (l.pred (g.toNat % 8)) (g.getLsbD 3)

/-- What a compare writes to PD1 and PD2 of an active lane (02 R53), from its old predicates: none where the lane is not
written. -/
def conj (j : Nat) (g c p1 p2 : Bool) : Option (Bool × Bool) :=
  if j = 6 then some (g && c, g && !c)
  else if !g then none
  else match j with
    | 0 => some (c, !c)
    | 1 => some (p1 && c, p2 && c)
    | 2 => some (p1 || c, p2 || c)
    | 3 => some (p1 && !c, p2 && !c)
    | 4 => some (p1 || !c, p2 || !c)
    | _ => some (p1 || c, p2 && !c)

/-- A compare's write to a lane: PD1, then PD2. -/
def Lane.compare (l : Lane) (j p1 p2 : Nat) (g c : Bool) : Lane :=
  match conj j g c (l.pred p1) (l.pred p2) with
  | some (x, y) => (l.setPred p1 x).setPred p2 y
  | .none => l

/-! ## C predicates and completion flags -/

/-- C[k]. -/
def Group.creg (g : Group) (k : Nat) : Bool := g.cregs.getLsbD k

/-- C[k] written. -/
def Group.setC (g : Group) (k : Nat) (b : Bool) : Group :=
  { g with cregs := if b then g.cregs ||| BitVec.ofNat 4 (2 ^ k) else g.cregs &&& ~~~(BitVec.ofNat 4 (2 ^ k)) }

/-- F[k]. -/
def Group.flag (g : Group) (k : Nat) : Nat := mapGet 0 g.flags k

/-- The flag a long-latency instruction counts on (02 R37), none for code 15. -/
def Issue.flag (i : Issue) (fs : BitVec 1) : Option Nat :=
  let k := if fs = 0#1 then i.seta else i.setb
  if k = 15 then none else some k

/-- Whether the flag can be counted: below 63 (02 R37). -/
def Group.flagFree (g : Group) : Option Nat → Bool
  | none => true
  | some k => g.flag k < 63

/-- The flag counted up at issue. -/
def Group.countFlag (g : Group) : Option Nat → Group
  | none => g
  | some k => { g with flags := mapSet 0 g.flags k (g.flag k + 1) }

/-- The flag counted down at completion. -/
def Group.dropFlag (g : Group) : Option Nat → Group
  | none => g
  | some k => { g with flags := mapSet 0 g.flags k (g.flag k - 1) }

/-! ## Sync words (08 R205, R206) -/

/-- A sync word's fields. -/
structure SyncWord where
  gen  : Nat
  obs  : Nat
  reg  : Nat
  brun : Nat
  btgt : Nat
  acnt : Nat
  atgt : Nat
deriving DecidableEq, Repr

/-- The fields of the 128-bit value. -/
def SyncWord.ofNat (v : Nat) : SyncWord :=
  ⟨v / 2 ^ 112 % 2 ^ 16, v / 2 ^ 104 % 2 ^ 8, v / 2 ^ 96 % 2 ^ 8, v / 2 ^ 64 % 2 ^ 32, v / 2 ^ 32 % 2 ^ 32,
    v / 2 ^ 16 % 2 ^ 16, v % 2 ^ 16⟩

/-- The 128-bit value of the fields. -/
def SyncWord.toNat (y : SyncWord) : Nat :=
  y.atgt + 2 ^ 16 * y.acnt + 2 ^ 32 * y.btgt + 2 ^ 64 * y.brun + 2 ^ 96 * y.reg + 2 ^ 104 * y.obs + 2 ^ 112 * y.gen

/-- Whether the phase is complete. -/
def SyncWord.complete (y : SyncWord) : Bool := y.atgt ≤ y.acnt && y.btgt ≤ y.brun && y.reg ≤ y.obs

/-- R206 applied once after an operation. -/
def SyncWord.settle (y : SyncWord) : SyncWord :=
  if y.complete then { y with gen := (y.gen + 1) % 2 ^ 16, acnt := 0, brun := y.brun - y.btgt, obs := 0 } else y

/-- Whether an arrival is refused (08 R207). -/
def SyncWord.refuses (y : SyncWord) : Bool := y.obs < y.reg

/-- An arrival with a count (08 R207). -/
def SyncWord.arrive (y : SyncWord) (n : Nat) : SyncWord := { y with acnt := min (y.acnt + n) 0xFFFF }.settle

/-- A raise of BRUN (12 R305). -/
def SyncWord.raise (y : SyncWord) (n : Nat) : SyncWord := { y with brun := min (y.brun + n) (2 ^ 32 - 1) }.settle

/-- An observation (08 R208): OBS is an 8-bit field below REG here. -/
def SyncWord.observe (y : SyncWord) (g : Nat) : SyncWord :=
  if y.gen = (g + 1) % 2 ^ 16 ∧ y.obs < y.reg then { y with obs := y.obs + 1 }.settle else y

end Sys2Proof.Machine
end

