-- ==== Sys2Proof/Machine/Float.lean ====
section
/-!
DEFINITION. Sys2Proof/Machine/Float.lean: number formats, exact arithmetic and the one rounding function (04 R85 to R93),
the exact sums (R96 to R102), the bit-exact approximations (R103) and the block scales (R89, R90, R104 to R107).
A finite value is an integer times a power of two, so sums and products are exact.
-/
namespace Sys2Proof.Machine

/-- A binary format: exponent and fraction widths, bias, and its specials: 0 as IEEE, 1 one NaN code (E4M3), 2 none. -/
structure Fmt where
  ew   : Nat
  fw   : Nat
  bias : Nat
  kind : Nat
deriving DecidableEq, Repr

def f64 : Fmt := ⟨11, 52, 1023, 0⟩
def f32 : Fmt := ⟨8, 23, 127, 0⟩
def f16 : Fmt := ⟨5, 10, 15, 0⟩
def bf16 : Fmt := ⟨8, 7, 127, 0⟩
def e4m3 : Fmt := ⟨4, 3, 7, 1⟩
def e5m2 : Fmt := ⟨5, 2, 15, 0⟩
def e3m2 : Fmt := ⟨3, 2, 3, 2⟩
def e2m3 : Fmt := ⟨2, 3, 1, 2⟩
def e2m1 : Fmt := ⟨2, 1, 1, 2⟩

/-- The float format of a type code (02 R51); F32 for a code that names none. -/
def fmtOf (t : Nat) : Fmt :=
  match t with
  | 0 => f64 | 2 => f16 | 3 => bf16 | 4 => e4m3 | 5 => e5m2 | 6 => e3m2 | 7 => e2m3 | 8 => e2m1 | _ => f32

/-- An exact value: NaN, an infinity, or (−1)^neg × m × 2^e, which keeps the sign of a zero. -/
inductive Num where
  | nan
  | inf (neg : Bool)
  | fin (neg : Bool) (m : Nat) (e : Int)
deriving DecidableEq, Repr

/-- The bit that holds the sign. -/
def Fmt.signBit (f : Fmt) : Nat := 2 ^ (f.ew + f.fw)

/-- The exponent of the least significant bit of a subnormal. -/
def Fmt.emin (f : Fmt) : Int := 1 - f.bias - f.fw

/-- The magnitude bits of the largest finite value (04 R85). -/
def Fmt.maxCode (f : Fmt) : Nat :=
  match f.kind with
  | 0 => (2 ^ f.ew - 1) * 2 ^ f.fw - 1
  | 1 => 2 ^ (f.ew + f.fw) - 2
  | _ => 2 ^ (f.ew + f.fw) - 1

/-- The canonical NaN, +0 in a format without one (04 R86, R91 step 1). -/
def Fmt.nanCode (f : Fmt) : Nat :=
  match f.kind with
  | 0 => (2 ^ f.ew - 1) * 2 ^ f.fw + 2 ^ (f.fw - 1)
  | 1 => 2 ^ (f.ew + f.fw) - 1
  | _ => 0

/-- The value of a code (04 R85). -/
def Fmt.decode (f : Fmt) (c : Nat) : Num :=
  let neg := c / f.signBit % 2 == 1
  let mag := c % f.signBit
  let ex := mag / 2 ^ f.fw
  let fr := mag % 2 ^ f.fw
  if f.kind = 0 ∧ ex = 2 ^ f.ew - 1 then (if fr = 0 then .inf neg else .nan)
  else if f.kind = 1 ∧ mag = f.signBit - 1 then .nan
  else if ex = 0 then .fin neg fr f.emin
  else .fin neg (fr + 2 ^ f.fw) (f.emin + (ex - 1 : Nat))

/-- A subnormal code of F16 or BF16 read or written as zero under FTZ16 (04 R87). -/
def Fmt.flush (f : Fmt) (ftz : Bool) (c : Nat) : Nat :=
  if ftz && (f == f16 || f == bf16) && c % f.signBit / 2 ^ f.fw == 0 then c / f.signBit % 2 * f.signBit else c

/-- A read of a code under FTZ16. -/
def Fmt.read (f : Fmt) (ftz : Bool) (c : Nat) : Num := f.decode (f.flush ftz c)

/-! ## Exact arithmetic -/

def shl (n : Nat) (k : Int) : Nat := n * 2 ^ k.toNat

def Num.neg : Num → Num
  | .nan => .nan
  | .inf s => .inf !s
  | .fin s m e => .fin (!s) m e

def Num.abs : Num → Num
  | .nan => .nan
  | .inf _ => .inf false
  | .fin _ m e => .fin false m e

def Num.isNan : Num → Bool
  | .nan => true
  | _ => false

def Num.isZero : Num → Bool
  | .fin _ m _ => m == 0
  | _ => false

/-- The signed integer of a finite value in units of 2^u, for u no greater than its exponent. -/
def signedAt (s : Bool) (m : Nat) (e u : Int) : Int := if s then -(shl m (e - u) : Int) else shl m (e - u)

/-- The exact sum; an exact zero is +0, −0 in mode RD, but two zeros of one sign keep it (04 R91). -/
def Num.add (rd : Bool) : Num → Num → Num
  | .nan, _ => .nan
  | _, .nan => .nan
  | .inf s, .inf t => if s = t then .inf s else .nan
  | .inf s, .fin .. => .inf s
  | .fin .., .inf t => .inf t
  | .fin s m e, .fin t n g =>
    let u := min e g
    let r := signedAt s m e u + signedAt t n g u
    if r = 0 then .fin (if m = 0 ∧ n = 0 ∧ s = t then s else rd) 0 u
    else .fin (decide (r < 0)) r.natAbs u

/-- The exact product: ∞ × 0 is NaN. -/
def Num.mul : Num → Num → Num
  | .nan, _ => .nan
  | _, .nan => .nan
  | .inf s, .inf t => .inf (s != t)
  | .inf s, .fin t n _ => if n = 0 then .nan else .inf (s != t)
  | .fin s m _, .inf t => if m = 0 then .nan else .inf (s != t)
  | .fin s m e, .fin t n g => .fin (s != t) (m * n) (e + g)

/-- a < b for values that are not NaN; −0 and +0 are equal. -/
def Num.lt : Num → Num → Bool
  | .inf s, .inf t => s && !t
  | .inf s, .fin .. => s
  | .fin .., .inf t => !t
  | .fin s m e, .fin t n g => decide (signedAt s m e (min e g) < signedAt t n g (min e g))
  | _, _ => false

/-- a = b for values that are not NaN; −0 and +0 are equal. -/
def Num.eqv (a b : Num) : Bool := !a.isNan && !b.isNan && !a.lt b && !b.lt a

/-! ## Rounding (04 R91 to R93) -/

/-- Whether the neighbour away from zero is taken: `r` of `d` parts of the step remain above `lo`. Modes: 0 RNE, 1 RZ,
2 RU, 3 RD, 4 SR with its draw. -/
def roundUp (mode : Nat) (neg : Bool) (lo r d draw : Nat) : Bool :=
  match mode with
  | 0 => decide (d < 2 * r) || (decide (2 * r = d) && lo % 2 == 1)
  | 1 => false
  | 2 => r != 0 && !neg
  | 3 => r != 0 && neg
  | _ => decide (draw < 2 ^ 32 * r / d)

/-- The exponent of the leading bit of n / d. -/
def ratLog (n d : Nat) : Int :=
  let k := (Nat.log2 n : Int) - Nat.log2 d
  if shl n (-k) < shl d k then k - 1 else k

/-- The magnitude bits of n/d × 2^e rounded in `f`, with the exponent range unbounded above; n and d positive. -/
def roundMag (f : Fmt) (mode : Nat) (neg : Bool) (n d : Nat) (e : Int) (draw : Nat) : Nat :=
  let top := ratLog n d + e
  let q := max f.emin (top - f.fw)
  if top + 40 < f.emin then (if roundUp mode neg 0 1 (2 ^ 40) draw then 1 else 0)
  else
    let num := shl n (e - q)
    let den := shl d (q - e)
    let lo := num / den
    let k := if roundUp mode neg lo (num % den) den draw then lo + 1 else lo
    (q - f.emin).toNat * 2 ^ f.fw + k

/-- Step 5 of R91 and SAT, with the sign put in. -/
def finish (f : Fmt) (sat neg : Bool) (mag : Nat) : Nat :=
  let s := if neg then f.signBit else 0
  if mag ≤ f.maxCode then s + mag
  else if sat then s + f.maxCode
  else match f.kind with
    | 0 => s + (2 ^ f.ew - 1) * 2 ^ f.fw
    | 1 => f.nanCode
    | _ => s + f.maxCode

/-- round(±n/d × 2^e, f, mode), a zero keeping its sign. -/
def roundRat (f : Fmt) (mode : Nat) (sat neg : Bool) (n d : Nat) (e : Int) (draw : Nat) : Nat :=
  if n = 0 then (if neg then f.signBit else 0)
  else finish f sat neg (roundMag f mode neg n d e draw)

/-- round(x, f, mode) of 04 R91, with FTZ16 on the result (R87). -/
def round (f : Fmt) (mode : Nat) (sat ftz : Bool) (draw : Nat) (x : Num) : Nat :=
  match x with
  | .nan => f.nanCode
  | .inf s =>
    if sat || f.kind != 0 then (if s then f.signBit else 0) + f.maxCode
    else (if s then f.signBit else 0) + (2 ^ f.ew - 1) * 2 ^ f.fw
  | .fin s m e => f.flush ftz (roundRat f mode sat s m 1 e draw)

/-- RNE without SAT or FTZ16. -/
def rne (f : Fmt) (x : Num) : Nat := round f 0 false false 0 x

/-- Rounding to the integers lo to hi (04 R92). -/
def roundInt (mode : Nat) (draw : Nat) (lo hi : Int) (x : Num) : Int :=
  match x with
  | .nan => 0
  | .inf s => if s then lo else hi
  | .fin s m e =>
    let v : Nat :=
      if 0 ≤ e then shl m e
      else if e < -2200 then (if roundUp mode s 0 (if m = 0 then 0 else 1) (2 ^ 40) draw then 1 else 0)
      else
        let d := 2 ^ (-e).toNat
        if roundUp mode s (m / d) (m % d) d draw then m / d + 1 else m / d
    max lo (min hi (if s then -(v : Int) else v))

/-! ## Operations on codes -/

def fadd (f : Fmt) (mode : Nat) (ftz : Bool) (draw a b : Nat) : Nat :=
  round f mode false ftz draw ((f.read ftz a).add (mode == 3) (f.read ftz b))

def fsub (f : Fmt) (ftz : Bool) (a b : Nat) : Nat :=
  round f 0 false ftz 0 ((f.read ftz a).add false (f.read ftz b).neg)

def fmul (f : Fmt) (ftz : Bool) (a b : Nat) : Nat :=
  round f 0 false ftz 0 ((f.read ftz a).mul (f.read ftz b))

/-- VFMA's element (06 R150). -/
def ffma (f : Fmt) (mode : Nat) (sat neg abs ftz : Bool) (draw a b c : Nat) : Nat :=
  let p := (f.read ftz a).mul (f.read ftz b)
  let p := if neg then p.neg else p
  let c := f.read ftz c
  round f mode sat ftz draw (p.add (mode == 3) (if abs then c.abs else c))

/-- The lesser or greater with −0 < +0; canonical NaN where either is NaN (06 R149). -/
def fext (f : Fmt) (greater : Bool) (a b : Nat) : Nat :=
  let x := f.decode a
  let y := f.decode b
  if x.isNan || y.isNan then f.nanCode
  else if x.lt y then (if greater then b else a)
  else if y.lt x then (if greater then a else b)
  else if (a / f.signBit % 2 == 1) != greater then a else b

/-- COND of two floats (02 R52). -/
def fcond (c : Nat) (x y : Num) : Bool :=
  let u := x.isNan || y.isNan
  match c with
  | 0 => !u && x.eqv y
  | 1 => u || !x.eqv y
  | 2 => !u && x.lt y
  | 3 => !u && !y.lt x
  | 4 => !u && y.lt x
  | 5 => !u && !x.lt y
  | 6 => !u
  | 7 => u
  | 8 => u || x.lt y
  | 9 => u || !y.lt x
  | 10 => u || y.lt x
  | 11 => u || !x.lt y
  | _ => u || x.eqv y

/-- COND of two integers (02 R52). -/
def icond (c : Nat) (x y : Int) : Bool :=
  match c with
  | 0 => x == y
  | 1 => x != y
  | 2 => decide (x < y)
  | 3 => decide (x ≤ y)
  | 4 => decide (y < x)
  | _ => decide (y ≤ x)

/-- An F32 sum rounded RNE. -/
def add32 (a b : Nat) : Nat := fadd f32 0 false 0 a b
/-- An F32 product rounded RNE. -/
def mul32 (a b : Nat) : Nat := fmul f32 false a b

/-! ## Integer types (04 R88, 02 R51) -/

/-- Width of an element type in bits. -/
def typeBits (t : Nat) : Nat :=
  match t with
  | 0 => 64 | 1 => 32 | 2 => 16 | 3 => 16 | 4 => 8 | 5 => 8 | 6 => 6 | 7 => 6 | 8 => 4 | 9 => 8 | 10 => 4
  | 11 => 32 | 12 => 32 | 13 => 16 | 14 => 16 | _ => 8

def typeSigned (t : Nat) : Bool := t == 9 || t == 10 || t == 11 || t == 13

def toSigned (w v : Nat) : Int := if v < 2 ^ (w - 1) then v else (v : Int) - 2 ^ w

/-- The integer an integer code stands for. -/
def intOf (t v : Nat) : Int := if typeSigned t then toSigned (typeBits t) v else v

def typeLo (t : Nat) : Int := if typeSigned t then -2 ^ (typeBits t - 1) else 0
def typeHi (t : Nat) : Int := if typeSigned t then 2 ^ (typeBits t - 1) - 1 else 2 ^ typeBits t - 1

def numOfInt (v : Int) : Num := .fin (decide (v < 0)) v.natAbs 0

/-- The value of an element code of any type. -/
def elemNum (ftz : Bool) (t v : Nat) : Num :=
  if 9 ≤ t then numOfInt (intOf t v) else (fmtOf t).read ftz v

/-- VCVT of one element (06 R154). -/
def convert (dst src mode : Nat) (sat ftz : Bool) (draw v : Nat) : Nat :=
  if 9 ≤ dst then
    if 9 ≤ src then
      let x := intOf src v
      let x := if sat then max (typeLo dst) (min (typeHi dst) x) else x
      (x % 2 ^ typeBits dst).toNat
    else (roundInt mode draw (typeLo dst) (typeHi dst) ((fmtOf src).read ftz v) % 2 ^ typeBits dst).toNat
  else round (fmtOf dst) mode sat ftz draw (elemNum ftz src v)

/-! ## The lane tree (04 R100) -/

/-- The levels of a pairwise tree, a node with one missing child taking the other's value. -/
def pairUp (f : Nat → Nat → Nat) : List (Option Nat) → List (Option Nat)
  | some a :: some b :: l => some (f a b) :: pairUp f l
  | some a :: none :: l => some a :: pairUp f l
  | none :: b :: l => b :: pairUp f l
  | [a] => [a]
  | [] => []

/-- The root of the tree over 2^k leaves. -/
def treeRoot (f : Nat → Nat → Nat) : Nat → List (Option Nat) → Option Nat
  | 0, l => l.headD none
  | k + 1, l => treeRoot f k (pairUp f l)

/-- The prefix over the leaves 0 to n − 1: aligned blocks by the set bits of n from the most significant down, added
from left to right, missing blocks skipped. -/
def prefixSum (f : Nat → Nat → Nat) (leaves : List (Option Nat)) : Nat → Nat → Nat → Option Nat → Option Nat
  | 0, n, start, acc =>
    if n % 2 = 1 then
      match acc, (leaves.drop start).headD none with
      | some a, some b => some (f a b)
      | some a, none => some a
      | none, b => b
    else acc
  | k + 1, n, start, acc =>
    if n / 2 ^ (k + 1) % 2 = 1 then
      let node := treeRoot f (k + 1) ((leaves.drop start).take (2 ^ (k + 1)))
      let acc := match acc, node with
        | some a, some b => some (f a b)
        | some a, none => some a
        | none, b => b
      prefixSum f leaves k n (start + 2 ^ (k + 1)) acc
    else prefixSum f leaves k n start acc

/-! ## Stochastic rounding (04 R94) -/

/-- The seed function h. -/
def srHash (v : Word) : Word :=
  let z := v * 0x9E3779B9#32
  let z := z ^^^ (z >>> 15)
  if z = 0#32 then 0x6D2B79F5#32 else z

/-- The state after a draw; the draw is its value. -/
def srNext (s : Word) : Word :=
  let s := s ^^^ (s <<< 13)
  let s := s ^^^ (s >>> 17)
  s ^^^ (s <<< 5)

/-! ## XS320 (04 R96, R97) -/

/-- An XS320 record: I, NAN, PINF, NINF. -/
structure Xs where
  sum  : BitVec 320
  nan  : Bool
  pinf : Bool
  ninf : Bool
deriving DecidableEq, Repr

def Xs.zero : Xs := ⟨0#320, false, false, false⟩

def toXs (v : Nat) : Xs :=
  match f32.decode v with
  | .nan => ⟨0#320, true, false, false⟩
  | .inf s => ⟨0#320, false, !s, s⟩
  | .fin s m e => ⟨BitVec.ofInt 320 (signedAt s m e (-149)), false, false, false⟩

def xsAdd (a b : Xs) : Xs := ⟨a.sum + b.sum, a.nan || b.nan, a.pinf || b.pinf, a.ninf || b.ninf⟩

def fromXs (a : Xs) (mode : Nat) : Nat :=
  if a.nan || (a.pinf && a.ninf) then f32.nanCode
  else if a.pinf then 0x7F800000
  else if a.ninf then 0xFF800000
  else round f32 mode false false 0 (.fin (decide (a.sum.toInt < 0)) a.sum.toInt.natAbs (-149))

/-! ## The bit-exact approximations (04 R103) -/

/-- The integer square root, bit by bit from bit k − 1 down. -/
def isqrt (n : Nat) : Nat → Nat → Nat
  | 0, r => r
  | k + 1, r => if (r + 2 ^ k) * (r + 2 ^ k) ≤ n then isqrt n k (r + 2 ^ k) else isqrt n k r

/-- The greatest r with r^2048 ≤ n, bit by bit. -/
def root2048 (n : Nat) : Nat → Nat → Nat
  | 0, r => r
  | k + 1, r => if (r + 2 ^ k) ^ 2048 ≤ n then root2048 n k (r + 2 ^ k) else root2048 n k r

/-- The first k bits of log2 of x / 2^200, for 1 ≤ x / 2^200 < 2, by repeated squaring. -/
def log2Bits : Nat → Nat → Nat → Nat
  | 0, _, acc => acc
  | k + 1, x, acc =>
    let y := x * x / 2 ^ 200
    if 2 ^ 201 ≤ y then log2Bits k (y / 2) (2 * acc + 1) else log2Bits k y (2 * acc)

/-- RCPTAB in units of 2^-24. -/
def rcpTab (i : Nat) : Nat := (2 * (2 ^ 24 * 4096) + (4097 + 2 * i)) / (2 * (4097 + 2 * i))
/-- RSQTAB in units of 2^-24. -/
def rsqTab (k j : Nat) : Nat := (isqrt (4 * 2 ^ 48 * 2048 / (2 ^ k * (2049 + 2 * j))) 27 0 + 1) / 2
/-- EX2TAB in units of 2^-48. -/
def ex2Tab (j : Nat) : Nat := (root2048 (2 ^ (49 * 2048 + j)) 51 0 + 1) / 2
/-- LG2TAB in units of 2^-48. -/
def lg2Tab (i : Nat) : Nat := (log2Bits 49 (2 ^ 200 * (2048 + i) / 2048) 0 + 1) / 2
/-- RCTAB in units of 2^-48. -/
def rcTab (i : Nat) : Nat := (2 * (2 ^ 48 * 2048) + (2048 + i)) / (2 * (2048 + i))
/-- round48(ln 2) in units of 2^-48. -/
def ln2 : Nat := 195103586505167
/-- round48(1 / ln 2) in units of 2^-48. -/
def invLn2 : Nat := 406082553034800

/-- decompose(x): the exponent and the significand m in units of 2^-23, 2^23 ≤ m < 2^24. -/
def decompose (m : Nat) (e : Int) : Int × Nat :=
  let k := Nat.log2 m
  (e + k, shl m (23 - (k : Int)))

def frcp (v : Nat) : Nat :=
  match f32.decode v with
  | .nan => f32.nanCode
  | .inf s => if s then f32.signBit else 0
  | .fin s m e =>
    if m = 0 then (if s then f32.signBit else 0) + 0x7F800000
    else
      let (x, m) := decompose m e
      let y0 := rcpTab ((m - 2 ^ 23) / 2 ^ 12)
      let y1 := y0 * (2 ^ 48 - m * y0) / 2 ^ 23
      roundRat f32 0 false s y1 1 (-x - 48) 0

def frsq (v : Nat) : Nat :=
  match f32.decode v with
  | .nan => f32.nanCode
  | .inf s => if s then f32.nanCode else 0
  | .fin s m e =>
    if m = 0 then (if s then f32.signBit else 0) + 0x7F800000
    else if s then f32.nanCode
    else
      let (x, m) := decompose m e
      let k := (x % 2).toNat
      let m2 := 2 ^ k * m
      let y0 := rsqTab k ((m - 2 ^ 23) / 2 ^ 13)
      let y1 := y0 * (3 * 2 ^ 71 - m2 * y0 * y0) / 2 ^ 48
      roundRat f32 0 false false y1 1 (-((x - k) / 2) - 48) 0

def fex2 (v : Nat) : Nat :=
  match f32.decode v with
  | .nan => f32.nanCode
  | .inf s => if s then 0 else 0x7F800000
  | .fin s m e =>
    if 30 ≤ (Nat.log2 m : Int) + e then (if s then 0 else 0x7F800000)
    else
      let x := signedAt s m e (min e (-149))
      let u := (-(min e (-149))).toNat
      let n := x / 2 ^ u
      let f := (x % 2 ^ u).toNat
      let j := f * 2048 / 2 ^ u
      let d := (f * 2048 % 2 ^ u) * 2 ^ 48 / (2048 * 2 ^ u)
      let y1 := ex2Tab j * (2 ^ 96 + ln2 * d) / 2 ^ 96
      if n < -400 then 0 else roundRat f32 0 false false y1 1 (n - 48) 0

def flg2 (v : Nat) : Nat :=
  match f32.decode v with
  | .nan => f32.nanCode
  | .inf s => if s then f32.nanCode else 0x7F800000
  | .fin s m e =>
    if m = 0 then 0xFF800000
    else if s then f32.nanCode
    else
      let (x, m) := decompose m e
      let i := (m - 2 ^ 23) / 2 ^ 12
      let t := ((m - 2 ^ 23) % 2 ^ 12) * rcTab i / 2 ^ 23
      let y1 : Nat := lg2Tab i + t * invLn2 / 2 ^ 48
      let r : Int := x * 2 ^ 48 + (y1 : Int)
      round f32 0 false false 0 (.fin (decide (r < 0)) r.natAbs (-48))

/-! ## Block scales (04 R89, R90, R104 to R107) -/

/-- The value of a BS24 scale. -/
def bs24 (v : Nat) : Num :=
  let e : Nat := v / 2 ^ 16 % 256
  if e = 255 then .nan
  else if e = 0 then .fin false 0 0
  else .fin false (2 ^ 16 + v % 2 ^ 16) ((e : Int) - 127 - 16)

/-- The value of an E8M0 scale. -/
def e8m0 (v : Nat) : Num := if v % 256 = 255 then .nan else .fin false 1 (((v % 256 : Nat) : Int) - 127)

/-- A compressed-view element (04 R107, 07 R167): NaN by a NaN scale or element, +0 by a zero scale.
DEDUCED, log entry 19. -/
def viewWord (fmt : Nat) (sck : Bool) (elem scale : Nat) : Nat :=
  let q := elemNum false fmt elem
  let s := if sck then e8m0 scale else bs24 scale
  if q.isNan || s.isNan then f32.nanCode
  else if s.isZero then 0
  else rne f32 (q.mul s)

/-- The largest finite magnitude of a block target, as m × 2^e (04 R104). -/
def blockMax (fmt : Nat) : Nat × Int :=
  match fmt with
  | 4 => (448, 0) | 5 => (57344, 0) | 6 => (28, 0) | 7 => (15, -1) | 8 => (6, 0) | 9 => (127, 0) | _ => (7, 0)

/-- The smallest BS24 value at least n/d × 2^e, as its code (04 R104). -/
def bs24Ceil (n d : Nat) (e : Int) : Nat :=
  let q := max (ratLog n d + e) (-126)
  let num := shl n (e - q + 16)
  let den := shl d (q - 16 - e)
  let k := (num + den - 1) / den
  if k < 2 ^ 16 then 2 ^ 16 else (q + 127).toNat * 2 ^ 16 + (k - 2 ^ 16)

/-- The code of the smallest power of two at least n/d × 2^e and at least 2^-127 (04 R106). -/
def e8m0Ceil (n d : Nat) (e : Int) : Nat :=
  let l := ratLog n d + e
  let q := max l (-127)
  let num := shl n (e - q)
  let den := shl d (q - e)
  if den < num then (q + 128).toNat else (q + 127).toNat

/-- The block's greatest magnitude as a finite value; none where an element is NaN or infinite. -/
def blockTop : List Num → Option (Nat × Int)
  | [] => some (0, 0)
  | .fin _ m e :: l =>
    match blockTop l with
    | none => none
    | some (n, g) => if (Num.fin false n g).lt (.fin false m e) then some (m, e) else some (n, g)
  | _ :: _ => none

/-- round(x / s, fmt, mode) of an element of a block target, an integer target by R92. -/
def blockElem (fmt mode draw : Nat) (x s : Num) : Nat :=
  match x, s with
  | .fin neg m e, .fin _ n g =>
    if n = 0 then 0
    else if fmt = 9 ∨ fmt = 10 then
      let k := shl m (e - g) / shl n (g - e)
      let r := shl m (e - g) % shl n (g - e)
      let k := if roundUp mode neg k r (shl n (g - e)) draw then k + 1 else k
      let v : Int := max (typeLo fmt) (min (typeHi fmt) (if neg then -(k : Int) else k))
      (v % 2 ^ typeBits fmt).toNat
    else roundRat (fmtOf fmt) mode false neg m n (e - g) draw
  | _, _ => 0

/-- A block of a `DRAIN` to a block format: the scale code and the elements; the draws are the elements' (04 R104,
R106). -/
def requant (fmt mode : Nat) (sck : Bool) (xs : List Num) (draws : List Nat) : Nat × List Nat :=
  match blockTop xs with
  | none => (if sck then 255 else 255 * 2 ^ 16 + Config.nanScale.toNat, xs.map fun _ => if fmt ≤ 8 then (fmtOf fmt).nanCode else 0)
  | some (0, _) => (0, xs.map fun _ => 0)
  | some (m, e) =>
    let (n, g) := blockMax fmt
    let code := if sck then e8m0Ceil m n (e - g) else bs24Ceil m n (e - g)
    let s := if sck then e8m0 code else bs24 code
    (code, List.zipWith (fun x d => blockElem fmt mode d x s) xs draws)

end Sys2Proof.Machine
end

