-- ==== Sys2Proof/Machine/Mem.lean ====
section
/-!
DEFINITION. Sys2Proof/Machine/Mem.lean: the bytes of device memory and their lines: the check codeword (20 R429 to
R431), reads and line read-modify-writes at the home (11 R273, R292), the dirty lines of the L2, and the merge of
update-only atoms (07 R178, 11 R286 to R289).
-/
namespace Sys2Proof.Machine

/-! ## Bytes -/

/-- The n low bytes of a number, little-endian (00 R6). -/
def toBytes : Nat → Nat → List Byte
  | 0, _ => []
  | n + 1, v => BitVec.ofNat 8 v :: toBytes n (v / 256)

/-- The little-endian number of bytes. -/
def ofBytes : List Byte → Nat
  | [] => 0
  | b :: l => b.toNat + 256 * ofBytes l

/-- Bytes `hi` to `lo` of a little-endian block, as a number. -/
def field (l : List Byte) (lo n : Nat) : Nat := ofBytes ((l.drop lo).take n)

/-- n addresses from a. -/
def addrs (a n : Nat) : List Nat := (List.range n).map (a + ·)

/-- A byte of memory: zero where nothing is listed. -/
def State.byte (s : State) (pa : Nat) : Byte := mapGet 0#8 s.mem pa

/-- n bytes from pa, as they stand at the home. -/
def State.bytes (s : State) (pa n : Nat) : List Byte := (addrs pa n).map s.byte

/-- Memory with bytes put from an address up. -/
def putBytes (m : List Host.Cell) (pa : Nat) : List Byte → List Host.Cell
  | [] => m
  | b :: l => putBytes (mapSet 0#8 m pa b) (pa + 1) l

/-- Memory with each cell of a list put, in order. -/
def putCells (m : List Host.Cell) : List Host.Cell → List Host.Cell
  | [] => m
  | (a, b) :: l => putCells (mapSet 0#8 m a b) l

/-- The canonical form of memory: addresses strictly rising, no byte listed that is zero. -/
def memWf (m : List Host.Cell) : Bool := mapCanon 0#8 m

/-- The numbers of the set bits of a mask, ascending. -/
def maskBits (m : DWord) : List Nat := (List.range 64).filter m.getLsbD

/-- Each value once, in order of first appearance. -/
def distinct : List Nat → List Nat
  | [] => []
  | a :: l => a :: dropBy (· == a) (distinct l)

/-! ## Address map (17 R370, 18 R411, 23 R473) -/

/-- The owner of the pseudo-channel of a device physical address; 63 outside installed memory. -/
def State.owner (s : State) (pa : Nat) : Nat :=
  if pa < 2 ^ 39 then (mapGet 63#6 s.pcown (pa / 2 ^ 30)).toNat else 63

/-- The host window. What reaches it: DEDUCED, log entry 15. -/
def hostWindow (pa : Nat) : Bool := 0x8000000000 ≤ pa && pa < 0x10000000000
/-- The boot window. -/
def bootWindow (pa : Nat) : Bool := 0x10000000000 ≤ pa && pa < 0x10001000000

/-- A polder's state, at reset where nothing is listed. -/
def State.polder (s : State) (w : Nat) : Polder := mapGet Polder.reset s.pldrs w
/-- The machine with a polder changed. -/
def State.setPolder (s : State) (w : Nat) (p : Polder) : State := { s with pldrs := mapIns s.pldrs w p }
/-- Usage meter m of world w raised by n, saturating (22 R463, R464); other worlds own none. -/
def State.meter (s : State) (w m n : Nat) : State :=
  if w < 48 then
    let p := s.polder w
    s.setPolder w { p with meters := mapSet 0 p.meters m (min (mapGet 0 p.meters m + n) (2 ^ 64 - 1)) }
  else s
/-- Host bytes written through the window (18 R411). -/
def State.hostWrite (s : State) (cells : List Host.Cell) : State :=
  { s with outbox := s.outbox ++ cells.map fun c => .hostWrite c.1 [c.2] }
/-- A draw: the next free value's number, and the machine with the counter advanced. -/
def State.draw (s : State) : State := { s with fresh := s.fresh + 1 }

/-! ## GF(2^8) and the decoder (20 R429, R430) -/

/-- Carry-less product reduced by x^8 + x^4 + x^3 + x^2 + 1. -/
def gfMulAux : Nat → Nat → Nat → Nat → Nat
  | 0, _, _, acc => acc
  | k + 1, a, b, acc =>
    gfMulAux k (let d := 2 * a; if 256 ≤ d then (d - 256) ^^^ 0x1D else d) (b / 2) (if b % 2 = 1 then acc ^^^ a else acc)

def gfMul (a b : Nat) : Nat := gfMulAux 8 a b 0

def gfPow (a : Nat) : Nat → Nat
  | 0 => 1
  | k + 1 => gfMul a (gfPow a k)

/-- α^k. -/
def gfExp (k : Nat) : Nat := gfPow 2 (k % 255)

/-- The inverse, by a^254. -/
def gfInv (a : Nat) : Nat := gfPow a 254

/-- The value of a polynomial, coefficients from x^0 up. -/
def polyEval (x : Nat) : List Nat → Nat
  | [] => 0
  | c :: l => c ^^^ gfMul x (polyEval x l)

def polyAdd : List Nat → List Nat → List Nat
  | [], q => q
  | p, [] => p
  | a :: p, b :: q => (a ^^^ b) :: polyAdd p q

/-- The syndromes S_0 to S_7 of a pattern of symbols in error. -/
def syndromes (errs : List (Nat × Nat)) : List Nat :=
  (List.range 8).map fun j => errs.foldl (fun acc e => acc ^^^ gfMul e.2 (gfExp (e.1 * j))) 0

/-- The pattern of the poison mark: 0x5A over the check symbols. -/
def markPattern : List (Nat × Nat) := (List.range 8).map fun i => (i, 0x5A)

/-- One step of the search for the error-locator polynomial: c, b, its length, the gap and the last discrepancy. -/
def locatorStep (syn : List Nat) (st : List Nat × List Nat × Nat × Nat × Nat) (n : Nat) :
    List Nat × List Nat × Nat × Nat × Nat :=
  let (c, b, len, gap, last) := st
  let d := ((List.range (len + 1)).map fun i => gfMul (c.getD i 0) (syn.getD (n - i) 0)).foldl (· ^^^ ·) 0
  if d = 0 then (c, b, len, gap + 1, last)
  else
    let k := gfMul d (gfInv last)
    let c' := polyAdd c (List.replicate gap 0 ++ b.map (gfMul k))
    if 2 * len ≤ n then (c', c, n + 1 - len, 1, d) else (c', b, len, gap + 1, last)

/-- Some pattern of at most four symbols in error with these syndromes (20 R430, corr4). -/
def corr4 (syn : List Nat) : Option (List (Nat × Nat)) :=
  let (c, _, len, _, _) := (List.range 8).foldl (locatorStep syn) ([1], [1], 0, 1, 1)
  if 4 < len then none
  else
    let om := ((List.range 8).map fun n =>
      ((List.range (n + 1)).map fun i => gfMul (c.getD i 0) (syn.getD (n - i) 0)).foldl (· ^^^ ·) 0)
    let der := (List.range c.length).map fun i => if i % 2 = 0 then c.getD (i + 1) 0 else 0
    let pat := (List.range 144).filterMap fun i =>
      let x := gfExp (255 - i)
      if polyEval x c = 0 then some (i, gfMul (gfExp i) (gfMul (polyEval x om) (gfInv (polyEval x der)))) else none
    if pat.length ≤ 4 && syndromes pat == syn then some pat else none

/-- The kinds of a line as read. -/
inductive LineKind where
  | clean | corrected | marked | uncorrectable
deriving DecidableEq, Repr

/-- What a read of a line finds: its kind, and whether the MAC fails on the codeword as decoded. -/
structure LineRead where
  kind : LineKind
  bad  : Bool
deriving DecidableEq, Repr

/-- Two patterns combined symbol by symbol. -/
def xorPattern (p q : List (Nat × Nat)) : List (Nat × Nat) :=
  q.foldl (fun m e => mapSet 0 m e.1 (mapGet 0 m e.1 ^^^ e.2)) p

/-- Whether a symbol outside the check symbols is still wrong. -/
def dataWrong (p : List (Nat × Nat)) : Bool := p.any fun e => 8 ≤ e.1 && e.2 != 0

/-- The decoding of a line by R430 and the MAC's verdict on it (R431): the MAC fails exactly where a data or MAC symbol
is still wrong. -/
def LineState.read (l : LineState) : LineRead :=
  if l.errs = [] then ⟨if l.marked then .marked else .clean, false⟩
  else
    let raw := xorPattern (if l.marked then markPattern else []) (l.errs.map fun e => (e.1, e.2.toNat))
    let s := syndromes raw
    let sp := syndromes markPattern
    if s = syndromes [] then ⟨.clean, dataWrong raw⟩
    else if s = sp then ⟨.marked, dataWrong raw⟩
    else match corr4 (List.zipWith (· ^^^ ·) s sp) with
      | some p => ⟨.marked, dataWrong (xorPattern raw p)⟩
      | none =>
        match corr4 s with
        | some p => ⟨.corrected, dataWrong (xorPattern raw p)⟩
        | none => ⟨.uncorrectable, false⟩

/-- What stands in a line's codeword beside its data. -/
def State.line (s : State) (ln : Nat) : LineState := mapGet ⟨false, []⟩ s.lines ln

/-- The key set that a line is read under, and that under which it was last written (17 R395). -/
def State.keyNow (s : State) (ln : Nat) : Nat := (mapGet (0, 0) s.pckeys (ln / 2 ^ 23)).2
def State.keyThen (s : State) (ln : Nat) : Nat := mapGet (mapGet (0, 0) s.pckeys (ln / 2 ^ 23)).1 s.lkeys ln

/-- Whether a line was last written under another key set than its channel's (17 R395). -/
def State.alien (s : State) (ln : Nat) : Bool := s.keyThen ln != s.keyNow ln

/-- The decoding of the line at its home and the verdict of its MAC, which binds the key of its owner (17 R395). -/
def State.lineRead (s : State) (ln : Nat) : LineRead :=
  let r := (s.line ln).read
  { r with bad := r.bad || (s.alien ln && r.kind != .uncorrectable) }

/-- What the L2 holds of a dirty line beside its number. -/
def State.dirtyLine (s : State) (ln : Nat) : Option DirtyLine := (findBy (fun e => e.1 == ln) s.dirty).map Prod.snd

/-- The rows of lines written in HBM made dirty for a sluice that reads them, those that its passes have reached (21
R454). -/
def State.touchRows (s : State) (lns : List Nat) : State :=
  let touch := fun (u : Sluice) =>
    let rows := lns.filterMap fun ln =>
      (u.pairs.zipIdx.find? fun e => e.1.1 == ln * 128 / 2 ^ 30).map fun e => 2 ^ 20 * e.2 + ln * 128 % 2 ^ 30 / 1024
    { u with again := rows.foldl (fun l r => if r < u.upto ∧ !l.contains r then l ++ [r] else l) u.again }
  { s with pldrs := s.pldrs.map fun e => (e.1, { e.2 with sluice := e.2.sluice.map touch }) }

/-- The bytes of whole lines counted by a meter of their owners. -/
def State.meterLines (s : State) (m : Nat) (lns : List Nat) : State :=
  lns.foldl (fun s ln => s.meter (s.owner (ln * 128)) m 128) s

/-- Lines written back from the L2: HBM holds them. -/
def State.writeBack (s : State) (pick : Nat → Bool) : State :=
  let lns := (s.dirty.map Prod.fst).filter pick
  ({ s with dirty := s.dirty.filter fun e => !pick e.1 }.meterLines 15 lns).touchRows lns

/-- A line written whole or in part: it is enciphered under its channel's keys; one that the L2 does not hold dirty is
written in HBM. -/
def State.encipher (s : State) (ln : Nat) : State :=
  let s := { s with lkeys := mapSet (mapGet (0, 0) s.pckeys (ln / 2 ^ 23)).1 s.lkeys ln (s.keyNow ln) }
  if (s.dirtyLine ln).isSome then s else s.touchRows [ln]

def State.setLine (s : State) (ln : Nat) (l : LineState) : State :=
  { s with lines := mapSet ⟨false, []⟩ s.lines ln l }

/-- Saturating increment of a 64-bit counter. -/
def satInc (d : DWord) : DWord := if d = -1#64 then d else d + 1#64

/-- The counters of a line's owner after a read of a kind (20 R431, R432). -/
def State.countLine (s : State) (ln : Nat) (k : LineKind) : State :=
  let w := s.owner (ln * 128)
  if w < 48 then
    let p := s.polder w
    match k with
    | .corrected => s.setPolder w { p with cecnt := satInc p.cecnt }
    | .uncorrectable => s.setPolder w { p with uecnt := satInc p.uecnt }
    | _ => s
  else s

/-- A read of bytes at their home: the machine after the counts, the bytes with the poison of each, and whether a MAC
failed, in which case nothing is delivered (20 R431). -/
def State.homeRead (s : State) (pas : List Nat) : State × List (Byte × Bool) × Option Nat :=
  let lns := distinct (pas.map (· / 128))
  let s' := lns.foldl (fun t ln => let r := s.lineRead ln; if r.bad then t else t.countLine ln r.kind) s
  let bad := findBy (fun ln => (s.lineRead ln).bad) lns
  (s', pas.map (fun pa =>
    match ((s.line (pa / 128)).read).kind with
    | .uncorrectable => (0#8, true)
    | .marked => (s.byte pa, true)
    | _ => (s.byte pa, false)), bad)

/-- The die of a line's stack, and the owner's L2 ways on it (17 R375). -/
def lineDie (ln : Nat) : Nat := ln / 2 ^ 31
def State.waysOf (s : State) (ln : Nat) : List Nat :=
  maskBits (mapGet 0#64 s.ways (2 * s.owner (ln * 128) + lineDie ln))

/-- The contents HBM holds of a line that the L2 holds dirty, recorded when the line first becomes dirty, in one of its
owner's ways; an owner without ways holds no line there (17 R375). Which way: DESIGN CHOICE, log entry 55. -/
def State.soil (s : State) (ln : Nat) : State :=
  match (s.waysOf ln)[Config.wayOf ln % (s.waysOf ln).length]? with
  | none => s
  | some way =>
    if (s.dirty.map Prod.fst).contains ln then s
    else { s with dirty := mapIns s.dirty ln ⟨(addrs (ln * 128) 128).filterMap fun a =>
      if s.byte a = 0#8 then none else some (a, s.byte a), s.line ln, s.keyThen ln, way⟩ }

/-- A dirty line invalidated without write-back: what HBM holds of it stands, its bytes, its codeword and the keys it was
written under. -/
def State.discardLine (s : State) (ln : Nat) : State :=
  match s.dirtyLine ln with
  | none => s
  | some d =>
    { s with mem := putCells (putBytes s.mem (ln * 128) (List.replicate 128 0#8)) d.cells,
             lkeys := mapSet (mapGet (0, 0) s.pckeys (ln / 2 ^ 23)).1 s.lkeys ln d.key,
             dirty := mapDel s.dirty ln }.setLine ln d.was

/-- The integrity event of a write's MAC failure, to be taken before anything else (20 R431). -/
def State.alarm (s : State) (ln : Nat) : State := { s with alarms := s.alarms ++ [ln * 128] }

/-- The write of an instruction's or burst's cells into one line: a write of all 128 bytes replaces the codeword, a
smaller one is a read-modify-write that an uncorrectable line loses and a marked line keeps its mark through (20 R431,
11 R292); poisoned data marks the line (07 R171). A failed MAC leaves the line as it is and raises its alarm. -/
def State.writeLine (s : State) (ln : Nat) (cells : List Host.Cell) (poison : Bool) : State :=
  let r := s.lineRead ln
  let s := s.soil ln
  if (distinct (cells.map Prod.fst)).length = 128 then
    ({ s with mem := putCells s.mem cells }.setLine ln ⟨poison, []⟩).encipher ln
  else if r.bad then s.alarm ln
  else
    let s := s.countLine ln r.kind
    match r.kind with
    | .uncorrectable => s
    | k => ({ s with mem := putCells s.mem cells }.setLine ln ⟨decide (k = LineKind.marked) || poison, []⟩).encipher ln

/-- A write of cells at their homes, line by line; the lines in `poisoned` take the mark. -/
def State.homeWrite (s : State) (cells : List Host.Cell) (poisoned : List Nat) : State :=
  (distinct (cells.map (fun c => c.1 / 128))).foldl (fun t ln =>
    t.writeLine ln (cells.filter fun c => c.1 / 128 == ln) (poisoned.contains ln)) s

/-- The line of these whose read would meet a failed MAC. -/
def State.badLine (s : State) (pas : List Nat) : Option Nat :=
  findBy (fun ln => (s.lineRead ln).bad) (distinct (pas.map (· / 128)))

/-- The line of a write whose read-modify-write would meet a failed MAC: a line written whole is not read (11 R292). -/
def State.badWrite (s : State) (cells : List Host.Cell) : Option Nat :=
  s.badLine ((cells.map Prod.fst).filter fun a =>
    (distinct ((cells.map Prod.fst).filter fun b => b / 128 == a / 128)).length != 128)

/-! ## Logical times at the home (11 R276) -/

/-- wts and rts of an atom. -/
def State.stamp (s : State) (atom : Nat) : Nat × Nat := mapGet (0, 0) s.stamps atom

def State.setStamp (s : State) (atom : Nat) (t : Nat × Nat) : State :=
  { s with stamps := mapSet (0, 0) s.stamps atom t }

/-- Each atom of a list given wts = rts = t. -/
def State.stampAll (s : State) (atoms : List Nat) (t : Nat) : State :=
  atoms.foldl (fun u a => u.setStamp a (t, t)) s

/-- The greatest rts of a list of atoms. -/
def State.topRts (s : State) (atoms : List Nat) : Nat :=
  atoms.foldl (fun m a => max m (s.stamp a).2) 0

/-! ## Update-only atoms (07 R178, 11 R286 to R289) -/

/-- Width in bytes of the words of a tag. -/
def tagBytes (tag : Nat) : Nat := if tag = 1 ∨ tag = 6 ∨ tag = 7 ∨ tag = 8 then 8 else 4

/-- The integer operator of a tag (02 R55) on words of its width. -/
def tagOp (tag a b : Nat) : Nat :=
  match tag with
  | 0 => (a + b) % 2 ^ 32
  | 1 => (a + b) % 2 ^ 64
  | 2 => if toSigned 32 a < toSigned 32 b then b else a
  | 3 => if toSigned 32 b < toSigned 32 a then b else a
  | 4 => max a b
  | 5 => min a b
  | 6 => a ||| b
  | 7 => a &&& b
  | 8 => a ^^^ b
  | 10 => add32 a b
  | 11 => fext f32 true a b
  | _ => fext f32 false a b

/-- A contribution to a partial (07 R178). -/
def contribute (tag v : Nat) : Option Partial → Partial
  | none =>
    if tag = 9 then let x := toXs v; .xs x.sum x.nan x.pinf x.ninf false else .word (BitVec.ofNat 64 v)
  | some (.word p) => .word (BitVec.ofNat 64 (tagOp tag p.toNat v))
  | some (.xs sum nan pinf ninf poison) =>
    let x := xsAdd ⟨sum, nan, pinf, ninf⟩ (toXs v)
    .xs x.sum x.nan x.pinf x.ninf poison

/-- Two partials of a word combined. -/
def joinPartial (tag : Nat) : Partial → Partial → Partial
  | .word a, .word b => .word (BitVec.ofNat 64 (tagOp tag a.toNat b.toNat))
  | .xs a an ap am ax, .xs b bn bp bm bx =>
    let x := xsAdd ⟨a, an, ap, am⟩ ⟨b, bn, bp, bm⟩
    .xs x.sum x.nan x.pinf x.ninf (ax || bx)
  | a, _ => a

/-- A word after the merge of its combined partial. -/
def mergeWord (tag base : Nat) : Partial → Nat
  | .word p => tagOp tag base p.toNat
  | .xs sum nan pinf ninf _ => fromXs (xsAdd (toXs base) ⟨sum, nan, pinf, ninf⟩) 0

/-- The combined partial of word k along the holders in ascending cluster index (11 R288). -/
def UAtom.combined (u : UAtom) (k : Nat) : Option Partial :=
  u.holders.foldl (fun acc h =>
    match acc, findBy (fun p => p.1 == k) h.2.2 with
    | none, some p => some p.2
    | some a, some p => some (joinPartial u.tag a p.2)
    | a, none => a) none

/-- The U state of an atom. -/
def State.uatom (s : State) (atom : Nat) : Option UAtom := findBy (fun u => u.atom == atom) s.uatoms

/-- The sync-variable entries of written atoms take the writer (11 R284); the scope stays that of the last `REL`, or is
given. -/
def State.noteWriter (s : State) (atoms : List Nat) (writer : BitVec 16) (scope : Option (BitVec 2)) : State :=
  { s with vars := updBy (fun v => atoms.contains v.atom) (fun v =>
      { v with writer := writer, scope := Option.getD scope v.scope }) s.vars }

/-- The writer field of a cluster's merge unit. -/
def unitWriter (cluster : Nat) : BitVec 16 :=
  BitVec.ofNat 16 (cluster / 24 * 2 ^ 15 + cluster % 24 * 2 ^ 10)

/-- A writer outside DEVICE. -/
def externalWriter : BitVec 16 := 0x7C00#16

/-- Whether a cluster holds a partial of the atom; the totals that were evicted belong to none. -/
def UAtom.real (u : UAtom) : Bool := u.holders.any fun h => h.1 != 48

/-- The logical time of a merge forced at clock c (11 R288). -/
def State.mergeTime (s : State) (u : UAtom) (c : Nat) : Nat := max (max c ((s.stamp u.atom).2 + 1)) u.time

/-- A merge counted, given its time and its writer: the unit that combines is `unit`, or that of the lowest holder. -/
def State.mergeNoted (s : State) (u : UAtom) (t : Nat) (unit : Option Nat) : State :=
  ((s.meter (s.owner (u.atom * 32)) 27 1).setStamp u.atom (t, t)).noteWriter [u.atom]
    (unitWriter (unit.getD ((u.holders.map Prod.fst).foldl min 47))) none

/-- The merge of an atom, forced at clock c (11 R288, R289): the words are combined into the base, the atom leaves U
state, and the merge is one write. An uncorrectable base takes the poison mark; one whose MAC fails stays as it is. -/
def State.mergeAtom (s : State) (atom c : Nat) (unit : Option Nat) : State :=
  match s.uatom atom with
  | none => s
  | some u =>
    let n := tagBytes u.tag
    let words := (List.range (32 / n)).filterMap fun k => (u.combined k).map fun p => (k, p)
    let cells := words.flatMap fun (k, p) =>
      List.zip (addrs (atom * 32 + n * k) n)
        (toBytes n (mergeWord u.tag (ofBytes (s.bytes (atom * 32 + n * k) n)) p))
    let poison := u.bad != [] || words.any fun (_, p) => match p with | .xs _ _ _ _ b => b | .word _ => false
    let r := s.lineRead (atom / 4)
    let t := s.mergeTime u c
    let s := { s with uatoms := dropBy (fun v => v.atom == atom) s.uatoms }
    let s := if r.kind = .uncorrectable then
        ((s.countLine (atom / 4) .uncorrectable).setLine (atom / 4) ⟨true, []⟩).encipher (atom / 4)
      else s.homeWrite cells (if poison then [atom / 4] else [])
    if u.real && !r.bad then s.mergeNoted u t unit else s

/-- The eviction of an atom by a full merge unit (07 R180): a merge, but the total of FADD32X stays exact until an access
forces it, so that the eviction changes no result. DEDUCED, log entry 61. -/
def State.evictAtom (s : State) (atom c cluster : Nat) : State :=
  match s.uatom atom with
  | none => s
  | some u =>
    let r := s.lineRead (atom / 4)
    if u.tag ≠ 9 ∨ r.bad ∨ r.kind = .uncorrectable then s.mergeAtom atom c (some cluster)
    else
      let t := s.mergeTime u c
      let total := (List.range 8).filterMap fun k => (u.combined k).map fun p => (k, p)
      let keep := fun (v : UAtom) => { v with holders := [(48, (0, total))], time := t }
      let s := { s with uatoms := updBy (fun v => v.atom == atom) keep s.uatoms }
      s.mergeNoted u t (some cluster)

/-- Every atom of a list merged. -/
def State.mergeAll (s : State) (atoms : List Nat) (c : Nat) (unit : Option Nat) : State :=
  atoms.foldl (fun t a => t.mergeAtom a c unit) s

/-- The atoms of a list of addresses. -/
def atomsOf (pas : List Nat) : List Nat := distinct (pas.map (· / 32))

/-! ## Ranges (09 R234, 11 R290, R291) -/

/-- Whether an address lies in a range under an X check-out; the copy `but` is exempt. -/
def State.held (s : State) (pas : List Nat) (but : Option Nat) : Bool :=
  s.ranges.any fun r => r.excl && some r.op != but && pas.any fun pa => r.lo ≤ pa / 128 && pa / 128 ≤ r.hi

/-! ## Accesses at the home (11 R276, R293) -/

/-- A read at the home, at its present time: merges first, forced at clock c and combined by `unit` (11 R288), then the
bytes. -/
def State.readHome (s : State) (c : Nat) (unit : Option Nat) (pas : List Nat) : State × List (Byte × Bool) × Option Nat :=
  (s.mergeAll (atomsOf pas) c unit).homeRead pas

/-- A read by an agent without a clock of its own. -/
def State.agentRead (s : State) (pas : List Nat) : State × List (Byte × Bool) × Option Nat := s.readHome 0 none pas

/-- A write at the home: t := rts + 1 for each atom written, and past `after`; the merges it forces are at clock c. -/
def State.writeHome (s : State) (after c : Nat) (unit : Option Nat) (cells : List Host.Cell) (poisoned : List Nat)
    (writer : BitVec 16) (scope : Option (BitVec 2)) : State :=
  let atoms := atomsOf (cells.map Prod.fst)
  let s := s.mergeAll atoms c unit
  let s := atoms.foldl (fun t a => let x := max ((t.stamp a).2 + 1) after; t.setStamp a (x, x)) s
  (s.homeWrite cells poisoned).noteWriter atoms writer scope

/-- A write by an agent outside DEVICE without a clock of its own (11 R293). -/
def State.agentWrite (s : State) (cells : List Host.Cell) (poisoned : List Nat) : State :=
  (s.writeHome 0 0 none cells poisoned externalWriter (some 3#2)).touchRows (distinct (cells.map fun c => c.1 / 128))

end Sys2Proof.Machine
end

