-- ==== Sys2Proof/Machine/Xlate.lean ====
section
/-!
DEFINITION. Sys2Proof/Machine/Xlate.lean: two-stage translation and its caches (17 R386 to R389, 05 R129), and the
error records with the fault buffers they are written to (20 R435 to R437, R485, R444).
-/
namespace Sys2Proof.Machine

/-! ## Page tables (17 R386 to R388) -/

/-- What a page maps to: physical and intermediate address, permissions, kinds, and the logarithms of the sizes of its
pages at stages 1 and 2 and of the lesser. -/
structure Trans where
  pa    : Nat
  ia    : Nat
  r     : Bool
  w     : Bool
  x     : Bool
  vert  : Bool
  near  : Bool
  log   : Nat
  log1  : Nat
  log2  : Nat
deriving DecidableEq, Repr

/-- How a walk ends: a page, a view page (07 R167), or XLATE with its detail, its stage and the line whose MAC failed;
`path` is an address that world 60 may not name (05 R120); `held` a walk that waits on a table under an X check-out (07
R175). -/
inductive Lookup where
  | held
  | ok (t : Trans)
  | view (elem scale fmt : Nat) (sck : Bool)
  | fault (detail stage : Nat) (bad : Option Nat)
  | path
deriving DecidableEq, Repr

/-- The lowest address bit that each level indexes, and its width. -/
def levels : List (Nat × Nat) := [(48, 8), (39, 9), (30, 9), (21, 9), (16, 5)]

/-- Bits `lo` up, `n` of them. -/
def bitsAt (v lo n : Nat) : Nat := v / 2 ^ lo % 2 ^ n

/-- What the walker's read of a 16-byte entry finds: a line whose MAC fails, with the line where it is a polder's,
poison, or a table under an X check-out. -/
inductive EntryRead where
  | ok (e : Nat) | bad (line : Option Nat) | held
deriving DecidableEq, Repr

/-- A 16-byte entry read by the walker (17 R389). -/
def State.entry (s : State) (pa : Nat) : State × EntryRead :=
  if s.held (addrs pa 16) none then (s, .held)
  else
    let (t, bs, bad) := s.agentRead (addrs pa 16)
    match bad with
    | some ln => (t, .bad (if s.owner (ln * 128) = 61 then none else some (ln * 128)))
    | none => if bs.any Prod.snd then (t, .bad none) else (t, .ok (ofBytes (bs.map Prod.fst)))

/-- A table entry's next table, none where malformed; `last` where the next level is 4. -/
def nextTable (e : Nat) (last : Bool) : Option Nat :=
  if bitsAt e 56 72 ≠ 0 ∨ bitsAt e 3 6 ≠ 0 then none
  else
    let a := bitsAt e 9 47 * 512
    if last || a % 8192 = 0 then some a else none

/-- A leaf entry's page, none where malformed; `size` is the page's address bits. -/
def leafPage (e size : Nat) (stage2 : Bool) : Option Nat :=
  let a := bitsAt e 12 44 * 4096
  if bitsAt e 56 72 ≠ 0 ∨ bitsAt e 8 4 ≠ 0 ∨ a % 2 ^ size ≠ 0 then none
  else if !stage2 && bitsAt e 6 2 ≠ 0 then none
  else some a

/-- Stage 2 from a level down. DEDUCED, log entry 14. -/
def walk2 (w ia : Nat) : List (Nat × Nat) → Nat → State → State × Lookup
  | [], _, s => (s, .fault 3 2 none)
  | (lo, n) :: rest, base, s =>
    let pa := base + 16 * bitsAt ia lo n
    if 2 ^ 39 ≤ pa then (s, .fault 3 2 none)
    else
    match s.entry pa with
    | (s, .held) => (s, .held)
    | (s, .bad bad) => (s, .fault 5 2 bad)
    | (s, .ok e) =>
      match e % 8 with
      | 0 => (s, .fault 1 2 none)
      | 1 =>
        if rest = [] then (s, .fault 3 2 none)
        else match nextTable e (rest.length == 1) with
          | none => (s, .fault 3 2 none)
          | some a => walk2 w ia rest a s
      | 2 =>
        if 39 ≤ lo then (s, .fault 3 2 none)
        else match leafPage e lo true with
          | none => (s, .fault 3 2 none)
          | some a =>
            let out := a + ia % 2 ^ lo
            if s.owner out = w ∨ hostWindow out then
              (s, .ok ⟨out, ia, e.testBit 3, e.testBit 4, e.testBit 5, e.testBit 7, e.testBit 6, lo, lo, lo⟩)
            else (s, .fault 4 2 none)
      | _ => (s, .fault 3 2 none)

/-- Stage 2 of an intermediate address. -/
def State.stage2 (s : State) (w ia : Nat) : State × Lookup :=
  walk2 w ia levels (s.polder w).s2root.toNat s

/-- A view leaf's fields, none where malformed (17 R388). -/
def viewLeaf (e : Nat) : Option Lookup :=
  let elem := bitsAt e 8 56
  let scale := bitsAt e 64 56
  let fmt := bitsAt e 4 4
  if bitsAt e 120 8 ≠ 0 ∨ elem % 16 ≠ 0 ∨ scale % 4 ≠ 0 ∨ fmt < 4 ∨ 10 < fmt then none
  else some (.view elem scale fmt (e.testBit 3))

/-- Stage 1 from a level down: each table read passes through stage 2, and so does the leaf's output. -/
def walk1 (w va : Nat) : List (Nat × Nat) → Nat → State → State × Lookup
  | [], _, s => (s, .fault 3 1 none)
  | (lo, n) :: rest, base, s =>
    match s.stage2 w (base + 16 * bitsAt va lo n) with
    | (s, .ok t) =>
      match s.entry t.pa with
      | (s, .held) => (s, .held)
      | (s, .bad bad) => (s, .fault 5 1 bad)
      | (s, .ok e) =>
        match e % 8 with
        | 0 => (s, .fault 1 1 none)
        | 1 =>
          if rest = [] then (s, .fault 3 1 none)
          else match nextTable e (rest.length == 1) with
            | none => (s, .fault 3 1 none)
            | some a => walk1 w va rest a s
        | 2 =>
          if 39 ≤ lo then (s, .fault 3 1 none)
          else match leafPage e lo false with
            | none => (s, .fault 3 1 none)
            | some a =>
              match s.stage2 w (a + va % 2 ^ lo) with
              | (s, .ok t) =>
                (s, .ok { t with r := t.r && e.testBit 3, w := t.w && e.testBit 4, x := t.x && e.testBit 5,
                                 log := min t.log2 lo, log1 := lo })
              | (s, f) => (s, f)
        | 3 =>
          if rest ≠ [] then (s, .fault 3 1 none)
          else match viewLeaf e with
            | none => (s, .fault 3 1 none)
            | some v => (s, v)
        | _ => (s, .fault 3 1 none)
    | (s, f) => (s, f)

/-- What an access needs of a page: 0 read, 1 write, 2 fetch (17 R387), 3 a translation alone. -/
def Trans.grants (t : Trans) (need : Nat) : Bool :=
  match need with
  | 0 => t.r
  | 1 => t.w
  | 2 => t.x
  | _ => true

/-- Whether an agent is a row sequencer. -/
def rsqAgent (agent : Nat) : Bool := 192 ≤ agent && agent < 704

/-- The address bits within what an entry stands for: a row sequencer's is a whole translation (13 R313), another agent's
a 64 KiB page. -/
def entryLog (agent log : Nat) : Nat := if rsqAgent agent then log else 16

/-- The page that a kept translation stands for, at an address. -/
def TlbEntry.trans (e : TlbEntry) (va : Nat) : Trans :=
  let off := va % 2 ^ entryLog e.agent e.log
  ⟨e.pa + off, e.ia + off, e.r, e.w, e.x, e.vert, e.near, e.log, e.log1, e.log2⟩

/-- Whether an entry stands for an address. -/
def TlbEntry.covers (e : TlbEntry) (va : Nat) : Bool :=
  e.page * 65536 / 2 ^ entryLog e.agent e.log == va / 2 ^ entryLog e.agent e.log

/-- The kept translation that an agent may use for an access: the owner check is made at every use (17 R369). -/
def State.cached (s : State) (agent w va need : Nat) : Option Trans :=
  ((findBy (fun e : TlbEntry => e.agent == agent && e.world == w && e.covers va && (e.trans va).grants need)
    s.tlb).map fun e => e.trans va).filter fun t => s.owner t.pa == w || hostWindow t.pa

/-- The first `n` entries that a test picks, with the others. -/
def capBy {α : Type} (f : α → Bool) : Nat → List α → List α
  | _, [] => []
  | n, a :: l => if f a then (match n with | 0 => capBy f 0 l | n + 1 => a :: capBy f n l) else a :: capBy f n l

/-- A translation kept by an agent's cache (05 R129): a row sequencer keeps near-memory translations alone, one entry
each, the 64 latest (13 R313). Which it keeps: DESIGN CHOICE, log entry 55. -/
def State.keep (s : State) (agent w va : Nat) (t : Trans) : State :=
  let off := va % 2 ^ entryLog agent t.log
  let e : TlbEntry := ⟨agent, w, (va - off) / 65536, t.ia - off, t.pa - off, t.r, t.w, t.x, t.vert, t.near,
    t.log, false, t.log1, t.log2, []⟩
  let rest := dropBy (fun d => d.agent == agent && d.world == w && d.covers va && !d.stale) s.tlb
  if rsqAgent agent then
    if t.near && 21 ≤ t.log then
      { s with tlb := e :: capBy (fun d => d.agent == agent && !d.stale) 63 rest }
    else s
  else { s with tlb := e :: rest }

/-- The addresses that world 60 may name on path 0x0 (05 R120): installed memory of no polder, the host's window and the
boot window. -/
def State.physOk (s : State) (va : Nat) : Bool :=
  (va < 2 ^ 39 && 48 ≤ s.owner va && (mapGet Phy.reset s.phys (va / 2 ^ 30)).ready) || hostWindow va || bootWindow va

/-- The translation of an access (05 R129, 17 R386 to R389): a kept translation may be used, else the tables are
walked. In world 60 an address is physical (05 R120), and no page of it is near memory (13 R330); a view page answers
only path 0x5 (17 R388). -/
def State.translate (s : State) (agent w va need : Nat) (view : Bool) : State × Lookup :=
  if w = 60 then
    if s.physOk va then (s, .ok ⟨va, va, true, true, true, false, false, 39, 39, 39⟩) else (s, .path)
  else
    let kept := s.cached agent w va need
    match kept, (if kept.isSome then Config.freeNat s.fresh % 2 else 0) with
    | some t, 1 => (s.draw, .ok t)
    | _, _ =>
      let s := if kept.isSome then s.draw else s
      match walk1 w va levels (s.polder w).s1root.toNat s with
      | (s, .ok t) =>
        if t.grants need then (s.keep agent w va t, .ok t) else (s, .fault 2 1 none)
      | (s, .view e c f k) => if view && need = 0 then (s, .view e c f k) else (s, .fault (if view then 2 else 1) 1 none)
      | (s, f) => (s, f)

/-- The agent number of the device's walkers other than cores and row sequencers. -/
def deviceAgent : Nat := 704

/-! ## Error records (20 R435 to R437, R485) -/

/-- The 64 bytes of a record. -/
def Record.toBytes (r : Record) : List Byte :=
  [r.cause, r.detail, r.lane, r.flags] ++ Machine.toBytes 4 r.index.toNat ++ Machine.toBytes 8 r.pc.toNat ++
  Machine.toBytes 8 r.addr.toNat ++ Machine.toBytes 8 r.mask.toNat ++ Machine.toBytes 8 r.aux.toNat ++
  Machine.toBytes 4 r.seq.toNat ++ Machine.toBytes 4 r.link.toNat ++ Machine.toBytes 4 r.gridid.toNat ++
  Machine.toBytes 4 r.origin.toNat ++ Machine.toBytes 4 r.teamlo.toNat ++ Machine.toBytes 4 r.resume.toNat

/-- A record with nothing in it. -/
def Record.empty : Record :=
  ⟨0#8, 0#8, 0xFF#8, 0#8, 0#32, 0#64, 0#64, 0#64, 0#64, 0#32, 0#32, 0#32, 0#32, 0#32, 1#32⟩

/-- The sequence number after one, 0 skipped. -/
def seqNext (q : BitVec 32) : BitVec 32 := if q + 1#32 = 0#32 then 1#32 else q + 1#32

/-- Saturating increment of a 32-bit counter. -/
def satInc32 (d : Word) : Word := if d = -1#32 then d else d + 1#32

/-- A record formed: it takes the next sequence number of its polder, or of the physical function for world 60. -/
def State.form (s : State) (w : Nat) (r : Record) : State × Record :=
  if w < 48 then
    let p := s.polder w
    ((s.setPolder w { p with seq := seqNext p.seq }).meter w 31 1, { r with seq := p.seq })
  else ({ s with trust := { s.trust with pfseq := seqNext s.trust.pfseq } }, { r with seq := s.trust.pfseq })

/-- A record written to the physical function's ring, its world in ORIGIN bits 15:8 (20 R485); it waits where the entry
lies under an X check-out (11 R291). One whose line fails its MAC is dropped. DEDUCED, log entry 18. -/
def State.postPf (s : State) (w : Nat) (r : Record) : State :=
  let t := s.trust
  let drop := { t with pflost := satInc32 t.pflost }
  let at_ := t.pfbbase.toNat + 64 * (t.pfbhead.toNat % t.pfbsize.toNat)
  if t.pfbsize = 0#64 ∨ t.pfbhead - t.pfbtail = t.pfbsize then { s with trust := drop }
  else if s.owner at_ ≠ 61 then { s with trust := { drop with waddr := true } }
  else if s.held (addrs at_ 64) none then { s with trust := { t with pfwait := t.pfwait ++ [(w, r)] } }
  else
    let r := { r with origin := (r.origin &&& 0xFFFF00FF#32) ||| BitVec.ofNat 32 (w * 256) }
    let cells := List.zip (addrs at_ 64) r.toBytes
    if (s.badWrite cells).isSome then { s with trust := drop }
    else
    let s := s.agentWrite cells []
    { s with trust := { s.trust with pfbhead := s.trust.pfbhead + 1#64 } }

/-- What became of a record at the polder's fault buffer. -/
inductive Posted where
  | written | dropped | waits | wfault
deriving DecidableEq, Repr

/-- A record dropped by a polder's buffer and counted in LOST; `f` sets WFAULT. -/
def State.loseRecord (s : State) (w : Nat) (f : Bool) : State :=
  let p := s.polder w
  s.setPolder w { p with lost := satInc32 p.lost, wfault := p.wfault || f }

/-- A record that waits for room, or for a range under X over its entry. -/
def State.waitRecord (s : State) (w : Nat) (r : Record) : State :=
  s.setPolder w { s.polder w with waitrec := (s.polder w).waitrec ++ [r] }

/-- Whether a polder is in a state from which the table of R379 (17) takes an integrity event. -/
def Polder.armed (p : Polder) : Bool := p.state == .unlocked || p.state == .locked || p.state == .run

/-- A record offered to the polder's fault buffer (20 R437). FBHEAD advances only after the write: one that meets a failed
MAC is dropped, and the polder's integrity event follows. DEDUCED, log entry 18. -/
def State.postOwn (s : State) (w : Nat) (r : Record) : State × Posted :=
  let p := s.polder w
  if p.fbsize = 0#64 then (s.loseRecord w false, .dropped)
  else if p.fbhead - p.fbtail = p.fbsize then
    if r.flags.getLsbD 5 then (s.waitRecord w r, .waits) else (s.loseRecord w false, .dropped)
  else
    match s.translate deviceAgent w (p.fbbase.toNat + 64 * (p.fbhead.toNat % p.fbsize.toNat)) 1 false with
    | (s, .held) => (s.waitRecord w r, .waits)
    | (s, .ok t) =>
      let cells := List.zip (addrs t.pa 64) r.toBytes
      if s.held (addrs t.pa 64) none then (s.waitRecord w r, .waits)
      else if hostWindow t.pa then
        ((s.hostWrite cells).setPolder w { s.polder w with fbhead := (s.polder w).fbhead + 1#64 }, .written)
      else match s.badWrite cells with
        | some ln => ((if (s.polder w).armed then s.alarm ln else s).loseRecord w false, .dropped)
        | none =>
          let s := s.agentWrite cells []
          (s.setPolder w { s.polder w with fbhead := (s.polder w).fbhead + 1#64 }, .written)
    | (s, _) => (s.loseRecord w true, .wfault)

/-- A record offered to its buffer: world 60's go to the physical function's ring, and a record whose PF flag is set is
copied there. -/
def State.post (s : State) (w : Nat) (r : Record) : State × Posted :=
  if 48 ≤ w then (s.postPf w r, .written)
  else (if r.flags.getLsbD 6 then s.postPf w r else s).postOwn w r

/-- The waiting records written, oldest first, once a range under X that held them back is released (07 R175); one that
cannot be written stays until room is made. -/
def State.postWaiting (s : State) (w : Nat) : Nat → State
  | 0 => s
  | n + 1 =>
    let p := s.polder w
    match p.waitrec with
    | [] => s
    | r :: rs =>
      if p.fbhead - p.fbtail = p.fbsize then s
      else
        match (s.setPolder w { p with waitrec := rs }).postOwn w r with
        | (t, .written) => t.postWaiting w n
        | (t, .waits) => t
        | _ => s

/-- The records that waited for a range over the physical function's ring, offered again. -/
def State.postPfWaiting (s : State) : State :=
  s.trust.pfwait.foldl (fun s e => s.postPf e.1 e.2) { s with trust := { s.trust with pfwait := [] } }

/-- The integrity event of a polder at a physical address (20 R444): it is quarantined, and its record, with PF set, is
written; a polder in a state that the table of R379 (17) gives no such event keeps its state. Lines of no polder raise
only a record of world 60. -/
def State.integrity (s : State) (pa : Nat) : State :=
  let w := s.owner pa
  let r := { Record.empty with cause := 0x21#8, flags := 0x40#8, addr := BitVec.ofNat 64 pa, origin := 5#32 }
  if w < 48 then
    let p := s.polder w
    let s := if p.armed then s.setPolder w { p with state := .quarantined } else s
    let (s, r) := s.form w r
    (s.post w r).1
  else
    let (s, r) := s.form 60 r
    s.postPf 60 r

/-- The integrity events of the writes that met a failed MAC, one for each line. -/
def State.takeAlarms (s : State) : State := (distinct s.alarms).foldl (fun s pa => s.integrity pa) { s with alarms := [] }

/-- The integrity event of a failed MAC found by a walk or an access, if any. -/
def State.integrityOf (s : State) : Option Nat → State
  | none => s
  | some pa => s.integrity pa

/-- A translation whose failed MACs quarantine the owner of the line. -/
def State.xlate (s : State) (agent w va need : Nat) (view : Bool) : State × Lookup :=
  match s.translate agent w va need view with
  | (s, .fault d g bad) => (s.integrityOf bad, .fault d g none)
  | (s, r) => (s, r)

end Sys2Proof.Machine
end

