-- ==== Sys2Proof/Machine/Ops.lean ====
section
/-!
DEFINITION. Sys2Proof/Machine/Ops.lean: the operations the meanings share: finding objects, registers and frames, the
frame pools (10 R263), taking a trap and returning from one (20 R435 to R441), ending groups and teams (08 R199, 10
R261), and the issue of one instruction word (02 R37, R41).
-/
namespace Sys2Proof.Machine

/-- How a step of the machine ends. -/
abbrev Outcome := Host.Outcome State Fault Refusal

/-! ## Objects by number -/

def State.group (s : State) (gid : Nat) : Option Group := findBy (fun g => g.gid == gid) s.groups
def State.modGroup (s : State) (gid : Nat) (f : Group → Group) : State :=
  { s with groups := updBy (fun g => g.gid == gid) f s.groups }
/-- A group of a saved team changed (21 R450). -/
def State.modSaved (s : State) (gid : Nat) (f : Group → Group) : State :=
  if (s.group gid).isSome then s
  else { s with pldrs := s.pldrs.map fun e =>
           (e.1, { e.2 with saved := e.2.saved.map fun v =>
             { v with groups := updBy (fun g => g.gid == gid) f v.groups } }) }
/-- A group put in the place of the one with its number. -/
def State.putGroup (s : State) (g : Group) : State := s.modGroup g.gid fun _ => g
def State.team (s : State) (key : Nat) : Option Team := findBy (fun t => t.key == key) s.teams
def State.modTeam (s : State) (key : Nat) (f : Team → Team) : State :=
  { s with teams := updBy (fun t => t.key == key) f s.teams }
def State.grid (s : State) (key : Nat) : Option Grid := findBy (fun t => t.key == key) s.grids
def State.modGrid (s : State) (key : Nat) (f : Grid → Grid) : State :=
  { s with grids := updBy (fun t => t.key == key) f s.grids }
def State.op (s : State) (id : Nat) : Option Op := findBy (fun o => o.id == id) s.ops
def State.modOp (s : State) (id : Nat) (f : Op → Op) : State :=
  { s with ops := updBy (fun o => o.id == id) f s.ops }
def State.block (s : State) (id : Nat) : Option Block := findBy (fun b => b.id == id) s.blocks
def State.modBlock (s : State) (id : Nat) (f : Block → Block) : State :=
  { s with blocks := updBy (fun b => b.id == id) f s.blocks }
def State.task (s : State) (id : Nat) : Option Task := findBy (fun t => t.id == id) s.tasks
def State.modTask (s : State) (id : Nat) (f : Task → Task) : State :=
  { s with tasks := updBy (fun t => t.id == id) f s.tasks }
def State.graph (s : State) (key : Nat) : Option Graph := findBy (fun t => t.key == key) s.graphs
def State.modGraph (s : State) (key : Nat) (f : Graph → Graph) : State :=
  { s with graphs := updBy (fun t => t.key == key) f s.graphs }
/-- The nodes known by a number changed. -/
def State.modNode (s : State) (key : Nat) (f : Node → Node) : State :=
  { s with graphs := s.graphs.map fun k =>
      { k with nodes := updBy (fun n => n.key == key && key != 0) f k.nodes } }
/-- An error recorded against a team, or the graph node known by the number. -/
def State.blame (s : State) (key : Nat) : State :=
  let s := (s.modTeam key fun t => { t with error := true }).modNode key fun n => { n with bad := true }
  let one := fun (v : Saved) => if v.team.key = key then { v with team := { v.team with error := true } } else v
  { s with pldrs := s.pldrs.map fun e => (e.1, { e.2 with saved := e.2.saved.map one }) }
def State.queue (s : State) (gang obj : Nat) : Option Queue :=
  findBy (fun q => q.gang == gang && q.obj == obj) s.queues
def State.modQueue (s : State) (gang obj : Nat) (f : Queue → Queue) : State :=
  { s with queues := updBy (fun q => q.gang == gang && q.obj == obj) f s.queues }
/-- A new object number, and the machine with the counter advanced. -/
def State.newId (s : State) : State := { s with ids := s.ids + 1 }

/-- The gang of a group. -/
def State.gangOf (s : State) (g : Group) : Nat := ((s.team g.team).map (·.gang)).getD 0
/-- TRAPENT of a group's kernel. -/
def State.trapent (s : State) (g : Group) : DWord := ((s.team g.team).map (·.kernel.trapent)).getD 0#64

/-! ## Lanes and registers (01) -/

/-- The lanes of a mask, ascending. -/
def maskLanes (m : Mask) : List Nat := (List.range 64).filter m.getLsbD
/-- The mask of a list of lanes. -/
def laneMask (ls : List Nat) : Mask := ls.foldl (fun m l => m ||| BitVec.ofNat 64 (2 ^ l)) 0#64

def Group.lane (g : Group) (l : Nat) : Lane := mapGet Lane.none g.lanes l

/-- Each lane that a test picks, changed. -/
def Group.mapLanes (g : Group) (p : Nat → Bool) (f : Nat → Lane → Lane) : Group :=
  { g with lanes := g.lanes.map fun e => if p e.1 then (e.1, f e.1 e.2) else e }

/-- Whether a lane holds a thread that has not exited. -/
def Lane.live (l : Lane) : Bool := l.pcv != exitPc
/-- The lanes parked in any J register (01 R22). -/
def Group.parked (g : Group) : Mask := g.jregs.foldl (fun m e => m ||| e.2) 0#64
def Group.jreg (g : Group) (k : Nat) : Mask := mapGet 0#64 g.jregs k
/-- The live lanes. -/
def Group.liveLanes (g : Group) : List Nat := (g.lanes.filter fun e => e.2.live).map Prod.fst
/-- The lanes waiting to issue (10 R253). -/
def Group.ready (g : Group) : List Nat := g.liveLanes.filter fun l => !g.parked.getLsbD l

/-- The number of frames above the first (08 Frames). -/
def Lane.depth (l : Lane) : Nat := l.chain.length - 1
/-- The identity of the current frame. -/
def Lane.fid (l : Lane) : Nat := (l.chain.head?.map (·.fid)).getD 0
def Group.frame (g : Group) (fid : Nat) : Option Frame := findBy (fun f => f.fid == fid) g.frames
/-- The declared count of a lane's current frame, 0 where it has none. -/
def Group.declared (g : Group) (l : Nat) : Nat :=
  match (g.lane l).chain with
  | [] => 0
  | f :: _ => ((g.frame f.fid).map (·.count)).getD 0

/-- V[r] of the current frame. -/
def Lane.vreg (l : Lane) (r : Nat) : Reg :=
  match l.chain with
  | [] => ⟨0#32, false⟩
  | f :: _ => mapGet ⟨0#32, false⟩ f.regs r
/-- A frame's register written. -/
def LaneFrame.set (f : LaneFrame) (r : Nat) (v : Reg) : LaneFrame :=
  { f with regs := mapSet ⟨0#32, false⟩ f.regs r v }
/-- V[r] of the current frame written. -/
def Lane.setV (l : Lane) (r : Nat) (v : Reg) : Lane :=
  { l with chain := match l.chain with
      | [] => []
      | f :: fs => f.set r v :: fs }
/-- V[r] of a frame of the chain written. -/
def Lane.setVAt (l : Lane) (fid r : Nat) (v : Reg) : Lane :=
  { l with chain := updBy (fun f => f.fid == fid) (fun f => f.set r v) l.chain }
/-- Several registers written. -/
def Lane.setVs (l : Lane) (ws : List (Nat × Reg)) : Lane := ws.foldl (fun l w => l.setV w.1 w.2) l

/-- What an instruction writes: for each written lane its registers. -/
abbrev Writes := List (Nat × List (Nat × Reg))
/-- Whether any of the writes is poisoned. -/
def Writes.poisoned (ws : Writes) : Bool := ws.any fun w => w.2.any fun r => r.2.poison
/-- Lanes written whole, all at once; a poisoned result sets PSN (06 R134, R136). -/
def Group.writeV (g : Group) (ws : Writes) : Group :=
  (g.mapLanes (fun l => ws.any fun w => w.1 == l) fun l n =>
    n.setVs ((findBy (fun w => w.1 == l) ws).elim [] Prod.snd)).stick psnBit ws.poisoned

/-- S[n]: S0 reads zero. -/
def Group.sreg (g : Group) (n : Nat) : SReg := if n = 0 then ⟨0#64, false⟩ else mapGet ⟨0#64, false⟩ g.sregs n
/-- S[n] written: a write to S0 is discarded with its poison; a poisoned result sets PSN (05 R111). -/
def Group.setS (g : Group) (n : Nat) (v : SReg) : Group :=
  if n = 0 then g else { g with sregs := mapSet ⟨0#64, false⟩ g.sregs n v }.stick psnBit v.poison

/-- The contributing lanes: in the clause with the guard true (02 R46). -/
def Group.contributing (g : Group) (i : Issue) (gd : BitVec 4) : List Nat :=
  (maskLanes i.lanes).filter fun l => (g.lane l).guard gd

/-- The logical clock raised (11 R277). -/
def Group.raise (g : Group) (t : Nat) : Group := { g with lclock := max g.lclock t }
/-- The logical clock advanced by the passage of cycles (11 R277). -/
def Group.tick (g : Group) (cycles : Nat) : Group :=
  { g with lclock := g.lclock + (g.lcfrac + cycles) / 2048, lcfrac := (g.lcfrac + cycles) % 2048 }

/-! ## Interlock (02 R38) -/

/-- The registers that a load of a width writes: 1 for up to 4 bytes. -/
def widthRegs (width : Nat) : Nat := if width ≤ 4 then 1 else width / 4

/-- The V registers (lane, frame, register) that outstanding loads of a group will write. -/
def State.pendingLoads (s : State) (gid : Nat) : List (Nat × Nat × Nat) :=
  s.ops.flatMap fun o =>
    match o.kind with
    | .load dst width _ false accs =>
      if o.gid = gid ∧ o.done = false then
        accs.flatMap fun a => (List.range (widthRegs width)).map fun k => (a.lane, a.fid, dst + k)
      else []
    | _ => []

/-- Those that replies of its blocks will write, of the blocks that a test picks. -/
def State.pendingReplies (s : State) (gid : Nat) (f : Block → Bool) : List (Nat × Nat × Nat) :=
  s.blocks.flatMap fun b =>
    if b.gid = gid ∧ b.qobj = none ∧ b.graph = none ∧ b.stage ≠ .delivered ∧ f b then
      [(b.lane, b.fid, b.dst), (b.lane, b.fid, b.dst + 1)] else []

/-- The V registers that outstanding operations of a group will write, those of parked lanes among them. -/
def State.pendingV (s : State) (gid : Nat) : List (Nat × Nat × Nat) :=
  s.pendingLoads gid ++ s.pendingReplies gid fun _ => true

/-- The S registers that outstanding operations of a group will write. -/
def State.pendingS (s : State) (gid : Nat) : List Nat :=
  s.ops.filterMap fun o =>
    match o.kind with
    | .load dst _ _ true _ => if o.gid = gid ∧ o.done = false then some dst else none
    | _ => none

/-- Whether a pending write is of one of these V registers in the current frame of one of these lanes. -/
def Group.names (g : Group) (lanes vs : List Nat) (p : Nat × Nat × Nat) : Bool :=
  vs.contains p.2.2 && lanes.contains p.1 && p.2.1 == (g.lane p.1).fid

/-- Whether an instruction that names these V registers in these lanes and these S registers must wait. -/
def State.hazard (s : State) (g : Group) (lanes vs ss : List Nat) : Bool :=
  (s.pendingV g.gid).any (g.names lanes vs) || (s.pendingS g.gid).any ss.contains

/-- Whether a cross-lane read of V[r] must wait: not on the reply of a parked lane (06 R155). -/
def State.peekHazard (s : State) (g : Group) (r : Nat) : Bool :=
  (s.pendingLoads g.gid ++ s.pendingReplies g.gid fun b => b.parked.isNone).any (g.names g.liveLanes [r])

/-! ## Frame pools (10 R263 to R266) -/

/-- The granules of a declared count (01 R16). -/
def granules (d : Nat) : Nat := (d + 7) / 8

/-- A pool: a core, and the grid of a private pool. -/
abbrev Pool := Nat × Option Nat

def State.poolcap (s : State) (grid : Nat) : Nat := ((s.grid grid).map (·.poolcap)).getD 0
/-- The pool that a grid's frames on a core draw on. -/
def State.poolOf (s : State) (core grid : Nat) : Pool := (core, if s.poolcap grid = 0 then none else some grid)
/-- The usable granules of a pool. -/
def State.usable (s : State) (p : Pool) : Nat :=
  match p.2 with
  | some k => s.poolcap k
  | none => 1024 - (s.grids.foldl (fun n k =>
      if s.teams.any (fun t => t.grid == k.key && t.core == p.1) then n + k.poolcap else n) 0)

/-- The granules a group's frames hold: none while swapped out, none for a spilled frame. -/
def Group.held' (g : Group) : Nat :=
  if g.swapped then 0 else (g.frames.filter fun f => !f.spilled).foldl (fun n f => n + granules f.count) 0

/-- The granules of a pool in use, served requests included. -/
def State.inUse (s : State) (p : Pool) : Nat :=
  s.groups.foldl (fun n g =>
    if s.poolOf g.core g.grid = p then
      n + g.held' + (match g.request with | some r => if r.served then r.granules else 0 | none => 0)
    else n) 0

/-- The lowest free group slot of a core. -/
def State.freeSlot (s : State) (core : Nat) : Option Nat :=
  findBy (fun k => !s.groups.any fun g => g.core == core && g.slot == k) (List.range 256)

/-- The cycle at which a bin became ready to launch, with its 64th record or its timer, none while it is not (08 R201, 10
R261). -/
def Bin.ready (b : Bin) (timer : Nat) : Option Nat :=
  let full := (b.recs[63]?).map (·.posted)
  let late := if b.due then b.recs.head?.map fun r => r.posted + timer else none
  match full, late with
  | some x, some y => some (min x y)
  | x, y => x.or y

/-- The requests that wait on a pool: age, tie and granules. Bins and ready tasks wait where a group slot is free, and, as
they have no GRPID yet, stand behind every group of their age. DEDUCED, log entry 22. -/
def State.waiters (s : State) (p : Pool) : List (Nat × Nat × Nat) :=
  (s.groups.filterMap fun g =>
    match g.request with
    | some r => if !r.served && s.poolOf g.core g.grid = p then some (r.age, g.slot, r.granules) else none
    | none => none) ++
  (s.groups.flatMap fun g =>
    if s.poolOf g.core g.grid = p ∧ g.swapped = false then g.restores.map fun r => (r.age, g.slot, r.granules) else []) ++
  (if (s.freeSlot p.1).isNone then [] else
    (s.teams.flatMap fun t =>
      if t.core = p.1 ∧ s.poolOf t.core t.grid = p then
        (t.bins.filterMap fun b => (b.ready t.kernel.timer).map fun a => (a, 256, granules t.kernel.frame)) ++
        (s.tasks.filterMap fun k =>
          if k.team = t.key ∧ k.stage = .ready then some (k.age, 256, granules t.kernel.frame) else none)
      else []))

/-- Whether a request of an age can be served: it fits and no other request is older (10 R263). -/
def State.canServe (s : State) (p : Pool) (age tie need : Nat) : Bool :=
  s.inUse p + need ≤ s.usable p &&
  (s.waiters p).all fun w => age < w.1 || (age == w.1 && tie ≤ w.2.1)

/-! ## Queue bindings (08 R210 to R213, 10 R259, R260) -/

/-- A consumer's binding ended: entries discarded, later pushes discarded. -/
def Queue.endConsumer (q : Queue) : Queue := { q with consumer := none, drained := true, entries := [] }

/-- Every binding of a group ended, as `QCLOSE` ends one, or as a fault with a record. -/
def State.endBindings (s : State) (g : Group) (fault : Option (BitVec 32)) : State :=
  let gang := s.gangOf g
  let s := g.qregs.foldl (fun s e =>
    s.modQueue gang e.2.obj fun q =>
      if e.2.producer then
        if q.producer = .group g.gid then
          { q with producer := match fault with | some n => .faulted n | none => .closed } else q
      else if q.consumer = some g.gid then q.endConsumer else q) s
  s.modGroup g.gid fun g => { g with qregs := [] }

/-! ## Ends of frames, groups and teams -/

/-- SPILLED follows the frames in the spill area (01 R25). -/
def Group.noteSpill (g : Group) : Group :=
  { g with gstat := if g.frames.any (·.spilled) then g.gstat ||| spilledBit else g.gstat &&& ~~~spilledBit }

/-- Frames without members are released once no outstanding operation will write into them, or, of a group whose lanes
have all exited, once its flags are zero (02 R39); what belongs to them goes with them. -/
def State.releaseFrames (s : State) (gid : Nat) : State :=
  let pv := s.pendingV gid
  s.modGroup gid fun g =>
    let keep := fun (fid : Nat) =>
      (g.lanes.any fun e => e.2.chain.any fun c => c.fid == fid) || (pv.any fun p => p.2.1 == fid) ||
        (g.liveLanes == [] && g.flags != [])
    { g with frames := g.frames.filter fun f => keep f.fid,
             restores := g.restores.filter fun r => match r.use with
               | .restore fid => g.liveLanes.any fun l => (g.lane l).fid == fid
               | _ => false,
             faults := g.faults.filter fun e => keep e.1 }.noteSpill

/-- The team's walk. -/
def State.walkOf (s : State) (team : Nat) : Option Walk := findBy (fun w => w.team == team) s.walks

/-- A team ends when its groups, bins, walk and tasks are all done (10 R261) and no operation or bank call of its groups
is outstanding (12 R298, R310); the gang's queues end with its last team (10 R259). -/
def State.reap (s : State) (key : Nat) : State :=
  match s.team key with
  | none => s
  | some t =>
    if (s.groups.any fun g => g.team == key) || (t.bins.any fun b => b.recs != []) || (s.walkOf key).isSome ||
        (s.tasks.any fun k => k.team == key) || (s.blocks.any fun b => b.team == key && b.graph.isNone) ||
        (s.ops.any fun o => o.team == key || (match o.kind with | .matrix m => m.follower == key | _ => false)) then s
    else
      let s := { s with teams := dropBy (fun u => u.key == key) s.teams }
      let s := s.modGrid t.grid fun k => { k with ended := k.ended + 1, error := k.error || t.error }
      if s.teams.any (fun u => u.gang == t.gang) then s
      else { s with queues := dropBy (fun q => q.gang == t.gang) s.queues }

/-- Whether a group has ended: every lane exited, every flag zero, no register write and no reply outstanding (01 R19,
02 R39, 20 R329). -/
def State.groupOver (s : State) (g : Group) : Bool :=
  g.liveLanes == [] && g.flags == [] && s.pendingV g.gid == [] && s.pendingS g.gid == [] &&
  !(s.blocks.any fun b => b.gid == g.gid && b.graph.isNone) && g.request.isNone && g.held.isNone

/-- A record offered to the fault buffer, whatever becomes of it. -/
def State.postOnly (s : State) (w : Nat) (r : Record) : State := (s.post w r).1

/-- The end of a group: bindings end, as a fault does where a trap of its lanes did not resume (08 R213), the slot is
freed, a task's outputs are next, the team may end (08 R199). -/
def State.endGroup (s : State) (g : Group) : State :=
  let s := s.endBindings g g.lapsed
  let s := s.modGrid g.grid fun k => { k with clock := max k.clock g.lclock }
  let s := s.modTeam g.team fun t => { t with past := t.past ++ [(g.gid, g.slot)] }
  let s := { s with groups := dropBy (fun h => h.gid == g.gid) s.groups,
                    ops := updBy (fun o => o.gid == g.gid) (fun o => { o with time := max o.time g.lclock }) s.ops }
  let s := match g.kind with
    | .task t _ _ _ _ => s.modTask t fun k => { k with stage := .outputs, clock := max k.clock g.lclock }
    | _ => s
  let s := g.asyncs.foldl (fun s r => (s.modTeam g.team fun t => { t with error := true }).postOnly g.world r) s
  s.reap g.team

/-- Frames released, and the group ended where it is over. -/
def State.settle (s : State) (gid : Nat) : State :=
  let s := s.releaseFrames gid
  match s.group gid with
  | some g => if s.groupOver g then s.endGroup g else s
  | none => s

/-- A lane's exit (08 R199). -/
def Lane.exited (l : Lane) : Lane := { l with pcv := exitPc, chain := [], resume := .none, back := 0 }

/-! ## Traps (20 R435 to R441) -/

/-- A condition that an instruction raises: cause, DETAIL, the lanes that failed, INDEX, ADDR, AUX, LINK.
Which lanes and index a record names where several fail: DEDUCED, log entry 17. -/
structure Cond where
  cause  : Nat
  detail : Nat := 0
  mask   : Mask := 0#64
  index  : Nat := 0
  addr   : Nat := 0
  aux    : Nat := 0
  link   : BitVec 32 := 0#32
deriving DecidableEq, Repr

/-- ILLEGAL_OP and its kin by number (08 R219). -/
def illegalOp : Nat := 0x01
def regBound : Nat := 0x02
def addrPath : Nat := 0x03
def addrAlign : Nat := 0x04
def xlateCause : Nat := 0x05
def poisonUse : Nat := 0x06
def queueOrphan : Nat := 0x07
def queueBind : Nat := 0x08
def uniformity : Nat := 0x09
def walkOrder : Nat := 0x0A
def checkoutConflict : Nat := 0x0B
def frameDepth : Nat := 0x0C
def frameLimit : Nat := 0x0D
def spillFull : Nat := 0x0E
def syncState : Nat := 0x0F
def spawnLimit : Nat := 0x10
def recordCause : Nat := 0x11
def userCause : Nat := 0x12
def rowFault : Nat := 0x20

/-- The lowest set bit of a mask, 0xFF where it is empty. -/
def lowestLane (m : Mask) : Nat := ((maskLanes m).head?).getD 255

/-- Whether a record is replayable (20 R436). -/
def Cond.replay (c : Cond) : Bool := c.cause == xlateCause && (c.detail == 1 || c.detail == 2)

/-- FLAGS from the condition: REPLAY, and PF for a translation that the physical function is told of (17 R389). -/
def Cond.flags (c : Cond) : Nat :=
  (if c.replay then 1 else 0) + (if c.cause = xlateCause ∧ 3 ≤ c.detail then 64 else 0)

/-- ORIGIN: core, group slot and source (20 R435). -/
def originOf (core slot source : Nat) : BitVec 32 := BitVec.ofNat 32 (core * 2 ^ 24 + slot * 2 ^ 16 + source)

/-- The record of a condition, before it takes a sequence number. -/
def Cond.record (c : Cond) (pc : DWord) (flags gridid teamlo : Nat) (origin : BitVec 32) : Record :=
  { cause := BitVec.ofNat 8 c.cause, detail := BitVec.ofNat 8 c.detail, lane := BitVec.ofNat 8 (lowestLane c.mask),
    flags := BitVec.ofNat 8 (c.flags + flags), index := BitVec.ofNat 32 c.index, pc := pc,
    addr := BitVec.ofNat 64 c.addr, mask := c.mask, aux := BitVec.ofNat 64 c.aux, seq := 0#32, link := c.link,
    gridid := BitVec.ofNat 32 gridid, origin := origin, teamlo := BitVec.ofNat 32 teamlo,
    resume := if c.replay then 0#32 else 1#32 }

/-- GRIDID of a group's launch. -/
def State.gridid (s : State) (g : Group) : Nat := ((s.grid g.grid).map (·.gridid.toNat)).getD 0
/-- TEAMID of a group. -/
def State.teamid (s : State) (g : Group) : Nat := ((s.team g.team).map (·.teamid)).getD 0

/-- The return address of a lane's frame, and the trap that the frame stands for in the lane: its own where a `REGROUP`
kept one (10 R262). -/
def Frame.retOf (f : Frame) (l : Nat) : DWord := ((findBy (fun e => e.1 == l) f.rets).map Prod.snd).getD f.ret
def Frame.pointOf (f : Frame) (l : Nat) : Option TrapPoint :=
  ((findBy (fun e => e.1 == l) f.points).map Prod.snd).getD f.trap

/-- Whether a lane of a mask stands in a trap frame (20 R435, NESTED). DEDUCED, log entry 20. -/
def Group.inTrap (g : Group) (members : Mask) : Bool :=
  (maskLanes members).any fun l => ((g.frame (g.lane l).fid).bind (·.pointOf l)).isSome

/-- The record of a group's condition. -/
def State.groupRecord (s : State) (g : Group) (members : Mask) (c : Cond) (pc : DWord) (flags : Nat) : Record :=
  c.record pc (flags + (if g.inTrap members then 8 else 0)) (s.gridid g) (s.teamid g) (originOf g.core g.slot 0)

/-- Word i of a record. -/
def Record.word (r : Record) (i : Nat) : Word := BitVec.ofNat 32 (ofBytes ((r.toBytes.drop (4 * i)).take 4))

/-- A group that leaves the word it stands at: nothing of a waiting instruction stands, and a recorded arrival does not
count (08 R204). -/
def Group.dropped (g : Group) : Group :=
  { g with issue := none, popped := [], spush := none, second := none, passed := none, atoms := [], launching := none,
           since := none, waiting := .no }

/-- The barrier at which the group stands that has completed and has not let it pass. -/
def Group.barDone (g : Group) : Option (Bool × Nat) := match g.waiting with | .barrier x n true => some (x, n) | _ => none

/-- Every lane exits, the bindings end as a fault does, and the team has a recorded error (20 R441). -/
def State.exitAll (s : State) (gid : Nat) (seq : BitVec 32) : State :=
  match s.group gid with
  | none => s
  | some g =>
    let s := s.endBindings g (some seq)
    let s := s.modTeam g.team fun t => { t with error := true }
    let s := s.modGroup gid fun g =>
      { (g.mapLanes (fun _ => true) (fun _ l => l.exited)).dropped with
        request := none, restores := [], held := none, heldTrap := none, latch := none }
    s.settle gid

/-- An undelivered trap: the record with UNDELIVERED set, then the group's end (20 R441). -/
def State.undelivered (s : State) (gid world : Nat) (r : Record) : State :=
  ((s.post world { r with flags := r.flags ||| 16#8 }).1).exitAll gid r.seq

/-- The trap frame opened for the members: V0 to V15 hold the record, PCV is TRAPENT (20 R439). -/
def State.enterTrap (s : State) (gid : Nat) (t : PendingTrap) : State :=
  match s.group gid with
  | none => s
  | some g =>
    let entry := s.trapent g
    let s := (s.post g.world t.record).1
    let fid := s.ids
    let regs := (List.range 16).foldl (fun m i => mapSet ⟨0#32, false⟩ m i ⟨t.record.word i, false⟩) []
    s.newId.modGroup gid fun g =>
      { (g.mapLanes t.members.getLsbD (fun _ l =>
          { l with pcv := entry, chain := ⟨fid, regs⟩ :: l.chain, resume := none, back := 0 })).dropped with
        frames := g.frames ++ [⟨fid, 32, t.hdr, some t.point, false, fid, [], []⟩],
        faults := g.faults ++ [(fid, t.record.seq)],
        request := none, latch := none }

/-- The granules of a trap frame, declared count 32. -/
def trapGranules : Nat := 4

/-- A trap of a group for members at a header, with the point to return to: held (20 R438), undelivered (R441), entered
at once, or waiting for its frame (R439). A completed barrier that has not let the group pass is kept with the point (08
R204). -/
def State.trap (s : State) (gid : Nat) (hdr : DWord) (members : Mask) (point : TrapPoint) (r : Record) : State :=
  match s.group gid with
  | none => s
  | some g =>
    let zero := s.trapent g = 0#64
    let point := { point with bar := g.barDone }
    if zero && r.flags.getLsbD 0 && !r.flags.getLsbD 1 && g.world < 48 && (s.polder g.world).state != .releasing then
      let (s, r) := s.form g.world { r with flags := r.flags ||| 32#8 }
      let t : PendingTrap := ⟨r, members, hdr, point⟩
      match s.post g.world r with
      | (s, .written) | (s, .waits) =>
        s.modGroup gid fun g => { g with held := some r.seq, heldTrap := some t, second := none }
      | (s, _) => s.exitAll gid r.seq
    else
      let (s, r) := if r.seq = 0#32 then s.form g.world r else (s, r)
      let p := s.poolOf g.core g.grid
      let deep := (maskLanes members).any fun l => (g.lane l).depth = 255
      if zero || deep || s.usable p < g.held' + trapGranules then s.undelivered gid g.world r
      else if s.canServe p s.clock g.slot trapGranules then s.enterTrap gid ⟨r, members, hdr, point⟩
      else s.modGroup gid fun g =>
        { g.dropped with request := some ⟨s.clock, trapGranules, .trap ⟨r, members, hdr, point⟩, false⟩, latch := none }

/-- The trap of the instruction at the present word of a clause (step 6 or later of 02 R71). -/
def State.raise (s : State) (gid len : Nat) (c : Cond) : State :=
  match s.group gid with
  | none => s
  | some g =>
    match g.issue with
    | none => s
    | some i =>
      let pc := i.hdr + BitVec.ofNat 64 (4 + 4 * i.idx)
      s.trap gid i.hdr i.lanes ⟨false, i.idx, i.idx + len, i.words.length, none⟩ (s.groupRecord g i.lanes c pc 0)

/-! ## The issue of one instruction word -/

/-- How one instruction word ends: it stalls with what it has done so far, it traps, or it is done, the lanes still in
the clause being those of `lanes`. The cause 0, which no record ever has (08 R219), is that of an access which waits. -/
inductive Res where
  | wait (s : State)
  | trap (s : State) (c : Cond)
  | done (s : State)
deriving DecidableEq, Repr

/-- The words of an instruction: two for opcodes 0x60 to 0x7F (02 R45). -/
def Issue.word (i : Issue) : Word := i.words.getD i.idx 0#32
def Issue.len (i : Issue) : Nat := if 0x60 ≤ (i.word &&& 127#32).toNat then 2 else 1

/-- The address of the next clause (02 R35). -/
def Issue.after (i : Issue) : DWord := i.hdr + BitVec.ofNat 64 (4 * (i.words.length + 1))

/-- The word retired: the next word, or the end of the clause, where the lanes still in it go on at the next clause
(02 R41). -/
def Group.retire (g : Group) (len : Nat) : Group :=
  match g.issue with
  | none => g
  | some i =>
    if i.lanes = 0#64 then { g with issue := none, popped := [] }
    else if i.words.length ≤ i.idx + len then
      { g.mapLanes i.lanes.getLsbD (fun _ l => { l with pcv := i.after }) with issue := none, popped := [] }
    else { g with issue := some { i with idx := i.idx + len }, popped := [] }

/-- Whether the present word is an `SLD` or `SST`, which is counted when its access completes (22 R464). -/
def Issue.later (i : Issue) : Bool := i.cls == 0 && i.word.toNat % 128 / 4 == 8

/-- The usage meters that an instruction's class counts: SCALAR (22 R463). -/
def State.meterScalar (s : State) (g : Group) (i : Issue) : State :=
  if (i.cls = 0 ∨ i.cls = 6) ∧ i.later = false then s.meter g.world 8 1 else s

/-- A word's result brought to its end. -/
def Res.finish (gid : Nat) (g : Group) (i : Issue) : Res → State
  | .wait s => s
  | .trap s c => if c.cause = 0 then s else s.raise gid i.len c
  | .done s => (s.meterScalar g i).modGroup gid fun g => g.retire i.len

/-- The meaning of an instruction word of a group's clause: its result at the group and clause of `cur`.
A wait leaves the state as it is: DESIGN CHOICE, log entry 7. -/
def onGroup (s : State) (f : Group → Issue → Res) : Outcome :=
  match s.cur with
  | .group gid =>
    match s.group gid with
    | some g =>
      match g.issue with
      | some i => .next ((f g i).finish gid g i)
      | none => .fault .noClause
    | none => .fault .noClause
  | _ => .fault .noClause

/-- A group waits: the cycle at which its wait began stands (10 R265). -/
def State.noteWait (s : State) (gid : Nat) : State :=
  s.modGroup gid fun h => { h with since := some (h.since.getD s.clock) }

/-- A waiting instruction (08 R190): the cycle at which its wait began stands until it is done. -/
def onWaiting (s : State) (f : Group → Issue → Res) : Outcome :=
  onGroup s fun g i =>
    match f g i with
    | .wait t => .wait (t.noteWait g.gid)
    | .done t => .done (t.modGroup g.gid fun h => { h with since := none })
    | r => r

end Sys2Proof.Machine
end

