-- ==== Sys2Proof/Machine/Operands.lean ====
section
/-!
DEFINITION. Sys2Proof/Machine/Operands.lean: the operand forms: queue sources (01 R21, 08 R211), declared-count checks
(01 R17), scalar and lane sources with their poison (05 R111, 06 R137), effective addresses and the paths (01 R29, R30,
07 R163 to R167).
-/
namespace Sys2Proof.Machine

/-! ## Conditions of an instruction -/

/-- AUX of ILLEGAL_OP: the instruction's words (20 R436). -/
def Issue.aux (i : Issue) : Nat :=
  i.word.toNat + (if i.len = 2 then 2 ^ 32 * (i.words.getD (i.idx + 1) 0#32).toNat else 0)

/-- ILLEGAL_OP at the present word. -/
def Issue.illegal (i : Issue) (detail : Nat) : Cond := { cause := illegalOp, detail := detail, index := i.idx, aux := i.aux }

/-- The first condition of a list of checks. -/
def firstCond : List (Option Cond) → Option Cond
  | [] => none
  | some c :: _ => some c
  | none :: l => firstCond l

/-- A result unless a check fails. -/
def Res.unless (s : State) (c : Option Cond) (r : Res) : Res :=
  match c with
  | some c => .trap s c
  | none => r

/-- POISON_USE of a uniform operand. -/
def poisonCond (detail index addr : Nat) : Cond := { cause := poisonUse, detail := detail, index := index, addr := addr }

/-- POISON_USE of S registers consumed in order. -/
def sPoison (g : Group) (detail : Nat) (rs : List Nat) : Option Cond :=
  (findBy (fun r => (g.sreg r).poison) rs).map fun r =>
    poisonCond detail r (if detail = 0 then (g.sreg r).val.toNat else 0)

/-- POISON_USE of a V register in the lanes where it is poisoned. -/
def vPoison (g : Group) (lanes : List Nat) (detail : Nat) (rs : List Nat) : Option Cond :=
  let bad := lanes.filter fun l => rs.any fun r => ((g.lane l).vreg r).poison
  match bad with
  | [] => none
  | l :: _ => some { cause := poisonUse, detail := detail, mask := laneMask bad,
                     index := (findBy (fun r => ((g.lane l).vreg r).poison) rs).getD 0 }

/-- REG_BOUND on registers in the lanes an instruction acts on (01 R17). INDEX is the first register in the order of the
list that fails in the lowest failing lane: DEDUCED, log entry 17. -/
def boundCond (g : Group) (lanes rs : List Nat) : Option Cond :=
  let bad := lanes.filter fun l => rs.any fun r => g.declared l ≤ r
  match bad with
  | [] => none
  | l :: _ => some { cause := regBound, mask := laneMask bad, aux := g.declared l,
                     index := (findBy (fun r => decide (g.declared l ≤ r)) rs).getD 0 }

/-! ## Queue sources -/

/-- A scalar reading of an entry. -/
def QEntry.scalar (e : QEntry) : SReg :=
  ⟨(e.words.getD 1 0#32 ++ e.words.getD 0 0#32 : BitVec 64), e.poison⟩
/-- A lane's reading of an entry: its element, or the low half of a scalar entry (01 R21). -/
def QEntry.lane (e : QEntry) (l : Nat) : Reg :=
  ⟨e.words.getD (if e.words.length = 2 then 0 else l) 0#32, e.poison⟩

/-- What a read of a Q register finds. -/
inductive Pop where
  | entry (s : State) (e : QEntry)
  | stall
  | illegal
  | orphan (link : BitVec 32)
deriving DecidableEq, Repr

/-- A read of Q[k] (01 R21, 08 R211): the pop raises the group's clock (05 R124). DEDUCED, log entry 18. -/
def State.pop (s : State) (g : Group) (k : Nat) (scalar : Bool) : Pop :=
  match findBy (fun e => e.1 == k) g.qregs with
  | none => .orphan 0#32
  | some (_, b) =>
    match s.queue (s.gangOf g) b.obj with
    | none => .orphan 0#32
    | some q =>
      if b.producer then .orphan 0#32
      else if scalar && q.vector then .illegal
      else match q.entries with
        | e :: es =>
          let s := s.modQueue q.gang q.obj fun q => { q with entries := es }
          .entry (s.modGroup g.gid fun h => { h.raise e.clock with popped := h.popped ++ [e] }) e
        | [] =>
          match q.producer with
          | .closed => .orphan 0#32
          | .faulted n => .orphan n
          | .never =>
            if s.groups.any fun h => h.gid != g.gid && s.gangOf h == q.gang then .stall else .orphan 0#32
          | _ => .stall

/-- Whether Q[k] is bound to a vector object, whose reads in a scalar source position are refused (01 R21). -/
def State.vectorBound (s : State) (g : Group) (k : Nat) : Bool :=
  match findBy (fun e => e.1 == k) g.qregs with
  | some (_, b) => !b.producer && ((s.queue (s.gangOf g) b.obj).map (·.vector)).getD false
  | none => false

/-- The entries of the queue sources of an instruction, in operand order; `have_` are those it popped before a stall. The
kinds of all its sources are looked at before any is popped (02 R71). -/
def takeQueues (i : Issue) (scalar : Bool) : List Nat → List QEntry → State → Group → (State → List QEntry → Res) → Res
  | [], _, s, _, k => k s []
  | _ :: qs, e :: es, s, g, k => takeQueues i scalar qs es s g fun s l => k s (e :: l)
  | q :: qs, [], s, g, k =>
    if scalar && (q :: qs).any (s.vectorBound g) then .trap s (i.illegal detailOperand)
    else match s.pop g q scalar with
    | .entry s e => takeQueues i scalar qs [] s g fun s l => k s (e :: l)
    | .stall => .wait s
    | .illegal => .trap s (i.illegal detailOperand)
    | .orphan n => .trap s { cause := queueOrphan, index := q, link := n }

/-! ## Scalar sources (05 R113) -/

/-- A scalar source field: a queue register where its bit is set. -/
structure SSrc where
  q : BitVec 1
  f : BitVec 5
deriving DecidableEq, Repr

/-- The queues that a list of sources pops, in order. -/
def ssrcQueues (xs : List SSrc) : List Nat :=
  xs.filterMap fun x => if x.q = 1#1 then some (x.f.toNat % 4) else none
/-- The S registers that a list of sources names. -/
def ssrcRegs (xs : List SSrc) : List Nat := xs.filterMap fun x => if x.q = 1#1 then none else some x.f.toNat
/-- The values of the sources, the popped entries taken in order. -/
def ssrcVals (g : Group) : List SSrc → List QEntry → List SReg
  | [], _ => []
  | x :: xs, es =>
    if x.q = 1#1 then
      match es with
      | e :: es => e.scalar :: ssrcVals g xs es
      | [] => ⟨0#64, false⟩ :: ssrcVals g xs []
    else g.sreg x.f.toNat :: ssrcVals g xs es

/-- The number an error record gives a source (05 R116). -/
def SSrc.number (x : SSrc) : Nat := if x.q = 1#1 then x.f.toNat % 4 else x.f.toNat

/-- A scalar instruction: stalled on its registers, its sources read, then its effect on the group (05 R110). -/
def scalarOp (s : State) (g : Group) (i : Issue) (xs : List SSrc) (dst : List Nat)
    (k : State → List SReg → Res) : Res :=
  if s.hazard g [] [] (ssrcRegs xs ++ dst) then .wait s
  else takeQueues i true (ssrcQueues xs) g.popped s g fun s es => k s (ssrcVals g xs es)

/-! ## Lane sources (06 R135, R137) -/

/-- A lane source: a V register, or a queue register. -/
inductive VSrc where
  | v (r : Nat)
  | q (k : Nat)
deriving DecidableEq, Repr

/-- A VX source field. -/
def vsrc (q : BitVec 1) (f : BitVec 7) : VSrc := if q = 1#1 then .q (f.toNat % 4) else .v f.toNat

def vsrcQueues (xs : List VSrc) : List Nat := xs.filterMap fun x => match x with | .q k => some k | .v _ => none
def vsrcRegs (xs : List VSrc) : List Nat := xs.filterMap fun x => match x with | .v r => some r | .q _ => none
/-- A lane's values of the sources. -/
def vsrcVals (n : Lane) (l : Nat) : List VSrc → List QEntry → List Reg
  | [], _ => []
  | .v r :: xs, es => n.vreg r :: vsrcVals n l xs es
  | .q _ :: xs, e :: es => e.lane l :: vsrcVals n l xs es
  | .q _ :: xs, [] => ⟨0#32, false⟩ :: vsrcVals n l xs []

/-- The checks of a lane instruction in their order (06 R137), then its effect: the interlock, REG_BOUND in the lanes it
acts on, the queue sources. -/
def laneOp (s : State) (g : Group) (i : Issue) (lanes : List Nat) (regs sregs queues : List Nat)
    (k : State → List QEntry → Res) : Res :=
  if s.hazard g lanes regs sregs then .wait s
  else Res.unless s (boundCond g lanes regs) (takeQueues i false queues g.popped s g k)

/-! ## Addresses (07 R163, R164) -/

/-- Sign extension to 64 bits, as a number modulo 2^64. -/
def sext64 {n : Nat} (v : BitVec n) : Nat := (v.signExtend 64).toNat

/-- A sum of addresses modulo 2^64. -/
def addrAdd (a b : Nat) : Nat := (a + b) % 2 ^ 64

/-- A[L] of R163. -/
def laneAddr (g : Group) (sc : BitVec 2) (base : BitVec 5) (o : BitVec 7) (disp : BitVec 16) (l : Nat) : Nat :=
  addrAdd (addrAdd (g.sreg base.toNat).val.toNat (sext64 ((g.lane l).vreg o.toNat).val * 2 ^ sc.toNat)) (sext64 disp)

/-- The address of a scalar access (05 R120). -/
def scalarAddr (g : Group) (a : BitVec 5) (imm : BitVec 12) : Nat :=
  addrAdd (g.sreg a.toNat).val.toNat (sext64 imm)

/-- What an address names once its path and its must-be-zero bits are decoded. -/
inductive Place where
  | va (path addr : Nat)
  | scr (gang : Bool) (team offset : Nat)
  | win (lane fid reg byte : Nat)
deriving DecidableEq, Repr

/-- PATH of an address. -/
def pathOf (a : Nat) : Nat := a / 2 ^ 60

/-- The paths that the instructions of R165 may use. -/
def pathsLoad (width : Nat) (p : Nat) : Bool :=
  p ≤ 3 || p == 6 || (p == 4 && width ≤ 4) || (p == 5 && 4 ≤ width)
def pathsStore (width : Nat) (p : Nat) : Bool :=
  p == 0 || p == 2 || p == 3 || p == 6 || (p == 4 && width ≤ 4)
def pathsAtom (p : Nat) : Bool := p == 0 || p == 2 || p == 3
def pathsUpd (p : Nat) : Bool := p == 0

/-- The team whose scratchpad a path 0x2 or 0x3 address of a team's access names. -/
def State.scratchTeam (s : State) (core team : Nat) (a : Nat) : Option Team :=
  if pathOf a = 2 then (if bitsAt a 20 40 = 0 then s.team team else none)
  else if bitsAt a 58 2 = 0 ∧ bitsAt a 20 36 = 0 then
    let gang := ((s.team team).map (·.gang)).getD 0
    let other := core / 4 * 4 + bitsAt a 56 2
    if other = core then s.team team
    else findBy (fun t => t.gang == gang && t.core == other) s.teams
  else none

/-- The register that a frame-window address names, none where R30's first two checks fail. -/
def Group.window (g : Group) (a : Nat) : Option (Nat × Nat × Nat) :=
  let n := g.lane (bitsAt a 2 6)
  if bitsAt a 24 36 ≠ 0 ∨ bitsAt a 15 1 ≠ 0 ∨ n.live = false then none
  else (n.chain[bitsAt a 16 8]?).map fun f => (bitsAt a 2 6, f.fid, bitsAt a 8 7)

/-- Step 3 of R169 for one access but for REG_BOUND: the place, none for ADDR_PATH. The addresses that world 60 may not
name on path 0x0 are refused here (05 R120). -/
def State.place (s : State) (g : Group) (legal : Nat → Bool) (width a : Nat) : Option Place :=
  let p := pathOf a
  if !legal p || (g.world == 60 && (p == 1 || p == 5 || p == 6 || (p == 0 && !s.physOk (a % 2 ^ 56)))) then none
  else if p = 4 then
    if a % width ≠ 0 then none else (g.window a).map fun (l, f, r) => .win l f r (a % 4)
  else if p = 2 ∨ p = 3 then
    match s.scratchTeam g.core g.team a with
    | some t => if a % 2 ^ 20 < t.kernel.scratch then some (.scr (p == 3) t.key (a % 2 ^ 20)) else none
    | none => none
  else if bitsAt a 56 4 ≠ 0 then none
  else some (.va p (a % 2 ^ 56))

/-- The declared count that a frame-window place exceeds. -/
def Group.winBound (g : Group) : Place → Option Nat
  | .win _ f r _ =>
    let d := ((g.frame f).map (·.count)).getD 0
    if d ≤ r then some d else none
  | _ => none

/-- How an access's translation ends (steps 5 and 6 of R169): its locations, or the condition with DETAIL and AUX; the
cause 0 is that of a walk which waits (07 R175). -/
inductive Reach where
  | ok (l : List Loc)
  | fail (cause detail aux : Nat)
deriving DecidableEq, Repr

/-- AUX of XLATE: the stage, the write bit and the fetch bit (20 R436). -/
def xlateAux (stage need : Nat) : Nat := stage + (if need = 1 then 4 else 0) + (if need = 2 then 8 else 0)

/-- The physical addresses of bytes read on the read-only path (07 R167), or DETAIL and the stage of XLATE; DETAIL 0 is
the host window, which that path does not reach (18 R411), or with stage 1 a walk that waits. -/
def State.roBytes (s : State) (agent w : Nat) : List Nat → State × Except (Nat × Nat) (List Nat)
  | [] => (s, .ok [])
  | va :: l =>
    match s.xlate agent w va 0 false with
    | (s, .ok t) =>
      if hostWindow t.pa then (s, .error (0, 0))
      else match s.roBytes agent w l with
      | (s, .ok ps) => (s, .ok (t.pa :: ps))
      | (s, .error e) => (s, .error e)
    | (s, .held) => (s, .error (0, 1))
    | (s, .fault d g _) => (s, .error (d, g))
    | (s, _) => (s, .error (1, 1))

/-- The bytes and the first bit of packed element n of a format's array (04 R88). -/
def packedAt (fmt base n : Nat) : Nat × List Nat :=
  let b := typeBits fmt
  (n * b % 8, addrs (base + n * b / 8) ((n * b % 8 + b + 7) / 8))

/-- The view words of a load on path 0x5, in order (07 R167). -/
def State.viewWords (s : State) (agent w elem scale fmt : Nat) (sck : Bool) :
    List Nat → State × Except (Nat × Nat) (List Loc)
  | [] => (s, .ok [])
  | n :: l =>
    let (bit, es) := packedAt fmt elem n
    let cs := if sck then [scale + n / 32] else addrs (scale + 4 * (n / 32)) 4
    match s.roBytes agent w es with
    | (s, .error e) => (s, .error e)
    | (s, .ok es) =>
      match s.roBytes agent w cs with
      | (s, .error e) => (s, .error e)
      | (s, .ok cs) =>
        match s.viewWords agent w elem scale fmt sck l with
        | (s, .error e) => (s, .error e)
        | (s, .ok ls) => (s, .ok (.view fmt sck bit es cs :: ls))

/-- Steps 5 and 6 of R169 for one access of a width: one location per byte, or per word on path 0x5. The host window is
reached by loads and stores on path 0x0 only (18 R411). -/
def State.reach (s : State) (core world : Nat) (host : Bool) (need width : Nat) : Place → State × Reach
  | .scr x t o => (s, .ok ((List.range width).map fun k => .scr x t (o + k)))
  | .win _ _ _ _ => (s, .ok [])
  | .va p a =>
    match s.xlate core world a need (p == 5) with
    | (s, .ok t) =>
      if p = 5 ∨ (p = 6 ∧ t.vert = false) ∨ (hostWindow t.pa ∧ (p ≠ 0 ∨ host = false)) then (s, .fail addrPath 0 0)
      else (s, .ok ((List.range width).map fun k =>
        if p = 0 then .mem (t.pa + k) else if p = 1 then .ro (t.pa + k) else .vert (t.pa + k)))
    | (s, .view e c f k) =>
      match s.viewWords core world e c f k ((List.range (width / 4)).map fun j => a % 65536 / 4 + j) with
      | (s, .ok ls) => (s, .ok ls)
      | (s, .error (0, 0)) => (s, .fail addrPath 0 0)
      | (s, .error (0, _)) => (s, .fail 0 0 0)
      | (s, .error (d, st)) => (s, .fail xlateCause d (xlateAux st 0))
    | (s, .held) => (s, .fail 0 0 0)
    | (s, .fault d st _) => (s, .fail xlateCause d (xlateAux st need))
    | (s, .path) => (s, .fail addrPath 0 0)

/-- The lanes of accesses that fail a check, with the condition's ADDR that of the lowest. -/
def failCond (cause : Nat) (bad : List (Nat × Nat)) (f : Nat → Cond → Cond) : Option Cond :=
  match bad with
  | [] => none
  | (l, a) :: _ => some (f l { cause := cause, mask := laneMask (bad.map Prod.fst), addr := a })

/-- Translation of every access, in lane order. -/
def State.reachAll (s : State) (g : Group) (host : Bool) (need width : Nat) :
    List (Nat × Nat × Place) → State × List (Nat × Nat × Reach)
  | [] => (s, [])
  | (l, a, p) :: r =>
    let (s, x) := s.reach g.core g.world host need width p
    let (s, xs) := s.reachAll g host need width r
    (s, (l, a, x) :: xs)

/-- Steps 3 to 6 of R169 over all accesses (lane, address): the locations of each, or the condition. Lane 64 is the
scalar engine, whose conditions name no lane. The cause 0 is that of an access whose walk waits. -/
def State.access (s : State) (g : Group) (legal : Nat → Bool) (host : Bool) (need width : Nat) (as : List (Nat × Nat)) :
    State × Except Cond (List (Nat × Place × List Loc)) :=
  let ps := as.map fun (l, a) => (l, a, s.place g legal width a)
  let lost := (ps.filter fun e => e.2.2.isNone).map fun e => (e.1, e.2.1)
  let wide := ps.filterMap fun (l, a, p) => p.bind fun p => (g.winBound p).map fun d => (l, a, d)
  let skew := as.filter fun (_, a) => a % width ≠ 0
  let pl := ps.filterMap fun (l, a, p) => p.map fun p => (l, a, p)
  match failCond addrPath lost (fun _ c => c),
      failCond regBound (wide.map fun e => (e.1, e.2.1)) (fun l c =>
        { c with detail := 2, index := bitsAt c.addr 8 7, aux := ((findBy (fun e => e.1 == l) wide).map (·.2.2)).getD 0 }),
      failCond addrAlign skew (fun _ c => c) with
  | some c, _, _ => (s, .error c)
  | none, some c, _ => (s, .error c)
  | none, none, some c => (s, .error c)
  | none, none, none =>
    let (s, rs) := s.reachAll g host need width pl
    if rs.any fun r => match r.2.2 with | .fail 0 _ _ => true | _ => false then (s, .error { cause := 0 }) else
    let xl := rs.filterMap fun (l, a, r) => match r with | .fail 5 d x => some (l, a, d, x) | _ => none
    let kind := rs.filterMap fun (l, a, r) => match r with | .fail 3 _ _ => some (l, a) | _ => none
    match failCond xlateCause (xl.map fun e => (e.1, e.2.1)) (fun l c =>
          match findBy (fun e => e.1 == l) xl with
          | some (_, _, d, x) => { c with detail := d, aux := x }
          | none => c),
        failCond addrPath kind (fun _ c => c) with
    | some c, _ => (s, .error c)
    | none, some c => (s, .error c)
    | none, none =>
      (s, .ok ((pl.zip rs).map fun (p, r) => (p.1, p.2.2, match r.2.2 with | .ok ls => ls | _ => [])))

end Sys2Proof.Machine
end

