-- ==== Sys2Proof/Machine/Access.lean ====
section
/-!
DEFINITION. Sys2Proof/Machine/Access.lean: the accesses of a group at their homes: outstanding operations (02 R37), the
coherent path with its leases (11 R276), the read-only and view copies (07 R174), scratchpad (11 R282), raw rows, the
frame window, and the order of one group's accesses (07 R173, 11 R281).
-/
namespace Sys2Proof.Machine

/-! ## Outstanding operations -/

/-- An operation issued: it counts on its flag (02 R37). -/
def State.issueOp (s : State) (g : Group) (flag : Option Nat) (kind : OpKind) (done : Bool) : State :=
  { s.newId with ops := s.ops ++ [(⟨s.ids, g.gid, g.core, g.world, g.team, flag, kind, done, 0⟩ : Op)] }.modGroup
    g.gid fun g => g.countFlag flag

/-- The WRITER field of a team's accesses (11 R284): die, cluster, core and team slot. -/
def State.teamWriter (s : State) (core team : Nat) : BitVec 16 :=
  BitVec.ofNat 16 (core / 96 * 2 ^ 15 + core / 4 % 24 * 2 ^ 10 + core % 4 * 2 ^ 8 +
    ((s.team team).map (·.slot)).getD 0)

/-- The WRITER field of a group. -/
def State.writerOf (s : State) (g : Group) : BitVec 16 := s.teamWriter g.core g.team

/-! ## The coherent path -/

/-- The numbers of the copies of one core. -/
abbrev copySpan : Nat := 2 ^ 256
/-- The number of a copy of an atom, of a line or of a view word in a core's L1. -/
def copyKey (core n : Nat) : Nat := core * copySpan + n

/-- The copies that a read at clock c uses, atom by atom: a copy whose rts is at least c may have left the L1. -/
def State.pickCopies (s : State) (core c : Nat) : List Nat → State × List (Nat × Option Copied)
  | [] => (s, [])
  | a :: l =>
    match mapGet none s.l1 (copyKey core a) with
    | some k =>
      if c ≤ k.rts then
        let use := Config.freeNat s.fresh % 2 = 1
        let (s', r) := s.draw.pickCopies core c l
        (s', (a, if use then some k else none) :: r)
      else let (s, r) := s.pickCopies core c l; (s, (a, none) :: r)
    | none => let (s, r) := s.pickCopies core c l; (s, (a, none) :: r)

/-- The greatest time over the atoms: that of each copy used, or of the home. -/
def State.readTime (s : State) (c : Nat) (picks : List (Nat × Option Copied)) : Nat :=
  picks.foldl (fun t p => max t (match p.2 with | some k => k.wts | none => (s.stamp p.1).1)) c

/-- Bytes of a line that pass between the L2 and the cluster of a core (22 R463): counted by a meter of their owner, and in
D2D where the line's home is on the other die. -/
def State.passL2 (s : State) (core m n ln : Nat) : State :=
  let w := s.owner (ln * 128)
  let s := s.meter w m n
  if core / 96 = lineDie ln then s else s.meter w 18 n

/-- The same of a list of bytes, line by line. -/
def State.passBytes (s : State) (core m : Nat) (pas : List Nat) : State :=
  (distinct (pas.map (· / 128))).foldl (fun s ln =>
    s.passL2 core m (pas.filter fun p => p / 128 == ln).length ln) s

/-- An atom read at its home at time t: its lease renewed, its copy filled. -/
def State.fillAtom (s : State) (core t a : Nat) (bs : List (Byte × Bool)) : State :=
  let (w, r) := s.stamp a
  let r' := max r (t + 1 + Config.freeNat s.fresh)
  let s := s.draw.setStamp a (w, r')
  { s with l1 := mapSet none s.l1 (copyKey core a) (some ⟨bs.map Prod.fst, bs.any Prod.snd, w, r'⟩) }.passL2 core 16 32 (a / 4)

/-- The atoms read at the home, in order: their bytes, and a line whose MAC failed. -/
def State.fillAll (s : State) (core t : Nat) : List Nat → State × List (Nat × List (Byte × Bool)) × Option Nat
  | [] => (s, [], none)
  | a :: l =>
    match s.homeRead (addrs (a * 32) 32) with
    | (s, _, some b) => (s, [], some b)
    | (s, bs, none) =>
      match (s.fillAtom core t a bs).fillAll core t l with
      | (s, r, b) => (s, (a, bs) :: r, b)

/-- A coherent read of bytes at a clock (11 R276): the machine after, the bytes, a line whose MAC failed, the time. The
merges that it forces are combined by the unit of the group's cluster; another agent forces its own before (11 R288). -/
def State.cohRead (s : State) (core c : Nat) (pas : List Nat) : State × List (Byte × Bool) × Option Nat × Nat :=
  let atoms := atomsOf pas
  let (s, picks) := s.pickCopies core c atoms
  let s := s.mergeAll ((picks.filter fun p => p.2.isNone).map Prod.fst) c (some (core / 4))
  let t := s.readTime c picks
  let good := picks.all fun p => match p.2 with | some k => t ≤ k.rts | none => true
  let s := if good then s else s.mergeAll atoms c (some (core / 4))
  let picks := if good then picks else atoms.map fun a => (a, none)
  let t := s.readTime c picks
  match s.fillAll core t ((picks.filter fun p => p.2.isNone).map Prod.fst) with
  | (s, _, some b) => (s, [], some b, t)
  | (s, rs, none) =>
    let held := picks.filterMap fun p => p.2.map fun k => (p.1, k.bytes.map fun b => (b, k.poison))
    (s, pas.map fun a =>
      ((findBy (fun e => e.1 == a / 32) (held ++ rs)).bind fun e => e.2[a % 32]?).getD (0#8, false), none, t)

/-- The time of a coherent write of atoms at a clock. -/
def State.writeTime (s : State) (c : Nat) (atoms : List Nat) : Nat := max c (s.topRts atoms + 1)

/-- A coherent write of cells at a clock (11 R276, R292), its lines poisoned where named: none where a MAC fails. -/
def State.cohWrite (s : State) (core c : Nat) (writer : BitVec 16) (cells : List Host.Cell) (poisoned : List Nat) :
    State × Option Nat × Nat :=
  let atoms := atomsOf (cells.map Prod.fst)
  let s := s.mergeAll atoms c (some (core / 4))
  let t := s.writeTime c atoms
  match s.badWrite cells with
  | some b => (s, some b, t)
  | none =>
    let s := ((s.homeWrite cells poisoned).stampAll atoms t).noteWriter atoms writer none
    let l1 := atoms.foldl (fun m a =>
      match mapGet none m (copyKey core a) with
      | some _ => mapSet none m (copyKey core a)
          (some ⟨s.bytes (a * 32) 32, decide (((s.line (a / 4)).read).kind ≠ .clean), t, t⟩)
      | none => m) s.l1
    ({ s with l1 := l1 }.passBytes core 17 (cells.map Prod.fst), none, t)

/-! ## Scratchpad (11 R282, 20 R433) -/

/-- A byte of a team's scratchpad with its word's poison. -/
def Team.scratchByte (t : Team) (o : Nat) : Byte × Bool := (mapGet 0#8 t.scratch o, mapGet false t.spoison (o / 4))

/-- A block of scratchpad bytes of a team, zeros where the team is gone. -/
def State.scratchBytes (s : State) (team : Nat) (os : List Nat) : List (Byte × Bool) :=
  match s.team team with
  | some t => os.map t.scratchByte
  | none => os.map fun _ => (0#8, false)

/-- One access's store to scratchpad: a 4-byte word written whole takes the data's poison, a part of one keeps the
word's poison. -/
def Team.scratchStore (t : Team) (cells : List (Nat × Byte)) (poison : Bool) : Team :=
  let words := distinct (cells.map fun c => c.1 / 4)
  { t with
    scratch := cells.foldl (fun m c => mapSet 0#8 m c.1 c.2) t.scratch
    spoison := words.foldl (fun m w =>
      let whole := (cells.filter fun c => c.1 / 4 == w).length = 4
      mapSet false m w (poison || (!whole && mapGet false m w))) t.spoison }

def State.scratchStore (s : State) (team : Nat) (cells : List (Nat × Byte)) (poison : Bool) : State :=
  s.modTeam team fun t => t.scratchStore cells poison

/-- A sync word of a team's scratchpad, and whether it is poisoned. -/
def State.syncWord (s : State) (team o : Nat) : SyncWord × Bool :=
  let bs := s.scratchBytes team (addrs o 16)
  (SyncWord.ofNat (ofBytes (bs.map Prod.fst)), bs.any Prod.snd)

def State.setSync (s : State) (team o : Nat) (y : SyncWord) : State :=
  s.scratchStore team (List.zip (addrs o 16) (toBytes 16 y.toNat)) false

/-- The phase clock of a sync word (11 R277). -/
def State.phaseClock (s : State) (team o : Nat) : Nat :=
  ((s.team team).map fun t => mapGet 0 t.phase o).getD 0
def State.raisePhase (s : State) (team o c : Nat) : State :=
  s.modTeam team fun t => { t with phase := mapSet 0 t.phase o (max (mapGet 0 t.phase o) c) }

/-! ## Read-only and view copies (07 R174) -/

/-- A line on the read-only path at a clock: a copy held may be used where it was fetched at or after the draw `from_`,
else the home is read. Answers the line's bytes. A copy's `wts` numbers the draws before it was fetched. -/
def State.roLine (s : State) (core c from_ ln : Nat) : State × List (Byte × Bool) × Option Nat :=
  let fetch := fun (s : State) =>
    match s.readHome c (some (core / 4)) (addrs (ln * 128) 128) with
    | (s, _, some b) => (s, [], some b)
    | (s, bs, none) =>
      let copy : Copied := ⟨bs.map Prod.fst, bs.any Prod.snd, s.fresh, 0⟩
      ({ s with ro := mapSet none s.ro (copyKey core ln) (some copy) }.passL2 core 16 128 ln, bs, none)
  match mapGet none s.ro (copyKey core ln) with
  | some k =>
    if k.wts < from_ then fetch s
    else if Config.freeNat s.fresh % 2 = 1 then (s.draw, k.bytes.map fun b => (b, k.poison), none) else fetch s.draw
  | none => fetch s

/-- Lines read on the read-only path. -/
def State.roLines (s : State) (core c from_ : Nat) : List Nat → State × List (Nat × List (Byte × Bool)) × Option Nat
  | [] => (s, [], none)
  | l :: ls =>
    match s.roLine core c from_ l with
    | (s, _, some b) => (s, [], some b)
    | (s, bs, none) =>
      match s.roLines core c from_ ls with
      | (s, r, b) => (s, (l, bs) :: r, b)

/-- Bytes read on the read-only path. -/
def State.roRead (s : State) (core c from_ : Nat) (pas : List Nat) : State × List (Byte × Bool) × Option Nat :=
  match s.roLines core c from_ (distinct (pas.map (· / 128))) with
  | (s, _, some b) => (s, [], some b)
  | (s, ls, none) =>
    (s, pas.map fun a => ((findBy (fun e => e.1 == a / 128) ls).bind fun e => e.2[a % 128]?).getD (0#8, false), none)

/-- The number of a view word's copy: by all that the word is decoded from (07 R167). -/
def viewKey (core fmt : Nat) (sck : Bool) (bit : Nat) (elem scale : List Nat) : Nat :=
  copyKey core ((elem ++ scale).foldl (fun n a => n * 2 ^ 40 + a) (((fmt * 2 + sck.toNat) * 8 + bit) * 2 + elem.length % 2))

/-- A view word: a copy held may be used, else it is decoded from the arrays (07 R167), whose lines no copy from before
the core's last discard of its view words serves (07 R174). -/
def State.viewRead (s : State) (core c fmt : Nat) (sck : Bool) (bit : Nat) (elem scale : List Nat) :
    State × List (Byte × Bool) × Option Nat :=
  let key := viewKey core fmt sck bit elem scale
  let fetch := fun (s : State) =>
    match s.roRead core c (mapGet 0 s.cvmarks core) (elem ++ scale) with
    | (s, _, some b) => (s, [], some b)
    | (s, bs, none) =>
      let e := ofBytes ((bs.take elem.length).map Prod.fst) / 2 ^ bit % 2 ^ typeBits fmt
      let c := ofBytes ((bs.drop elem.length).map Prod.fst)
      let v := toBytes 4 (viewWord fmt sck e c)
      let p := bs.any Prod.snd
      ({ s with views := mapSet none s.views key (some ⟨v, p, 0, 0⟩) }, v.map fun b => (b, p), none)
  match mapGet none s.views key with
  | some k =>
    if Config.freeNat s.fresh % 2 = 1 then (s.draw, k.bytes.map fun b => (b, k.poison), none) else fetch s.draw
  | none => fetch s

/-- The copies of paths 0x1 and 0x5 in a core discarded (07 R183). -/
def dropCopies (core : Nat) (m : List (Nat × Option Copied)) : List (Nat × Option Copied) :=
  m.filter fun e => e.1 / copySpan != core

/-! ## The host window (18 R411) -/

/-- Host bytes read through the window: each as host memory has it. -/
def State.hostRead (s : State) (pas : List Nat) : State × List (Byte × Bool) :=
  (s.draw, pas.map fun a => (Config.hostByte s.fresh a, false))

/-! ## The frame window (01 R29, R30) -/

/-- A register of a lane's chain by frame. DEDUCED, log entry 16. -/
def Group.windowReg (g : Group) (l fid r : Nat) : Reg :=
  ((findBy (fun f => f.fid == fid) (g.lane l).chain).map fun f => mapGet ⟨0#32, false⟩ f.regs r).getD ⟨0#32, false⟩

/-- A window load: the bytes from a byte of the register, and its tag. -/
def Group.windowLoad (g : Group) (width l fid r b : Nat) : List Byte × Bool :=
  let v := g.windowReg l fid r
  (((toBytes 4 v.val.toNat).drop b).take width, v.poison)

/-- A window store: the bytes put in the register, with the data's tag. -/
def Group.windowStore (g : Group) (l fid r b : Nat) (bs : List Byte) (poison : Bool) : Group :=
  let old := toBytes 4 (g.windowReg l fid r).val.toNat
  let new := old.take b ++ bs ++ old.drop (b + bs.length)
  (g.mapLanes (· == l) fun _ n => n.setVAt fid r ⟨BitVec.ofNat 32 (ofBytes new), poison⟩).stick psnBit poison

/-! ## The order of one group's accesses (07 R173, 11 R281) -/

/-- The path that named a location. -/
def Loc.path : Loc → Nat
  | .mem _ => 0
  | .ro _ => 1
  | .scr false _ _ => 2
  | .scr true _ _ => 3
  | .view _ _ _ _ _ => 5
  | .vert _ => 6

/-- The bytes that a location reads or writes: memory bytes, or a team's scratchpad byte. -/
def Loc.bytes : Loc → List (Option Nat × Nat)
  | .mem p | .ro p | .vert p => [(none, p)]
  | .scr _ t o => [(some t, o)]
  | .view _ _ _ e c => (e ++ c).map fun p => (none, p)

/-- The paths and bytes of an operation that is not yet performed, and whether it writes them. -/
def Op.touches (o : Op) : List (Nat × List (Option Nat × Nat)) × Bool :=
  match o.kind with
  | .load _ _ _ _ accs => (accs.flatMap fun a => a.locs.map fun l => (l.path, l.bytes), false)
  | .store _ accs => (accs.flatMap fun a => a.locs.map fun l => (l.path, l.bytes), true)
  | .bank b =>
    let words := fun (o n : Nat) => (List.range n).map fun k => (some b.team, o + 4 * k)
    let all := words b.dst (if b.op = 3 then 4 else b.n) ++
      if b.op = 1 ∨ b.op = 4 then [] else words (b.src.toNat % 2 ^ 20) b.n
    (all.flatMap fun w => (List.range 4).flatMap fun k =>
      [(2, [(w.1, w.2 + k)]), (3, [(w.1, w.2 + k)])], true)
  | _ => ([], false)

/-- Whether a location's bytes lie in the host window. -/
def atHost (x : Nat × List (Option Nat × Nat)) : Bool := x.2.any fun b => b.1.isNone && hostWindow b.2

/-- Whether an earlier operation of a group must be performed before a later one: on path 0x0 in program order, device
memory and the host window apart (07 R173, 18 R411); on one path where they meet in a byte; a read before a write of its
bytes on any path (11 R281). -/
def mustPrecede (e o : Op) : Bool :=
  (e.touches.1.any fun x => x.1 == 0 && o.touches.1.any fun y => y.1 == 0 && atHost x == atHost y) ||
  (e.touches.1.any fun x => o.touches.1.any fun y =>
    (x.1 == y.1 || (!e.touches.2 && o.touches.2)) && x.2.any fun b => y.2.contains b)

/-- Whether every earlier operation of the group that must come first has been performed. -/
def State.mayPerform (s : State) (o : Op) : Bool :=
  s.ops.all fun e => e.done || e.gid != o.gid || o.id ≤ e.id || !mustPrecede e o

/-- Whether the group's earlier operations that a test picks have all been performed. -/
def State.performed (s : State) (gid : Nat) (f : Op → Bool) : Bool :=
  s.ops.all fun e => e.done || e.gid != gid || !f e

/-- Whether an instruction of the group issued earlier may still set a sticky bit of GSTAT: it has a register to write (01
R25, 05 R118). -/
def State.stickyPending (s : State) (g : Group) : Bool :=
  s.pendingV g.gid != [] || s.pendingS g.gid != [] ||
    s.blocks.any fun b => b.gid == g.gid && b.qobj.isNone && b.graph.isNone && decide (b.stage ≠ .delivered)

/-- A store to device memory on path 0x0. -/
def Op.nearStore (o : Op) : Bool := o.touches.2 && o.touches.1.any fun x => x.1 == 0 && !atHost x

/-- The greatest time of the group's operations that a test picks. -/
def State.opTime (s : State) (gid : Nat) (f : Op → Bool) : Nat :=
  s.ops.foldl (fun t o => if o.gid = gid ∧ f o then max t o.time else t) 0

/-! ## Performing loads and stores -/

/-- The bytes that a test picks of a list of accesses. -/
def pickBytes (f : Loc → Option Nat) (accs : List LaneAcc) : List Nat :=
  accs.flatMap fun a => a.locs.filterMap f

/-- The coherent bytes of device memory, those of the host window, the raw and the read-only bytes of accesses. -/
def cohByte : Loc → Option Nat := fun l => match l with | .mem p => if hostWindow p then none else some p | _ => none
def hostLoc : Loc → Option Nat := fun l => match l with | .mem p => if hostWindow p then some p else none | _ => none
def rawByte : Loc → Option Nat := fun l => match l with | .vert p => some p | _ => none
def roByte : Loc → Option Nat := fun l => match l with | .ro p => some p | _ => none

/-- The bytes that an instruction has read, by path and address. -/
abbrev Found := List (Nat × Nat × (Byte × Bool))

def foundAt (fs : Found) (path p : Nat) : Byte × Bool :=
  ((findBy (fun e => e.1 == path && e.2.1 == p) fs).map fun e => e.2.2).getD (0#8, false)

/-- The values of one access's locations. -/
def State.readLocs (s : State) (core c : Nat) (fs : Found) : List Loc → State × List (Byte × Bool) × Option Nat
  | [] => (s, [], none)
  | l :: ls =>
    let one : State × List (Byte × Bool) × Option Nat :=
      match l with
      | .mem p => (s, [foundAt fs 0 p], none)
      | .ro p => (s, [foundAt fs 1 p], none)
      | .vert p => (s, [foundAt fs 6 p], none)
      | .scr _ t o => (s, s.scratchBytes t [o], none)
      | .view f k b e x => s.viewRead core c f k b e x
    match one with
    | (s, _, some b) => (s, [], some b)
    | (s, bs, none) =>
      match s.readLocs core c fs ls with
      | (s, r, b) => (s, bs ++ r, b)

/-- The accesses of a load with their values: a failed MAC ends it. -/
def State.readAccs (s : State) (core c : Nat) (fs : Found) : List LaneAcc → State × List LaneAcc × Option Nat
  | [] => (s, [], none)
  | a :: as =>
    match (if a.locs = [] then (s, a.bytes.map fun b => (b, a.poison), none) else s.readLocs core c fs a.locs) with
    | (s, _, some b) => (s, [], some b)
    | (s, bs, none) =>
      match s.readAccs core c fs as with
      | (s, r, b) => (s, { a with bytes := bs.map Prod.fst, poison := bs.any Prod.snd } :: r, b)

/-- Every value that the accesses of a group read: coherent bytes at one logical time, answered last. -/
def State.readGroup (s : State) (core clock : Nat) (accs : List LaneAcc) : State × List LaneAcc × Option Nat × Nat :=
  let near := pickBytes cohByte accs
  let host := pickBytes hostLoc accs
  let raw := pickBytes rawByte accs
  let ro := pickBytes roByte accs
  match (if near = [] then (s, [], none, 0) else s.cohRead core clock near) with
  | (s, _, some b, t) => (s, [], some b, t)
  | (s, cs, none, t) =>
    let (s, hs) := if host = [] then (s, []) else s.hostRead host
    match (if raw = [] then (s, [], none) else s.readHome clock (some (core / 4)) raw) with
    | (s, _, some b) => (s, [], some b, t)
    | (s, ws, none) =>
      match (if ro = [] then (s, [], none) else s.roRead core clock 0 ro) with
      | (s, _, some b) => (s, [], some b, t)
      | (s, rs, none) =>
        let tag := fun (p : Nat) (as : List Nat) (bs : List (Byte × Bool)) => (List.zip as bs).map fun e => (p, e.1, e.2)
        let s := s.passBytes core 16 raw
        match s.readAccs core clock (tag 0 near cs ++ tag 0 host hs ++ tag 6 raw ws ++ tag 1 ro rs) accs with
        | (s, r, b) => (s, r, b, t)

/-- The registers of a load's result (07 R170): words of the value, one tag. -/
def loadRegs (dst width : Nat) (signed : Bool) (a : LaneAcc) : List (Nat × Reg) :=
  let v := ofBytes a.bytes
  if width < 4 then
    [(dst, ⟨if signed then (BitVec.ofNat (8 * width) v).signExtend 32 else BitVec.ofNat 32 v, a.poison⟩)]
  else (List.range (width / 4)).map fun k => (dst + k, ⟨BitVec.ofNat 32 (v / 2 ^ (32 * k)), a.poison⟩)

/-- The value of a scalar load (05 R121). -/
def loadS (width : Nat) (signed : Bool) (a : LaneAcc) : SReg :=
  let v := ofBytes a.bytes
  ⟨if signed then (BitVec.ofNat (8 * width) v).signExtend 64 else BitVec.ofNat 64 v, a.poison⟩

/-- The results of a load written to the registers of its frames. -/
def Group.loadInto (g : Group) (dst width : Nat) (signed scalar : Bool) (accs : List LaneAcc) : Group :=
  accs.foldl (fun g a =>
    if scalar then g.setS dst (loadS width signed a)
    else (g.mapLanes (· == a.lane) fun _ n =>
      (loadRegs dst width signed a).foldl (fun n w => n.setVAt a.fid w.1 w.2) n).stick psnBit a.poison) g

/-- The bytes that a list of accesses decodes view words from, which are read on path 0x1 (07 R167). -/
def viewBytes (accs : List LaneAcc) : List Nat :=
  accs.flatMap fun a => a.locs.flatMap fun l => match l with | .view _ _ _ e c => e ++ c | _ => []

/-- The device bytes that a list of accesses names on the paths to memory. -/
def devBytes (accs : List LaneAcc) : List Nat :=
  pickBytes cohByte accs ++ pickBytes rawByte accs ++ pickBytes roByte accs ++ viewBytes accs

/-- Whether an access of a world may reach bytes of memory now: its owner is checked again as it is performed, since no access
reaches another world's resource (17 R369). One that may not is never performed. DEDUCED, log entry 14. -/
def State.reaches (s : State) (w : Nat) (pas : List Nat) : Bool :=
  pas.all fun p => hostWindow p || (if w = 60 then s.physOk p else s.owner p == w)

/-- A load performed at its homes at one logical time (07 R170 to R175, 11 R276): it waits on its order and on a range
under X; a failed MAC quarantines and delivers nothing. -/
def State.performLoad (s : State) (o : Op) : State :=
  match o.kind, s.group o.gid with
  | .load dst width signed scalar accs, some g =>
    if o.done || !s.mayPerform o || s.held (devBytes accs) none || !s.reaches o.world (devBytes accs) then s
    else
      match s.readGroup g.core g.lclock accs with
      | (s, _, some b, _) => s.integrity (b * 128)
      | (s, accs', none, t) =>
        let s := s.modGroup o.gid fun g => (g.loadInto dst width signed scalar accs').raise t
        s.modOp o.id fun o => { o with done := true, time := t, kind := .load dst width signed scalar [] }
  | _, _ => s

/-- The cells of a store whose locations a test picks, and the lines its poisoned accesses touch. -/
def storeCells (f : Loc → Option Nat) (accs : List LaneAcc) : List Host.Cell × List Nat :=
  (accs.flatMap fun a => (List.zip a.locs a.bytes).filterMap fun (l, b) => (f l).map fun p => (p, b),
   accs.flatMap fun a => if a.poison then (a.locs.filterMap f).map (· / 128) else [])

/-- The scratchpad stores of a list of accesses, in lane order. -/
def State.scratchAccs (s : State) (accs : List LaneAcc) : State :=
  accs.foldl (fun s a =>
    match a.locs with
    | .scr _ t _ :: _ => s.scratchStore t ((List.zip a.locs a.bytes).filterMap fun (l, b) =>
        match l with | .scr _ _ o => some (o, b) | _ => none) a.poison
    | _ => s) s

/-- The writes of a store put at their homes, at one time on the coherent path and at its present time at the home on
path 0x6: the machine after, a line whose MAC failed, and the time on the coherent path. -/
def State.writeAccs (s : State) (core team clock : Nat) (accs : List LaneAcc) : State × Option Nat × Nat :=
  let (cells, bad) := storeCells cohByte accs
  let (host, _) := storeCells hostLoc accs
  let (raw, rbad) := storeCells rawByte accs
  match s.badWrite raw with
  | some b => (s, some b, 0)
  | none =>
    match (if cells = [] then (s, none, 0) else s.cohWrite core clock (s.teamWriter core team) cells bad) with
    | (s, some b, t) => (s, some b, t)
    | (s, none, t) =>
      let s := if raw = [] then s else
        (s.writeHome 0 clock (some (core / 4)) raw rbad (s.teamWriter core team) none).passBytes core 17 (raw.map Prod.fst)
      ((s.hostWrite host).scratchAccs accs, none, t)

/-- The merges that an access forces which is not a group's: combined by the unit of the lowest holder (11 R288). -/
def State.engineMerge (s : State) (clock : Nat) (pas : List Nat) : State := s.mergeAll (atomsOf pas) clock none

/-- The clock of an operation: its group's, or the time kept with it where the group has ended. -/
def State.opClock (s : State) (o : Op) : Nat := ((s.group o.gid).map (·.lclock)).getD o.time

/-- The greatest time at the home of the raw bytes that accesses name. -/
def State.rawTime (s : State) (accs : List LaneAcc) : Nat := s.topRts (atomsOf (pickBytes rawByte accs))

/-- A store performed (07 R171, 11 R273): its time takes in its writes on path 0x6, which the group observes with its flag
(11 R280). -/
def State.performStore (s : State) (o : Op) : State :=
  match o.kind with
  | .store _ accs =>
    if o.done || !s.mayPerform o || s.held (devBytes accs) none || !s.reaches o.world (devBytes accs) then s
    else
      match s.writeAccs o.core o.team (s.opClock o) accs with
      | (s, some b, _) => s.integrity (b * 128)
      | (s, none, t) =>
        (s.modGroup o.gid fun g => g.raise t).modOp o.id fun o =>
          { o with done := true, time := max t (s.rawTime accs) }
  | _ => s

/-- Whether an operation is a load or store of the scalar engine. -/
def Op.scalar (o : Op) : Bool :=
  match o.kind with
  | .load _ _ _ scalar _ => scalar
  | .store _ accs => accs.any fun a => a.lane == 64
  | _ => false

/-- The completion of an operation (02 R37): its flag falls, the group's clock rises to its time (11 R280), and what it
held is released; a scalar one counts in SCALAR now (22 R464). -/
def State.completeOp (s : State) (o : Op) : State :=
  let s := if o.scalar then s.meter o.world 8 1 else s
  let s := { s with ops := dropBy (fun e => e.id == o.id) s.ops }.modSaved o.gid fun g => (g.dropFlag o.flag).raise o.time
  let s := match s.team o.team with
    | some t => s.modGrid t.grid fun k => { k with clock := max k.clock o.time }
    | none => s.modNode o.team fun n => { n with clock := max n.clock o.time }
  ((s.modGroup o.gid fun g => { (g.dropFlag o.flag).raise o.time with tried := none }).settle o.gid).reap o.team

/-! ## Accesses as issued -/

/-- The accesses of a load or store from its places: a window load is read, a window store made, at once (01 R30). -/
def loadAcc (g : Group) (width l fid : Nat) (p : Place) (ls : List Loc) : LaneAcc :=
  match p with
  | .win wl wf r b => let (bs, x) := g.windowLoad width wl wf r b; ⟨l, fid, [], bs, x⟩
  | _ => ⟨l, fid, ls, [], false⟩

/-- Whether a window access names a register that an outstanding operation will write. -/
def State.windowHazard (s : State) (gid : Nat) (ps : List Place) : Bool :=
  let pv := s.pendingV gid
  ps.any fun p => match p with | .win l f r _ => pv.contains (l, f, r) | _ => false

/-- The window stores of an instruction, lanes ascending. -/
def Group.windowStores (g : Group) (xs : List (Place × LaneAcc)) : Group :=
  xs.foldl (fun g x => match x.1 with
    | .win l f r b => g.windowStore l f r b x.2.bytes x.2.poison
    | _ => g) g

end Sys2Proof.Machine
end

