-- ==== Sys2Proof/Machine/Scalar.lean ====
section
/-!
DEFINITION. Sys2Proof/Machine/Scalar.lean: the scalar class (05 R113 to R125): register arithmetic, compares, special
values, pushes, meter reads, scalar loads and stores.
-/
namespace Sys2Proof.Machine

/-! ## Shared operations -/

/-- A scalar result of two sources: the operation on the values, the tag of either (05 R113). -/
def join2 (op : DWord → DWord → DWord) (vs : List SReg) : SReg :=
  match vs with
  | [a, b] => ⟨op a.val b.val, a.poison || b.poison⟩
  | _ => ⟨0#64, false⟩

/-- A two-source scalar instruction. -/
def scalar2 (s : State) (y x : BitVec 1) (b a d : BitVec 5) (op : DWord → DWord → DWord) : Outcome :=
  onGroup s fun g i => scalarOp s g i [⟨x, a⟩, ⟨y, b⟩] [d.toNat] fun s vs =>
    .done (s.modGroup g.gid fun g => g.setS d.toNat (join2 op vs))

/-- A scalar instruction of one register and an immediate: the tag of the register (05 R114). -/
def scalar1 (s : State) (a d : BitVec 5) (op : DWord → DWord) : Outcome :=
  onGroup s fun g i => scalarOp s g i [⟨0#1, a⟩] [d.toNat] fun s _ =>
    .done (s.modGroup g.gid fun g => g.setS d.toNat ⟨op (g.sreg a.toNat).val, (g.sreg a.toNat).poison⟩)

/-- A value written with a clear tag. -/
def scalar0 (s : State) (d : BitVec 5) (v : Group → Issue → DWord) : Outcome :=
  onGroup s fun g i => scalarOp s g i [] [d.toNat] fun s _ =>
    .done (s.modGroup g.gid fun g => g.setS d.toNat ⟨v g i, false⟩)

/-- The high half of a signed product. -/
def mulHighS (a b : DWord) : DWord := BitVec.ofInt 64 (a.toInt * b.toInt / 2 ^ 64)
/-- The high half of an unsigned product. -/
def mulHighN (a b : DWord) : DWord := BitVec.ofNat 64 (a.toNat * b.toNat / 2 ^ 64)

/-- The lesser by the order of a type: 0 `.S64`, 1 `.N64`. -/
def lessS (t : BitVec 1) (a b : DWord) : Bool := if t = 0#1 then a.slt b else a.ult b

/-! ## Register arithmetic (R113, R114) -/

/-- SADD: r := (a + b) mod 2^64. -/
def execSadd (y x : BitVec 1) (b a d : BitVec 5) (s : State) : Outcome := scalar2 s y x b a d (· + ·)
/-- SSUB: r := (a − b) mod 2^64. -/
def execSsub (y x : BitVec 1) (b a d : BitVec 5) (s : State) : Outcome := scalar2 s y x b a d (· - ·)
/-- SAND. -/
def execSand (y x : BitVec 1) (b a d : BitVec 5) (s : State) : Outcome := scalar2 s y x b a d (· &&& ·)
/-- SOR. -/
def execSor (y x : BitVec 1) (b a d : BitVec 5) (s : State) : Outcome := scalar2 s y x b a d (· ||| ·)
/-- SXOR. -/
def execSxor (y x : BitVec 1) (b a d : BitVec 5) (s : State) : Outcome := scalar2 s y x b a d (· ^^^ ·)
/-- SSHL: by b[5:0]. -/
def execSshl (y x : BitVec 1) (b a d : BitVec 5) (s : State) : Outcome :=
  scalar2 s y x b a d fun a b => a <<< (b.toNat % 64)
/-- SSHR: by b[5:0], zero fill. -/
def execSshr (y x : BitVec 1) (b a d : BitVec 5) (s : State) : Outcome :=
  scalar2 s y x b a d fun a b => a >>> (b.toNat % 64)
/-- SSAR: by b[5:0], sign fill. -/
def execSsar (y x : BitVec 1) (b a d : BitVec 5) (s : State) : Outcome :=
  scalar2 s y x b a d fun a b => a.sshiftRight (b.toNat % 64)
/-- SMUL: the low half. -/
def execSmul (y x : BitVec 1) (b a d : BitVec 5) (s : State) : Outcome := scalar2 s y x b a d (· * ·)
/-- SMULH: the high half, signed or unsigned by T. -/
def execSmulh (y x t : BitVec 1) (b a d : BitVec 5) (s : State) : Outcome :=
  scalar2 s y x b a d fun a b => if t = 0#1 then mulHighS a b else mulHighN a b
/-- SMIN. -/
def execSmin (y x t : BitVec 1) (b a d : BitVec 5) (s : State) : Outcome :=
  scalar2 s y x b a d fun a b => if lessS t b a then b else a
/-- SMAX. -/
def execSmax (y x t : BitVec 1) (b a d : BitVec 5) (s : State) : Outcome :=
  scalar2 s y x b a d fun a b => if lessS t a b then b else a

/-- SADDI. -/
def execSaddi (i : BitVec 12) (a d : BitVec 5) (s : State) : Outcome := scalar1 s a d (· + i.signExtend 64)
/-- SANDI. -/
def execSandi (i : BitVec 12) (a d : BitVec 5) (s : State) : Outcome := scalar1 s a d (· &&& i.signExtend 64)
/-- SORI. -/
def execSori (i : BitVec 12) (a d : BitVec 5) (s : State) : Outcome := scalar1 s a d (· ||| i.signExtend 64)
/-- SXORI. -/
def execSxori (i : BitVec 12) (a d : BitVec 5) (s : State) : Outcome := scalar1 s a d (· ^^^ i.signExtend 64)
/-- SSHLI. -/
def execSshli (n : BitVec 6) (a d : BitVec 5) (s : State) : Outcome := scalar1 s a d (· <<< n.toNat)
/-- SSHRI. -/
def execSshri (n : BitVec 6) (a d : BitVec 5) (s : State) : Outcome := scalar1 s a d (· >>> n.toNat)
/-- SSARI. -/
def execSsari (n : BitVec 6) (a d : BitVec 5) (s : State) : Outcome := scalar1 s a d (·.sshiftRight n.toNat)

/-- The value of SLUI and SAPC's displacement: sext64(IMM20 × 2^12) (R115). -/
def upper20 (i : BitVec 20) : DWord := (i ++ 0#12 : BitVec 32).signExtend 64

/-- SLUI (R115). -/
def execSlui (i : BitVec 20) (d : BitVec 5) (s : State) : Outcome := scalar0 s d fun _ _ => upper20 i
/-- SAPC: H is the header address of its clause (R115). -/
def execSapc (i : BitVec 20) (d : BitVec 5) (s : State) : Outcome := scalar0 s d fun _ c => c.hdr + upper20 i

/-! ## Compare and select (R116, R117) -/

/-- The comparison of SCMP's type: 0 `.S64`, 1 `.N64`, 2 `.S32`, 3 `.N32`. -/
def scmpHolds (t c : Nat) (a b : DWord) : Bool :=
  match t with
  | 0 => icond c a.toInt b.toInt
  | 1 => icond c a.toNat b.toNat
  | 2 => icond c (a.truncate 32).toInt (b.truncate 32).toInt
  | _ => icond c (a.truncate 32).toNat (b.truncate 32).toNat

/-- The source whose value is poisoned, by its number in the record. -/
def poisonedSource (xs : List SSrc) (vs : List SReg) : Option Nat :=
  (findBy (fun e => e.2.poison) (xs.zip vs)).map fun e => e.1.number

/-- SCMP: a poisoned operand raises POISON_USE after the pops (R116). -/
def execScmp (y x : BitVec 1) (t : BitVec 2) (c : BitVec 4) (b a : BitVec 5) (k : BitVec 2) (s : State) : Outcome :=
  onGroup s fun g i => scalarOp s g i [⟨x, a⟩, ⟨y, b⟩] [] fun s vs =>
    Res.unless s ((poisonedSource [⟨x, a⟩, ⟨y, b⟩] vs).map fun n => poisonCond 1 n 0)
      (.done (s.modGroup g.gid fun g => g.setC k.toNat
        (scmpHolds t.toNat c.toNat (vs.getD 0 ⟨0#64, false⟩).val (vs.getD 1 ⟨0#64, false⟩).val)))

/-- SCMPI: a signed 64-bit compare with the immediate (R116). -/
def execScmpi (c : BitVec 3) (i : BitVec 12) (a : BitVec 5) (k : BitVec 2) (s : State) : Outcome :=
  onGroup s fun g j => scalarOp s g j [⟨0#1, a⟩] [] fun s _ =>
    Res.unless s (sPoison g 1 [a.toNat])
      (.done (s.modGroup g.gid fun g => g.setC k.toNat
        (scmpHolds 0 c.toNat (g.sreg a.toNat).val (i.signExtend 64))))

/-- SSEL: the chosen source with its own tag; both queue sources pop (R117). -/
def execSsel (y x : BitVec 1) (p : BitVec 2) (b a d : BitVec 5) (s : State) : Outcome :=
  onGroup s fun g i => scalarOp s g i [⟨x, a⟩, ⟨y, b⟩] [d.toNat] fun s vs =>
    .done (s.modGroup g.gid fun g => g.setS d.toNat (vs.getD (if g.creg p.toNat then 0 else 1) ⟨0#64, false⟩))

/-! ## Special values (R23, R118, R119) -/

/-- A uniform special value (01 R23). -/
def State.special (s : State) (g : Group) (n : Nat) : Nat :=
  match n with
  | 2 => g.slot
  | 3 => s.teamid g
  | 4 => s.teamid g / max 1 (((s.grid g.grid).map (·.gang)).getD 1)
  | 5 => s.gridid g
  | 6 => g.world
  | 7 => s.clock
  | 8 => g.lclock
  | _ => g.gstat.toNat

/-- SMOVS, the read form; of GSTAT it waits until no earlier instruction has a sticky bit left to set (R118). -/
def execSmovs (n : BitVec 6) (d : BitVec 5) (s : State) : Outcome :=
  onGroup s fun g i =>
    if n.toNat = 9 ∧ s.stickyPending g then .wait s
    else scalarOp s g i [] [d.toNat] fun s _ =>
      .done (s.modGroup g.gid fun h => h.setS d.toNat ⟨BitVec.ofNat 64 (s.special g n.toNat), false⟩)

/-- SMOVS, the write form, at its place among the instructions that set sticky bits: a poisoned source raises POISON_USE
(R119). -/
def execSmovsWrite (x : BitVec 1) (a : BitVec 5) (s : State) : Outcome :=
  onGroup s fun g i =>
    if s.stickyPending g then .wait s else scalarOp s g i [⟨x, a⟩] [] fun s vs =>
    Res.unless s ((poisonedSource [⟨x, a⟩] vs).map fun n => poisonCond 1 n 0)
      (.done (s.modGroup g.gid fun g =>
        { g with gstat := clearSticky g.gstat ((vs.getD 0 ⟨0#64, false⟩).val.truncate 32) }))

/-! ## Pushes and meters (R123 to R125) -/

/-- The two words of a scalar queue entry. -/
def scalarEntry (v : SReg) (clock : Nat) : QEntry :=
  ⟨[v.val.truncate 32, (v.val >>> 32).truncate 32], v.poison, clock⟩

/-- SPUSH (R123): a full queue stalls the group at this word, and the source pops only when the entry is appended. The
entry's clock covers the group's earlier stores, which are performed first (R124). Once there is room it is no longer stalled
on a full queue, whatever else it waits for (02 R41). -/
def execSpush (x : BitVec 1) (a : BitVec 5) (q : BitVec 2) (s : State) : Outcome :=
  onGroup s fun g i =>
    if (ssrcQueues [⟨x, a⟩]).any (s.vectorBound g) then .trap s (i.illegal detailOperand)
    else match findBy (fun e => e.1 == q.toNat) g.qregs with
    | none => .trap s { cause := queueOrphan, index := q.toNat }
    | some (_, b) =>
      match s.queue (s.gangOf g) b.obj with
      | none => .trap s { cause := queueOrphan, index := q.toNat }
      | some u =>
        if !b.producer then .trap s { cause := queueOrphan, index := q.toNat }
        else if u.vector then .trap s (i.illegal detailOperand)
        else if 64 ≤ u.entries.length then
          .wait ((s.modGroup g.gid fun g => { g with spush := some i.idx }).noteWait g.gid)
        else
        let s := if g.spush.isSome then s.modGroup g.gid fun g => { g with spush := none } else s
        if !s.performed g.gid Op.nearStore then .wait s
        else scalarOp s g i [⟨x, a⟩] [] fun s vs =>
          let s := s.modGroup g.gid fun g => { g with spush := none, since := none }
          let t := ((s.group g.gid).map (·.lclock)).getD 0
          .done (s.modQueue u.gang u.obj fun u =>
            if u.drained then u else { u with entries := u.entries ++ [scalarEntry (vs.getD 0 ⟨0#64, false⟩) t] })

/-- MRD: a value no smaller than any returned before and than that at the launch's start, no greater than the count at
present; events of the present launch may be missing. World 60 owns no meters (R125). DEDUCED, log entry 12. -/
def execMrd (m d : BitVec 5) (s : State) : Outcome :=
  onGroup s fun g i => scalarOp s g i [] [d.toNat] fun s _ =>
    if g.world < 48 then
      let p := s.polder g.world
      let lo := max (mapGet 0 p.shown m.toNat) (((s.grid g.grid).map fun k => mapGet 0 k.base m.toNat).getD 0)
      let v := lo + Config.freeNat s.fresh % (mapGet 0 p.meters m.toNat - lo + 1)
      .done ((s.draw.setPolder g.world { p with shown := mapSet 0 p.shown m.toNat v }).modGroup g.gid fun g =>
        g.setS d.toNat ⟨BitVec.ofNat 64 v, false⟩)
    else .done (s.modGroup g.gid fun g => g.setS d.toNat ⟨0#64, false⟩)

/-! ## Scalar loads and stores (R120 to R122) -/

/-- The bytes of a width field: 0 `.N8`, 1 `.N16`, 2 `.N32`, 3 `.B64`, 4 `.S8`, 5 `.S16`, 6 `.S32`. -/
def widthBytes (w : Nat) : Nat := 2 ^ (w % 4)

/-- SLD: the checks of R120, then the access is outstanding; a window load is read at once (R30). -/
def execSld (w : BitVec 3) (i : BitVec 12) (a d : BitVec 5) (f : BitVec 1) (s : State) : Outcome :=
  onGroup s fun g j =>
    let n := widthBytes w.toNat
    let flag := j.flag f
    if s.hazard g [] [] [a.toNat, d.toNat] || !g.flagFree flag then .wait s
    else Res.unless s (sPoison g 0 [a.toNat])
      (match s.access g (pathsLoad n) true 0 n [(64, scalarAddr g a i)] with
      | (s, .error c) => .trap s c
      | (s, .ok ps) =>
        if s.windowHazard g.gid (ps.map (·.2.1)) then .wait s
        else .done (s.issueOp g flag (.load d.toNat n (4 ≤ w.toNat) true
          (ps.map fun (l, p, ls) => loadAcc g n l 0 p ls)) false))

/-- SST: the low bytes of S[SD], a poisoned register marking what it writes (R121). -/
def execSst (w : BitVec 3) (i : BitVec 12) (a d : BitVec 5) (f : BitVec 1) (s : State) : Outcome :=
  onGroup s fun g j =>
    let n := widthBytes w.toNat
    let flag := j.flag f
    if s.hazard g [] [] [a.toNat, d.toNat] || !g.flagFree flag then .wait s
    else Res.unless s (sPoison g 0 [a.toNat])
      (match s.access g (pathsStore n) true 1 n [(64, scalarAddr g a i)] with
      | (s, .error c) => .trap s c
      | (s, .ok ps) =>
        if s.windowHazard g.gid (ps.map (·.2.1)) then .wait s
        else
          let v := g.sreg d.toNat
          let acc := fun (ls : List Loc) => (⟨64, 0, ls, toBytes n v.val.toNat, v.poison⟩ : LaneAcc)
          let s := s.modGroup g.gid fun g => g.windowStores (ps.map fun (_, p, _) => (p, acc []))
          .done (s.issueOp g flag (.store n ((ps.filter fun e => e.2.2 != []).map fun (_, _, ls) => acc ls)) false))

end Sys2Proof.Machine
end

