-- ==== Sys2Proof/Machine/Memory.lean ====
section
/-!
DEFINITION. Sys2Proof/Machine/Memory.lean: the memory class (07): loads and stores, atomics, update-only contributions,
release, acquire and fences, the tag table; and the performance of loads and stores at their homes (11 R273).
-/
namespace Sys2Proof.Machine

/-! ## Loads and stores (R169 to R173) -/

/-- n registers from r. -/
def regSpan (r : BitVec 7) (n : Nat) : List Nat := (List.range n).map (r.toNat + ·)

/-- Steps 1 and 2 of R169: REG_BOUND, then poison on the base and the offsets. -/
def addrChecks (g : Group) (ls : List Nat) (base : BitVec 5) (o : BitVec 7) (regs : List Nat) : Option Cond :=
  if ls = [] then none
  else firstCond [boundCond g ls (o.toNat :: regs), sPoison g 0 [base.toNat], vPoison g ls 0 [o.toNat]]

/-- The accesses of a lane instruction: contributing lanes with their addresses. -/
def laneAddrs (g : Group) (ls : List Nat) (sc : BitVec 2) (base : BitVec 5) (o : BitVec 7) (disp : BitVec 16) :
    List (Nat × Nat) := ls.map fun l => (l, laneAddr g sc base o disp l)

/-- A load of a width: checked, then outstanding (R170). -/
def laneLoad (s : State) (gd : BitVec 4) (sc : BitVec 2) (b : BitVec 5) (o d : BitVec 7) (f : BitVec 1) (width : Nat)
    (signed : Bool) : Outcome :=
  onGroup s fun g i =>
    let ls := g.contributing i gd
    let dst := regSpan d (widthRegs width)
    let flag := i.flag f
    if s.hazard g ls (o.toNat :: dst) [b.toNat] || !g.flagFree flag then .wait s
    else Res.unless s (addrChecks g ls b o dst)
      (match s.access g (pathsLoad width) true 0 width (laneAddrs g ls sc b o 0#16) with
      | (s, .error c) => .trap s c
      | (s, .ok ps) =>
        if s.windowHazard g.gid (ps.map (·.2.1)) then .wait s
        else .done (s.issueOp g flag (.load d.toNat width signed false
          (ps.map fun (l, p, ls) => loadAcc g width l (g.lane l).fid p ls)) (ps == [])))

/-- The bytes of a lane's data for a width, and its poison. -/
def storeData (n : Lane) (d : BitVec 7) (width : Nat) : List Byte × Bool :=
  let rs := (regSpan d (widthRegs width)).map n.vreg
  ((rs.flatMap fun r => toBytes 4 r.val.toNat).take width, rs.any (·.poison))

/-- A store of a width: checked, then outstanding; window stores take effect at once (R171, 01 R30). -/
def laneStore (s : State) (gd : BitVec 4) (sc : BitVec 2) (b : BitVec 5) (o d : BitVec 7) (f : BitVec 1)
    (width : Nat) : Outcome :=
  onGroup s fun g i =>
    let ls := g.contributing i gd
    let src := regSpan d (widthRegs width)
    let flag := i.flag f
    if s.hazard g ls (o.toNat :: src) [b.toNat] || !g.flagFree flag then .wait s
    else Res.unless s (addrChecks g ls b o src)
      (match s.access g (pathsStore width) true 1 width (laneAddrs g ls sc b o 0#16) with
      | (s, .error c) => .trap s c
      | (s, .ok ps) =>
        if s.windowHazard g.gid (ps.map (·.2.1)) then .wait s
        else
          let accs := ps.map fun (l, p, locs) =>
            let (bs, x) := storeData (g.lane l) d width
            (p, (⟨l, 0, locs, bs, x⟩ : LaneAcc))
          let s := s.modGroup g.gid fun g => g.windowStores accs
          let far := (accs.map Prod.snd).filter fun a => a.locs != []
          .done (s.issueOp g flag (.store width far) (far == [])))

/-- LD.N8. -/
def execLdN8 (g : BitVec 4) (sc : BitVec 2) (b : BitVec 5) (o d : BitVec 7) (f : BitVec 1) (s : State) : Outcome :=
  laneLoad s g sc b o d f 1 false
/-- LD.S8. -/
def execLdS8 (g : BitVec 4) (sc : BitVec 2) (b : BitVec 5) (o d : BitVec 7) (f : BitVec 1) (s : State) : Outcome :=
  laneLoad s g sc b o d f 1 true
/-- LD.N16. -/
def execLdN16 (g : BitVec 4) (sc : BitVec 2) (b : BitVec 5) (o d : BitVec 7) (f : BitVec 1) (s : State) : Outcome :=
  laneLoad s g sc b o d f 2 false
/-- LD.S16. -/
def execLdS16 (g : BitVec 4) (sc : BitVec 2) (b : BitVec 5) (o d : BitVec 7) (f : BitVec 1) (s : State) : Outcome :=
  laneLoad s g sc b o d f 2 true
/-- LD.B32. -/
def execLdB32 (g : BitVec 4) (sc : BitVec 2) (b : BitVec 5) (o d : BitVec 7) (f : BitVec 1) (s : State) : Outcome :=
  laneLoad s g sc b o d f 4 false
/-- LD.B64. -/
def execLdB64 (g : BitVec 4) (sc : BitVec 2) (b : BitVec 5) (o d : BitVec 7) (f : BitVec 1) (s : State) : Outcome :=
  laneLoad s g sc b o d f 8 false
/-- LD.B128. -/
def execLdB128 (g : BitVec 4) (sc : BitVec 2) (b : BitVec 5) (o d : BitVec 7) (f : BitVec 1) (s : State) : Outcome :=
  laneLoad s g sc b o d f 16 false
/-- ST.B8. -/
def execStB8 (g : BitVec 4) (sc : BitVec 2) (b : BitVec 5) (o d : BitVec 7) (f : BitVec 1) (s : State) : Outcome :=
  laneStore s g sc b o d f 1
/-- ST.B16. -/
def execStB16 (g : BitVec 4) (sc : BitVec 2) (b : BitVec 5) (o d : BitVec 7) (f : BitVec 1) (s : State) : Outcome :=
  laneStore s g sc b o d f 2
/-- ST.B32. -/
def execStB32 (g : BitVec 4) (sc : BitVec 2) (b : BitVec 5) (o d : BitVec 7) (f : BitVec 1) (s : State) : Outcome :=
  laneStore s g sc b o d f 4
/-- ST.B64. -/
def execStB64 (g : BitVec 4) (sc : BitVec 2) (b : BitVec 5) (o d : BitVec 7) (f : BitVec 1) (s : State) : Outcome :=
  laneStore s g sc b o d f 8
/-- ST.B128. -/
def execStB128 (g : BitVec 4) (sc : BitVec 2) (b : BitVec 5) (o d : BitVec 7) (f : BitVec 1) (s : State) : Outcome :=
  laneStore s g sc b o d f 16

/-- LOAD_PERFORMED: the load's value is fixed at the home of its bytes (11 R273). -/
def execLoadPerformed (op : Nat) (s : State) : Outcome :=
  .next (match s.op op with | some o => s.performLoad o | none => s)
/-- STORE_PERFORMED: the write takes its place at its home (11 R273). -/
def execStorePerformed (op : Nat) (s : State) : Outcome :=
  .next (match s.op op with | some o => s.performStore o | none => s)
/-- CORRECTED_LINE_REWRITE: a line that reads CORRECTED is rewritten, with no change of value (20 R431). -/
def execCorrectedLineRewrite (line : Nat) (s : State) : Outcome :=
  let r := s.lineRead line
  .next (if r.kind = .corrected ∧ r.bad = false then s.setLine line ⟨false, []⟩ else s)

/-! ## Walk bodies (10 R271) -/

/-- WALK_ORDER where a walk's task group issues a forbidden form. -/
def walkCond (g : Group) (forbidden : Bool) : Option Cond :=
  match g.kind with
  | .task _ true i j k =>
    let n := i + 2 ^ 20 * j + 2 ^ 40 * k
    if forbidden then some { cause := walkOrder, index := n, aux := n } else none
  | _ => none

/-! ## Atomics (R176, R177) -/

/-- A lane's access with its resolved bytes. -/
abbrev AtomLane := Nat × List Loc

/-- The lanes' locations of an `ATOM`, `UPD`, `REL` or `ACQ` whose checks pass: those before its addresses, those of its
addresses, and `late` after them. They are made once (R169, R175). -/
def checkedOnce (s : State) (g : Group) (early : Option Cond) (acc : State × Except Cond (List (Nat × Place × List Loc)))
    (late : Option Cond) (k : State → List AtomLane → Res) : Res :=
  match g.passed with
  | some ps => k s ps
  | none => Res.unless s early (match acc with
    | (s, .error e) => .trap s e
    | (s, .ok ps) => Res.unless s late (k s (ps.map fun (l, _, locs) => (l, locs))))

/-- It waits, its checks passed. -/
def waitChecked (s : State) (g : Group) (ps : List AtomLane) : Res :=
  .wait (s.modGroup g.gid fun h => { h with passed := some ps })

/-- It is performed: its operation is left to complete. -/
def doneChecked (s : State) (g : Group) (flag : Option Nat) : Res :=
  .done ((s.issueOp g flag .plain true).modGroup g.gid fun h => { h with passed := none, atoms := [] })

/-- Whether such an access must wait: for a check-out or for the group's earlier accesses. -/
def State.mustWait (s : State) (g : Group) (kind : OpKind) (accs : List LaneAcc) : Bool :=
  s.held (devBytes accs) none || !s.reaches g.world (devBytes accs) || !s.mayPerform ⟨s.ids, g.gid, g.core, g.world, g.team, none, kind, false, 0⟩

/-- The value of R176's operation on w bits: memory, operand, expected. -/
def atomOp (x w m v e : Nat) : Nat :=
  match x with
  | 0 => (m + v) % 2 ^ w
  | 1 => if toSigned w v < toSigned w m then v else m
  | 2 => if toSigned w m < toSigned w v then v else m
  | 3 => min m v
  | 4 => max m v
  | 5 => m &&& v
  | 6 => m ||| v
  | 7 => m ^^^ v
  | 8 => v
  | 9 => if m = e then v else m
  | _ => add32 m v

/-- The number formed by a lane's registers from r. -/
def laneNum (n : Lane) (r : BitVec 7) (regs : Nat) : Nat :=
  (List.range regs).foldl (fun a k => a + (n.vreg (r.toNat + k)).val.toNat * 2 ^ (32 * k)) 0

/-- The lanes acting one at a time in ascending order: the old value of each, and the final value at each address, newest
first. -/
def atomRun (x w : Nat) (g : Group) (c d : BitVec 7) : List AtomLane → List (List Loc × Nat) → (List Loc → Nat) →
    List (Nat × Nat) × List (List Loc × Nat)
  | [], m, _ => ([], m)
  | (l, loc) :: r, m, base =>
    let old := ((findBy (fun e => e.1 == loc) m).map Prod.snd).getD (base loc)
    let new := atomOp x w old (laneNum (g.lane l) c (w / 32)) (laneNum (g.lane l) d (w / 32))
    let (os, m) := atomRun x w g c d r ((loc, new) :: dropBy (fun e => e.1 == loc) m) base
    ((l, old) :: os, m)

/-- The accesses of final values. -/
def finalAccs (width : Nat) (m : List (List Loc × Nat)) : List LaneAcc :=
  m.map fun e => ⟨0, 0, e.1, toBytes width e.2, false⟩

/-- The bytes read of a lane's locations. -/
def locNum (rs : List LaneAcc) (loc : List Loc) : Nat :=
  ((findBy (fun a => a.locs == loc) rs).map fun a => ofBytes a.bytes).getD 0

/-- A scratchpad byte by its bank, whichever path named it (R164). -/
def Loc.plain : Loc → Loc
  | .scr _ t o => .scr false t o
  | l => l

/-- The distinct addresses of lanes' accesses, in the order of their lowest lanes. -/
def places : List AtomLane → List (List Loc)
  | [] => []
  | e :: l => e.2 :: dropBy (· == e.2) (places l)

/-- The lanes whose addresses are performed together: all those on path 0x0, and of the scratchpad addresses, in their
order, as many as their banks serve before another agent's access (R177). How many: a free value, log entry 57. -/
def atomStage (s : State) (ps : List AtomLane) : State × List AtomLane :=
  let pad := fun (ls : List Loc) => ls.any fun l => match l with | .scr _ _ _ => true | _ => false
  let pads := places (ps.filter fun e => pad e.2)
  if pads.length ≤ 1 then (s, ps)
  else
    let now := pads.take (1 + Config.freeNat s.fresh % pads.length)
    (s.draw, ps.filter fun e => !pad e.2 || now.contains e.2)

/-- Step 7 of R169 for an `ATOM`: the lanes whose registers `srcs` or whose memory values are poisoned. -/
def atomPoison (g : Group) (srcs : List Nat) (addr : Nat → Nat) (rs : List LaneAcc) : Option Cond :=
  let regs := fun l => srcs.filter fun r => ((g.lane l).vreg r).poison
  match (rs.filter fun a => a.poison || regs a.lane != []).map (·.lane) with
  | [] => none
  | l :: bad => some { cause := poisonUse, detail := 1, mask := laneMask (l :: bad), index := (regs l).headD 0,
                       addr := if regs l = [] then addr l else 0 }

/-- ATOM of a width (R176): after the group's earlier accesses, the values are read at their homes; a poisoned value
raises POISON_USE with no effect, else each address takes its final value, those of path 0x0 at one time, and V[D] the
old values. A word that another agent poisons between the addresses of one ATOM reads as its bytes: DESIGN CHOICE, log
entry 57. -/
def laneAtom (s : State) (gd : BitVec 4) (sc : BitVec 2) (b : BitVec 5) (o d : BitVec 7) (f : BitVec 1)
    (disp : BitVec 16) (x : BitVec 4) (c : BitVec 7) (width : Nat) : Outcome :=
  onGroup s fun g i =>
    let ls := g.contributing i gd
    let n := widthRegs width
    let regs := regSpan d n ++ regSpan c n
    let flag := i.flag f
    if s.hazard g ls (o.toNat :: regs) [b.toNat] || !g.flagFree flag then .wait s
    else checkedOnce s g (firstCond [walkCond g (8 ≤ x.toNat), addrChecks g ls b o regs])
      (s.access g pathsAtom false 1 width (laneAddrs g ls sc b o disp)) none fun s ps =>
        let all : List LaneAcc := ps.map fun (l, locs) => ⟨l, 0, locs, [], false⟩
        let poison := atomPoison g (regSpan c n ++ if x = 9#4 then regSpan d n else []) (laneAddr g sc b o disp)
        if g.atoms = [] ∧ s.mustWait g (.store width all) all then Res.unless s (poison all) (waitChecked s g ps)
        else
          let rest := (ps.filter fun e => !g.atoms.any fun a => a.1 == e.1).map fun e => (e.1, e.2.map Loc.plain)
          let accs : List LaneAcc := rest.map fun (l, locs) => ⟨l, 0, locs, [], false⟩
          let counted := (s.homeRead (devBytes accs)).1
          let s := s.mergeAll (atomsOf (devBytes accs)) g.lclock (some (g.core / 4))
          match s.homeRead (devBytes accs) with
          | (s, _, some bad) => .wait (s.integrity (bad * 128))
          | (s, bs, none) =>
            let found : Found := (List.zip (devBytes accs) bs).map fun e => (0, e.1, e.2)
            match s.readAccs g.core g.lclock found accs with
            | (s, _, some bad) => .wait (s.integrity (bad * 128))
            | (s, rs, none) =>
              Res.unless counted (if g.atoms = [] then poison rs else none)
                (let (s, now) := atomStage s rest
                let (olds, m) := atomRun x.toNat (8 * width) g c d now [] (locNum rs)
                match s.writeAccs g.core g.team g.lclock (finalAccs width m) with
                | (s, some bad, _) => .wait (s.integrity (bad * 128))
                | (s, none, t) =>
                  let done := g.atoms ++ olds
                  if now.length < rest.length then
                    .wait (s.modGroup g.gid fun h => { h.raise t with passed := some ps, atoms := done })
                  else
                    let ws : Writes := done.map fun (l, v) =>
                      (l, (List.range n).map fun k => (d.toNat + k, ⟨BitVec.ofNat 32 (v / 2 ^ (32 * k)), false⟩))
                    doneChecked (s.modGroup g.gid fun h => (h.writeV ws).raise t) g flag)

/-- ATOM.B32. Performed at issue: DEDUCED, log entry 8. -/
def execAtomB32 (g : BitVec 4) (sc : BitVec 2) (b : BitVec 5) (o d : BitVec 7) (f : BitVec 1) (i : BitVec 16)
    (x : BitVec 4) (c : BitVec 7) (s : State) : Outcome := laneAtom s g sc b o d f i x c 4
/-- ATOM.B64. -/
def execAtomB64 (g : BitVec 4) (sc : BitVec 2) (b : BitVec 5) (o d : BitVec 7) (f : BitVec 1) (i : BitVec 16)
    (x : BitVec 4) (c : BitVec 7) (s : State) : Outcome := laneAtom s g sc b o d f i x c 8

/-! ## Update-only contributions (R178 to R180) -/

/-- The entries a cluster's merge unit holds. -/
def State.unitAtoms (s : State) (cluster : Nat) : List (Nat × Nat) :=
  s.uatoms.filterMap fun u => (findBy (fun h => h.1 == cluster) u.holders).map fun h => (h.2.1, u.atom)

/-- The least recently used of a unit's entries. -/
def oldest : List (Nat × Nat) → Option Nat
  | [] => none
  | e :: l => some (l.foldl (fun m x => if x.1 < m.1 then x else m) e).2

/-- Room in a full merge unit: its least recently used atom is evicted (R180); none under an X check-out is (11 R289). -/
def State.unitRoom (s : State) (cluster c : Nat) : State :=
  let es := s.unitAtoms cluster
  if 256 ≤ es.length then
    match oldest (es.filter fun e => !s.held [e.2 * 32] none) with
    | some a => s.evictAtom a c cluster
    | none => s
  else s

/-- An atom ready to take contributions of a tag from a cluster: another tag is merged first, an entry is found. -/
def State.enterU (s : State) (cluster c tag a : Nat) : State :=
  let s := match s.uatom a with
    | some u => if u.tag = tag then s else s.mergeAtom a c (some cluster)
    | none => s
  let has := ((s.uatom a).map fun u => u.holders.any fun h => h.1 == cluster).getD false
  let s := if has then s else s.unitRoom cluster c
  match s.uatom a with
  | some _ => s
  | none => { s with uatoms := s.uatoms ++ [⟨a, tag, [], [], 0⟩] }

/-- An atom in U state changed. -/
def State.modUatom (s : State) (a : Nat) (f : UAtom → UAtom) : State :=
  { s with uatoms := updBy (fun u => u.atom == a) f s.uatoms }

/-- One contribution (R178). -/
def UAtom.add (u : UAtom) (cluster use k v time : Nat) : UAtom :=
  let (_, ps) := mapGet (0, []) u.holders cluster
  let p := contribute u.tag v ((findBy (fun e => e.1 == k) ps).map Prod.snd)
  { u with holders := mapIns u.holders cluster (use, mapIns ps k p), time := max u.time time }

/-- UPD: each contributing lane's value joins the cluster's partial, as one write at the group's clock (R178, 11 R286). -/
def execUpd (gd : BitVec 4) (sc : BitVec 2) (b : BitVec 5) (o d : BitVec 7) (f : BitVec 1) (disp : BitVec 16)
    (x : BitVec 4) (s : State) : Outcome :=
  onGroup s fun g i =>
    let ls := g.contributing i gd
    let width := tagBytes x.toNat
    let regs := regSpan d (widthRegs width)
    let flag := i.flag f
    if s.hazard g ls (o.toNat :: regs) [b.toNat] || !g.flagFree flag then .wait s
    else checkedOnce s g (firstCond [walkCond g (x == 10#4), addrChecks g ls b o regs])
      (s.access g pathsUpd false 1 width (laneAddrs g ls sc b o disp)) (vPoison g ls 1 regs) fun s ps =>
        let accs : List LaneAcc := ps.map fun (l, locs) => ⟨l, 0, locs, [], false⟩
        if s.mustWait g (.store width accs) accs then waitChecked s g ps
        else
          let cluster := g.core / 4
          let s := accs.foldl (fun s a =>
            match a.locs with
            | .mem pa :: _ =>
              let s := (s.enterU cluster g.lclock x.toNat (pa / 32)).newId
              let t := s.writeTime g.lclock [pa / 32]
              let v := laneNum (g.lane a.lane) d (width / 4)
              s.modUatom (pa / 32) fun u => u.add cluster s.ids (pa % 32 / width) v t
            | _ => s) s
          let atoms := atomsOf (devBytes accs)
          let t := s.writeTime g.lclock atoms
          let s := if atoms = [] then s else (s.stampAll atoms t).noteWriter atoms (s.writerOf g) none
          let s := atoms.foldl (fun s a => s.modUatom a fun u => { u with time := max u.time t }) s
          doneChecked (s.modGroup g.gid fun h => h.raise (if atoms = [] then 0 else t)) g flag

/-! ## Release, acquire and fences (R181 to R184) -/

/-- The operations whose writes a release waits for: a copy to a queue writes no bytes (09 R235). -/
def releaseWaits (o : Op) : Bool :=
  match o.kind with
  | .store _ _ | .bank _ | .memcall _ _ => true
  | .copy c => c.stream.isNone
  | _ => false

/-- The slice of the L2 that homes an atom, by die (11 R284). -/
def homeSlice (atom : Nat) : Nat × Nat := (lineDie (atom / 4), Config.sliceOf (atom / 4) % 32)

/-- The entries of a slice's table that a polder has, in proportion to its ways of the die (11 R284). -/
def State.varShare (s : State) (w atom : Nat) : Nat :=
  4096 * (maskBits (mapGet 0#64 s.ways (2 * w + lineDie (atom / 4)))).length / 64

/-- A sync-variable entry created or renewed by a release (11 R284): where the polder's share of the slice is full, its
least recently used entry is lost for it; a polder without ways there has no entry. -/
def State.syncVar (s : State) (w : Nat) (writer : BitVec 16) (scope : BitVec 2) (atom : Nat) : State :=
  let s := s.newId
  if s.vars.any fun v => v.atom == atom then
    { s with vars := updBy (fun v => v.atom == atom) (fun v => { v with writer := writer, scope := scope, stamp := s.ids }) s.vars }
  else
    let mine := s.vars.filter fun v => v.world == w && homeSlice v.atom == homeSlice atom
    let vars := match oldest (mine.map fun v => (v.stamp, v.atom)) with
      | some a => if s.varShare w atom ≤ mine.length then dropBy (fun v => v.atom == a) s.vars else s.vars
      | none => s.vars
    if s.varShare w atom = 0 then s else { s with vars := ⟨atom, w, writer, scope, s.ids⟩ :: vars }

/-- The words of scratchpad among accesses, by team and offset. -/
def scratchWords (accs : List LaneAcc) : List (Nat × Nat) :=
  accs.flatMap fun a => a.locs.filterMap fun l => match l with | .scr _ t o => some (t, o / 4) | _ => none

/-- The clock that a `REL` carries to the words of scratchpad it writes, and that an `ACQ` which reads them or a later write
takes over, so that what the one observed the other observes on every path (R183, 11 R285): DEDUCED, log entry 8. -/
def State.carryClock (s : State) (accs : List LaneAcc) (c : Nat) : State :=
  (scratchWords accs).foldl (fun s w => s.modTeam w.1 fun t =>
    { t with rels := mapSet 0 t.rels w.2 (max (mapGet 0 t.rels w.2) c) }) s
def State.carriedClock (s : State) (accs : List LaneAcc) : Nat :=
  (scratchWords accs).foldl (fun c w => max c (((s.team w.1).map fun t => mapGet 0 t.rels w.2).getD 0)) 0

/-- REL of a width (R181): every earlier write of the group performed, then the store and its sync-variable entries. -/
def laneRel (s : State) (gd : BitVec 4) (sc : BitVec 2) (b : BitVec 5) (o d : BitVec 7) (f : BitVec 1)
    (disp : BitVec 16) (x : BitVec 4) (width : Nat) : Outcome :=
  onGroup s fun g i =>
    let ls := g.contributing i gd
    let regs := regSpan d (widthRegs width)
    let flag := i.flag f
    if s.hazard g ls (o.toNat :: regs) [b.toNat] || !g.flagFree flag then .wait s
    else checkedOnce s g (addrChecks g ls b o regs) (s.access g pathsAtom false 1 width (laneAddrs g ls sc b o disp)) none
      fun s ps =>
        let accs : List LaneAcc := ps.map fun (l, locs) =>
          let (bs, p) := storeData (g.lane l) d width
          ⟨l, 0, locs, bs, p⟩
        if !s.performed g.gid releaseWaits || s.mustWait g (.store width accs) accs then waitChecked s g ps
        else
          let g := g.raise (s.opTime g.gid releaseWaits)
          match s.writeAccs g.core g.team g.lclock accs with
          | (s, some bad, _) => .wait (s.integrity (bad * 128))
          | (s, none, t) =>
            let s := (atomsOf (devBytes accs)).foldl (fun s a =>
              s.syncVar g.world (s.writerOf g) (BitVec.ofNat 2 x.toNat) a) s
            let s := s.carryClock accs (max g.lclock t)
            doneChecked (s.modGroup g.gid fun h => (h.raise g.lclock).raise t) g flag

/-- The effective scope of an acquire of an atom (R182): 0 TEAM, 1 GANG, 2 DEVICE, 3 FABRIC. -/
def acquireScope (declared : Nat) (me : BitVec 16) : Option (BitVec 16) → Nat
  | none => max declared 2
  | some w =>
    let need :=
      if w = me then 0
      else if w.toNat / 2 ^ 10 % 32 = 31 then 3
      else if w.toNat / 2 ^ 10 = me.toNat / 2 ^ 10 then 1
      else 2
    max declared need

/-- The acquire actions of a scope limited to some copies (R183, R184); from then on a view word is decoded from lines
fetched later (R174). -/
def State.acquire (s : State) (gid core scope : Nat) (ro views : Bool) : State :=
  let s := { s with ro := if ro then dropCopies core s.ro else s.ro,
                    views := if views then dropCopies core s.views else s.views }
  let s := if views then { s.draw with cvmarks := mapSet 0 s.cvmarks core (s.fresh + 1) } else s
  if 2 ≤ scope then
    let top := s.stamps.foldl (fun t e => max t e.2.1) 0
    s.modGroup gid fun g => g.raise top
  else s

/-- ACQ of a width (R182): the load performed, then the acquire actions of the effective scope. -/
def laneAcq (s : State) (gd : BitVec 4) (sc : BitVec 2) (b : BitVec 5) (o d : BitVec 7) (f : BitVec 1)
    (disp : BitVec 16) (x : BitVec 4) (width : Nat) : Outcome :=
  onGroup s fun g i =>
    let ls := g.contributing i gd
    let regs := regSpan d (widthRegs width)
    let flag := i.flag f
    if s.hazard g ls (o.toNat :: regs) [b.toNat] || !g.flagFree flag then .wait s
    else checkedOnce s g (addrChecks g ls b o regs) (s.access g pathsAtom false 0 width (laneAddrs g ls sc b o disp)) none
      fun s ps =>
        let accs : List LaneAcc := ps.map fun (l, locs) => ⟨l, (g.lane l).fid, locs, [], false⟩
        if s.mustWait g (.load d.toNat width false false accs) accs then waitChecked s g ps
        else if ls = [] then doneChecked s g flag
        else
          let me := s.writerOf g
          let atoms := atomsOf (devBytes accs)
          let scopes := atoms.map fun a => acquireScope x.toNat me ((findBy (fun v => v.atom == a) s.vars).map (·.writer))
          let scr := accs.any fun a => a.locs.any fun l => match l with | .scr _ _ _ => true | _ => false
          let scope := scopes.foldl max (if scr then max x.toNat 1 else x.toNat)
          let s := s.mergeAll atoms g.lclock (some (g.core / 4))
          match s.readGroup g.core g.lclock accs with
          | (s, _, some bad, _) => .wait (s.integrity (bad * 128))
          | (s, rs, none, t) =>
            let s := s.newId
            let s := { s with vars := updBy (fun v => atoms.contains v.atom) (fun v => { v with stamp := s.ids }) s.vars }
            let s := s.modGroup g.gid fun g =>
              (g.loadInto d.toNat width false false rs).raise (max t (s.carriedClock accs))
            doneChecked (s.acquire g.gid g.core scope true true) g flag

/-- REL.B32. -/
def execRelB32 (g : BitVec 4) (sc : BitVec 2) (b : BitVec 5) (o d : BitVec 7) (f : BitVec 1) (i : BitVec 16)
    (x : BitVec 4) (s : State) : Outcome := laneRel s g sc b o d f i x 4
/-- REL.B64. -/
def execRelB64 (g : BitVec 4) (sc : BitVec 2) (b : BitVec 5) (o d : BitVec 7) (f : BitVec 1) (i : BitVec 16)
    (x : BitVec 4) (s : State) : Outcome := laneRel s g sc b o d f i x 8
/-- ACQ.B32. -/
def execAcqB32 (g : BitVec 4) (sc : BitVec 2) (b : BitVec 5) (o d : BitVec 7) (f : BitVec 1) (i : BitVec 16)
    (x : BitVec 4) (s : State) : Outcome := laneAcq s g sc b o d f i x 4
/-- ACQ.B64. -/
def execAcqB64 (g : BitVec 4) (sc : BitVec 2) (b : BitVec 5) (o d : BitVec 7) (f : BitVec 1) (i : BitVec 16)
    (x : BitVec 4) (s : State) : Outcome := laneAcq s g sc b o d f i x 8

/-- Whether a store has bytes on a path. -/
def Op.storesOn (o : Op) (p : Nat) : Bool :=
  match o.kind with
  | .store _ accs => accs.any fun a => a.locs.any fun l => l.path == p
  | _ => false

/-- Whether a copy writes memory on a path. -/
def Op.copiesTo (o : Op) (p : Nat) : Bool :=
  match o.kind with
  | .copy c => !c.load && pathOf c.mbase.toNat == p
  | _ => false

/-- The writes that a FENCE of a path waits for (R184), those of copies among them (11 R281, 12 R296). -/
def fenceWaits (path : Nat) (o : Op) : Bool :=
  match path with
  | 0 | 1 | 5 => o.storesOn 0 || o.copiesTo 0
  | 2 | 3 => o.storesOn path ||
      (match o.kind with | .bank _ => true | .copy c => c.load && c.stream.isNone | _ => false)
  | 6 => o.storesOn 6 || o.copiesTo 6 || (match o.kind with | .memcall _ _ => true | _ => false)
  | _ => releaseWaits o

/-- The accesses of path 0x0 that a FENCE of PATH COH or ALL at FABRIC scope orders, those in the host window among them
(18 R411). -/
def hostFence (scope path : Nat) (o : Op) : Bool :=
  scope == 3 && (path == 0 || path == 15) && o.touches.1.any fun x => x.1 == 0

/-- FENCE (R184): the path's earlier writes performed, then the acquire actions limited to the path's copies. -/
def execFence (sc : BitVec 2) (p : BitVec 4) (s : State) : Outcome :=
  onGroup s fun g _ =>
    if !s.performed g.gid (fenceWaits p.toNat) || !s.performed g.gid (hostFence sc.toNat p.toNat) then .wait s
    else
      let t := s.opTime g.gid (fenceWaits p.toNat)
      let s := s.modGroup g.gid fun g => g.raise t
      .done (s.acquire g.gid g.core sc.toNat (p == 1#4 || p == 15#4) (p == 5#4 || p == 15#4))

/-! ## The tag table (R185 to R187) -/

/-- An entry that is not valid. -/
def TagEntry.empty : TagEntry := ⟨false, 0#32, 0#32, 0⟩

/-- Way w of key k's set in a core's table. -/
def tagSlot (core : Nat) (k : Word) (w : Nat) : Nat := core * 2048 + (k.toNat % 512) * 4 + w

/-- The way of a launch's entry for a key. -/
def tagWay (m : List (Nat × TagEntry)) (core grid : Nat) (k : Word) : Option Nat :=
  findBy (fun w => let e := mapGet TagEntry.empty m (tagSlot core k w); e.valid && e.grid == grid && e.key == k)
    (List.range 4)

/-- The lowest way of a key's set that holds nothing. -/
def tagFree (m : List (Nat × TagEntry)) (core : Nat) (k : Word) : Option Nat :=
  findBy (fun w => !(mapGet TagEntry.empty m (tagSlot core k w)).valid) (List.range 4)

/-- One lane of TLOOK (0), TINS (1) or TINV (2): the table after, and the result (R186). -/
def tagStep (op core grid : Nat) (m : List (Nat × TagEntry)) (k v : Word) : List (Nat × TagEntry) × Word :=
  let e := tagWay m core grid k
  let at_ := fun w => mapGet TagEntry.empty m (tagSlot core k w)
  match op with
  | 0 => (m, match e with | some w => (at_ w).slot | none => 0xFFFFFFFF#32)
  | 1 =>
    if v = 0xFFFFFFFF#32 then (m, 0xFFFFFFFE#32)
    else match e with
      | some w => (mapSet TagEntry.empty m (tagSlot core k w) { at_ w with slot := v }, BitVec.ofNat 32 w)
      | none =>
        match tagFree m core k with
        | some w => (mapSet TagEntry.empty m (tagSlot core k w) ⟨true, k, v, grid⟩, BitVec.ofNat 32 w)
        | none => (m, 0xFFFFFFFF#32)
  | _ =>
    match e with
    | some w => (mapSet TagEntry.empty m (tagSlot core k w) TagEntry.empty, (at_ w).slot)
    | none => (m, 0xFFFFFFFF#32)

/-- The lanes in ascending order, each seeing the effects of lower lanes. -/
def tagRun (op : Nat) (g : Group) (a b : BitVec 7) : List Nat → List (Nat × TagEntry) →
    List (Nat × TagEntry) × List (Nat × Word)
  | [], m => (m, [])
  | l :: ls, m =>
    let (m, r) := tagStep op g.core g.grid m ((g.lane l).vreg a.toNat).val ((g.lane l).vreg b.toNat).val
    let (m, rs) := tagRun op g a b ls m
    (m, (l, r) :: rs)

/-- A tag-table instruction (R186, R187): `srcs` are the registers it reads. -/
def laneTag (s : State) (gd : BitVec 4) (op : Nat) (b a d : BitVec 7) (srcs : List Nat) : Outcome :=
  onGroup s fun g i =>
    let ls := g.contributing i gd
    if s.hazard g ls (d.toNat :: srcs) [] then .wait s
    else Res.unless s (firstCond [boundCond g ls (d.toNat :: srcs), vPoison g ls 1 srcs])
      (if op = 1 ∧ s.performed g.gid (fun o => o.storesOn 2 || o.storesOn 3) = false then .wait s
      else
        let (m, rs) := tagRun op g a b ls s.tags
        .done ({ s with tags := m }.modGroup g.gid fun g => g.writeV (rs.map fun (l, v) => (l, [(d.toNat, ⟨v, false⟩)]))))

/-- TLOOK. -/
def execTlook (g : BitVec 4) (a d : BitVec 7) (s : State) : Outcome := laneTag s g 0 0#7 a d [a.toNat]
/-- TINS. -/
def execTins (g : BitVec 4) (b a d : BitVec 7) (s : State) : Outcome := laneTag s g 1 b a d [a.toNat, b.toNat]
/-- TINV. -/
def execTinv (g : BitVec 4) (a d : BitVec 7) (s : State) : Outcome := laneTag s g 2 0#7 a d [a.toNat]

end Sys2Proof.Machine
end

