-- ==== Sys2Proof/Machine/Control.lean ====
section
/-!
DEFINITION. Sys2Proof/Machine/Control.lean: the issue of clauses (02 R71, 10 R253), completion of operations (02 R37),
and the control class but for walks and launches (08 R193 to R214): branches, frames, spawning, regrouping, barriers,
sync words, counters, queues and parked lanes.
-/
namespace Sys2Proof.Machine

/-! ## Choosing and issuing a clause -/

/-- Whether an instruction is a waiting instruction (08 R190).
When the fault of a misplaced one is raised: DEDUCED, log entry 9. -/
def instrWaits : Instr → Bool
  | .call .. | .callx .. | .spawn .. | .regroup .. | .barTeam .. | .barGang .. | .swait .. | .cwait .. | .rejoin .. |
    .walk .. | .launch .. => true
  | _ => false

/-- The instruction at the present word of a clause, where it decodes. -/
def Issue.instr (i : Issue) : Option Instr :=
  match decode i.cls i.word i.words[i.idx + 1]? with
  | .ok x _ => some x
  | .illegal _ => none

/-- Whether a group stands inside a clause: neither at a header, nor at a waiting instruction, nor at a `SPUSH` on a full
queue, nor held on a fault, which are saved as they wait (21 R447). -/
def Group.inClause (g : Group) : Bool :=
  match g.issue with
  | some i => g.held.isNone && g.spush.isNone && !(i.idx == 0 && (i.instr.map instrWaits).getD false)
  | none => false

/-- Whether groups of a core are being stopped: by SUSPEND, by the latch change of their cluster (21 R448), or by the release of
their polder (R462). -/
def State.stops (s : State) (g : Group) : Bool :=
  (s.polder g.world).stopping.isSome || mapGet false s.changing (g.core / 4) || (s.polder g.world).state == .releasing

/-- Whether a group is stalled inside a clause: it stands at the word that it last ran. DEDUCED, log entry 39. -/
def Group.stalled (g : Group) : Bool := g.inClause && (g.issue.map fun i => (i.hdr, i.idx)) == g.tried

/-- Whether another group of the gang is stalled inside a clause, so that a stopped group is let go again (21 R448). -/
def State.gangStalled (s : State) (g : Group) : Bool :=
  s.groups.any fun h => h.gid != g.gid && s.gangOf h == s.gangOf g && h.stalled

/-- The word that a group being stopped runs next, noted. -/
def State.noteTry (s : State) (g : Group) (i : Issue) : State :=
  if s.stops g then s.modGroup g.gid fun g => { g with tried := some (i.hdr, i.idx) } else s

/-- Whether a group may issue: it is resident in a polder that runs, not held, not swapped out, waiting for no trap frame
and no return. -/
def State.mayIssue (s : State) (g : Group) : Bool :=
  g.issue.isNone && g.held.isNone && !g.swapped &&
  (match g.request with
    | some r => (match r.use with | .trap _ | .swapIn _ => false | _ => true)
    | none => true) &&
  (g.world == 60 || (s.polder g.world).state == .run) && (!s.stops g || s.gangStalled g)

/-- The least of a list of addresses. -/
def leastPc (g : Group) : List Nat → Nat → Nat
  | [], m => m
  | l :: ls, m => leastPc g ls (min (g.lane l).pcv.toNat m)

/-- The lanes in the clause at an address (10 R253): lanes that hold a resume index issue alone, those of one return from
a trap frame together (20 R440). Of several returns that of the lowest lane is first: DEDUCED, log entry 58. -/
def Group.lanesAt (g : Group) (h : Nat) : List Nat :=
  let at_ := g.ready.filter fun l => (g.lane l).pcv.toNat == h
  let back := at_.filter fun l => (g.lane l).resume.isSome
  match back with
  | [] => at_
  | l :: _ => back.filter fun m => (g.lane m).back == (g.lane l).back && (g.lane m).resume == (g.lane l).resume

/-- The issue address and the lanes in the clause (10 R253). -/
def Group.nextClause (g : Group) : DWord × List Nat :=
  let h := leastPc g g.ready (2 ^ 64)
  (BitVec.ofNat 64 h, g.lanesAt h)

/-- The clause that the second fetch port may issue with the one at `h` of the lanes `ls` (10 R255): that of the next
higher PCV. -/
def Group.secondClause (g : Group) (h : DWord) : Option (DWord × Mask) :=
  match g.ready.filter fun l => h.toNat < (g.lane l).pcv.toNat with
  | [] => none
  | l :: ls =>
    let p := leastPc g (l :: ls) (2 ^ 64)
    some (BitVec.ofNat 64 p, laneMask (g.lanesAt p))

/-- A trap at a clause header, before any instruction (02 R71 steps 1 to 4), or of an earlier operation (ASYNC). -/
def State.raiseHeader (s : State) (g : Group) (h : DWord) (lanes : List Nat) (c : Cond) : State :=
  let m := laneMask lanes
  s.trap g.gid h m ⟨true, 0, 0, 0, none⟩ (s.groupRecord g m c h 4)

/-- How the fetch of words ends. -/
inductive Fetch where
  | ok (ws : List Word)
  | fault (c : Cond)
  | stall
deriving DecidableEq, Repr

/-- A clause header of a class and N words, SETA and SETB naming no flag and WAIT none (02 R34). -/
def loopHeader (yld : BitVec 1) (cls : BitVec 3) (n : BitVec 4) : Word :=
  0xA#4 ++ yld ++ 15#4 ++ 15#4 ++ 0#12 ++ cls ++ n

/-- The firmware lock-keeper's code, as the listing of 16 R352 gives it. -/
def firmwareLoop : List Word :=
  loopHeader 0#1 0#3 3#4 :: encode (.sld 3#3 0#12 1#5 2#5 0#1) ++ encode (.sld 3#3 8#12 1#5 3#5 0#1) ++
    encode (.saddi 1#12 0#5 4#5) ++
  loopHeader 1#1 0#3 5#4 :: encode (.sand 0#1 0#1 3#5 4#5 5#5) ++ encode (.sshli 7#6 5#5 5#5) ++
    encode (.sadd 0#1 0#1 2#5 5#5 5#5) ++ encode (.sld 3#3 64#12 5#5 6#5 0#1) ++
    encode (.scmp 0#1 0#1 0#2 0#4 4#5 6#5 0#2) ++
  loopHeader 0#1 5#3 1#4 :: encode (.bru (-6#22) 1#1 0#2) ++
  loopHeader 0#1 5#3 1#4 :: encode (.launch 7#5 5#5) ++
  loopHeader 0#1 0#3 2#4 :: encode (.sst 3#3 72#12 5#5 7#5 0#1) ++ encode (.saddi 1#12 4#5 4#5) ++
  loopHeader 0#1 5#3 1#4 :: encode (.br (-13#21) 7#4)

/-- The word of the firmware lock-keeper at an address, where a group runs that kernel: it starts at
`Config.firmwareLockkeeper`. PRESUMED, log entry 37. -/
def State.firmwareWord (s : State) (g : Group) (a : Nat) : Option Word :=
  match s.grid g.grid with
  | some k =>
    if k.keeper && k.desc == 0#64 && Config.firmwareLockkeeper.toNat ≤ a then
      firmwareLoop[(a - Config.firmwareLockkeeper.toNat) / 4]?
    else none
  | none => none

/-- The fetch of n words from an address (02 R35, R42): translated for fetch, read on the read-only path. -/
def State.fetchWords (s : State) (g : Group) (a n : Nat) : State × Fetch :=
  match n with
  | 0 => (s, .ok [])
  | k + 1 =>
    let at_ := (a + 4 * k) % 2 ^ 64
    match s.fetchWords g a k with
    | (s, .ok ws) =>
      match s.firmwareWord g at_ with
      | some x => (s, .ok (ws ++ [x]))
      | none =>
      if 2 ≤ pathOf at_ ∨ bitsAt at_ 56 4 ≠ 0 ∨ at_ % 4 ≠ 0 ∨ (g.world = 60 ∧ pathOf at_ = 1) then
        (s, .fault { cause := addrPath, addr := at_ })
      else
        match s.xlate g.core g.world (at_ % 2 ^ 56) 2 false with
        | (s, .ok t) =>
          if hostWindow t.pa then (s, .fault { cause := addrPath, addr := at_ })
          else if s.held (addrs t.pa 4) none then (s, .stall)
          else
            match s.roRead g.core g.lclock 0 (addrs t.pa 4) with
            | (s, _, some b) => (s.integrity (b * 128), .stall)
            | (s, bs, none) =>
              if bs.any Prod.snd then (s, .fault { cause := poisonUse, detail := 4, addr := at_ })
              else (s, .ok (ws ++ [BitVec.ofNat 32 (ofBytes (bs.map Prod.fst))]))
        | (s, .fault d st _) => (s, .fault { cause := xlateCause, detail := d, addr := at_, aux := xlateAux st 2 })
        | (s, .held) => (s, .stall)
        | (s, _) => (s, .fault { cause := addrPath, addr := at_ })
    | (s, r) => (s, r)

/-- SIG, N, SETA, SETB and CLASS checked (02 R34, R44): the detail of the first that fails. -/
def headerDetail (w : Word) (world : Nat) : Option Nat :=
  let n := w.toNat
  let seta := n / 2 ^ 19 % 16
  let setb := n / 2 ^ 23 % 16
  let cls := n / 2 ^ 4 % 8
  if n / 2 ^ 28 ≠ 10 ∨ n % 16 = 0 ∨ (12 ≤ seta ∧ seta ≤ 14) ∨ (12 ≤ setb ∧ setb ≤ 14) then some 1
  else if cls = 7 then some 2
  else if cls = 6 ∧ world ≠ 60 then some 3
  else none

/-- Whether every flag that WAIT names is zero (02 R37). -/
def Group.waitMet (g : Group) (w : Word) : Bool :=
  (List.range 12).all fun k => !w.getLsbD (7 + k) || g.flag k == 0

/-- Whether a clause may be one of a pair: its class is 1 to 4 (10 R255). -/
def pairable (w : Word) : Bool := let c := w.toNat / 2 ^ 4 % 8; 1 ≤ c && c ≤ 4

/-- The clause begun at a word for its lanes. -/
def Group.begin (g : Group) (h : DWord) (hw : Word) (ws : List Word) (lanes : List Nat) : Group :=
  let n := hw.toNat
  let idx := ((lanes.head?.bind fun l => (g.lane l).resume)).getD 0
  { g.mapLanes (lanes.contains ·) (fun _ l => { l with resume := none, back := 0 }) with
    since := none, second := none, tried := none,
    issue := some ⟨h, n / 2 ^ 4 % 8, n / 2 ^ 19 % 16, n / 2 ^ 23 % 16, ws, idx, laneMask lanes⟩ }

/-- Whether lanes stand in a spilled frame, where the group issues nothing (08 R197). -/
def Group.stuckBack (g : Group) (lanes : List Nat) : Bool :=
  lanes.any fun l => ((g.frame (g.lane l).fid).map (·.spilled)).getD false

/-- Whether an ASYNC record may be reported now: none is being handled, and no lane resumes in mid-clause (20 R442). -/
def Group.asyncReady (g : Group) (lanes : List Nat) : Bool :=
  !(g.frames.any fun f => (f.trap :: f.points.map Prod.snd).any fun p => (p.map (·.header)).getD false) &&
    lanes.all fun l => (g.lane l).resume.getD 0 == 0

/-- The clause of a pair that follows, for its lanes: it has the effect of the next step of program order (10 R255). Where
it is not of a class that pairs, or does not start at once, there was no pair. -/
def State.pairIssue (s : State) (g : Group) (h : DWord) (lanes : List Nat) : State :=
  let alone := fun (s : State) => s.modGroup g.gid fun g => { g with second := none }
  match s.fetchWords g h.toNat 1 with
  | (s, .ok hw) =>
    let w := hw.headD 0#32
    if !pairable w || (headerDetail w g.world).isSome then alone s
    else match s.fetchWords g (h.toNat + 4) (w.toNat % 16) with
      | (s, .ok ws) => if g.waitMet w then s.modGroup g.gid fun g => g.begin h w ws lanes else alone s
      | (s, .fault c) => (alone s).raiseHeader g h lanes c
      | (s, .stall) => alone s
  | (s, _) => alone s

/-- CLAUSE_ISSUE (02 R71): the clause of a pair that is left, else that of the least waiting PCV: a pending report, the
fetch and the header's checks, the stall on WAIT. Whether the second port pairs it with the next: a free value, log entry
58. -/
def State.clauseIssue (s : State) (gid : Nat) : State :=
  match s.group gid with
  | none => s
  | some g =>
    let (h, lanes) := g.nextClause
    if !s.mayIssue g || lanes == [] then s
    else match g.second with
    | some (p, m) =>
      let ls := g.ready.filter fun l => m.getLsbD l && (g.lane l).pcv == p
      if ls = [] ∨ g.stuckBack ls then s.modGroup gid fun g => { g with second := none } else s.pairIssue g p ls
    | none =>
      if g.stuckBack lanes then s
      else match (if g.asyncReady lanes then g.asyncs else []) with
      | r :: rs =>
        let m := laneMask lanes
        let r := { r with flags := r.flags ||| 2#8 ||| (if g.inTrap m then 8#8 else 0#8), pc := h }
        (s.modGroup gid fun g => { g with asyncs := rs }).trap gid h m ⟨true, 0, 0, 0, none⟩ r
      | [] =>
        match s.fetchWords g h.toNat 1 with
        | (s, .stall) => s
        | (s, .fault c) => s.raiseHeader g h lanes c
        | (s, .ok hw) =>
          let w := hw.headD 0#32
          match headerDetail w g.world with
          | some d =>
            s.raiseHeader g h lanes { cause := illegalOp, detail := d, index := 0xFFFFFFFF, aux := w.toNat }
          | none =>
            match s.fetchWords g (h.toNat + 4) (w.toNat % 16) with
            | (s, .stall) => s
            | (s, .fault c) => s.raiseHeader g h lanes c
            | (s, .ok ws) =>
              if g.waitMet w then
                let two := if pairable w then g.secondClause h else none
                let s' := if two.isSome then s.draw else s
                s'.modGroup gid fun g => { g.begin h w ws lanes with
                  second := if two.isSome ∧ Config.freeNat s.fresh % 2 = 1 then two else none }
              else s.noteWait gid

/-- CLAUSE_ISSUE. -/
def execClauseIssue (gid : Nat) (s : State) : Outcome := .next (s.clauseIssue gid)

/-- LONG_LATENCY_COMPLETION: an operation whose effect is in place decrements its flag (02 R37). -/
def execLongLatencyCompletion (op : Nat) (s : State) : Outcome :=
  .next (match s.op op with
    | some o =>
      match o.kind with
      | .load _ _ _ _ _ | .store _ _ | .plain => if o.done then s.completeOp o else s
      | _ => s
    | none => s)

/-! ## Lanes leaving a clause -/

/-- Lanes sent elsewhere: they are no longer in the clause (02 R41). -/
def Group.leave (g : Group) (ls : List Nat) : Group :=
  { g with issue := g.issue.map fun i => { i with lanes := i.lanes &&& ~~~(laneMask ls) } }

/-- Lanes that branch, each to its target. -/
def Group.branch (g : Group) (ls : List Nat) (t : Nat → DWord) : Group :=
  (g.mapLanes (ls.contains ·) fun l n => { n with pcv := t l }).leave ls

/-- A branch target of a clause (02 R61). -/
def target {n : Nat} (h : DWord) (off : BitVec n) : DWord := h + 4#64 * off.signExtend 64

/-- Whether an address is on path 0x0 or 0x1 and aligned to 4: what a target must be (08 R195). -/
def okTarget (t : DWord) : Bool := pathOf t.toNat < 2 && t.toNat % 4 == 0

/-- BR (R193). -/
def execBr (o : BitVec 21) (g : BitVec 4) (s : State) : Outcome :=
  onGroup s fun h i => .done (s.modGroup h.gid fun h => h.branch (h.contributing i g) fun _ => target i.hdr o)

/-- BRU (R194): non-uniform, it sets UNIF, or raises UNIFORMITY under STRICT. -/
def execBru (o : BitVec 22) (n : BitVec 1) (c : BitVec 2) (s : State) : Outcome :=
  onGroup s fun g i =>
    let uniform := g.ready.all i.lanes.getLsbD
    if !uniform && g.strict then .trap s { cause := uniformity }
    else
      .done (s.modGroup g.gid fun g =>
        let g := g.stick unifBit !uniform
        if xor (g.creg c.toNat) (n == 1#1) then g.branch (maskLanes i.lanes) fun _ => target i.hdr o else g)

/-- A lane's 64-bit target in a pair. -/
def laneTarget (g : Group) (a : BitVec 7) (l : Nat) : DWord :=
  ((g.lane l).vreg (a.toNat + 1)).val ++ ((g.lane l).vreg a.toNat).val

/-- The checks of per-lane targets (R191, R195). -/
def targetChecks (g : Group) (ls : List Nat) (a : BitVec 7) : Option Cond :=
  firstCond [boundCond g ls [a.toNat, a.toNat + 1], vPoison g ls 2 [a.toNat, a.toNat + 1],
    failCond addrPath ((ls.filter fun l => !okTarget (laneTarget g a l)).map fun l => (l, (laneTarget g a l).toNat))
      fun _ c => c]

/-- BRX (R195): the elections leave no trace but PCV. -/
def execBrx (a : BitVec 7) (gd : BitVec 4) (s : State) : Outcome :=
  onGroup s fun g i =>
    let ls := g.contributing i gd
    if s.hazard g ls [a.toNat, a.toNat + 1] [] then .wait s
    else Res.unless s (targetChecks g ls a)
      (.done (s.modGroup g.gid fun g => g.branch ls (laneTarget g a)))

/-! ## Frames (R196 to R199) -/

/-- The lanes of each distinct target, in ascending order of each set's lowest lane. -/
def targetSets (t : Nat → DWord) : Nat → List Nat → List (DWord × List Nat)
  | 0, _ => []
  | _, [] => []
  | k + 1, l :: ls =>
    (t l, (l :: ls).filter fun m => t m == t l) :: targetSets t k (ls.filter fun m => t m != t l)

/-- The frames of a call allocated, zero-filled, and entered by their members. -/
def State.callFrames (s : State) (gid d : Nat) (ret : DWord) : List (DWord × List Nat) → State
  | [] => s
  | (t, ls) :: r =>
    let fid := s.ids
    (s.newId.modGroup gid fun g =>
      { g.mapLanes (ls.contains ·) (fun _ n => { n with pcv := t, chain := ⟨fid, []⟩ :: n.chain }) with
        frames := g.frames ++ [⟨fid, d, ret, none, false, fid, [], []⟩] }).callFrames gid d ret r

/-- A call of lanes with their targets (R196): its limits, then its frames, at once or as a request. -/
def State.call (s : State) (g : Group) (i : Issue) (ls : List Nat) (d : Nat) (t : Nat → DWord) : Res :=
  let sets := targetSets t 64 ls
  let n := granules d * sets.length
  let p := s.poolOf g.core g.grid
  let deep := ls.filter fun l => (g.lane l).depth = 255
  let take := fun (s : State) =>
    let s := s.callFrames g.gid d i.after sets
    Res.done (s.modGroup g.gid fun g => { g with request := none }.leave ls)
  if deep ≠ [] then .trap s { cause := frameDepth, mask := laneMask deep, index := d, aux := n }
  else if s.usable p < n + g.held' then .trap s { cause := frameLimit, index := d, aux := n }
  else match g.request with
    | some r => if r.served && r.use == .call d then take s else .wait s
    | none =>
      if s.canServe p s.clock g.slot n then take s
      else .wait (s.modGroup g.gid fun g => { g with request := some ⟨s.clock, n, .call d, false⟩ })

/-- CALL. -/
def execCall (dm : BitVec 7) (gd : BitVec 4) (o : BitVec 32) (s : State) : Outcome :=
  onWaiting s fun g i =>
    let ls := g.contributing i gd
    if ls = [] then .done s else s.call g i ls (dm.toNat + 1) fun _ => target i.hdr o
/-- CALLX. -/
def execCallx (dm a : BitVec 7) (gd : BitVec 4) (s : State) : Outcome :=
  onWaiting s fun g i =>
    let ls := g.contributing i gd
    if ls = [] then .done s
    else if s.hazard g ls [a.toNat, a.toNat + 1] [] then .wait s
    else Res.unless s (targetChecks g ls a) (s.call g i ls (dm.toNat + 1) (laneTarget g a))

/-- A return into a spilled frame is a frame request (10 R267): one for each such frame that has none. -/
def State.wantFrames (s : State) (gid : Nat) : State :=
  s.modGroup gid fun g =>
    let want := g.frames.filter fun f => f.spilled && (g.liveLanes.any fun l => (g.lane l).fid == f.fid) &&
      !g.restores.any fun r => r.use == .restore f.fid
    { g with restores := g.restores ++ want.map fun f => ⟨s.clock, granules f.count, .restore f.fid, false⟩ }

/-- The trap frames among the current frames of lanes. -/
def Group.trapFrames (g : Group) (ls : List Nat) : List Frame :=
  g.frames.filter fun f => ls.any fun l => (g.lane l).fid == f.fid && (f.pointOf l).isSome

/-- The live lanes whose chains hold a frame. -/
def Group.members (g : Group) (fid : Nat) : List Nat :=
  g.liveLanes.filter fun l => (g.lane l).chain.any fun c => c.fid == fid

/-- The members that a frame stands for a trap in. -/
def Group.trapMembers (g : Group) (f : Frame) : List Nat := (g.members f.fid).filter fun l => (f.pointOf l).isSome

/-- ACTION of a trap frame: bits 1:0 of V15 of its lowest returning lane (20 R440). -/
def Group.trapAction (g : Group) (ls : List Nat) (fid : Nat) : Nat :=
  (((ls.filter fun l => (g.lane l).fid == fid).head?.map fun l => ((g.lane l).vreg 15).val.toNat % 4)).getD 0

/-- A lane's return from its current frame: to the return address, or from a trap frame by ACTION. -/
def Group.returnLane (g : Group) (ls : List Nat) (l : Nat) (n : Lane) : Lane :=
  match n.chain with
  | [] => n
  | c :: below =>
    match g.frame c.fid with
    | none => n
    | some f =>
      match f.pointOf l with
      | none => { n with pcv := f.retOf l, chain := below }
      | some p =>
        let idx := if p.header then 0 else if g.trapAction ls f.fid = 0 then p.idx else p.after
        if !p.header && p.words ≤ idx then
          { n with pcv := f.retOf l + BitVec.ofNat 64 (4 * (p.words + 1)), chain := below, resume := none, back := 0 }
        else { n with pcv := f.retOf l, chain := below, resume := some idx, back := f.fid }

/-- The completed barrier that a return comes back to: that of a trap of its lanes which they resume at word 0 (08 R204). -/
def Group.backToBar (g : Group) (ls : List Nat) : Option (Bool × Nat) :=
  (ls.filterMap fun l => (g.frame (g.lane l).fid).bind fun f => (f.pointOf l).bind fun p =>
    if p.header || (p.idx == 0 && g.trapAction ls f.fid == 0) then p.bar else none).head?

/-- RET (R197), and the return from a trap frame (20 R440). -/
def execRet (gd : BitVec 4) (s : State) : Outcome :=
  onGroup s fun g i =>
    let ls := g.contributing i gd
    let flat := ls.filter fun l => (g.lane l).depth = 0
    let traps := g.trapFrames ls
    if traps ≠ [] ∧ s.hazard g ls [15] [] then .wait s
    else if flat ≠ [] then .trap s { cause := frameDepth, mask := laneMask flat }
    else if traps.any fun f => (g.trapMembers f).any fun l => !(ls.contains l && (g.lane l).fid == f.fid) then
      .trap s { cause := syncState }
    else if traps.any fun f => 2 ≤ g.trapAction ls f.fid then .trap s { cause := recordCause, index := 60 }
    else
      let seqs := g.faults.filterMap fun e => if traps.any fun f => f.fid == e.1 then some e.2 else none
      let s := s.modGroup g.gid fun g =>
        { (g.mapLanes (ls.contains ·) fun l n => g.returnLane ls l n).leave ls with
          lapsed := g.lapsed.filter fun q => !seqs.contains q,
          waiting := match g.backToBar ls with | some (x, n) => .barrier x n true | none => g.waiting }
      .done ((s.releaseFrames g.gid).wantFrames g.gid)

/-- The trap that lanes leave unresumed: that of the trap frame nearest the top, among the frames they give up, of the lowest
one that has any (R213). -/
def Group.lapse (g : Group) (gone : List LaneFrame) : Option (BitVec 32) :=
  ((gone.filterMap fun c => (findBy (fun e => e.1 == c.fid) g.faults).map Prod.snd).head?).or g.lapsed

/-- UNWIND (R198). Past a trap frame it discards the resume point (20 R440): the group goes on, and its bindings end as those
of a trap that did not resume do (R213). DEDUCED, log entry 58. -/
def execUnwind (b a : BitVec 5) (gd : BitVec 4) (s : State) : Outcome :=
  onGroup s fun g i =>
    let ls := g.contributing i gd
    let u := (g.sreg a.toNat).val.toNat
    let c := (g.sreg b.toNat).val
    let short := ls.filter fun l => (g.lane l).depth < u
    if ls = [] then .done s
    else if s.hazard g [] [] [a.toNat, b.toNat] then .wait s
    else Res.unless s (sPoison g 2 [a.toNat, b.toNat])
      (if !okTarget c then .trap s { cause := addrPath, addr := c.toNat }
      else if short ≠ [] then .trap s { cause := frameDepth, mask := laneMask short }
      else
        let s := s.modGroup g.gid fun g =>
          { (g.mapLanes (ls.contains ·) fun _ n => { n with pcv := c, chain := n.chain.drop (n.depth - u) }).leave ls with
            lapsed := g.lapse (ls.flatMap fun l => (g.lane l).chain.take ((g.lane l).depth - u)) }
        .done ((s.releaseFrames g.gid).wantFrames g.gid))

/-- EXIT (R199): the group ends with its last lane. -/
def execExit (gd : BitVec 4) (s : State) : Outcome :=
  onGroup s fun g i =>
    let ls := g.contributing i gd
    let s := s.modGroup g.gid fun g =>
      { (g.mapLanes (ls.contains ·) fun _ n => n.exited).leave ls with lapsed := g.lapse (ls.flatMap fun l => (g.lane l).chain) }
    .done (s.settle g.gid)

/-! ## Spawning (R200) -/

/-- The TIDs held by threads of a team that have not exited. -/
def State.heldTids (s : State) (team : Nat) : List Nat :=
  (s.groups.flatMap fun g =>
    if g.team = team then g.liveLanes.map fun l => (g.lane l).tid.toNat else []) ++
  ((s.team team).map fun t => t.bins.flatMap fun b => b.recs.map fun r => r.tid.toNat).getD []

/-- A new TID from 1,024 up that no live thread of the team holds: free but for that. -/
def pickTid (held : List Nat) : Nat → Nat → Nat
  | 0, n => 1024 + n % (2 ^ 32 - 1024)
  | k + 1, n => if held.contains (1024 + n % (2 ^ 32 - 1024)) then pickTid held k (n + 1) else 1024 + n % (2 ^ 32 - 1024)

/-- n new TIDs. -/
def State.newTids (s : State) (held : List Nat) : Nat → State × List Word
  | 0 => (s, [])
  | n + 1 =>
    let t := pickTid held held.length (Config.freeNat s.fresh)
    let (s, r) := s.draw.newTids (t :: held) n
    (s, BitVec.ofNat 32 t :: r)

/-- The bin that takes records of an entry: the bin with the key, or the lowest free bin. -/
def binFor (bins : List Bin) (e : DWord) : Option Nat :=
  match findBy (fun b => b.1.key == some e) (bins.zipIdx.map fun (b, k) => (b, k)) with
  | some b => some b.2
  | none => (findBy (fun b => b.1.key.isNone) (bins.zipIdx.map fun (b, k) => (b, k))).map Prod.snd

/-- Whether no bin of a team can launch for want of a group slot or a frame. -/
def State.binsStuck (s : State) (t : Team) : Bool :=
  (s.freeSlot t.core).isNone ||
  s.usable (s.poolOf t.core t.grid) < s.inUse (s.poolOf t.core t.grid) + granules t.kernel.frame

/-- Whether every group of the team waits at a SPAWN, this one longest; of groups that have waited equally long each may
be the one: DESIGN CHOICE, log entry 56. -/
def State.spawnDead (s : State) (t : Team) (gid since : Nat) : Bool :=
  s.binsStuck t && s.groups.all fun h => h.team != t.key ||
    h.gid == gid || (match h.waiting with | .spawn k => decide (since ≤ k) | _ => false)

/-- SPAWN (R200). -/
def execSpawn (a : BitVec 5) (p : BitVec 7) (gd : BitVec 4) (s : State) : Outcome :=
  onWaiting s fun g i =>
    let ls := g.contributing i gd
    let e := (g.sreg a.toNat).val
    match s.team g.team with
    | none => .wait s
    | some t =>
      if ls = [] then .done s
      else if s.hazard g ls [p.toNat] [a.toNat] then .wait s
      else Res.unless s (firstCond [boundCond g ls [p.toNat], sPoison g 2 [a.toNat]])
        (if !okTarget e then .trap s { cause := addrPath, addr := e.toNat }
        else if t.bins = [] then .trap s { cause := spawnLimit }
        else
          let since := match g.waiting with | .spawn k => k | _ => s.clock
          let stay := if s.spawnDead t g.gid since then Res.trap s { cause := spawnLimit }
            else .wait (s.modGroup g.gid fun g => { g with waiting := .spawn since })
          match binFor t.bins e with
          | none => stay
          | some k =>
            if 64 < ((t.bins[k]?).map (·.recs.length)).getD 0 then stay
            else
              let (s, tids) := s.newTids (s.heldTids t.key) ls.length
              let recs := (ls.zip tids).map fun (l, tid) => (⟨tid, (g.lane l).vreg p.toNat, s.clock⟩ : BinRec)
              let s := s.modTeam t.key fun t => { t with bins := t.bins.zipIdx.map fun (b, j) =>
                if j = k then { b with key := some e, recs := b.recs ++ recs } else b }
              .done (s.modGroup g.gid fun g => { g with waiting := .no }))

/-! ## Regrouping (R202, 10 R262) -/

/-- Whether a group was launched with its team. -/
def Group.isLaunched (g : Group) : Bool := match g.kind with | .launched => true | _ => false

/-- The launched groups of a team. -/
def State.launched (s : State) (team : Nat) : List Group := s.groups.filter fun g => g.team == team && g.isLaunched

/-- What must agree in every arrival: clause address, which is the PCV of every lane in the clause, and the declared
counts along each lane's chain. -/
def Group.arrivalKey (g : Group) (l : Nat) : DWord × List Nat :=
  ((g.lane l).pcv, (g.lane l).chain.map fun c => ((g.frame c.fid).map (·.count)).getD 0)

/-- An insertion into threads sorted by key and TID. -/
def insThread (x : (Nat × Nat) × Nat × Nat) : List ((Nat × Nat) × Nat × Nat) → List ((Nat × Nat) × Nat × Nat)
  | [] => [x]
  | y :: ys => if x.1.1 < y.1.1 ∨ (x.1.1 = y.1.1 ∧ x.1.2 ≤ y.1.2) then x :: y :: ys else y :: insThread x ys

/-- The threads of the participants, (key, TID) with group and lane, sorted. -/
def sortThreads (gs : List Group) (a : BitVec 7) : List ((Nat × Nat) × Nat × Nat) :=
  (gs.flatMap fun g => g.liveLanes.map fun l =>
    (((((g.lane l).vreg a.toNat).val.toNat % 65536), (g.lane l).tid.toNat), g.gid, l)).foldr insThread []

/-- An insertion into groups sorted by GRPID. -/
def insSlot (g : Group) : List Group → List Group
  | [] => [g]
  | h :: hs => if g.slot ≤ h.slot then g :: h :: hs else h :: insSlot g hs

/-- Participants in ascending GRPID. -/
def bySlot (gs : List Group) : List Group := gs.foldr insSlot []

/-- A frame of a regrouped group: its level, and of each member the lane and the old frame with the lane it had there. -/
structure Level where
  level : Nat
  mems  : List (Nat × Frame × Nat)

/-- A member joins the frame of its level. -/
def joinLevel (level : Nat) (m : Nat × Frame × Nat) : List Level → List Level
  | [] => [⟨level, [m]⟩]
  | v :: vs => if v.level = level then { v with mems := v.mems ++ [m] } :: vs else v :: joinLevel level m vs

/-- The frames of a regrouped set of lanes (new lane, old group, old lane, chain): one per level (10 R262). -/
def regroupLevels (old : Nat × Nat → Option Frame) (ls : List (Nat × Nat × Nat × List LaneFrame)) : List Level :=
  ls.foldl (fun vs (j, gid, l, ch) => ch.zipIdx.foldl (fun vs (c, k) =>
    match old (gid, c.fid) with
    | some f => joinLevel (ch.length - k) (j, f, l) vs
    | none => vs) vs) []

/-- A frame of a regrouped group: the first member's return address and trap, and those of the members that differ. Each
thread returns to where it would have: DEDUCED, log entry 21. -/
def Level.frame (v : Level) (fid : Nat) : Frame :=
  let ret := (v.mems.head?.map fun m => m.2.1.retOf m.2.2).getD 0#64
  let trap := v.mems.head?.bind fun m => m.2.1.pointOf m.2.2
  ⟨fid, (v.mems.head?.map fun m => m.2.1.count).getD 0, ret, trap, false, fid,
    v.mems.filterMap fun m => if m.2.1.retOf m.2.2 = ret then none else some (m.1, m.2.1.retOf m.2.2),
    v.mems.filterMap fun m => if m.2.1.pointOf m.2.2 = trap then none else some (m.1, m.2.1.pointOf m.2.2)⟩

/-- A regrouped group: the container at its slot with the threads, their frames, and the rest by R262. A lane that gets no
thread reads as one never launched, its SRS 0 among the rest: DESIGN CHOICE, log entry 21. -/
def regroupOne (s : State) (gs : List Group) (into : Group) (pc : DWord) (clock : Nat)
    (ths : List ((Nat × Nat) × Nat × Nat)) : State × Group :=
  let find := fun gid => (findBy (fun g : Group => g.gid == gid) gs).getD into
  let ls := ths.zipIdx.map fun ((_, gid, l), j) => (j, gid, l, ((find gid).lane l).chain)
  let old := fun (k : Nat × Nat) => (find k.1).frame k.2
  let levels := (regroupLevels old ls).zipIdx
  let faults := gs.flatMap fun g => g.faults.filterMap fun e =>
    (levels.find? fun v => v.1.mems.any fun m => some m.2.1 == g.frame e.1).map fun v => (s.ids + v.2, e.2)
  let lanes := ths.zipIdx.map fun ((_, gid, l), j) =>
    let n := (find gid).lane l
    let chain := n.chain.zipIdx.map fun (c, k) =>
      { c with fid := s.ids + ((levels.find? fun v => v.1.level == n.chain.length - k).map Prod.snd).getD 0 }
    (j, { n with pcv := pc, chain := chain, resume := none, back := 0 })
  let from_ := (ths.head?.map fun t => find t.2.1).getD into
  let olds := gs.filter fun g => ths.any fun t => t.2.1 == g.gid
  let sticky := olds.foldl (fun w g => w ||| (g.gstat &&& (psnBit ||| unifBit))) 0#32
  let same := ths.all (fun t => t.2.1 == into.gid) && ths.length == into.liveLanes.length
  ({ s with ids := s.ids + levels.length },
   { into with
      lanes := lanes, sregs := from_.sregs, cregs := from_.cregs, qregs := [], jregs := [], lclock := clock,
      gstat := (into.gstat &&& ~~~(psnBit ||| unifBit ||| spilledBit)) ||| sticky |||
        (if same then 0#32 else regroupedBit),
      latch := none, frames := levels.map fun v => v.1.frame (s.ids + v.2), issue := none, waiting := .no, popped := [],
      restores := [], since := none, faults := faults, lapsed := none, second := none })

/-- The new groups at the slots in order, 64 threads each. -/
def regroupAll (s : State) (gs : List Group) (pc : DWord) (clock : Nat) :
    List Group → List ((Nat × Nat) × Nat × Nat) → State × List Group
  | [], _ => (s, [])
  | g :: r, ths =>
    if ths = [] then (s, [])
    else
      let (s, h) := regroupOne s gs g pc clock (ths.take 64)
      let (s, hs) := regroupAll s gs pc clock r (ths.drop 64)
      (s, h :: hs)

/-- SYNC_STATE in a participant, at its arrival's clause: the clause issued, or of one that has come back from a save and
not issued it again, that of its lanes. -/
def State.failArrival (s : State) (words : Nat) (g : Group) : State :=
  if g.issue.isSome then s.raise g.gid 1 { cause := syncState }
  else
    let h := ((g.liveLanes.head?).map fun l => (g.lane l).pcv).getD 0#64
    let m := laneMask g.liveLanes
    s.trap g.gid h m ⟨false, 0, 1, words, none⟩ (s.groupRecord g m { cause := syncState } (h + 4#64) 0)

/-- REGROUP: arrivals recorded, then every participant reshaped at once (R202). -/
def execRegroup (a : BitVec 7) (s : State) : Outcome :=
  onWaiting s fun g i =>
    let ls := maskLanes i.lanes
    if s.hazard g ls [a.toNat] [] then .wait s
    else Res.unless s (boundCond g ls [a.toNat])
      (if !g.isLaunched || g.parked != 0#64 || !(g.liveLanes.all i.lanes.getLsbD) then .trap s { cause := syncState }
      else
        let s := s.modGroup g.gid fun g => { g with waiting := .regroup }
        let gs := s.launched g.team
        let back := (gs.flatMap fun h => h.frames.filter (·.spilled)).foldl (fun n f => n + granules f.count) 0
        let p := s.poolOf g.core g.grid
        if gs.any (fun h => h.waiting != .regroup || h.flags != [] || h.swapped || s.pendingV h.gid != [] ||
            s.pendingS h.gid != []) || s.usable p < s.inUse p + back then .wait s
        else
          let keys := gs.flatMap fun h => h.liveLanes.map h.arrivalKey
          if keys.any fun k => some k != keys.head? then
            let s := gs.foldl (fun s h => s.modGroup h.gid fun h => { h with waiting := .no }) s
            let others := gs.filter fun h => h.gid != g.gid
            .trap (others.foldl (fun s h => s.failArrival i.words.length h) s) { cause := syncState }
          else
            let clock := gs.foldl (fun c h => max c h.lclock) 0
            let slots := bySlot gs
            let s := gs.foldl (fun s h => s.endBindings h none) s
            let (s, new) := regroupAll s gs i.after clock slots (sortThreads gs a)
            let gone := slots.drop new.length
            let s := new.foldl (fun s h => s.putGroup h) s
            .done (gone.foldl (fun s h => s.endGroup { h with qregs := [] }) s))

/-! ## Barriers (R203, R204) -/

/-- What a barrier or an arrival waits for: a release's writes and the matrix-class instructions. -/
def arriveWaits (o : Op) : Bool := releaseWaits o || (match o.kind with | .matrix _ => true | _ => false)

/-- The launched groups of a team or of a gang. -/
def State.parties (s : State) (gang : Bool) (g : Group) : List Group :=
  if gang then s.groups.filter fun h => h.isLaunched && s.gangOf h == s.gangOf g else s.launched g.team

/-- BAR.TEAM and BAR.GANG. -/
def barrier (s : State) (gang : Bool) (n : Nat) : Outcome :=
  onWaiting s fun g i =>
    if !g.isLaunched || !(g.ready.all i.lanes.getLsbD) then .trap s { cause := syncState }
    else
      let pass := fun (s : State) =>
        let s := s.modGroup g.gid fun g => { g with waiting := .no }
        Res.done (s.acquire g.gid g.core (if gang then 1 else 0) true true)
      if g.waiting = .barrier gang n true then pass s
      else if g.waiting ≠ .barrier gang n false ∧ !s.performed g.gid arriveWaits then .wait s
      else
        let t := s.opTime g.gid arriveWaits
        let s := s.modGroup g.gid fun h => { h.raise t with waiting := .barrier gang n false }
        let ps := s.parties gang g
        if ps.all fun h => h.waiting == .barrier gang n false then
          let c := ps.foldl (fun c h => max c h.lclock) 0
          pass (ps.foldl (fun s h => s.modGroup h.gid fun h => { h.raise c with waiting := .barrier gang n true }) s)
        else .wait s

/-- BAR.TEAM. -/
def execBarTeam (k : BitVec 4) (s : State) : Outcome := barrier s false k.toNat
/-- BAR.GANG. -/
def execBarGang (k : BitVec 4) (s : State) : Outcome := barrier s true k.toNat

/-! ## Sync words and counters (R205 to R209) -/

/-- The checks of a sync word's address: the team and offset, or the condition. -/
def State.syncPlace (s : State) (g : Group) (a : DWord) : Except Cond (Nat × Nat) :=
  match s.place g (fun p => p == 2 || p == 3) 16 (a.toNat / 16 * 16) with
  | some (.scr _ t o) => if a.toNat % 16 = 0 then .ok (t, o) else .error { cause := addrAlign, addr := a.toNat }
  | _ => .error { cause := addrPath, addr := a.toNat }

/-- The sync word named by S[a], with the counts of S[b]; poison of either and of the word itself is checked. -/
def State.syncOperands (s : State) (g : Group) (b a : BitVec 5) : Except Cond (Nat × Nat × SyncWord) :=
  match firstCond [sPoison g 0 [a.toNat], sPoison g 2 [b.toNat]] with
  | some c => .error c
  | none =>
    match s.syncPlace g (g.sreg a.toNat).val with
    | .error c => .error c
    | .ok (t, o) =>
      let (y, bad) := s.syncWord t o
      if bad then .error { cause := poisonUse, detail := 2, addr := (g.sreg a.toNat).val.toNat } else .ok (t, o, y)

/-- Whether an earlier access of the group to the sync word that S[a] names is still to be performed (11 R281, R282). -/
def State.syncBusy (s : State) (g : Group) (a : BitVec 5) : Bool :=
  match s.syncPlace g (g.sreg a.toNat).val with
  | .ok (t, o) =>
    let locs := (addrs o 16).map fun o => Loc.scr (pathOf (g.sreg a.toNat).val.toNat == 3) t o
    !s.mayPerform ⟨s.ids, g.gid, g.core, g.world, g.team, none, .store 16 [⟨64, 0, locs, [], false⟩], false, 0⟩
  | .error _ => false

/-- ARRIVE (R207). -/
def execArrive (c : BitVec 2) (b a : BitVec 5) (s : State) : Outcome :=
  onGroup s fun g _ =>
    if s.hazard g [] [] [a.toNat, b.toNat] || s.syncBusy g a then .wait s
    else match s.syncOperands g b a with
      | .error e => .trap s e
      | .ok (t, o, y) =>
        if !s.performed g.gid arriveWaits then .wait s
        else
          let c0 := max g.lclock (s.opTime g.gid arriveWaits)
          let s := s.modGroup g.gid fun g => (g.raise c0).setC c.toNat y.refuses
          .done (if y.refuses then s
            else (s.setSync t o (y.arrive ((g.sreg b.toNat).val.toNat % 65536))).raisePhase t o c0)

/-- SWAIT (R208). -/
def execSwait (b a : BitVec 5) (s : State) : Outcome :=
  onWaiting s fun g _ =>
    if s.hazard g [] [] [a.toNat, b.toNat] || s.syncBusy g a then .wait s
    else match s.syncOperands g b a with
      | .error e => .trap s e
      | .ok (t, o, y) =>
        let n := (g.sreg b.toNat).val.toNat % 65536
        if y.gen = n then .wait s
        else
          let c := s.phaseClock t o
          let s := (if y.observe n = y then s else s.setSync t o (y.observe n)).modGroup g.gid fun g => g.raise c
          .done (s.acquire g.gid g.core 1 true true)

/-- CWAIT (R209): completes as an acquire at DEVICE of the value it reads. -/
def execCwait (b a : BitVec 5) (s : State) : Outcome :=
  onWaiting s fun g _ =>
    if s.hazard g [] [] [a.toNat, b.toNat] then .wait s
    else Res.unless s (firstCond [sPoison g 0 [a.toNat], sPoison g 2 [b.toNat]])
      (match s.access g (· == 0) false 0 8 [(64, (g.sreg a.toNat).val.toNat)] with
      | (s, .error c) => .trap s c
      | (s, .ok ps) =>
        let accs : List LaneAcc := ps.map fun (l, _, locs) => ⟨l, 0, locs, [], false⟩
        if s.held (devBytes accs) none ||
            !s.mayPerform ⟨s.ids, g.gid, g.core, g.world, g.team, none, .load 0 8 false true accs, false, 0⟩ then .wait s
        else
          let scope := (atomsOf (devBytes accs)).foldl (fun m a =>
            max m (acquireScope 2 (s.writerOf g) ((findBy (fun v => v.atom == a) s.vars).map (·.writer)))) 2
          match s.readGroup g.core g.lclock accs with
          | (s, _, some bad, _) => .wait (s.integrity (bad * 128))
          | (s, rs, none, t) =>
            let v := (rs.head?.map fun r => ofBytes r.bytes).getD 0
            if rs.any (·.poison) then .trap s { cause := poisonUse, detail := 2, addr := (g.sreg a.toNat).val.toNat }
            else
              let s := s.modGroup g.gid fun g => g.raise t
              if v < (g.sreg b.toNat).val.toNat then .wait s else .done (s.acquire g.gid g.core scope true true))

/-! ## Queues and parked lanes (R210 to R214) -/

/-- A binding of Q[k] ended as `QCLOSE` ends it. -/
def State.closeQ (s : State) (g : Group) (k : Nat) : State :=
  let s := s.endBindings { g with qregs := g.qregs.filter fun e => e.1 == k } none
  s.modGroup g.gid fun h => { h with qregs := g.qregs.filter fun e => e.1 != k }

/-- Whether an object has a live producer. -/
def Queue.live (q : Queue) : Bool :=
  match q.producer with
  | .group _ | .stream _ | .replies _ => true
  | _ => false

/-- QBIND (R210): role 0 consumer, 1 producer. -/
def execQbind (r : BitVec 1) (q : BitVec 2) (o : BitVec 4) (s : State) : Outcome :=
  onGroup s fun g _ =>
    let t := s.closeQ g q.toNat
    let gang := s.gangOf g
    match t.queue gang o.toNat with
    | none => .trap s { cause := queueBind, index := o.toNat }
    | some u =>
      if (r = 0#1 ∧ u.consumer.isSome) ∨ (r = 1#1 ∧ (u.live ∨ u.vector)) then
        .trap s { cause := queueBind, index := o.toNat }
      else
        let t := t.modQueue gang o.toNat fun u =>
          if r = 0#1 then { u with consumer := some g.gid, drained := false } else { u with producer := .group g.gid }
        .done (t.modGroup g.gid fun g => { g with qregs := mapIns g.qregs q.toNat ⟨o.toNat, r == 1#1⟩ })

/-- QCLOSE (R212). -/
def execQclose (q : BitVec 2) (s : State) : Outcome :=
  onGroup s fun g _ => .done (s.closeQ g q.toNat)

/-- Whether every reply of a J register's lanes has arrived. -/
def State.repliesIn (s : State) (gid k : Nat) : Bool := 
  !s.blocks.any fun b => b.gid == gid && b.parked == some k && b.stage != .delivered

/-- REJOIN (R214): the rejoined lanes go on at the next clause. -/
def execRejoin (j : BitVec 2) (s : State) : Outcome :=
  onWaiting s fun g i =>
    if !s.repliesIn g.gid j.toNat then .wait s
    else .done (s.modGroup g.gid fun g =>
      { g.mapLanes (g.jreg j.toNat).getLsbD (fun _ n => { n with pcv := i.after }) with
        jregs := mapSet 0#64 g.jregs j.toNat 0#64 })

/-- IMPLICIT_REJOIN: with no lane active or in a clause, lanes whose replies have all arrived return to their own PCV. -/
def execImplicitRejoin (gid j : Nat) (s : State) : Outcome :=
  .next (match s.group gid with
    | some g =>
      if g.ready = [] ∧ g.issue.isNone ∧ s.repliesIn gid j then
        s.modGroup gid fun g => { g with jregs := mapSet 0#64 g.jregs j 0#64 }
      else s
    | none => s)

/-- TRAP (R217): USER with the code and the mask of lanes, where any lane's guard is true. -/
def execTrap (c : BitVec 7) (gd : BitVec 4) (s : State) : Outcome :=
  onGroup s fun g i =>
    let ls := g.contributing i gd
    if ls = [] then .done s else .trap s { cause := userCause, mask := laneMask ls, index := c.toNat }

/-- YIELD has no architectural effect (R218). -/
def execYield (s : State) : Outcome := onGroup s fun _ _ => .done s
/-- NOP has no architectural effect (R218). -/
def execNop (_g : BitVec 4) (s : State) : Outcome := onGroup s fun _ _ => .done s

/-! ## Frame requests and traps that waited (10 R263, 20 R439) -/

/-- The requests of a group that wait: its returns into spilled frames only while it is resident. -/
def Group.requests (g : Group) : List FrameReq :=
  (g.request.toList.filter fun r => !r.served) ++ if g.swapped then [] else g.restores

/-- FRAME_REQUEST_SERVED: the oldest request of its pool, once it fits. -/
def execFrameRequestServed (gid : Nat) (s : State) : Outcome :=
  .next (match s.group gid with
    | none => s
    | some g =>
      match findBy (fun r => s.canServe (s.poolOf g.core g.grid) r.age g.slot r.granules) g.requests with
      | none => s
      | some r =>
        match r.use with
        | .call _ | .trap _ => s.modGroup gid fun g => { g with request := some { r with served := true } }
        | .restore fid =>
          (s.modGroup gid fun g =>
            { g with restores := dropBy (fun q : FrameReq => q.use == FrameUse.restore fid) g.restores,
                     frames := updBy (fun f => f.fid == fid) (fun f => { f with spilled := false }) g.frames }.noteSpill).meter
              g.world 25 (2048 * r.granules)
        | .swapIn n =>
          (s.modGroup gid fun g =>
            { g with swapped := false,
                     request := n.map fun n => ⟨r.age, n.1, .call n.2, false⟩ }).meter g.world 25 (2048 * r.granules))

/-- TRAP_ENTRY: a trap whose frame has been served is entered. -/
def execTrapEntry (gid : Nat) (s : State) : Outcome :=
  .next (match s.group gid with
    | some g =>
      match g.request with
      | some ⟨_, _, .trap t, true⟩ => s.enterTrap gid t
      | _ => s
    | none => s)

end Sys2Proof.Machine
end

