-- ==== Sys2Proof/Machine/Lane.lean ====
section
/-!
DEFINITION. Sys2Proof/Machine/Lane.lean: the vector class (06): integer and bit operations, compares, floating point,
conversions, cross-lane operations, seeding and special values.
-/
namespace Sys2Proof.Machine

/-! ## Shared operations -/

/-- A result value with the OR of its sources' tags (06 R136). -/
def reg1 (op : List Word → Word) (vs : List Reg) : Reg := ⟨op (vs.map (·.val)), vs.any (·.poison)⟩

/-- A pair's 64-bit value: the low half first (01 R18). -/
def pairVal (lo hi : Word) : DWord := (hi ++ lo : BitVec 64)

/-- A 64-bit result written to a pair, with one tag. -/
def pairRegs (d : Nat) (v : DWord) (p : Bool) : List (Nat × Reg) :=
  [(d, ⟨v.truncate 32, p⟩), (d + 1, ⟨(v >>> 32).truncate 32, p⟩)]

/-- What a lane instruction does that writes registers in each contributing lane: its sources and destinations checked,
its results written all at once, its lanes counted on meter 6 or 7 (06 R134, R137, 22 R463). -/
def laneResult (s : State) (g : Group) (i : Issue) (gd : BitVec 4) (srcs : List VSrc) (dst sregs : List Nat) (m wt : Nat)
    (f : Group → Issue → Nat → List Reg → List (Nat × Reg)) : Res :=
  let ls := g.contributing i gd
  laneOp s g i ls (vsrcRegs srcs ++ dst) sregs (vsrcQueues srcs) fun s es =>
    let ws := ls.map fun l => (l, f g i l (vsrcVals (g.lane l) l srcs es))
    .done ((s.modGroup g.gid fun g => g.writeV ws).meter g.world m (wt * ls.length))

/-- A lane instruction that writes registers in each contributing lane. -/
def laneWrite (s : State) (gd : BitVec 4) (srcs : List VSrc) (dst sregs : List Nat) (m wt : Nat)
    (f : Group → Issue → Nat → List Reg → List (Nat × Reg)) : Outcome :=
  onGroup s fun g i => laneResult s g i gd srcs dst sregs m wt f

/-- One register from one register's worth of sources. -/
def lane1 (s : State) (gd : BitVec 4) (srcs : List VSrc) (d : BitVec 7) (wt : Nat) (op : List Word → Word) : Outcome :=
  laneWrite s gd srcs [d.toNat] [] 6 wt fun _ _ _ vs => [(d.toNat, reg1 op vs)]

/-- A VR instruction of one source. -/
def laneUn (s : State) (gd : BitVec 4) (a d : BitVec 7) (op : Word → Word) : Outcome :=
  lane1 s gd [.v a.toNat] d 1 fun vs => op (vs.getD 0 0#32)

/-- A VR instruction of two sources. -/
def laneBin (s : State) (gd : BitVec 4) (b a d : BitVec 7) (wt : Nat) (op : Word → Word → Word) : Outcome :=
  lane1 s gd [.v a.toNat, .v b.toNat] d wt fun vs => op (vs.getD 0 0#32) (vs.getD 1 0#32)

/-- The registers of pairs. -/
def pairSrcs (rs : List (BitVec 7)) : List VSrc := rs.flatMap fun r => [.v r.toNat, .v (r.toNat + 1)]

/-- The k-th pair of a list of sources. -/
def pairAt (vs : List Reg) (k : Nat) : DWord :=
  pairVal ((vs.getD (2 * k) ⟨0#32, false⟩).val) ((vs.getD (2 * k + 1) ⟨0#32, false⟩).val)

/-- An instruction on pairs: its lanes count on meter m. -/
def lane64 (s : State) (gd : BitVec 4) (b a d : BitVec 7) (m : Nat) (op : DWord → DWord → DWord) : Outcome :=
  laneWrite s gd (pairSrcs [a, b]) [d.toNat, d.toNat + 1] [] m 1 fun _ _ _ vs =>
    pairRegs d.toNat (op (pairAt vs 0) (pairAt vs 1)) (vs.any (·.poison))

/-- An operation on F32 codes as one on words. -/
def asWord1 (op : Nat → Nat) (a : Word) : Word := BitVec.ofNat 32 (op a.toNat)
def asWord2 (op : Nat → Nat → Nat) (a b : Word) : Word := BitVec.ofNat 32 (op a.toNat b.toNat)
/-- An operation on F64 codes. -/
def asDWord2 (op : Nat → Nat → Nat) (a b : DWord) : DWord := BitVec.ofNat 64 (op a.toNat b.toNat)
/-- An operation on the two 16-bit elements of words. -/
def asX2 (op : Nat → Nat → Nat) (a b : Word) : Word :=
  BitVec.ofNat 32 (op (a.toNat % 65536) (b.toNat % 65536) + 65536 * op (a.toNat / 65536) (b.toNat / 65536))

/-- A float instruction of 16-bit elements, which FTZ16 governs (04 R87). -/
def laneX2 (s : State) (gd : BitVec 4) (b a d : BitVec 7) (op : Bool → Nat → Nat → Nat) : Outcome :=
  laneWrite s gd [.v a.toNat, .v b.toNat] [d.toNat] [] 6 2 fun g _ _ vs =>
    [(d.toNat, reg1 (fun v => asX2 (op g.ftz) (v.getD 0 0#32) (v.getD 1 0#32)) vs)]

/-! ## Integer and bit operations (R139 to R146) -/

/-- The lesser or greater of two words by an order. -/
def pickWord (less : Word → Word → Bool) (a b : Word) : Word := if less b a then b else a

/-- Bits set in a word. -/
def bitCount (v : Word) : Nat := ((List.range 32).filter fun k => v.getLsbD k).length
/-- Zero bits above the highest set bit. -/
def leadZeros (v : Word) : Nat := ((List.range 32).takeWhile fun k => !v.getLsbD (31 - k)).length
/-- Bit i at bit 31 − i. -/
def bitReverse (v : Word) : Word :=
  BitVec.ofNat 32 ((List.range 32).foldl (fun n k => n + if v.getLsbD k then 2 ^ (31 - k) else 0) 0)

/-- The field of R141: w bits at pos, w = min(len, 32 − pos). -/
def bitField (signed : Bool) (a c : Word) : Word :=
  let pos := c.toNat % 32
  let w := min (c.toNat / 256 % 64) (32 - pos)
  if w = 0 then 0#32
  else
    let f := a.toNat / 2 ^ pos % 2 ^ w
    if signed && 2 ^ (w - 1) ≤ f then BitVec.ofNat 32 (f + 2 ^ 32 - 2 ^ w) else BitVec.ofNat 32 f

/-- R142. A LEN of 33 to 63, which no assembler writes, reaches bit 31 as 32 does: DESIGN CHOICE, log entry 56. -/
def bitInsert (a b : Word) (pos len : Nat) : Word :=
  let w := min len (32 - pos)
  let m : Word := BitVec.ofNat 32 ((2 ^ w - 1) * 2 ^ pos)
  (a &&& ~~~m) ||| ((b <<< pos) &&& m)

/-- R143, bit by bit. -/
def lop3 (lut : BitVec 8) (a b c : Word) : Word :=
  BitVec.ofNat 32 ((List.range 32).foldl (fun n k =>
    n + if lut.getLsbD ((if a.getLsbD k then 4 else 0) + (if b.getLsbD k then 2 else 0) + (if c.getLsbD k then 1 else 0))
      then 2 ^ k else 0) 0)

/-- VADD.B32. -/
def execVaddB32 (g : BitVec 4) (b a d : BitVec 7) (s : State) : Outcome :=
  laneBin s g b a d 1 (· + ·)
/-- VSUB.B32. -/
def execVsubB32 (g : BitVec 4) (b a d : BitVec 7) (s : State) : Outcome :=
  laneBin s g b a d 1 (· - ·)
/-- VMUL.B32: the low half. -/
def execVmulB32 (g : BitVec 4) (b a d : BitVec 7) (s : State) : Outcome :=
  laneBin s g b a d 1 (· * ·)
/-- VMULH.S32. -/
def execVmulhS32 (g : BitVec 4) (b a d : BitVec 7) (s : State) : Outcome :=
  laneBin s g b a d 1 <| fun a b => BitVec.ofInt 32 (a.toInt * b.toInt / 2 ^ 32)
/-- VMULH.N32. -/
def execVmulhN32 (g : BitVec 4) (b a d : BitVec 7) (s : State) : Outcome :=
  laneBin s g b a d 1 <| fun a b => BitVec.ofNat 32 (a.toNat * b.toNat / 2 ^ 32)
/-- VMIN.S32. -/
def execVminS32 (g : BitVec 4) (b a d : BitVec 7) (s : State) : Outcome :=
  laneBin s g b a d 1 (pickWord BitVec.slt)
/-- VMAX.S32. -/
def execVmaxS32 (g : BitVec 4) (b a d : BitVec 7) (s : State) : Outcome :=
  laneBin s g b a d 1 (pickWord fun a b => b.slt a)
/-- VMIN.N32. -/
def execVminN32 (g : BitVec 4) (b a d : BitVec 7) (s : State) : Outcome :=
  laneBin s g b a d 1 (pickWord BitVec.ult)
/-- VMAX.N32. -/
def execVmaxN32 (g : BitVec 4) (b a d : BitVec 7) (s : State) : Outcome :=
  laneBin s g b a d 1 (pickWord fun a b => b.ult a)
/-- VSHL.B32: 0 from 32 up. -/
def execVshlB32 (g : BitVec 4) (b a d : BitVec 7) (s : State) : Outcome :=
  laneBin s g b a d 1 <| fun a b => if b.toNat < 32 then a <<< b.toNat else 0#32
/-- VSHR.N32. -/
def execVshrN32 (g : BitVec 4) (b a d : BitVec 7) (s : State) : Outcome :=
  laneBin s g b a d 1 <| fun a b => if b.toNat < 32 then a >>> b.toNat else 0#32
/-- VSHR.S32: by min(b, 31). -/
def execVshrS32 (g : BitVec 4) (b a d : BitVec 7) (s : State) : Outcome :=
  laneBin s g b a d 1 <| fun a b => a.sshiftRight (min b.toNat 31)
/-- VBFE.N32 (R141). -/
def execVbfeN32 (g : BitVec 4) (b a d : BitVec 7) (s : State) : Outcome :=
  laneBin s g b a d 1 (bitField false)
/-- VBFE.S32 (R141). -/
def execVbfeS32 (g : BitVec 4) (b a d : BitVec 7) (s : State) : Outcome :=
  laneBin s g b a d 1 (bitField true)
/-- VBCNT.B32 (R140). -/
def execVbcntB32 (g : BitVec 4) (a d : BitVec 7) (s : State) : Outcome := laneUn s g a d (fun a => BitVec.ofNat 32 (bitCount a))
/-- VCLZ.B32. -/
def execVclzB32 (g : BitVec 4) (a d : BitVec 7) (s : State) : Outcome := laneUn s g a d (fun a => BitVec.ofNat 32 (leadZeros a))
/-- VBREV.B32. -/
def execVbrevB32 (g : BitVec 4) (a d : BitVec 7) (s : State) : Outcome := laneUn s g a d bitReverse
/-- VMOV.B32. -/
def execVmovB32 (g : BitVec 4) (a d : BitVec 7) (s : State) : Outcome := laneUn s g a d id
/-- VSEL.B32: V[A] where the guard is true, V[B] where it is false, in every active lane, with the chosen tag (R145). -/
def execVselB32 (gd : BitVec 4) (b a d : BitVec 7) (s : State) : Outcome :=
  onGroup s fun g i =>
    let ls := maskLanes i.lanes
    laneOp s g i ls [a.toNat, b.toNat, d.toNat] [] [] fun s _ =>
      let ws := ls.map fun l =>
        (l, [(d.toNat, (g.lane l).vreg (if (g.lane l).guard gd then a.toNat else b.toNat))])
      .done ((s.modGroup g.gid fun g => g.writeV ws).meter g.world 6 ls.length)
/-- VADD.B64. -/
def execVaddB64 (g : BitVec 4) (b a d : BitVec 7) (s : State) : Outcome := lane64 s g b a d 6 (· + ·)
/-- VSUB.B64. -/
def execVsubB64 (g : BitVec 4) (b a d : BitVec 7) (s : State) : Outcome := lane64 s g b a d 6 (· - ·)

/-! ## Floating point (R148 to R151) -/

/-- VFADD.F32. -/
def execVfaddF32 (g : BitVec 4) (b a d : BitVec 7) (s : State) : Outcome :=
  laneBin s g b a d 1 (asWord2 (fadd f32 0 false 0))
/-- VFSUB.F32. -/
def execVfsubF32 (g : BitVec 4) (b a d : BitVec 7) (s : State) : Outcome :=
  laneBin s g b a d 1 (asWord2 (fsub f32 false))
/-- VFMUL.F32. -/
def execVfmulF32 (g : BitVec 4) (b a d : BitVec 7) (s : State) : Outcome :=
  laneBin s g b a d 1 (asWord2 (fmul f32 false))
/-- VFMIN.F32 (R149). -/
def execVfminF32 (g : BitVec 4) (b a d : BitVec 7) (s : State) : Outcome :=
  laneBin s g b a d 1 (asWord2 (fext f32 false))
/-- VFMAX.F32 (R149). -/
def execVfmaxF32 (g : BitVec 4) (b a d : BitVec 7) (s : State) : Outcome :=
  laneBin s g b a d 1 (asWord2 (fext f32 true))
/-- VFADD.F16x2. -/
def execVfaddF16x2 (g : BitVec 4) (b a d : BitVec 7) (s : State) : Outcome := laneX2 s g b a d fun z => fadd f16 0 z 0
/-- VFMUL.F16x2. -/
def execVfmulF16x2 (g : BitVec 4) (b a d : BitVec 7) (s : State) : Outcome := laneX2 s g b a d fun z => fmul f16 z
/-- VFADD.BF16x2. -/
def execVfaddBf16x2 (g : BitVec 4) (b a d : BitVec 7) (s : State) : Outcome := laneX2 s g b a d fun z => fadd bf16 0 z 0
/-- VFMUL.BF16x2. -/
def execVfmulBf16x2 (g : BitVec 4) (b a d : BitVec 7) (s : State) : Outcome := laneX2 s g b a d fun z => fmul bf16 z
/-- VFADD.F64. -/
def execVfaddF64 (g : BitVec 4) (b a d : BitVec 7) (s : State) : Outcome :=
  lane64 s g b a d 7 (asDWord2 (fadd f64 0 false 0))
/-- VFSUB.F64. -/
def execVfsubF64 (g : BitVec 4) (b a d : BitVec 7) (s : State) : Outcome :=
  lane64 s g b a d 7 (asDWord2 (fsub f64 false))
/-- VFMUL.F64. -/
def execVfmulF64 (g : BitVec 4) (b a d : BitVec 7) (s : State) : Outcome :=
  lane64 s g b a d 7 (asDWord2 (fmul f64 false))
/-- VFMIN.F64. -/
def execVfminF64 (g : BitVec 4) (b a d : BitVec 7) (s : State) : Outcome :=
  lane64 s g b a d 7 (asDWord2 (fext f64 false))
/-- VFMAX.F64. -/
def execVfmaxF64 (g : BitVec 4) (b a d : BitVec 7) (s : State) : Outcome :=
  lane64 s g b a d 7 (asDWord2 (fext f64 true))
/-- FRCP.F32 (04 R103). -/
def execFrcpF32 (g : BitVec 4) (a d : BitVec 7) (s : State) : Outcome := laneUn s g a d (asWord1 frcp)
/-- FRSQ.F32. -/
def execFrsqF32 (g : BitVec 4) (a d : BitVec 7) (s : State) : Outcome := laneUn s g a d (asWord1 frsq)
/-- FEX2.F32. -/
def execFex2F32 (g : BitVec 4) (a d : BitVec 7) (s : State) : Outcome := laneUn s g a d (asWord1 fex2)
/-- FLG2.F32. -/
def execFlg2F32 (g : BitVec 4) (a d : BitVec 7) (s : State) : Outcome := laneUn s g a d (asWord1 flg2)

/-! ## Stochastic rounding draws (04 R94, R95) -/

/-- The SRS of a lane after n draws. -/
def srAfter (v : Word) : Nat → Word
  | 0 => v
  | n + 1 => srNext (srAfter v n)

/-- The draw of element k of a lane, and the lanes' states after the instruction's n draws, in mode SR. -/
def srDraw (g : Group) (l k : Nat) : Nat := (srAfter (g.lane l).srs (k + 1)).toNat
def Group.drawn (g : Group) (ls : List Nat) (mode n : Nat) : Group :=
  if mode = 4 then g.mapLanes (ls.contains ·) fun _ x => { x with srs := srAfter x.srs n } else g

/-- A lane instruction that rounds n elements in a mode. -/
def laneRound (s : State) (gd : BitVec 4) (srcs : List VSrc) (dst : List Nat) (m wt mode n : Nat)
    (f : Group → Nat → List Reg → List (Nat × Reg)) : Outcome :=
  onGroup s fun g i =>
    let ls := g.contributing i gd
    laneOp s g i ls (vsrcRegs srcs ++ dst) [] (vsrcQueues srcs) fun s es =>
      let ws := ls.map fun l => (l, f g l (vsrcVals (g.lane l) l srcs es))
      .done ((s.modGroup g.gid fun g => (g.writeV ws).drawn ls mode n).meter g.world m (wt * ls.length))

/-- Element k of width w of the word of a source. -/
def elemOf (vs : List Reg) (j k w : Nat) : Nat := (vs.getD j ⟨0#32, false⟩).val.toNat / 2 ^ (w * k) % 2 ^ w

/-- VFMA of n elements of a format in each lane's word (R150). -/
def vfma (s : State) (fm : Fmt) (w n : Nat) (gd : BitVec 4) (b a d : BitVec 7) (qc qb qa abs neg sat : BitVec 1)
    (rm : BitVec 3) (c : BitVec 7) : Outcome :=
  laneRound s gd [vsrc qa a, vsrc qb b, vsrc qc c] [d.toNat] 6 n rm.toNat n fun g l vs =>
    let r := (List.range n).foldl (fun acc k =>
      acc + 2 ^ (w * k) * ffma fm rm.toNat (sat == 1#1) (neg == 1#1) (abs == 1#1) g.ftz (srDraw g l k)
        (elemOf vs 0 k w) (elemOf vs 1 k w) (elemOf vs 2 k w)) 0
    [(d.toNat, ⟨BitVec.ofNat 32 r, vs.any (·.poison)⟩)]

/-- VFMA.F32. -/
def execVfmaF32 (g : BitVec 4) (b a d : BitVec 7) (qc qb qa abs neg sat : BitVec 1) (rm : BitVec 3) (c : BitVec 7)
    (s : State) : Outcome := vfma s f32 32 1 g b a d qc qb qa abs neg sat rm c
/-- VFMA.F64, on pairs. -/
def execVfmaF64 (g : BitVec 4) (b a d : BitVec 7) (abs neg sat : BitVec 1) (rm : BitVec 3) (c : BitVec 7)
    (s : State) : Outcome :=
  laneRound s g (pairSrcs [a, b, c]) [d.toNat, d.toNat + 1] 7 1 rm.toNat 1 fun g l vs =>
    pairRegs d.toNat (BitVec.ofNat 64 (ffma f64 rm.toNat (sat == 1#1) (neg == 1#1) (abs == 1#1) false (srDraw g l 0)
      (pairAt vs 0).toNat (pairAt vs 1).toNat (pairAt vs 2).toNat)) (vs.any (·.poison))
/-- VFMA.F16x2. -/
def execVfmaF16x2 (g : BitVec 4) (b a d : BitVec 7) (qc qb qa abs neg sat : BitVec 1) (rm : BitVec 3) (c : BitVec 7)
    (s : State) : Outcome := vfma s f16 16 2 g b a d qc qb qa abs neg sat rm c
/-- VFMA.BF16x2. -/
def execVfmaBf16x2 (g : BitVec 4) (b a d : BitVec 7) (qc qb qa abs neg sat : BitVec 1) (rm : BitVec 3) (c : BitVec 7)
    (s : State) : Outcome := vfma s bf16 16 2 g b a d qc qb qa abs neg sat rm c

/-! ## Three-source and immediate forms (R142 to R144, R146) -/

/-- VLOP3.B32 (R143). -/
def execVlop3B32 (g : BitVec 4) (b a d : BitVec 7) (lut : BitVec 8) (qc qb qa : BitVec 1) (c : BitVec 7)
    (s : State) : Outcome :=
  lane1 s g [vsrc qa a, vsrc qb b, vsrc qc c] d 1 fun vs => lop3 lut (vs.getD 0 0#32) (vs.getD 1 0#32) (vs.getD 2 0#32)
/-- VBFI.B32 (R142). -/
def execVbfiB32 (g : BitVec 4) (b a d : BitVec 7) (len : BitVec 6) (pos : BitVec 5) (qb qa : BitVec 1)
    (s : State) : Outcome :=
  lane1 s g [vsrc qa a, vsrc qb b] d 1 fun vs => bitInsert (vs.getD 0 0#32) (vs.getD 1 0#32) pos.toNat len.toNat
/-- VMAD.B32 (R144). -/
def execVmadB32 (g : BitVec 4) (b a d : BitVec 7) (qc qb qa : BitVec 1) (c : BitVec 7) (s : State) : Outcome :=
  lane1 s g [vsrc qa a, vsrc qb b, vsrc qc c] d 1 fun vs => vs.getD 0 0#32 * vs.getD 1 0#32 + vs.getD 2 0#32
/-- VADDI.B32 (R146). -/
def execVaddiB32 (g : BitVec 4) (a d : BitVec 7) (i : BitVec 16) (qa : BitVec 1) (s : State) : Outcome :=
  lane1 s g [vsrc qa a] d 1 fun vs => vs.getD 0 0#32 + i.signExtend 32
/-- VMOVI.B32: mode 0 the immediate, 1 the immediate over V[A][15:0], 2 and 3 the low and high half of S[A] (R146). -/
def execVmoviB32 (g : BitVec 4) (a d : BitVec 7) (i : BitVec 16) (m : BitVec 2) (s : State) : Outcome :=
  match m.toNat with
  | 0 => laneWrite s g [] [d.toNat] [] 6 1 fun _ _ _ _ => [(d.toNat, ⟨i.signExtend 32, false⟩)]
  | 1 => lane1 s g [.v a.toNat] d 1 fun vs => (i ++ (vs.getD 0 0#32).truncate 16 : BitVec 32)
  | 2 => laneWrite s g [] [d.toNat] [a.toNat % 32] 6 1 fun h _ _ _ =>
      [(d.toNat, ⟨(h.sreg (a.toNat % 32)).val.truncate 32, (h.sreg (a.toNat % 32)).poison⟩)]
  | _ => laneWrite s g [] [d.toNat] [a.toNat % 32] 6 1 fun h _ _ _ =>
      [(d.toNat, ⟨((h.sreg (a.toNat % 32)).val >>> 32).truncate 32, (h.sreg (a.toNat % 32)).poison⟩)]

/-! ## Compares (R147, 02 R53) -/

/-- POISON_USE of compare operands in the lanes the compare would write. -/
def comparePoison (srcs : List VSrc) (vals : List (Nat × List Reg)) : Option Cond :=
  match vals.filter fun e => e.2.any (·.poison) with
  | [] => none
  | e :: es =>
    let n := match findBy (fun x => x.2.poison) (srcs.zip e.2) with
      | some (.v r, _) => r
      | some (.q k, _) => k
      | none => 0
    some { cause := poisonUse, detail := 1, mask := laneMask ((e :: es).map Prod.fst), index := n }

/-- A compare: the lanes that CONJ may write are checked, then every active lane's predicates are written. -/
def laneCompare (s : State) (gd : BitVec 4) (srcs : List VSrc) (p2 p1 : BitVec 3) (j m : Nat)
    (cond : Group → List Reg → Bool) : Outcome :=
  onGroup s fun g i =>
    let ls := if j = 6 then maskLanes i.lanes else g.contributing i gd
    laneOp s g i ls (vsrcRegs srcs) [] (vsrcQueues srcs) fun s es =>
      let vals := ls.map fun l => (l, vsrcVals (g.lane l) l srcs es)
      Res.unless s (comparePoison srcs vals)
        (.done ((s.modGroup g.gid fun g => g.mapLanes (ls.contains ·) fun l n =>
          n.compare j p1.toNat p2.toNat (n.guard gd) (cond g (((findBy (fun e => e.1 == l) vals).map Prod.snd).getD []))).meter
            g.world m ls.length))

/-- The sources of a compare: pairs where the type is 64 bits wide. -/
def compareSrcs (wide : Bool) (qb qa : BitVec 1) (b a : BitVec 7) : List VSrc :=
  if wide then pairSrcs [a, b] else [vsrc qa a, vsrc qb b]

/-- VCMP: types 0 `.S32`, 1 `.N32`, 2 `.S64`, 3 `.N64`. -/
def execVcmp (g : BitVec 4) (b a : BitVec 7) (p2 p1 : BitVec 3) (qb qa : BitVec 1) (j t : BitVec 3) (c : BitVec 4)
    (s : State) : Outcome :=
  laneCompare s g (compareSrcs (2 ≤ t.toNat) qb qa b a) p2 p1 j.toNat 6 fun _ vs =>
    let x := (vs.getD 0 ⟨0#32, false⟩).val
    let y := (vs.getD 1 ⟨0#32, false⟩).val
    match t.toNat with
    | 0 => icond c.toNat x.toInt y.toInt
    | 1 => icond c.toNat x.toNat y.toNat
    | 2 => icond c.toNat (pairAt vs 0).toInt (pairAt vs 1).toInt
    | _ => icond c.toNat (pairAt vs 0).toNat (pairAt vs 1).toNat
/-- VFCMP: types 0 `.F32`, 1 `.F64`, 2 `.F16`, 3 `.BF16`, the last two on bits 15:0. -/
def execVfcmp (g : BitVec 4) (b a : BitVec 7) (p2 p1 : BitVec 3) (qb qa : BitVec 1) (j t : BitVec 3) (c : BitVec 4)
    (s : State) : Outcome :=
  laneCompare s g (compareSrcs (t.toNat == 1) qb qa b a) p2 p1 j.toNat (if t.toNat = 1 then 7 else 6) fun h vs =>
    let x := (vs.getD 0 ⟨0#32, false⟩).val.toNat
    let y := (vs.getD 1 ⟨0#32, false⟩).val.toNat
    match t.toNat with
    | 0 => fcond c.toNat (f32.decode x) (f32.decode y)
    | 1 => fcond c.toNat (f64.decode (pairAt vs 0).toNat) (f64.decode (pairAt vs 1).toNat)
    | 2 => fcond c.toNat (f16.read h.ftz (x % 65536)) (f16.read h.ftz (y % 65536))
    | _ => fcond c.toNat (bf16.read h.ftz (x % 65536)) (bf16.read h.ftz (y % 65536))

/-! ## Conversions (R152 to R154) -/

/-- Element i of a span of registers of a type (R153). -/
def spanElem (t : Nat) (vs : List Word) (i : Nat) : Nat :=
  match widthClass t with
  | 3 => (pairVal (vs.getD 0 0#32) (vs.getD 1 0#32)).toNat
  | 2 => (vs.getD i 0#32).toNat
  | 1 => (vs.getD (i / 2) 0#32).toNat / 2 ^ (16 * (i % 2)) % 2 ^ 16
  | _ => (vs.getD 0 0#32).toNat / 2 ^ (typeBits t * i) % 2 ^ typeBits t

/-- The registers of a span holding elements of a type. -/
def spanPack (t span : Nat) (es : List Nat) : List Word :=
  let w := typeBits t
  let v := (es.zip (List.range es.length)).foldl (fun n e => n + e.1 % 2 ^ w * 2 ^ (w * e.2)) 0
  (List.range span).map fun k => BitVec.ofNat 32 (v / 2 ^ (32 * k))

/-- VCVT (R154). -/
def execVcvt (g : BitVec 4) (a d : BitVec 7) (dst src : BitVec 4) (qa sat : BitVec 1) (rm : BitVec 3)
    (s : State) : Outcome :=
  let (n, sd, ss) := (cvtShape dst.toNat src.toNat).getD (1, 1, 1)
  let srcs := if ss = 1 then [vsrc qa a] else (List.range ss).map fun k => VSrc.v (a.toNat + k)
  let m := if dst = 0#4 ∨ src = 0#4 then 7 else 6
  laneRound s g srcs ((List.range sd).map (d.toNat + ·)) m 1 rm.toNat n fun h l vs =>
    let es := (List.range n).map fun k =>
      convert dst.toNat src.toNat rm.toNat (sat == 1#1) h.ftz (srDraw h l k) (spanElem src.toNat (vs.map (·.val)) k)
    (spanPack dst.toNat sd es).zipIdx.map fun (w, k) => (d.toNat + k, ⟨w, vs.any (·.poison)⟩)

/-! ## Cross-lane operations (R155 to R159) -/

/-- A register of a source lane: zero where it holds no live thread (R155). -/
def Group.peek (g : Group) (l r : Nat) : Reg := if (g.lane l).live then (g.lane l).vreg r else ⟨0#32, false⟩

/-- The registers that a cross-lane read names in a lane: `own` where it acts, V[`r`] where it is a source lane that holds
a live thread. -/
def peekRegs (g : Group) (ls srcs own : List Nat) (r l : Nat) : List Nat :=
  (if ls.contains l then own else []) ++ if srcs.contains l && (g.lane l).live then [r] else []

/-- REG_BOUND of a cross-lane read, in the lanes it acts on and in its source lanes at once (R137, R155). -/
def peekBound (g : Group) (ls srcs own : List Nat) (r : Nat) : Option Cond :=
  match (List.range 64).filter fun l => (peekRegs g ls srcs own r l).any fun k => g.declared l ≤ k with
  | [] => none
  | l :: bad => some { cause := regBound, mask := laneMask (l :: bad), aux := g.declared l,
                       index := (findBy (fun k => decide (g.declared l ≤ k)) (peekRegs g ls srcs own r l)).getD 0 }

/-- A read of V[A] in a source lane for each contributing lane, chosen by `pick`; `extra` are registers read as well. -/
def laneShuffle (s : State) (gd : BitVec 4) (a d : BitVec 7) (extra : List Nat)
    (pick : Group → Nat → Nat) : Outcome :=
  onGroup s fun g i =>
    let ls := g.contributing i gd
    if s.peekHazard g a.toNat || s.hazard g ls (d.toNat :: extra) [] then .wait s
    else Res.unless s (peekBound g ls (ls.map (pick g)) (d.toNat :: extra) a.toNat)
      (let ws := ls.map fun l =>
        let v := g.peek (pick g l) a.toNat
        (l, [(d.toNat, (⟨v.val, v.poison || extra.any fun r => ((g.lane l).vreg r).poison⟩ : Reg))])
      .done ((s.modGroup g.gid fun g => g.writeV ws).meter g.world 6 ls.length))

/-- SHFL.B32: an index above 63 reads the lane's own value (R156). Where V[B] is itself out of bounds the lane names no other
source lane: DEDUCED, log entry 17. -/
def execShflB32 (g : BitVec 4) (b a d : BitVec 7) (s : State) : Outcome :=
  laneShuffle s g a d [b.toNat] fun h l =>
    let i := ((h.lane l).vreg b.toNat).val.toNat
    if i ≤ 63 ∧ b.toNat < h.declared l then i else l
/-- BCAST.B32 (R156). -/
def execBcastB32 (g : BitVec 4) (lane : BitVec 6) (a d : BitVec 7) (s : State) : Outcome :=
  laneShuffle s g a d [] fun _ _ => lane.toNat

/-- The mask of contributing lanes whose predicate is true (R157). -/
def ballotMask (g : Group) (i : Issue) (gd : BitVec 4) (p : BitVec 3) : Mask :=
  laneMask ((g.contributing i gd).filter fun l => (g.lane l).pred p.toNat)

/-- BALLOT: the mask in a pair, with clear tags (R157). -/
def execBallot (g : BitVec 4) (p : BitVec 3) (d : BitVec 7) (s : State) : Outcome :=
  laneWrite s g [] [d.toNat, d.toNat + 1] [] 6 1 fun h i _ _ => pairRegs d.toNat (ballotMask h i g p) false
/-- POPC: the count of the mask whole, below the lane, or up to it (R157). -/
def execPopc (g : BitVec 4) (m : BitVec 7) (p : BitVec 3) (d : BitVec 7) (s : State) : Outcome :=
  laneWrite s g [] [d.toNat] [] 6 1 fun h i l _ =>
    let ls := maskLanes (ballotMask h i g p)
    let n := match m.toNat with
      | 0 => ls.length
      | 1 => (ls.filter fun k => k < l).length
      | _ => (ls.filter fun k => k ≤ l).length
    [(d.toNat, ⟨BitVec.ofNat 32 n, false⟩)]

/-- The leaves of the lane tree: V[A] of the contributing lanes (04 R100). -/
def laneLeaves (g : Group) (ls : List Nat) (r : Nat) : List (Option Nat) :=
  (List.range 64).map fun l => if ls.contains l then some ((g.lane l).vreg r).val.toNat else none

/-- An F32 result: a NaN among the leaves of a tree is no result, the canonical NaN is (04 R86). -/
def canonF32 (v : Nat) : Nat := if f32.decode v = .nan then f32.nanCode else v

/-- Whether any of these lanes' registers is poisoned. -/
def anyPoison (g : Group) (ls : List Nat) (r : Nat) : Bool := ls.any fun l => ((g.lane l).vreg r).poison

/-- SCAN.ADD.B32 (R158). -/
def execScanAddB32 (g : BitVec 4) (a d : BitVec 7) (s : State) : Outcome :=
  laneWrite s g [.v a.toNat] [d.toNat] [] 6 1 fun h i l _ =>
    let ls := (h.contributing i g).filter (· ≤ l)
    [(d.toNat, ⟨ls.foldl (fun n k => n + ((h.lane k).vreg a.toNat).val) 0#32, anyPoison h ls a.toNat⟩)]
/-- SCAN.FADD.F32: the prefix of R100 over lanes 0 to L. -/
def execScanFaddF32 (g : BitVec 4) (a d : BitVec 7) (s : State) : Outcome :=
  laneWrite s g [.v a.toNat] [d.toNat] [] 6 1 fun h i l _ =>
    let ls := h.contributing i g
    let v := (prefixSum add32 (laneLeaves h ls a.toNat) 6 (l + 1) 0 none).getD 0
    [(d.toNat, ⟨BitVec.ofNat 32 (canonF32 v), anyPoison h (ls.filter (· ≤ l)) a.toNat⟩)]
/-- MATCH.B32 (R159). -/
def execMatchB32 (g : BitVec 4) (a d : BitVec 7) (s : State) : Outcome :=
  laneWrite s g [.v a.toNat] [d.toNat, d.toNat + 1] [] 6 1 fun h i l _ =>
    let ls := h.contributing i g
    let m := laneMask (ls.filter fun k => ((h.lane k).vreg a.toNat).val == ((h.lane l).vreg a.toNat).val)
    pairRegs d.toNat m (anyPoison h ls a.toNat)
/-- VRED.FADD.F32: the root of the lane tree (R158). -/
def execVredFaddF32 (g : BitVec 4) (a d : BitVec 7) (s : State) : Outcome :=
  laneWrite s g [.v a.toNat] [d.toNat] [] 6 1 fun h i _ _ =>
    let ls := h.contributing i g
    [(d.toNat, ⟨BitVec.ofNat 32 (canonF32 ((treeRoot add32 6 (laneLeaves h ls a.toNat)).getD 0)), anyPoison h ls a.toNat⟩)]

/-! ## Seeding and special values (R160, R161) -/

/-- SRSEED: SRS[L] := h(V[A][L]); a poisoned seed raises POISON_USE. -/
def execSrseed (gd : BitVec 4) (a : BitVec 7) (s : State) : Outcome :=
  onGroup s fun g i =>
    let ls := g.contributing i gd
    laneOp s g i ls [a.toNat] [] [] fun s _ =>
      Res.unless s (vPoison g ls 1 [a.toNat])
        (.done ((s.modGroup g.gid fun g => g.mapLanes (ls.contains ·) fun _ n =>
          { n with srs := srHash (n.vreg a.toNat).val }).meter g.world 6 ls.length))
/-- VMOVS: TID and LANEID are the lane's own, the rest truncated to 32 bits; GSTAT is read as SMOVS reads it. -/
def execVmovs (gd : BitVec 4) (sel : BitVec 6) (d : BitVec 7) (s : State) : Outcome :=
  onGroup s fun g i =>
    if sel.toNat = 9 ∧ s.stickyPending g then .wait s
    else laneResult s g i gd [] [d.toNat] [] 6 1 fun h _ l _ =>
    [(d.toNat, ⟨match sel.toNat with
      | 0 => (h.lane l).tid
      | 1 => BitVec.ofNat 32 l
      | n => BitVec.ofNat 32 (s.special h n), false⟩)]

end Sys2Proof.Machine
end

