-- ==== Sys2Proof/Machine/Matrix.lean ====
section
/-!
DEFINITION. Sys2Proof/Machine/Matrix.lean: the matrix class (09 R221 to R229): layout words (02 R58, R59), accumulator
tiles, operands and the operand latch, the matrix reservation table (12 R308 to R310), and `DRAIN`.
-/
namespace Sys2Proof.Machine

/-! ## Layout words (02 R58, R59) -/

/-- A layout word's fields. -/
structure Layout where
  s0   : Nat
  s1   : Nat
  perm : Nat
  gang : Bool
  core : Nat
  off  : Nat
deriving DecidableEq, Repr

/-- The 96 bits that three S registers form. -/
def Group.layoutBits (g : Group) (n : BitVec 5) : Nat :=
  (List.range 3).foldl (fun v k => v + (g.sreg (n.toNat + k)).val.toNat % 2 ^ 32 * 2 ^ (32 * k)) 0

/-- The fields of a layout word. -/
def layoutOf (v : Nat) : Layout :=
  ⟨bitsAt v 32 14, bitsAt v 46 14, bitsAt v 74 4, v.testBit 22, bitsAt v 20 2, bitsAt v 0 20⟩

/-- Whether every field marked zero is zero and PERM is a code of R59. -/
def layoutClean (v : Nat) : Bool :=
  bitsAt v 78 18 == 0 && bitsAt v 23 9 == 0 && bitsAt v 0 4 == 0 && bitsAt v 74 4 ≤ 4 &&
  (v.testBit 22 || bitsAt v 20 2 == 0)

/-- The S registers of a layout word. -/
def layoutRegs (n : BitVec 5) : List Nat := [n.toNat, n.toNat + 1, n.toNat + 2]

/-- ILLEGAL_OP, detail RESERVED, on a layout word. -/
def layoutCond (g : Group) (i : Issue) (n : BitVec 5) : Option Cond :=
  if layoutClean (g.layoutBits n) then none else some (i.illegal detailReserved)

/-- The physical offset of a byte whose word PERM maps (R59). -/
def permute (perm o : Nat) : Nat :=
  let b := o / 4 % 32
  let b' := match perm with
    | 1 => b ^^^ (o / 2 ^ 7 % 32)
    | 2 => b ^^^ (o / 2 ^ 8 % 32)
    | 3 => b ^^^ (o / 2 ^ 9 % 32)
    | 4 => (b + o / 2 ^ 7 % 32) % 32
    | _ => b
  o / 128 * 128 + b' * 4 + o % 4

/-- The scratchpad address of block (i, j), the base of path 0x2 or 0x3. -/
def Layout.addr (y : Layout) (i j : Nat) : Nat :=
  (if y.gang then 3 * 2 ^ 60 + y.core * 2 ^ 56 else 2 * 2 ^ 60) + y.off + 16 * (i * y.s0 + j * y.s1)

/-- The team that a layout word names. -/
def State.layoutTeam (s : State) (g : Group) (y : Layout) : Option Team :=
  s.scratchTeam g.core g.team ((if y.gang then 3 * 2 ^ 60 + y.core * 2 ^ 56 else 2 * 2 ^ 60))

/-- ADDR_PATH for a block outside the team's allocation. -/
def State.layoutPath (s : State) (g : Group) (y : Layout) (rows cols : Nat) : Option Cond :=
  let size := ((s.layoutTeam g y).map (·.kernel.scratch)).getD 0
  (findBy (fun k => size < y.off + 16 * (k / cols * y.s0 + k % cols * y.s1) + 16) (List.range (rows * cols))).map fun k =>
    { cause := addrPath, addr := y.addr (k / cols) (k % cols) }

/-- The locations of a block's 16 bytes. -/
def Layout.locs (y : Layout) (team i j : Nat) : List Loc :=
  (List.range 16).map fun b => .scr y.gang team (permute y.perm (y.off + 16 * (i * y.s0 + j * y.s1) + b))

/-- The accesses of a layout word's blocks. -/
def Layout.accs (y : Layout) (team rows cols : Nat) : List LaneAcc :=
  (List.range (rows * cols)).map fun k => ⟨64, 0, y.locs team (k / cols) (k % cols), [], false⟩

/-- Whether the group's earlier accesses to the scratchpad of these blocks have been performed (11 R279). -/
def State.blocksReady (s : State) (g : Group) (accs : List LaneAcc) : Bool :=
  s.mayPerform ⟨s.ids, g.gid, g.core, g.world, g.team, none, .load 0 16 false true accs, false, 0⟩

/-- A block read: its 128 bits and the poison of its four words. -/
def State.readBlock (s : State) (team : Nat) (y : Layout) (i j : Nat) : Nat × List Bool :=
  let bs := s.scratchBytes team ((y.locs team i j).filterMap fun l => match l with | .scr _ _ o => some o | _ => none)
  (ofBytes (bs.map Prod.fst), (List.range 4).map fun w => ((bs.drop (4 * w)).take 4).any Prod.snd)

/-! ## Tiles (R221) -/

/-- n values of a map from a key on. -/
def mapRun {α : Type} (d : α) (n lo : Nat) (m : List (Nat × α)) : List α :=
  let rec go : Nat → Nat → List (Nat × α) → List α
    | 0, _, _ => []
    | k + 1, lo, [] => d :: go k (lo + 1) []
    | k + 1, lo, (j, v) :: m => if j = lo then v :: go k (lo + 1) m else d :: go k (lo + 1) ((j, v) :: m)
  go n lo (m.dropWhile fun e => e.1 < lo)

/-- n words from the start of a slot: one is free where undefined (01 R13). -/
def Team.tileWords (t : Team) (slot n : Nat) : List Word :=
  (mapRun none n (16384 * slot) t.tiles).zipIdx.map fun (w, x) => w.getD (Config.undefTile t.key (16384 * slot + x))

/-- Words written from the start of a slot on. -/
def Team.setTile (t : Team) (slot : Nat) (ws : List Word) : Team :=
  { t with tiles := (t.tiles.filter fun e => e.1 < 16384 * slot) ++
      (ws.zipIdx.map fun (w, x) => (16384 * slot + x, some w)) ++
      t.tiles.filter fun e => 16384 * slot + ws.length ≤ e.1 }

/-- A slot's hidden state as its allocation is made. -/
def TileState.reset : TileState := ⟨.f, false, 0#128⟩

def Team.tileState (t : Team) (slot : Nat) : TileState := mapGet TileState.reset t.tstate slot
def Team.setTileState (t : Team) (slot : Nat) (x : TileState) : Team :=
  { t with tstate := mapSet TileState.reset t.tstate slot x }

/-- The 64-bit elements that pairs of words hold. -/
def exactElems : List Word → List Nat
  | a :: b :: l => (a.toNat + 2 ^ 32 * b.toNat) :: exactElems l
  | _ => []

/-- The words of 64-bit elements. -/
def exactWords (es : List Nat) : List Word := es.flatMap fun e => [BitVec.ofNat 32 e, BitVec.ofNat 32 (e / 2 ^ 32)]

/-- REG_BOUND on a tile of a team (01 R28). -/
def tileCond (t : Team) (slots : List Nat) : Option Cond :=
  (findBy (fun k => decide (t.kernel.tiles ≤ k)) slots).map fun k =>
    { cause := regBound, detail := 1, index := k, aux := t.kernel.tiles }

/-- Whether a matrix pass of the group on a slot is not yet done (R227, 02 R38). -/
def State.tileBusy (s : State) (g : Group) (slots : List Nat) : Bool :=
  s.ops.any fun o => o.gid == g.gid && (match o.kind with
    | .matrix m => !o.done && (slots.contains m.slot || (m.exact && slots.contains (m.slot + 1)))
    | _ => false)

/-- TZERO (R228). -/
def execTzero (t : BitVec 6) (f : BitVec 1) (s : State) : Outcome :=
  onGroup s fun g i =>
    match s.team g.team with
    | none => .wait s
    | some tm =>
      let flag := i.flag f
      Res.unless s (tileCond tm [t.toNat])
        (if s.tileBusy g [t.toNat] || !g.flagFree flag then .wait s
        else .done ((s.modTeam g.team fun u => (u.setTile t.toNat (List.replicate 16384 0#32)).setTileState t.toNat TileState.reset).issueOp
          g flag .plain true))

/-- Element k of a 128-bit block of a format, with its poison (04 R88). -/
def blockElemAt (bits : Nat) (b : Nat × List Bool) (k : Nat) : Nat × Bool :=
  (bitsAt b.1 (bits * k) bits,
   (List.range 4).any fun w => b.2.getD w false && bits * k / 32 ≤ w && w ≤ (bits * k + bits - 1) / 32)

/-- TLOAD (R228): FMT 0 is the exact pair, 1 F32, 2 F16, 3 BF16. -/
def execTload (sl : BitVec 5) (t : BitVec 6) (f : BitVec 1) (fmt : BitVec 4) (s : State) : Outcome :=
  onGroup s fun g i =>
    match s.team g.team with
    | none => .wait s
    | some tm =>
      let flag := i.flag f
      let slots := if fmt = 0#4 then [t.toNat, t.toNat + 1] else [t.toNat]
      let y := layoutOf (g.layoutBits sl)
      let bits := typeBits fmt.toNat
      let per := 128 / bits
      if s.hazard g [] [] (layoutRegs sl) then .wait s
      else Res.unless s (firstCond [tileCond tm slots, sPoison g 3 (layoutRegs sl), layoutCond g i sl,
          s.layoutPath g y 128 (128 / per)])
        (match s.layoutTeam g y with
        | none => .wait s
        | some src =>
          if s.tileBusy g slots || !g.flagFree flag || !s.blocksReady g (y.accs src.key 128 (128 / per)) then .wait s
          else
            let blocks := (List.range (128 * (128 / per))).map fun k => s.readBlock src.key y (k / (128 / per)) (k % (128 / per))
            let elems := blocks.flatMap fun b => (List.range per).map fun k => (blockElemAt bits b k).1
            let rows := blocks.zipIdx.foldl (fun m (b, k) =>
              if b.2.any id then m ||| BitVec.ofNat 128 (2 ^ (k / (128 / per))) else m) 0#128
            let put := fun (u : Team) =>
              if fmt = 0#4 then
                ((u.setTile t.toNat (exactWords elems)).setTileState t.toNat ⟨.xl, false, rows⟩).setTileState
                  (t.toNat + 1) ⟨.xh, false, rows⟩
              else (u.setTile t.toNat (elems.map fun e =>
                  BitVec.ofNat 32 (rne f32 ((fmtOf fmt.toNat).read g.ftz e)))).setTileState t.toNat ⟨.f, false, rows⟩
            .done ((s.modTeam g.team put).issueOp g flag .plain true))

/-! ## Operands of MMA (R224, R225) -/

/-- Elements per 16-byte chunk. -/
def mmaPerChunk (f : Nat) : Nat := if f ≤ 3 then 8 else if f = 8 ∨ f = 10 then 32 else 16

/-- A code as the array reads it: FTZ16 on F16 and BF16. -/
def mmaCode (f : Nat) (ftz : Bool) (c : Nat) : Nat := if f ≤ 3 then (fmtOf f).flush ftz c else c

/-- Operand A of registers: code and poison of element k of row r. -/
def Group.regElem (g : Group) (a f depth r k : Nat) : Nat × Bool :=
  let w := mmaPerReg f
  let n := g.lane (r % 64)
  let v := if n.live then n.vreg (a + r / 64 * (depth / w) + k / w) else ⟨0#32, false⟩
  (bitsAt v.val.toNat (k % w * typeBits f) (typeBits f), v.poison)

/-- Row r of an operand of registers. -/
def Group.regRow (g : Group) (a f depth r : Nat) : List (Nat × Bool) := (List.range depth).map (g.regElem a f depth r)

/-- Row or column r of an operand of chunks. -/
def State.chunkRow (s : State) (team : Nat) (y : Layout) (f depth r : Nat) : List (Nat × Bool) :=
  (List.range (depth / mmaPerChunk f)).flatMap fun j =>
    let b := s.readBlock team y r j
    (List.range (mmaPerChunk f)).map (blockElemAt (typeBits f) b)

/-- An operand's codes, element k of row r at 256 r + k, those that are zero left out, and its poisoned rows. -/
def gather (rows f : Nat) (ftz : Bool) (row : Nat → List (Nat × Bool)) : List (Nat × Nat) × Nat :=
  let rs := ((List.range rows).map row).zipIdx
  (rs.flatMap fun (es, r) => es.zipIdx.filterMap fun (e, k) =>
      let c := mmaCode f ftz e.1
      if c = 0 then none else some (256 * r + k, c),
   rs.foldl (fun m (es, r) => if es.any Prod.snd then m + 2 ^ r else m) 0)

/-- Whether the group's latch serves an instruction. -/
def Group.latched (g : Group) (asrc : BitVec 1) (a : BitVec 7) (la : BitVec 5) (fmta : BitVec 4) (shape : BitVec 3) :
    Option Latch :=
  match g.latch with
  | some h => if h.asrc = asrc ∧ h.a = a ∧ h.la = la ∧ h.fmta = fmta ∧ h.shape = shape then some h else none
  | none => none

/-- GSTAT.PRIO. -/
def Group.prio (g : Group) : Nat := g.gstat.toNat / 64 % 8

/-- The entries of a cluster's MRT in use (12 R308). -/
def State.mrtUsed (s : State) (cluster : Nat) : Nat :=
  (s.ops.filter fun o => o.core / 4 == cluster && (match o.kind with | .matrix _ => !o.done | _ => false)).length

/-- The team that `MMA.PAIR` finds on the next core (R226). -/
def State.follower (s : State) (g : Group) : Option Team :=
  if g.core % 2 = 0 then findBy (fun t => t.gang == s.gangOf g && t.core == g.core + 1) s.teams else none

/-- MMA and MMA.PAIR at issue: the checks of R223, the operands as they stand in program order, an MRT entry.
DEDUCED, log entry 24. -/
def matrixIssue (s : State) (pair : Bool) (asrc reuse : BitVec 1) (la lb : BitVec 5) (a : BitVec 7) (t : BitVec 6)
    (f : BitVec 1) (shape : BitVec 3) (exact : BitVec 1) (fmtb fmta : BitVec 4) : Outcome :=
  onGroup s fun g i =>
    let depth := 32 * 2 ^ shape.toNat
    let flag := i.flag f
    let slots := if exact = 1#1 then [t.toNat, t.toNat + 1] else [t.toNat]
    let latch := g.latched asrc a la fmta shape
    let span := if asrc = 0#1 ∧ latch.isNone then regSpan a (mmaSpan shape.toNat fmta.toNat) else []
    let lay := (if asrc = 1#1 ∧ latch.isNone then layoutRegs la else []) ++ layoutRegs lb
    let ya := layoutOf (g.layoutBits la)
    let yb := layoutOf (g.layoutBits lb)
    let cols := if pair then 256 else 128
    let ca := depth / mmaPerChunk fmta.toNat
    let cb := depth / mmaPerChunk fmtb.toNat
    let other := if pair then s.follower g else s.team g.team
    if s.hazard g g.liveLanes span lay then .wait s
    else
      match s.team g.team, other with
      | some tm, some fo =>
        Res.unless s (firstCond [walkCond g (exact == 0#1), tileCond tm slots, tileCond fo slots, boundCond g g.liveLanes span, sPoison g 3 lay,
            (if asrc = 1#1 ∧ latch.isNone then layoutCond g i la else none), layoutCond g i lb,
            (if asrc = 1#1 ∧ latch.isNone then s.layoutPath g ya 128 ca else none), s.layoutPath g yb cols cb])
          (match (if asrc = 1#1 ∧ latch.isNone then s.layoutTeam g ya else some tm), s.layoutTeam g yb with
          | some ta, some tb =>
            let reads := (if asrc = 1#1 ∧ latch.isNone then ya.accs ta.key 128 ca else []) ++ yb.accs tb.key cols cb
            if !g.flagFree flag || !s.blocksReady g reads || 32 ≤ s.mrtUsed (g.core / 4) then .wait s
            else
              let (ac, ap) := match latch with
                | some h => (h.codes, h.poison.toNat)
                | none => gather 128 fmta.toNat g.ftz (if asrc = 1#1 then s.chunkRow ta.key ya fmta.toNat depth
                    else g.regRow a.toNat fmta.toNat depth)
              let (bc, bp) := gather cols fmtb.toNat g.ftz (s.chunkRow tb.key yb fmtb.toNat depth)
              let keep : Option Latch :=
                if reuse = 1#1 then some ⟨asrc, a, la, fmta, shape, ac, BitVec.ofNat 128 ap⟩ else none
              let bad := (if bp % 2 ^ 128 ≠ 0 then 1 else 0) + if bp / 2 ^ 128 ≠ 0 then 2 else 0
              let m : MatrixOp := ⟨pair, g.team, fo.key, t.toNat, depth, exact == 1#1, fmta.toNat, fmtb.toNat, ac, bc,
                BitVec.ofNat 128 ap, BitVec.ofNat 2 bad, g.prio, s.clock, false⟩
              .done ((s.modGroup g.gid fun g => { g with latch := keep }).issueOp g flag (.matrix m) false)
          | _, _ => .wait s)
      | some _, none => if pair then .trap s ((walkCond g (exact == 0#1)).getD { cause := syncState }) else .wait s
      | none, _ => .wait s

/-- MMA (R223). -/
def execMma (asrc reuse : BitVec 1) (la lb : BitVec 5) (a : BitVec 7) (t : BitVec 6) (f : BitVec 1) (shape : BitVec 3)
    (exact : BitVec 1) (fmtb fmta : BitVec 4) (s : State) : Outcome :=
  matrixIssue s false asrc reuse la lb a t f shape exact fmtb fmta
/-- MMA.PAIR (R226). -/
def execMmaPair (asrc reuse : BitVec 1) (la lb : BitVec 5) (a : BitVec 7) (t : BitVec 6) (f : BitVec 1)
    (shape : BitVec 3) (exact : BitVec 1) (fmtb fmta : BitVec 4) (s : State) : Outcome :=
  matrixIssue s true asrc reuse la lb a t f shape exact fmtb fmta

/-! ## The matrix reservation table (12 R309, R310) -/

/-- A matrix pass that an operation stands for. -/
def Op.matrix? (o : Op) : Option MatrixOp :=
  match o.kind with
  | .matrix m => if o.done then none else some m
  | _ => none

/-- The arrays that a pass names. -/
def arraysOf (o : Op) (m : MatrixOp) : List Nat := if m.pair then [o.core, o.core + 1] else [o.core]

/-- The effective priority of a request. -/
def effective (clock : Nat) (m : MatrixOp) : Nat := min (m.prio + (clock - m.since) / 4096) 7

/-- Whether request x ranks above request y. -/
def State.outranks (s : State) (x y : Op × MatrixOp) : Bool :=
  let ex := effective s.clock x.2
  let ey := effective s.clock y.2
  let slot := fun (o : Op) => ((s.group o.gid).map (·.slot)).getD 256
  let kx := [7 - ex, x.2.since, x.1.core, slot x.1, x.1.id]
  let ky := [7 - ey, y.2.since, y.1.core, slot y.1, y.1.id]
  ((List.zip kx ky).foldl (fun (r : Option Bool) e =>
    match r with
    | some b => some b
    | none => if e.1 < e.2 then some true else if e.2 < e.1 then some false else none) none).getD true

/-- The tile slots of a pass. -/
def MatrixOp.slots (m : MatrixOp) : List Nat := if m.exact then [m.slot, m.slot + 1] else [m.slot]

/-- Whether a request follows, in the program order of its group, no pass on one of its tiles that is not done (02 R38,
09 R227). DEDUCED, log entry 24. -/
def State.inOrder (s : State) (x : Op × MatrixOp) : Bool :=
  !s.ops.any fun o => o.gid == x.1.gid && o.id < x.1.id &&
    (o.matrix?.any fun m => m.slots.any x.2.slots.contains)

/-- Whether a request ranks highest of those that wait for an array and may take it. -/
def State.topOn (s : State) (array : Nat) (x : Op × MatrixOp) : Bool :=
  s.inOrder x && (s.ops.filterMap fun o => o.matrix?.map fun m => (o, m)).all fun y =>
    y.1.id == x.1.id || y.2.granted || !(arraysOf y.1 y.2).contains array || !s.inOrder y || s.outranks x y

/-- Whether an array runs a pass. -/
def State.arrayBusy (s : State) (array : Nat) : Bool :=
  s.ops.any fun o => (o.matrix?.map fun m => m.granted && (arraysOf o m).contains array).getD false

/-- MATRIX_GRANT (R309): a free array's next pass goes to its highest request; a pair needs both arrays, which
an array on which it does not rank highest grants to another first. -/
def execMatrixGrant (op : Nat) (s : State) : Outcome :=
  .next (match s.op op with
    | some o =>
      match o.matrix? with
      | some m =>
        let arrays := arraysOf o m
        if !m.granted && (arrays.all fun a => !s.arrayBusy a) && (arrays.all fun a => s.topOn a (o, m)) then
          s.modOp op fun o => { o with kind := .matrix { m with granted := true } }
        else s
      | none => s
    | none => s)

/-- One level of the step tree: pairs added and rounded to F32. -/
def pairSums : List Num → List Num
  | a :: b :: l => f32.decode (rne f32 (Num.add false a b)) :: pairSums l
  | l => l

/-- One step of 16 products into an element (04 R101). -/
def stepSum (c : Nat) (ps : List Num) : Nat :=
  let q := pairSums (pairSums (pairSums (pairSums ps)))
  rne f32 (Num.add false (f32.decode c) (q.headD (.fin false 0 0)))

/-- A row of an operand as numbers, from its codes. -/
def operandRow (f depth : Nat) (codes : List (Nat × Nat)) (r : Nat) : List Num :=
  (mapRun 0 depth (256 * r) codes).map (elemNum false f)

/-- An element of the F32 form after the pass, from its row of A and column of B, k ascending. -/
def floatCell (xs ys : List Num) (c : Nat) : Nat :=
  let ps := List.zipWith Num.mul xs ys
  (List.range (ps.length / 16)).foldl (fun c j => stepSum c ((ps.drop (16 * j)).take 16)) c

/-- A finite element in units of 2^-16, none for NaN or an infinity. -/
def exactUnits : Num → Option Int
  | .fin n v e => some (signedAt n v e (-16))
  | _ => none

/-- The products of an exact element summed in units of 2^-36, and whether some product is invalid (R223, 04 R98). -/
def exactSum (xs ys : List (Option Int)) : Int × Bool :=
  (List.zip xs ys).foldl (fun (r : Int × Bool) p =>
    match p with
    | (some x, some y) => (r.1 + 16 * (x * y), r.2)
    | _ => (r.1, true)) (0, false)

/-- A team's tile after a pass: `shift` is the first column of B, `bad` whether these columns of B hold a poisoned
element. The whole tile changes at one point, and a poisoned element of B in a pair poisons the tile of its own columns:
DESIGN CHOICE, log entry 56. -/
def MatrixOp.apply (m : MatrixOp) (shift : Nat) (bad : Bool) (t : Team) : Team :=
  let rows := if bad then -1#128 else m.apoison
  let mark := fun (t : Team) (k : Nat) (mode : TileMode) (nv : Bool) =>
    let x := t.tileState k
    t.setTileState k ⟨mode, x.nv || nv, x.poison ||| rows⟩
  let as_ := (List.range 128).map (operandRow m.fmta m.depth m.acodes)
  let bs := (List.range 128).map fun c => operandRow m.fmtb m.depth m.bcodes (shift + c)
  if m.exact then
    let us := bs.map fun b => b.map exactUnits
    let sums := as_.flatMap fun a => us.map (exactSum (a.map exactUnits))
    let old := exactElems (t.tileWords m.slot 32768)
    let t := t.setTile m.slot (exactWords (List.zipWith (fun c x => (((c : Nat) + x.1 : Int) % 2 ^ 64).toNat) old sums))
    let nv := sums.any Prod.snd
    mark (mark t m.slot .xl nv) (m.slot + 1) .xh false
  else
    let cells := as_.flatMap fun a => bs.map (floatCell a)
    let old := t.tileWords m.slot 16384
    mark (t.setTile m.slot (List.zipWith (fun f w => BitVec.ofNat 32 (f w.toNat)) cells old)) m.slot .f false

/-- The meter of a pair of formats (22 R463). -/
def macMeter (fa fb : Nat) : Nat :=
  if fa ≤ 3 then 0
  else if fa = 9 ∨ fb = 9 then 4
  else if fa = 10 then 5
  else if fa ≤ 5 ∨ fb ≤ 5 then 1
  else if fa ≤ 7 ∨ fb ≤ 7 then 2
  else 3

/-- MATRIX_PASS_COMPLETION: the elements are written and the flag falls (R223, R226). -/
def execMatrixPassCompletion (op : Nat) (s : State) : Outcome :=
  .next (match s.op op with
    | some o =>
      match o.matrix? with
      | some m =>
        if m.granted then
          let s := s.modTeam m.team (m.apply 0 (m.bpoison.getLsbD 0))
          let s := if m.pair then s.modTeam m.follower (m.apply 128 (m.bpoison.getLsbD 1)) else s
          let s := s.meter o.world (macMeter m.fmta m.fmtb) (128 * 128 * m.depth * if m.pair then 2 else 1)
          (s.completeOp o).reap m.follower
        else s
      | none => s
    | none => s)

/-! ## DRAIN (R229) -/

/-- Elements per 16-byte chunk of a destination. -/
def drainPerChunk (f : Nat) : Nat :=
  if f = 1 then 4 else if f ≤ 3 then 8 else if f = 8 ∨ f = 10 then 32 else 16

/-- The elements of a tile as DRAIN reads them. -/
def Team.drainElems (t : Team) (slot : Nat) : List Num :=
  if (t.tileState slot).nv then List.replicate 16384 .nan
  else if (t.tileState slot).mode = .xl then
    (exactElems (t.tileWords slot 32768)).map fun v =>
      let x := toSigned 64 v
      .fin (decide (x < 0)) x.natAbs (-36)
  else (t.tileWords slot 16384).map fun w => f32.decode w.toNat

/-- The scale and codes of the block of 32 elements that begins at element e, or the codes alone. -/
def drainBlock (g : Group) (f rm : Nat) (sck : Bool) (e : Nat) (xs : List Num) : Nat × List Nat :=
  let draws := (List.range 32).map fun k => srDraw g ((e + k) % 64) ((e + k) / 64)
  if f ≤ 3 then (0, List.zipWith (fun x d => round (fmtOf f) rm false g.ftz d x) xs draws)
  else requant f rm sck xs draws

/-- A list cut into n parts of a length. -/
def cutInto {α : Type} (len : Nat) : Nat → List α → List (List α)
  | 0, _ => []
  | n + 1, l => l.take len :: cutInto len n (l.drop len)

/-- The number a list of codes of a width packs to. -/
def packCodes (bits : Nat) (cs : List Nat) : Nat :=
  (cs.zipIdx.map fun (c, k) => c * 2 ^ (bits * k)).foldl (· + ·) 0

/-- The paths of DRAIN's destinations. -/
def pathsDrain (p : Nat) : Bool := p == 0 || p == 2 || p == 3

/-- A destination's locations, permuted on the scratchpad paths. -/
def permuteLocs (perm : Nat) (ls : List Loc) : List Loc :=
  ls.map fun l => match l with | .scr b t o => .scr b t (permute perm o) | l => l

/-- DRAIN. Where its strides let chunks or scales overlap, the later of the list stands, scales after chunks: DESIGN CHOICE,
log entry 62. -/
def execDrain (sl ss se : BitVec 5) (t : BitVec 6) (f : BitVec 1) (sck : BitVec 1) (rm : BitVec 3) (fmt : BitVec 4)
    (s : State) : Outcome :=
  onGroup s fun g i =>
    match s.team g.team with
    | none => .wait s
    | some tm =>
      let flag := i.flag f
      let n := fmt.toNat
      let y := layoutOf (g.layoutBits sl)
      let per := drainPerChunk n
      let base := (g.sreg se.toNat).val.toNat
      let sbase := (g.sreg ss.toNat).val.toNat
      let sregs := if 4 ≤ n then [se.toNat, ss.toNat] else [se.toNat]
      let width := if sck = 1#1 then 1 else 4
      let chunks := (List.range (128 * (128 / per))).map fun k =>
        ((64 : Nat), addrAdd base (16 * (k / (128 / per) * y.s0 + k % (128 / per) * y.s1) % 2 ^ 64))
      let scales := if 4 ≤ n then (List.range 512).map fun k => ((64 : Nat), addrAdd sbase (width * k)) else []
      let out := fun (w : Nat) (e : Nat × Nat) =>
        (s.place g pathsDrain 1 e.2).isNone || (s.place g pathsDrain 1 (addrAdd e.2 (w - 1))).isNone
      let lost := chunks.filter (out 16) ++ scales.filter (out width)
      let x := (tm.tileState t.toNat).mode
      let slots := if x = .xl then [t.toNat, t.toNat + 1] else [t.toNat]
      if s.hazard g [] [] (sregs ++ layoutRegs sl) || s.tileBusy g slots then .wait s
      else Res.unless s (firstCond [tileCond tm [t.toNat],
          (if x = .xh then some (i.illegal detailOperand) else none),
          sPoison g 0 sregs, sPoison g 3 (layoutRegs sl), layoutCond g i sl,
          (if y.off ≠ 0 ∨ y.gang ∨ y.core ≠ 0 then some (i.illegal detailOperand) else none),
          failCond addrPath lost (fun _ c => c),
          (if base % 16 ≠ 0 then some { cause := addrAlign, addr := base } else none),
          (if 4 ≤ n ∧ sbase % width ≠ 0 then some { cause := addrAlign, addr := sbase } else none)])
        (match s.access g pathsDrain true 1 16 chunks with
        | (s, .error c) => .trap s c
        | (s, .ok cs) =>
          match s.access g pathsDrain true 1 width scales with
          | (s, .error c) => .trap s c
          | (s, .ok ws) =>
            if !g.flagFree flag then .wait s
            else
              let rows := (tm.tileState t.toNat).poison ||| if x = .xl then (tm.tileState (t.toNat + 1)).poison else 0#128
              let bad := fun (m : Nat) => rows.getLsbD m
              let blocks := (cutInto 32 512 (tm.drainElems t.toNat)).zipIdx.map fun (xs, k) =>
                drainBlock g n rm.toNat (sck == 1#1) (32 * k) xs
              let elems : List LaneAcc := (List.zip cs (cutInto per cs.length (blocks.flatMap Prod.snd))).zipIdx.map
                fun (((_, _, ls), es), k) =>
                  ⟨64, 0, permuteLocs y.perm ls, toBytes 16 (packCodes (typeBits n) es), bad (k * per / 128)⟩
              let scs : List LaneAcc := (List.zip ws blocks).zipIdx.map fun (((_, _, ls), b), k) =>
                ⟨64, 0, ls, toBytes width b.1, bad (k / 4)⟩
              let s := s.modGroup g.gid fun g =>
                (g.drawn (List.range 64) rm.toNat 256).stick psnBit (rows != 0#128)
              .done (s.issueOp g flag (.store 16 (elems ++ scs)) false))

end Sys2Proof.Machine
end

