-- ==== Sys2Proof/Machine/Copy.lean ====
section
/-!
DEFINITION. Sys2Proof/Machine/Copy.lean: the stream copy engine (09 R230 to R236, 12 R295 to R298), check-out and
check-in (09 R234, 11 R290, R291), and what engines share: counters (12 R306, R307), sync-word raises (12 R304, R305),
faults that are held or reported to the issuing group (20 R438, R439, 09 R236).
-/
namespace Sys2Proof.Machine

/-! ## What engines share -/

/-- Whether a world's engines go on: its polder runs (20 R444). DEDUCED, log entry 48. -/
def State.active (s : State) (w : Nat) : Bool := w == 60 || (s.polder w).state == .run

/-- A raise of BRUN at a sync word of a team: a poisoned word stays as it is (12 R305). -/
def State.raiseSync (s : State) (team o n clock : Nat) : State :=
  let (y, bad) := s.syncWord team o
  if bad then s else (s.setSync team o (y.raise n)).raisePhase team o clock

/-- How an addition to a completion counter ends (12 R306, R307). -/
inductive Added where
  | done (s : State) (time : Nat)
  | fail (s : State) (c : Cond)
  | wait (s : State)
deriving DecidableEq, Repr

/-- A coherent add at a counter by an engine of a core at a clock. An addition to the host window is lost with ADDR_PATH:
DESIGN CHOICE, log entry 62. -/
def State.addCounter (s : State) (core world team clock addr inc : Nat) : Added :=
  match s.xlate core world addr 1 false with
  | (s, .fault d st _) => .fail s { cause := xlateCause, detail := d, addr := addr, aux := xlateAux st 1 }
  | (s, .held) => .wait s
  | (s, .ok t) =>
    let pas := addrs t.pa 8
    if hostWindow t.pa then .fail s { cause := addrPath, addr := addr }
    else if s.held pas none then .wait s
    else
      match (s.engineMerge clock pas).homeRead pas with
      | (s, _, some b) => .wait (s.integrity (b * 128))
      | (s, bs, none) =>
        if bs.any Prod.snd then .fail s (poisonCond 2 0 addr)
        else
          let v := (ofBytes (bs.map Prod.fst) + inc) % 2 ^ 64
          match s.cohWrite core clock (s.teamWriter core team) (List.zip pas (toBytes 8 v)) [] with
          | (s, some b, _) => .wait (s.integrity (b * 128))
          | (s, none, t) => .done s t
  | (s, _) => .fail s { cause := addrPath, addr := addr }

/-- The index of the graph node known by a number. -/
def State.nodeIndex (s : State) (key : Nat) : Option Nat :=
  if key = 0 then none else
    s.graphs.findSome? fun k => (k.nodes.zipIdx.find? fun (n, _) => n.key == key).map (·.2)

/-- GRIDID and TEAMID of a team's launch; a graph node's engine has GRIDID 0 and the node's index (16 R367). -/
def State.teamIds (s : State) (team : Nat) : Nat × Nat :=
  match s.team team with
  | some t => (((s.grid t.grid).map (·.gridid.toNat)).getD 0, t.teamid)
  | none => (0, (s.nodeIndex team).getD 0)

/-- GRPID of a group: resident, of a saved team, or ended (20 R435). -/
def State.slotOf (s : State) (gid team : Nat) : Nat :=
  let saved := s.pldrs.flatMap (·.2.saved)
  match (s.group gid).or (findBy (fun g => g.gid == gid) (saved.flatMap (·.groups))) with
  | some g => g.slot
  | none =>
    (((s.team team).or (findBy (fun t => t.key == team) (saved.map (·.team)))).map fun t => mapGet 0 t.past gid).getD 0

/-- The record of an engine's condition: ORIGIN source 1 copy, 2 task, 3 bank call, 4 collective. -/
def State.engineRecord (s : State) (core gid team source flags : Nat) (c : Cond) : Record :=
  let (gr, tm) := s.teamIds team
  c.record 0#64 flags gr tm (originOf core (s.slotOf gid team) source)

/-- A record of an engine's fault that is not resolved: the issuing group takes it at its next clause header, or it is
recorded against the team (09 R236, 20 R442). Its SEQ is answered. -/
def State.reportFault (s : State) (gid team world : Nat) (r : Record) : State × BitVec 32 :=
  let (s, r) := s.form world r
  match s.group gid with
  | some g =>
    if g.liveLanes = [] then ((s.blame team).postOnly world r, r.seq)
    else (s.modGroup gid fun g => { g with asyncs := g.asyncs ++ [r] }, r.seq)
  | none =>
    if s.pldrs.any fun e => e.2.saved.any fun v => v.groups.any fun g => g.gid == gid && g.liveLanes != [] then
      (s.modSaved gid fun g => { g with asyncs := g.asyncs ++ [r] }, r.seq)
    else ((s.blame team).postOnly world r, r.seq)

/-- A fault of an engine that is not resolved. -/
def State.engineFault (s : State) (core gid team world source : Nat) (c : Cond) : State × BitVec 32 :=
  s.reportFault gid team world (s.engineRecord core gid team source 2 c)

/-- The report of a held fault that is aborted: its record, ASYNC and no longer held. -/
def Record.aborted (r : Record) : Record := { r with flags := (r.flags &&& 0xDF#8) ||| 2#8, seq := 0#32 }

/-- A replayable fault of an engine held for a response (20 R438): none where it cannot be held. -/
def State.holdEngine (s : State) (core gid team world source : Nat) (c : Cond) : State × Option Record :=
  if !c.replay || 48 ≤ world || (s.polder world).state == .releasing then (s, none)
  else
    let (s, r) := s.form world (s.engineRecord core gid team source 32 c)
    match s.post world r with
    | (s, .written) | (s, .waits) => (s, some r)
    | (s, _) => (s, none)

/-! ## Layout records (R230, R231) -/

/-- The first bad field of a list of checks by offset. -/
def badField : List (Nat × Bool) → Option Nat
  | [] => none
  | (o, b) :: l => if b then some o else badField l

/-- The checks of a layout record of a team whose scratchpad has a size. GST2 bits 31:20 of a gather or scatter are held
to be zero: DESIGN CHOICE, log entry 56. -/
def recordBad (b : List Byte) (indexed : Bool) (size : Nat) : Option Nat :=
  let ctl := field b 0 4
  let sync := field b 4 4
  let so := sync % 2 ^ 20
  badField [(0, ctl / 2 ^ 11 ≠ 0 || 4 < ctl % 8 || 5 < ctl / 8 % 8 || 4 < ctl / 2 ^ 6 % 16),
    (4, sync / 2 ^ 20 % 2 ^ 11 ≠ 0 || (2 ^ 31 ≤ sync && (so % 16 ≠ 0 || size < so + 16))),
    (8, field b 8 8 / 2 ^ 56 ≠ 0 || field b 8 8 % 8 ≠ 0),
    (20, field b 20 2 = 0 || 4096 < field b 20 2), (22, field b 22 2 = 0),
    (24, field b 24 2 = 0), (26, field b 26 2 = 0), (28, field b 28 2 = 0), (30, field b 30 2 ≠ 0),
    (40, indexed && field b 40 4 ≠ 0), (44, indexed && field b 44 4 / 2 ^ 20 ≠ 0)]

/-- A layout record's fields. -/
def copyRec (b : List Byte) : CopyRec :=
  let ctl := field b 0 4
  let sync := field b 4 4
  let i32 := fun (o : Nat) => toSigned 32 (field b o 4)
  { elog := ctl % 8, order := ctl / 8 % 8, swz := ctl / 2 ^ 6 % 16, inner := ctl / 2 ^ 10 % 2 = 1,
    sync := if 2 ^ 31 ≤ sync then some (sync % 2 ^ 20) else none,
    ctr := BitVec.ofNat 64 (field b 8 8), cinc := BitVec.ofNat 32 (field b 16 4),
    brows := field b 20 2, bcols := field b 22 2, n0 := field b 24 2, n1 := field b 26 2, n2 := field b 28 2,
    grow := i32 32, gst0 := i32 36, gst1 := i32 40, gst2 := i32 44, list := field b 44 4 % 2 ^ 20,
    lrow := field b 48 4, lst0 := field b 52 4, lst1 := field b 56 4, lst2 := field b 60 4 }

/-- The size of an element in bytes. -/
def CopyRec.esize (y : CopyRec) : Nat := 2 ^ y.elog
/-- The number of blocks. -/
def CopyRec.blocks (y : CopyRec) : Nat := y.n0 * y.n1 * y.n2
/-- The number of elements. -/
def CopyRec.total (y : CopyRec) : Nat := y.blocks * (y.brows * y.bcols)

/-- The dimensions from outermost to innermost (ORDER). -/
def orderDims : Nat → Nat × Nat × Nat
  | 0 => (2, 1, 0)
  | 1 => (2, 0, 1)
  | 2 => (1, 2, 0)
  | 3 => (1, 0, 2)
  | 4 => (0, 2, 1)
  | _ => (0, 1, 2)

/-- An outer count. -/
def CopyRec.count (y : CopyRec) (d : Nat) : Nat := if d = 0 then y.n0 else if d = 1 then y.n1 else y.n2

/-- The place of element n in the order of R231: o0, o1, o2, r, c. -/
def CopyRec.at_ (y : CopyRec) (n : Nat) : Nat × Nat × Nat × Nat × Nat :=
  let x := n / (y.brows * y.bcols)
  let (u, v, w) := orderDims y.order
  let iw := x % y.count w
  let iv := x / y.count w % y.count v
  let iu := x / (y.count w * y.count v)
  let o := fun (d : Nat) => if d = u then iu else if d = v then iv else iw
  (o 0, o 1, o 2, n % (y.brows * y.bcols) / y.bcols, n % y.bcols)

/-- The block number q of an element. -/
def CopyRec.block (y : CopyRec) (n : Nat) : Nat :=
  let (a, b, c, _, _) := y.at_ n
  a + y.n0 * (b + y.n1 * c)

/-- The memory offset of element n; `idx` is the index entry of its block in a gather or scatter. -/
def CopyRec.memOff (y : CopyRec) (idx : Option Int) (n : Nat) : Int :=
  let (a, b, c, r, k) := y.at_ n
  (match idx with
    | some i => i * y.gst0
    | none => a * y.gst0 + b * y.gst1 + c * y.gst2) + r * y.grow + k * y.esize

/-- The scratchpad offset of element n from the base, before SWZ. -/
def CopyRec.padOff (y : CopyRec) (n : Nat) : Nat :=
  let (a, b, c, r, k) := y.at_ n
  a * y.lst0 + b * y.lst1 + c * y.lst2 + if y.inner then k * y.lrow + r * y.esize else r * y.lrow + k * y.esize

/-- The greatest scratchpad offset of an element. -/
def CopyRec.padMax (y : CopyRec) : Nat :=
  (y.n0 - 1) * y.lst0 + (y.n1 - 1) * y.lst1 + (y.n2 - 1) * y.lst2 +
    if y.inner then (y.bcols - 1) * y.lrow + (y.brows - 1) * y.esize
    else (y.brows - 1) * y.lrow + (y.bcols - 1) * y.esize

/-- The least and greatest memory offsets of a block's elements, and of all blocks of a strided copy. -/
def CopyRec.rowSpan (y : CopyRec) : Int × Int :=
  let e := ((y.brows - 1 : Nat) : Int) * y.grow
  (min 0 e, max 0 e + ((y.bcols - 1 : Nat) : Int) * y.esize)
def CopyRec.memSpan (y : CopyRec) : Int × Int :=
  let t := fun (n : Nat) (g : Int) => ((n - 1 : Nat) : Int) * g
  let l := [t y.n0 y.gst0, t y.n1 y.gst1, t y.n2 y.gst2]
  (l.foldl (fun a x => a + min 0 x) y.rowSpan.1, l.foldl (fun a x => a + max 0 x) y.rowSpan.2)

/-! ## Checks at issue (R233) -/

/-- The memory paths of a copy. -/
def copyPath (load : Bool) (p : Nat) : Bool := if load then p == 0 || p == 1 || p == 5 || p == 6 else p == 0 || p == 6

/-- Whether an address may be an element's on the memory side. -/
def memOk (load : Bool) (world a : Nat) : Bool :=
  copyPath load (pathOf a) && bitsAt a 56 4 == 0 && !(world == 60 && pathOf a != 0)

/-- Whether every element of a strided copy lies on the base's path. -/
def CopyRec.memFits (y : CopyRec) (load : Bool) (world base : Nat) : Bool :=
  let (lo, hi) := y.memSpan
  memOk load world base && pathOf base * 2 ^ 60 ≤ base + lo &&
    base + hi + y.esize ≤ (pathOf base * 2 ^ 60 + 2 ^ 56 : Nat)

/-- Whether a step of a dimension of n keeps an alignment. -/
def stepOk (e : Nat) (n : Nat) (g : Int) : Bool := n ≤ 1 || g % e == 0

/-- The team and offset of a copy's scratchpad side. -/
def State.padBase (s : State) (core team base : Nat) : Option (Team × Nat) :=
  if pathOf base = 2 ∨ pathOf base = 3 then (s.scratchTeam core team base).map fun t => (t, base % 2 ^ 20) else none

/-- The address of the first element, in the order of R231, that a check refuses; of the first where none is. -/
def firstRefused (addr : Nat → Nat) (bad : Nat → Bool) : Nat → Nat → Nat
  | 0, _ => addr 0
  | k + 1, n => if bad (addr n) then addr n else firstRefused addr bad k (n + 1)

/-- Steps 4 and 5 of R233: ADDR_PATH, then ADDR_ALIGN, each with the address of its first element. -/
def State.copyCond (s : State) (core team world : Nat) (y : CopyRec) (load indexed stream : Bool) (chk : Nat)
    (mem pad : Nat) : Option Cond :=
  let size := ((s.team team).map (·.kernel.scratch)).getD 0
  let e := y.esize
  let memAt := fun (n : Nat) => if indexed then mem else (((mem : Int) + y.memOff none n) % 2 ^ 64).toNat
  let padAt := fun (n : Nat) => (pad + y.padOff n) % 2 ^ 64
  let path := fun (at_ : Nat → Nat) (bad : Nat → Bool) =>
    some ({ cause := addrPath, addr := firstRefused at_ bad y.total 0 } : Cond)
  let skew := fun (at_ : Nat → Nat) =>
    some ({ cause := addrAlign, addr := firstRefused at_ (fun a => a % e != 0) y.total 0 } : Cond)
  firstCond [
    if !(if indexed then memOk load world mem else y.memFits load world mem) || (chk ≠ 0 && pathOf mem ≠ 0) ||
      (pathOf mem = 5 && y.elog ≠ 2)
      then path memAt fun a => !memOk load world a || pathOf a != pathOf mem else none,
    if stream then none
      else match s.padBase core team pad with
        | some (t, o) =>
          if t.kernel.scratch < o + y.padMax + e then path padAt fun a => t.kernel.scratch < a - (pad - o) + e else none
        | none => path padAt fun _ => true,
    if indexed && size < y.list + 4 * y.blocks then path (fun _ => 2 * 2 ^ 60 + y.list) fun _ => true else none,
    if !indexed && !(mem % e == 0 && stepOk e y.brows y.grow && stepOk e y.n0 y.gst0 && stepOk e y.n1 y.gst1 &&
      stepOk e y.n2 y.gst2) then skew memAt else none,
    if !stream && !(pad % e == 0 && stepOk e (if y.inner then y.bcols else y.brows) y.lrow && stepOk e y.n0 y.lst0 &&
      stepOk e y.n1 y.lst1 && stepOk e y.n2 y.lst2) then skew padAt else none]

/-- The bytes of a record in the own scratchpad of a group (R233 step 2): ADDR_PATH, ADDR_ALIGN, poison. -/
def State.ownRecord (s : State) (g : Group) (a n align : Nat) (paths : Nat → Bool) : Except Cond (Nat × List (Byte × Bool)) :=
  match (if paths (pathOf a) then s.scratchTeam g.core g.team a else none) with
  | some t =>
    if t.key ≠ g.team ∨ t.kernel.scratch < a % 2 ^ 20 + n then .error { cause := addrPath, addr := a }
    else if a % align ≠ 0 then .error { cause := addrAlign, addr := a }
    else .ok (a % 2 ^ 20, s.scratchBytes g.team (addrs (a % 2 ^ 20) n))
  | none => .error { cause := addrPath, addr := a }

/-- The first poisoned byte of a record. -/
def poisonedByte (a : Nat) (bs : List (Byte × Bool)) : Option Cond :=
  (findBy (fun e => e.1.2) bs.zipIdx).map fun e => poisonCond 3 e.2 a

/-- Whether the group's earlier accesses to bytes of its own scratchpad on a path have been performed. -/
def State.recordReady (s : State) (g : Group) (gang : Bool) (o n : Nat) : Bool :=
  s.blocksReady g [⟨64, 0, (addrs o n).map fun k => .scr gang g.team k, [], false⟩]

/-! ## Elements (R231, R236, R297) -/

/-- Entry q of the index list as it stands, without its sign: none where it is poisoned. -/
def State.indexWord (s : State) (team list q : Nat) : Option Nat :=
  let bs := s.scratchBytes team (addrs (list + 4 * q) 4)
  if bs.any Prod.snd then none else some (ofBytes (bs.map Prod.fst))

/-- The index entry of element n's block: the one read when the block began to move, else the list's (12 R297). -/
def State.indexEntry (s : State) (team : Nat) (c : Copy) (n : Nat) : Option Nat :=
  match c.entry with
  | some (q, v) => if q = c.layout.block n then some v else s.indexWord team c.layout.list (c.layout.block n)
  | none => s.indexWord team c.layout.list (c.layout.block n)

/-- A copy that has read the index entry of element n's block. -/
def State.readEntry (s : State) (team : Nat) (c : Copy) (n : Nat) : Copy :=
  if c.indexed then
    let e := (s.indexEntry team c n).map fun v => (c.layout.block n, v)
    { c with entry := e, lists := c.lists ++ if c.checkin && e != c.entry then e.toList else [] }
  else c

/-- The memory address of element n, or why it ends the copy. -/
def State.elementAddr (s : State) (o : Op) (c : Copy) (n : Nat) : Except Cond Nat :=
  let wrap := fun (x : Int) => (((c.mbase.toNat : Int) + x) % 2 ^ 64).toNat
  if c.indexed then
    match s.indexEntry o.team c n with
    | none => .error (poisonCond 0 n (c.layout.list + 4 * c.layout.block n))
    | some i =>
      let a := wrap (c.layout.memOff (some (toSigned 32 i)) n)
      if !memOk c.load o.world a || pathOf a ≠ pathOf c.mbase.toNat then
        .error { cause := addrPath, index := n, addr := a }
      else if a % c.layout.esize ≠ 0 then .error { cause := addrAlign, index := n, addr := a }
      else .ok a
  else .ok (wrap (c.layout.memOff none n))

/-- The scratchpad bytes of element n: their team, its path, and the physical offsets. -/
def State.elementPad (s : State) (o : Op) (c : Copy) (n : Nat) : Nat × Bool × List Nat :=
  match s.padBase o.core o.team c.sbase.toNat with
  | some (t, b) =>
    (t.key, pathOf c.sbase.toNat == 3,
      (addrs (b + c.layout.padOff n) c.layout.esize).map (permute c.layout.swz))
  | none => (0, false, [])

/-! ## Check-out (R234, 11 R290, R291) -/

/-- The memory addresses from the lowest to the highest byte of a copy, whose index entries `entry` gives: none where one is
poisoned. -/
def Copy.extent (c : Copy) (entry : Nat → Option Nat) : Option (Nat × Nat) :=
  let y := c.layout
  let base : Int := c.mbase.toNat
  if c.indexed then
    (List.range y.blocks).foldl (fun m q =>
      match entry q, m with
      | none, m => m
      | some i, m =>
        let i := toSigned 32 i
        let lo := (((base + i * y.gst0) + y.rowSpan.1) % 2 ^ 64).toNat
        let hi := (((base + i * y.gst0) + y.rowSpan.2) % 2 ^ 64).toNat + y.esize - 1
        match m with
        | none => some (lo, hi)
        | some (l, h) => some (min l lo, max h hi)) none
  else some ((base + y.memSpan.1).toNat, (base + y.memSpan.2).toNat + y.esize - 1)

/-- That of a copy whose index list is read as it stands. -/
def State.copyExtent (s : State) (o : Op) (c : Copy) : Option (Nat × Nat) := c.extent (s.indexWord o.team c.layout.list)

/-- The physical lines of an extent, page by page; a page that has no translation has none, nor has the host window. -/
def State.extentLines (s : State) (core world lo hi : Nat) : State × List (Nat × Nat) :=
  (List.range (hi / 65536 - lo / 65536 + 1)).foldl (fun r k =>
    let page := (lo / 65536 + k) * 65536
    let a := max lo page % 2 ^ 56
    let b := min hi (page + 65535) % 2 ^ 56
    match r.1.xlate core world a 0 false with
    | (s, .ok t) => (s, if hostWindow t.pa then r.2 else r.2 ++ [(t.pa / 128, (t.pa + (b - a)) / 128)])
    | (s, _) => (s, r.2)) (s, [])

/-- Whether lines conflict with the ranges held (R234). -/
def State.conflicts (s : State) (excl : Bool) (ls : List (Nat × Nat)) : Bool :=
  s.ranges.any fun r => (excl || r.excl) && ls.any fun l => r.lo ≤ l.2 && l.1 ≤ r.hi

/-- Whether some slice that homes one of the lines has a full range table (R234). -/
def State.rangesFull (s : State) (ls : List (Nat × Nat)) : Bool :=
  let slices := fun (l : Nat × Nat) => (List.range (l.2 + 1 - l.1)).map fun k => homeSlice (4 * (l.1 + k))
  (ls.flatMap slices).any fun x =>
    let held := distinct ((s.ranges.filter fun r => (slices (r.lo, r.hi)).contains x).map (·.op))
    held != [] && decide (Config.rangeEntries < held.length)

/-- The first element, in the order of R231, on a page of the extent that has no translation or lies in the host window. -/
def State.extentMiss (s : State) (o : Op) (c : Copy) (lo hi : Nat) : Option Nat :=
  let pages := ((List.range (hi / 65536 - lo / 65536 + 1)).map (lo / 65536 + ·)).filter fun k =>
    match (s.xlate o.core o.world (k * 65536 % 2 ^ 56) 0 false).2 with | .ok t => hostWindow t.pa | _ => true
  if pages = [] then none
  else findBy (fun n => match s.elementAddr o c n with | .ok a => pages.contains (a / 65536) | .error _ => false)
    (List.range c.layout.total)

/-- The source of a copy's records: 1 copy, 2 task. -/
def Copy.source (c : Copy) : Nat := if c.task.isSome then 2 else 1

/-- A condition as a copy records it: a task's names its indices and operand (12 R303, 20 R436). -/
def State.copyCause (s : State) (c : Copy) (e : Cond) : Cond :=
  match c.task.bind s.task with
  | some t => { e with aux := t.i + 2 ^ 20 * t.j + 2 ^ 40 * t.k + 2 ^ 60 * c.opnd }
  | none => e

/-- The record of a copy's condition. -/
def State.copyRecord (s : State) (o : Op) (c : Copy) (e : Cond) : Record :=
  s.engineRecord o.core o.gid o.team c.source 2 (s.copyCause c e)

/-- A check-out whose element n misses in translation: the fault is held, and once it is resolved the range is tried
again; where it is not, the copy moves the elements before n and ends there (R236). An element in the host window is
ADDR_PATH (18 R411), and the copy ends there too. DEDUCED, log entry 25. -/
def State.missRange (s : State) (o : Op) (c : Copy) (n : Nat) : State :=
  match s.elementAddr o c n with
  | .error _ => s
  | .ok a =>
    match s.reach o.core o.world true 0 c.layout.esize (.va (pathOf a) (a % 2 ^ 56)) with
    | (s, .ok ls) =>
      if (ls.flatMap fun l => l.bytes.map Prod.snd).any hostWindow then
        let r := s.copyRecord o c { cause := addrPath, index := n, addr := a }
        s.modOp o.id fun o => { o with kind := .copy { c with doomed := some r } }
      else s
    | (s, .fail 0 _ _) => s
    | (s, .fail k d x) =>
      let e : Cond := { cause := k, detail := d, index := n, addr := a, aux := x }
      match s.holdEngine o.core o.gid o.team o.world c.source (s.copyCause c e) with
      | (s, some r) => s.modOp o.id fun o => { o with kind := .copy { c with held := some r } }
      | (s, none) => s.modOp o.id fun o => { o with kind := .copy { c with doomed := some (s.copyRecord o c e) } }

/-- A copy's range registered if nothing conflicts and no table is full: the U atoms merged, the bytes of its one time
kept. DEDUCED, log entry 25. -/
def State.takeRange (s : State) (o : Op) (c : Copy) (lo hi : Nat) : State :=
  let (s, ls) := s.extentLines o.core o.world lo hi
  if s.conflicts (c.chk == 2) ls || s.rangesFull ls then s
  else
    let pas := (ls.flatMap fun l => addrs (l.1 * 128) ((l.2 + 1 - l.1) * 128)).filter fun p => !hostWindow p
    let grid := ((s.team o.team).map (·.grid)).getD 0
    match (s.engineMerge c.clock pas).cohRead o.core c.clock pas with
    | (s, _, some b, _) => s.integrity (b * 128)
    | (s, bs, none, t) =>
      let s := s.modOp o.id fun o =>
        { o with kind := .copy { c with range := some (lo, hi), snap := some (List.zip pas bs), clock := max c.clock t } }
      { s with ranges := s.ranges ++ ls.map fun l => (⟨l.1, l.2, c.chk == 2, o.team, o.id, grid⟩ : Range) }

/-- A check-out tries to register its range; a miss among its elements comes first (R234, R236). -/
def State.register (s : State) (o : Op) (c : Copy) : State :=
  if c.chk = 0 ∨ c.range.isSome ∨ c.held.isSome then s
  else
    match s.copyExtent o c with
    | none => s.modOp o.id fun o => { o with kind := .copy { c with range := some (0, 0) } }
    | some (lo, hi) =>
      match (if c.doomed.isSome then none else s.extentMiss o c lo hi) with
      | some n => s.missRange o c n
      | none => s.takeRange o c lo hi

/-- A copy that an operation stands for. -/
def Op.copy? (o : Op) : Option Copy :=
  match o.kind with
  | .copy c => some c
  | _ => none

/-- After a range is released: the error records and the copies that waited for it, in queue order. -/
def State.registerWaiting (s : State) : State :=
  let s := ((s.pldrs.map Prod.fst).foldl (fun s w => s.postWaiting w (s.polder w).waitrec.length) s).postPfWaiting
  s.ops.foldl (fun s o => match (s.op o.id).bind Op.copy? with
    | some c => s.register o c
    | none => s) s

/-- The entries of a queue of a core's SCE in use (12 R295). -/
def State.sceUsed (s : State) (core : Nat) (load : Bool) : Nat :=
  (s.ops.filter fun o => o.core == core && (o.copy?.map (·.load == load)).getD false).length

/-! ## Issue (R233, R235) -/

/-- A copy as it takes its entry. -/
def newCopy (load indexed : Bool) (y : CopyRec) (recAddr : Nat) (mem pad : DWord) (chk : Nat) (nowait : Bool)
    (stream : Option Nat) (checkin : Bool) (clock : Nat) (task : Option Nat) (opnd : Nat) : Copy :=
  { load := load, indexed := indexed, layout := y, recAddr := recAddr, mbase := mem, sbase := pad, chk := chk,
    nowait := nowait, stream := stream, checkin := checkin, started := false, next := 0, buffer := [], range := none,
    snap := none, clock := clock, moved := 0, task := task, opnd := opnd, held := none, entry := none, doomed := none }

/-- The queue object of a stream: RECORD for a wide number, QUEUE_BIND where it cannot be bound. -/
def State.streamObj (s : State) (gang : Nat) (v : DWord) (recAddr : Nat) : Except Cond Nat :=
  if v.toNat / 16 ≠ 0 then .error { cause := recordCause, addr := recAddr }
  else match s.queue gang v.toNat with
    | none => .error { cause := queueBind, index := v.toNat }
    | some q => if q.live || !q.vector then .error { cause := queueBind, index := v.toNat } else .ok v.toNat

/-- A copy instruction at issue: the checks of R233 in order, then its entry. The stream form's own checks (R235) stand
after the record's: DESIGN CHOICE, log entry 56. -/
def copyIssue (s : State) (load indexed : Bool) (chk : Nat) (nowait stream checkin : Bool) (c b a : BitVec 5)
    (f : BitVec 1) : Outcome :=
  onGroup s fun g i =>
    let flag := i.flag f
    let sregs := [a.toNat, b.toNat, c.toNat]
    let mem := (g.sreg a.toNat).val
    let pad := (g.sreg b.toNat).val
    let rec_ := (g.sreg c.toNat).val.toNat
    let size := ((s.team g.team).map (·.kernel.scratch)).getD 0
    if s.hazard g [] [] sregs then .wait s
    else match sPoison g 0 sregs with
      | some e => .trap s e
      | none =>
        match s.ownRecord g rec_ 64 64 (fun p => p == 2 || p == 3) with
        | .error e => .trap s e
        | .ok (o, bs) =>
          if !s.recordReady g (pathOf rec_ == 3) o 64 then .wait s
          else
            let bytes := bs.map Prod.fst
            let y := copyRec bytes
            let bad := (recordBad bytes indexed size).map fun n => ({ cause := recordCause, index := n, addr := rec_ } : Cond)
            match firstCond [poisonedByte rec_ bs, bad] with
            | some e => .trap s e
            | none =>
              match (if stream then (s.streamObj (s.gangOf g) pad rec_).map some else .ok none) with
              | .error e => .trap s e
              | .ok obj =>
                match s.copyCond g.core g.team g.world y load indexed stream chk mem.toNat pad.toNat with
                | some e => .trap s e
                | none =>
                  let k := newCopy load indexed y rec_ mem pad chk nowait obj checkin g.lclock none 0
                  let op : Op := ⟨s.ids, g.gid, g.core, g.world, g.team, flag, .copy k, false, 0⟩
                  let (s, clash) := if nowait && chk ≠ 0 then
                      match s.copyExtent op k with
                      | some (lo, hi) =>
                        let (s, ls) := s.extentLines g.core g.world lo hi
                        (s, if s.conflicts (chk == 2) ls then some lo else none)
                      | none => (s, none)
                    else (s, none)
                  match clash with
                  | some lo => .trap s { cause := checkoutConflict, addr := lo }
                  | none =>
                    if 16 ≤ s.sceUsed g.core load || !g.flagFree flag then .wait s
                    else
                      let s := s.issueOp g flag (.copy k) false
                      let s := match obj with
                        | some n => s.modQueue (s.gangOf g) n fun q => { q with producer := .stream op.id }
                        | none => s
                      .done (s.register op k)

/-- CPY.LD. -/
def execCpyLd (r w : BitVec 1) (k : BitVec 2) (c b a : BitVec 5) (f : BitVec 1) (s : State) : Outcome :=
  copyIssue s true false k.toNat (w == 1#1) (r == 1#1) false c b a f
/-- CPY.GATH. -/
def execCpyGath (r w : BitVec 1) (k : BitVec 2) (c b a : BitVec 5) (f : BitVec 1) (s : State) : Outcome :=
  copyIssue s true true k.toNat (w == 1#1) (r == 1#1) false c b a f
/-- CPY.ST. -/
def execCpySt (k : BitVec 2) (c b a : BitVec 5) (f : BitVec 1) (s : State) : Outcome :=
  copyIssue s false false 0 false false (k == 3#2) c b a f
/-- CPY.SCAT. -/
def execCpyScat (k : BitVec 2) (c b a : BitVec 5) (f : BitVec 1) (s : State) : Outcome :=
  copyIssue s false true 0 false false (k == 3#2) c b a f

/-! ## The engine -/

/-- A copy's state changed. -/
def State.modCopy (s : State) (id : Nat) (f : Copy → Copy) : State :=
  s.modOp id fun o => { o with kind := match o.kind with | .copy c => .copy (f c) | k => k }

/-- COPY_START: the copies of a queue start in the order of its entries, one with a check-out once it is registered
(12 R296). -/
def execCopyStart (op : Nat) (s : State) : Outcome :=
  .next (match s.op op with
    | some o =>
      match o.copy? with
      | some c =>
        let before := s.ops.any fun e => e.id < op && e.core == o.core &&
          (e.copy?.map fun d => d.load == c.load && !d.started).getD false
        if c.started || before || !s.active o.world then s
        else
          let s := s.register o c
          s.modCopy op fun c => if c.chk = 0 ∨ c.range.isSome then { c with started := true } else c
      | none => s
    | none => s)

/-- An unresolved fault ends the copy: elements moved stay, no raise is made, the flag falls, a stream's binding ends as
a fault, a task fails (R236, 12 R297, R303). The elements of a stream that stand in an entry not yet full are dropped with it:
DESIGN CHOICE, log entry 62. -/
def State.copyFails (s : State) (o : Op) (c : Copy) (r : Record) : State :=
  let (s, q) := s.reportFault o.gid o.team o.world r
  let gang := ((s.team o.team).map (·.gang)).getD 0
  let s := match c.stream with
    | some n => s.modQueue gang n fun u => { u with producer := .faulted q }
    | none => s
  let s := match c.task with
    | some t => s.modTask t fun k => { k with failed := true }
    | none => s
  s.completeOp { o with time := c.clock }

/-- A fault of an element: held where it may be, else unresolved. -/
def State.copyFault (s : State) (o : Op) (c : Copy) (e : Cond) : State :=
  match s.holdEngine o.core o.gid o.team o.world c.source (s.copyCause c e) with
  | (s, some r) => s.modCopy o.id fun c => { c with held := some r }
  | (s, none) => s.copyFails o c (s.copyRecord o c e)

/-- Whether an element's bytes lie in a range under an X check-out that the copy must wait for (07 R175, 11 R291). -/
def State.barred (s : State) (o : Op) (c : Copy) (pas : List Nat) : Bool :=
  s.ranges.any fun r => r.excl && r.op != o.id && !(c.checkin && r.team == o.team) &&
    pas.any fun p => r.lo ≤ p / 128 && p / 128 ≤ r.hi

/-- The values of an element read: from the snapshot of a check-out, else at the copy's clock. -/
def State.readElement (s : State) (o : Op) (c : Copy) (locs : List Loc) : State × List (Byte × Bool) × Option Nat × Nat :=
  let acc : LaneAcc := ⟨64, 0, locs, [], false⟩
  let kept := c.snap.bind fun m => (locs.mapM fun l => match l with
    | .mem p => (findBy (fun e => e.1 == p) m).map Prod.snd
    | _ => none)
  match kept with
  | some bs => (s, bs, none, c.clock)
  | none =>
    match (s.engineMerge c.clock (devBytes [acc])).readGroup o.core c.clock [acc] with
    | (s, rs, bad, t) => (s, rs.flatMap fun a => a.bytes.map fun b => (b, a.poison), bad, t)

/-- The number of elements that the next write takes: those of a whole line in order, as one burst, else one
(11 R292). -/
def State.burst (s : State) (o : Op) (c : Copy) (a : Nat) : Nat :=
  let k := 128 / c.layout.esize
  if a % 128 = 0 ∧ c.next + k ≤ c.layout.total ∧
      (List.range k).all fun j => match s.elementAddr o c (c.next + j) with
        | .ok b => b == a + j * c.layout.esize
        | .error _ => false
  then k else 1

/-- The next element moved to scratchpad or into the stream's entry. -/
def State.moveIn (s : State) (o : Op) (c : Copy) (locs : List Loc) : State :=
  match s.readElement o c locs with
  | (s, _, some b, _) => s.integrity (b * 128)
  | (s, bs, none, t) =>
    let step := fun (c : Copy) => { c with next := c.next + 1, moved := c.moved + 1, clock := max c.clock t }
    let s := s.meter o.world 19 c.layout.esize
    match c.stream with
    | some _ => s.modCopy o.id fun c => { step c with buffer := c.buffer ++ bs }
    | none =>
      let (team, _, os) := s.elementPad o c c.next
      (s.scratchStore team (List.zip os (bs.map Prod.fst)) (bs.any Prod.snd)).modCopy o.id step

/-- The next elements moved to memory; the copy's clock takes in what it writes on path 0x6 (11 R279, R280). -/
def State.moveOut (s : State) (o : Op) (c : Copy) (path pa n : Nat) : State :=
  let e := c.layout.esize
  let accs : List LaneAcc := (List.range n).map fun j =>
    let (team, _, os) := s.elementPad o c (c.next + j)
    let bs := s.scratchBytes team os
    ⟨64, 0, (addrs (pa + j * e) e).map (fun p => if path = 0 then .mem p else .vert p), bs.map Prod.fst, bs.any Prod.snd⟩
  let c' := (List.range n).foldl (fun d j => s.readEntry o.team d (c.next + j)) c
  match (s.engineMerge c.clock (devBytes accs)).writeAccs o.core o.team c.clock accs with
  | (s, some b, _) => s.integrity (b * 128)
  | (s, none, t) => (s.meter o.world 19 (n * e)).modCopy o.id fun c =>
      { c with next := c.next + n, moved := c.moved + n, clock := max (max c.clock t) (s.rawTime accs), entry := c'.entry,
               lists := c'.lists }

/-- COPY_ELEMENT_MOVE: the next element is translated and moved (R231, R236); the index entry of its block is read as
the block begins to move (12 R297). -/
def execCopyElementMove (op : Nat) (s : State) : Outcome :=
  .next (match s.op op with
    | some o =>
      match o.copy? with
      | some c =>
        if !c.started || c.held.isSome || c.layout.total ≤ c.next || 256 ≤ c.buffer.length || !s.active o.world then s
        else match c.doomed.filter fun r => r.index.toNat == c.next with
        | some r => s.copyFails o c r
        | none =>
        let c := s.readEntry o.team c c.next
        let s := s.modCopy op fun _ => c
        match s.elementAddr o c c.next with
          | .error e => s.copyFails o c (s.copyRecord o c e)
          | .ok a =>
            match s.reach o.core o.world true (if c.load then 0 else 1) c.layout.esize (.va (pathOf a) (a % 2 ^ 56)) with
            | (s, .fail 0 _ _) => s
            | (s, .fail k d x) => s.copyFault o c { cause := k, detail := d, index := c.next, addr := a, aux := x }
            | (s, .ok locs) =>
              let pas := locs.flatMap fun l => l.bytes.map Prod.snd
              if s.barred o c pas then s
              else if c.load then s.moveIn o c locs
              else s.moveOut o c (pathOf a) (pas.headD 0) (if hostWindow (pas.headD 0) then 1 else s.burst o c a)
      | none => s
    | none => s)

/-- A vector entry of 64 words from bytes, padded with zero; poison of any byte is the entry's (20 R433). -/
def streamEntry (bs : List (Byte × Bool)) (clock : Nat) : QEntry :=
  { words := (List.range 64).map fun l => BitVec.ofNat 32 (field (bs.map Prod.fst) (4 * l) 4),
    poison := bs.any Prod.snd, clock := clock }

/-- STREAM_ENTRY_PUSH: a full entry, or the last one, is pushed; a full queue holds the copy (R235). -/
def execStreamEntryPush (op : Nat) (s : State) : Outcome :=
  .next (match s.op op with
    | some o =>
      match o.copy? with
      | some c =>
        let gang := ((s.team o.team).map (·.gang)).getD 0
        match c.stream.bind (s.queue gang) with
        | some q =>
          let ready := c.buffer.length = 256 ∨ (c.layout.total ≤ c.next ∧ c.buffer ≠ [])
          if !decide ready || 64 ≤ q.entries.length || !s.active o.world then s
          else
            let last := c.layout.total ≤ c.next
            (s.modQueue gang q.obj fun q =>
              { q with entries := if q.drained then q.entries else q.entries ++ [streamEntry c.buffer c.clock],
                       producer := if last then .closed else q.producer }).modCopy op fun c => { c with buffer := [] }
        | none => s
      | none => s
    | none => s)

/-- The ranges of a team that overlap a copy's memory footprint checked in whole (R234): a check-out's lines are one range,
however many pages they lie on. The footprint of a scatter is that of the index entries it has used (12 R297). -/
def State.checkIn (s : State) (o : Op) (c : Copy) : State :=
  if c.checkin = false then s
  else match c.extent fun q => (findBy (fun e => e.1 == q) c.lists).map Prod.snd with
    | none => s
    | some (lo, hi) =>
      let (s, ls) := s.extentLines o.core o.world lo hi
      let met := s.ranges.filter fun r => r.team == o.team && ls.any fun l => r.lo ≤ l.2 && l.1 ≤ r.hi
      { s with ranges := s.ranges.filter fun r => !(r.team == o.team && met.any fun m => m.op == r.op) }.registerWaiting

/-- A task's clock raised to its copy's. -/
def State.noteTask (s : State) (c : Copy) (t : Nat) : State :=
  match c.task with
  | some k => s.modTask k fun k => { k with clock := max k.clock t }
  | none => s

/-- The completion steps of a copy whose elements are performed (R233): check-in, BRUN, the counter, the flag. -/
def State.finishCopy (s : State) (o : Op) (c : Copy) : State :=
  let s := s.checkIn o c
  let s := match c.layout.sync with
    | some n => s.raiseSync o.team n (c.layout.total * c.layout.esize) c.clock
    | none => s
  let end_ := fun (s : State) (t : Nat) => (s.noteTask c (max c.clock t)).completeOp { o with time := max c.clock t }
  if c.layout.ctr = 0#64 then end_ s 0
  else
    let s := s.modCopy o.id fun c => { c with checkin := false, layout := { c.layout with sync := none } }
    match s.addCounter o.core o.world o.team c.clock c.layout.ctr.toNat c.layout.cinc.toNat with
    | .done s t => end_ s t
    | .wait s => s
    | .fail s e =>
      match s.holdEngine o.core o.gid o.team o.world c.source e with
      | (s, some r) => s.modCopy o.id fun c => { c with held := some r }
      | (s, none) => end_ (s.engineFault o.core o.gid o.team o.world c.source e).1 0

/-- COPY_COMPLETION. -/
def execCopyCompletion (op : Nat) (s : State) : Outcome :=
  .next (match s.op op with
    | some o =>
      match o.copy? with
      | some c =>
        if c.started && c.layout.total ≤ c.next && c.buffer == [] && c.held.isNone && s.active o.world then s.finishCopy o c
        else s
      | none => s
    | none => s)

/-- The response to a copy's held fault (20 R438): it walks again, or is unresolved. -/
def State.answerCopy (s : State) (o : Op) (c : Copy) (r : Record) (retry : Bool) : State :=
  if retry then s.modCopy o.id fun c => { c with held := none }
  else if c.layout.total ≤ c.next then
    (s.reportFault o.gid o.team o.world r.aborted).1.completeOp { o with time := c.clock }
  else if c.chk ≠ 0 ∧ c.range = none then s.modCopy o.id fun c => { c with held := none, doomed := some r.aborted }
  else s.copyFails o c r.aborted

end Sys2Proof.Machine
end

