-- ==== Sys2Proof/Machine/Engine.lean ====
section
/-!
DEFINITION. Sys2Proof/Machine/Engine.lean: the bank vector units (09 R238 to R240), tile tasks and the tile walker (08
R215, 09 R237, 10 R269, R270, 12 R299 to R304), and the start of a group (01 R13 to R15, R23 to R25, 04 R94).
-/
namespace Sys2Proof.Machine

/-! ## Bank commands -/

/-- The offset of a bank command's operand: a path 0x2 address, or one on path 0x3 naming the issuing core. -/
def State.bankOffset (s : State) (g : Group) (a : Nat) : Option (Nat × Nat) :=
  if pathOf a = 2 ∨ pathOf a = 3 then
    (s.scratchTeam g.core g.team a).bind fun t =>
      if t.key = g.team then some (a % 2 ^ 20, t.kernel.scratch) else none
  else none

/-- ADDR_PATH for words that an operand covers outside the allocation. -/
def State.bankPath (s : State) (g : Group) (a bytes : Nat) : Option Cond :=
  match s.bankOffset g a with
  | some (o, size) => if size < o + bytes then some { cause := addrPath, addr := a } else none
  | none => some { cause := addrPath, addr := a }

/-- A bank command at issue (R238): operation 0 ADD, 1 SCALE, 2 MAX, 3 EXPSUM, 4 FILL. -/
def bankIssue (s : State) (op : Nat) (y : BitVec 1) (t : BitVec 2) (c b a : BitVec 5) (f : BitVec 1) : Outcome :=
  onGroup s fun g i =>
    let flag := i.flag f
    let dst := (g.sreg a.toNat).val.toNat
    let src := (g.sreg b.toNat).val
    let ctl := (g.sreg c.toNat).val.toNat
    let n := ctl % 2 ^ 19
    let so := ctl / 2 ^ 32 % 2 ^ 20
    let size := ((s.team g.team).map (·.kernel.scratch)).getD 0
    let sync := y == 1#1
    let value := op = 1 ∨ op = 4
    let skew := fun (x : Nat) => some ({ cause := addrAlign, addr := x } : Cond)
    if s.hazard g [] [] [a.toNat, b.toNat, c.toNat] then .wait s
    else Res.unless s (firstCond [walkCond g (op == 1 || op == 3 || (op == 0 && t == 0#2)),
        sPoison g 0 [a.toNat], sPoison g (if value then 1 else 0) [b.toNat], sPoison g 2 [c.toNat],
        s.bankPath g dst (if op = 3 then 16 else 4 * n), if value then none else s.bankPath g src.toNat (4 * n),
        if sync && size < so + 16 then some { cause := addrPath, addr := 2 * 2 ^ 60 + so } else none,
        if dst % (if op = 3 then 16 else 4) ≠ 0 then skew dst else none,
        if !decide value && src.toNat % 4 ≠ 0 then skew src.toNat else none,
        if sync && so % 16 ≠ 0 then skew (2 * 2 ^ 60 + so) else none,
        if (op = 0 ∨ op = 2) ∧ (src.toNat + 2 ^ 64 - dst) % 128 ≠ 0 then skew src.toNat else none])
      (if !g.flagFree flag then .wait s
      else .done (s.issueOp g flag
        (.bank ⟨op, t.toNat, g.team, dst % 2 ^ 20, src, n, if sync then some so else none⟩) false))

/-- BK.ADD. -/
def execBkAdd (y : BitVec 1) (t : BitVec 2) (c b a : BitVec 5) (f : BitVec 1) (s : State) : Outcome :=
  bankIssue s 0 y t c b a f
/-- BK.SCALE. -/
def execBkScale (y : BitVec 1) (t : BitVec 2) (c b a : BitVec 5) (f : BitVec 1) (s : State) : Outcome :=
  bankIssue s 1 y t c b a f
/-- BK.MAX. -/
def execBkMax (y : BitVec 1) (t : BitVec 2) (c b a : BitVec 5) (f : BitVec 1) (s : State) : Outcome :=
  bankIssue s 2 y t c b a f
/-- BK.EXPSUM. -/
def execBkExpsum (y : BitVec 1) (t : BitVec 2) (c b a : BitVec 5) (f : BitVec 1) (s : State) : Outcome :=
  bankIssue s 3 y t c b a f
/-- BK.FILL. -/
def execBkFill (y : BitVec 1) (t : BitVec 2) (c b a : BitVec 5) (f : BitVec 1) (s : State) : Outcome :=
  bankIssue s 4 y t c b a f

/-- A scratchpad word with its poison. -/
def Team.word (t : Team) (o : Nat) : Nat × Bool :=
  (ofBytes ((addrs o 4).map fun k => (t.scratchByte k).1), mapGet false t.spoison (o / 4))

/-- A scratchpad word written whole. -/
def Team.setWord (t : Team) (o v : Nat) (poison : Bool) : Team :=
  t.scratchStore (List.zip (addrs o 4) (toBytes 4 v)) poison

/-- A word after ADD, SCALE, MAX or FILL (R239), with its poison. -/
def bankWord (op ty v : Nat) (d x : Nat × Bool) : Nat × Bool :=
  match op with
  | 0 => (if ty = 0 then add32 d.1 x.1 else (d.1 + x.1) % 2 ^ 32, d.2 || x.2)
  | 1 => (mul32 d.1 v, d.2)
  | 2 => (if ty = 0 then fext f32 true d.1 x.1
      else if toSigned 32 d.1 < toSigned 32 x.1 then x.1 else d.1, d.2 || x.2)
  | _ => (v, false)

/-- The state of BK.EXPSUM after its inputs: M, Λ, C (R240). -/
def expsum (m l : Nat) (xs : List Nat) : Nat × Nat × Nat :=
  let m' := xs.foldl (fext f32 true) m
  if m' = 0xFF800000 then (m, l, 0x3F800000)
  else
    let c := fex2 (fsub f32 false m m')
    (m', xs.foldl (fun acc x => add32 acc (fex2 (fsub f32 false x m'))) (mul32 l c), c)

/-- A team's scratchpad after a bank command: every source word is read before any is written. -/
def BankCmd.apply (k : BankCmd) (t : Team) : Team :=
  let src := k.src.toNat % 2 ^ 20
  if k.n = 0 then t
  else if k.op = 3 then
    let xs := (List.range k.n).map fun i => t.word (src + 4 * i)
    let st := (List.range 3).map fun i => t.word (k.dst + 4 * i)
    let p := (xs ++ st).any Prod.snd
    let (m, l, c) := expsum ((st.getD 0 (0, false)).1) ((st.getD 1 (0, false)).1) (xs.map Prod.fst)
    ((t.setWord k.dst m p).setWord (k.dst + 4) l p).setWord (k.dst + 8) c p
  else
    let out := (List.range k.n).map fun i =>
      (k.dst + 4 * i, bankWord k.op k.ty (k.src.toNat % 2 ^ 32) (t.word (k.dst + 4 * i)) (t.word (src + 4 * i)))
    out.foldl (fun t e => t.setWord e.1 e.2.1 e.2.2) t

/-- BANK_COMMAND_COMPLETION: the words change, BRUN rises by 4n, the flag falls (R238). All the words change at one point:
DESIGN CHOICE, log entry 56. -/
def execBankCommandCompletion (op : Nat) (s : State) : Outcome :=
  .next (match s.op op with
    | some o =>
      match o.kind with
      | .bank k =>
        if o.done || !s.mayPerform o then s
        else
          let clock := s.opClock o
          let s := s.modTeam k.team k.apply
          let s := match k.sync with
            | some n => s.raiseSync k.team n (4 * k.n) clock
            | none => s
          ((s.meter o.world 9 1).meter o.world 10 k.n).completeOp o
      | _ => s
    | none => s)

/-! ## The start of a group -/

/-- A thread of a group to start: lane, TID, payload of V0, seed of SRS. -/
abbrev Thread := Nat × Word × Option Reg × Word

/-- The seed of a launched or spawned thread (04 R94). -/
def threadSeed (tid : Word) (teamid : Nat) : Word := srHash (tid + BitVec.ofNat 32 (1024 * teamid))

/-- A group of a team started in a slot at an entry. -/
def State.addGroup (s : State) (t : Team) (slot : Nat) (kind : GroupKind) (entry : DWord) (ths : List Thread)
    (sregs : List (Nat × SReg)) (clock : Nat) : State :=
  let fid := s.ids + 1
  let k := s.grid t.grid
  let lanes := ths.map fun (l, tid, pay, seed) =>
    let regs := match pay with | some v => mapSet ⟨0#32, false⟩ [] 0 v | none => []
    (l, (⟨entry, tid, 0#7, seed, [⟨fid, regs⟩], none, 0⟩ : Lane))
  let gs := match k with | some k => startStatus k.prio k.ftz k.strict | none => 0#32
  let g : Group :=
    { gid := s.ids, core := t.core, slot := slot, world := t.world, team := t.key, grid := t.grid, kind := kind,
      lanes := lanes, sregs := sregs, cregs := 0#4, qregs := [], flags := [], jregs := [], lclock := clock, lcfrac := 0,
      gstat := gs, latch := none, frames := [⟨fid, t.kernel.frame, 0#64, none, false, fid, [], []⟩], issue := none,
      waiting := .no, request := none, held := none, heldTrap := none, asyncs := [], spush := none, popped := [],
      swapped := false, tlbinv := 0, cmaint := 0, restores := [], since := none, faults := [], lapsed := none,
      second := none, passed := none, atoms := [], launching := none }
  { s with groups := s.groups ++ [g], ids := s.ids + 2 }

/-- The S registers of a list of values, zeros left out. -/
def startRegs (l : List (Nat × SReg)) : List (Nat × SReg) :=
  l.foldl (fun m e => mapSet ⟨0#64, false⟩ m e.1 e.2) []

/-- Whether groups of a team may start: its polder runs and its cluster is not changing. -/
def State.mayStart (s : State) (t : Team) : Bool :=
  (t.world == 60 || ((s.polder t.world).state == .run && (s.polder t.world).stopping.isNone)) &&
  !(mapGet false s.changing (t.core / 4))

/-! ## Walk and task records (08 R215, 12 R299) -/

/-- The checks of a walk or task record; `one` asks every extent to be 1. -/
def walkBad (b : List Byte) (size : Nat) (one : Bool) : Option Nat :=
  let ext := fun (o : Nat) => (o, if one then field b o 4 != 1 else field b o 4 == 0 || 2 ^ 20 < field b o 4)
  badField ([ext 0, ext 4, ext 8, (12, field b 12 4 % 16 ≠ 0 || size < field b 12 4 + 16)] ++
    ((List.range 4).map fun p =>
      let v := field b (16 + 8 * p) 8
      (16 + 8 * p, v / 2 ^ 22 ≠ 0 || (v / 2 ^ 20 % 4 ≠ 0 && (v % 2 ^ 20 % 64 ≠ 0 || size < v % 2 ^ 20 + 128)))) ++
    [(56, field b 56 8 != 0)])

/-- The checks of an operand descriptor of a use. -/
def opndBad (b : List Byte) (use size : Nat) : Option Nat :=
  let m := field b 64 8
  let ok := fun (load : Bool) => copyPath load (pathOf m) && bitsAt m 56 4 == 0
  match recordBad b false size with
  | some o => some o
  | none => badField [(4, field b 4 4 ≠ 0), (8, field b 8 8 ≠ 0), (16, field b 16 4 ≠ 0),
      (64, (use % 2 = 1 && !ok true) || (2 ≤ use && !ok false)), (96, field b 96 4 / 2 ^ 20 ≠ 0),
      (100, field b 100 4 % 16 ≠ 0), (104, field b 104 2 = 0 || 64 < field b 104 2), (106, field b 106 22 ≠ 0)]

/-- Whether a layout may name an index list: nothing in the record says so beyond GST1 zero and an offset in GST2. -/
def mayIndex (b : List Byte) : Bool := field b 40 4 == 0 && 0 < field b 44 4 && field b 44 4 < 2 ^ 20

/-- An operand of its descriptor's bytes; `pick` decides where the layout may name an index list. -/
def opndOf (b : List Byte) (use : Nat) (pick : Bool) : Operand :=
  let i64 := fun (o : Nat) => toSigned 64 (field b o 8)
  { use := use, layout := copyRec b, indexed := mayIndex b && pick, mbase := BitVec.ofNat 64 (field b 64 8),
    stepI := i64 72, stepJ := i64 80, stepK := i64 88, lbase := field b 96 4, lstep := field b 100 4,
    nbuf := field b 104 2 }

/-- The operands that a record names, read and checked. Where a layout may name an index list, whether it does is the same
for equal bytes: a free value, log entry 26. -/
def State.readOpnds (s : State) (g : Group) (b : List Byte) (size : Nat) : List Nat → Except Cond (List Operand)
  | [] => .ok []
  | p :: l =>
    let v := field b (16 + 8 * p) 8
    let use := v / 2 ^ 20 % 4
    if use = 0 then s.readOpnds g b size l
    else
      let bs := s.scratchBytes g.team (addrs (v % 2 ^ 20) 128)
      let a := 2 * 2 ^ 60 + v % 2 ^ 20
      let bytes := bs.map Prod.fst
      match firstCond [poisonedByte a bs,
          (opndBad bytes use size).map fun n => ({ cause := recordCause, index := n, addr := a } : Cond)] with
      | some c => .error c
      | none => (s.readOpnds g b size l).map fun os => opndOf bytes use (Config.layoutIndexed bytes) :: os

/-- The offsets of the records that a walk or task reads beside its own. -/
def opndOffsets (b : List Byte) : List Nat :=
  (List.range 4).filterMap fun p =>
    let v := field b (16 + 8 * p) 8
    if v / 2 ^ 20 % 4 = 0 then none else some (v % 2 ^ 20)

/-- The checks that `WALK` and `TASKP` share (R215, R237), then the record's bytes and operands; a `WALK` waits before it
reads the record while the walker is `busy` with another walk of the team. -/
def withWalkRecord (s : State) (g : Group) (a b : BitVec 5) (one busy : Bool)
    (k : State → Nat → List Byte → List Operand → Res) : Res :=
  let rec_ := (g.sreg a.toNat).val.toNat
  let entry := (g.sreg b.toNat).val
  let size := ((s.team g.team).map (·.kernel.scratch)).getD 0
  match firstCond [sPoison g 0 [a.toNat], sPoison g 2 [b.toNat]] with
  | some c => .trap s c
  | none =>
    match s.ownRecord g rec_ 64 64 (· == 2) with
    | .error c => .trap s c
    | .ok (o, bs) =>
      let bytes := bs.map Prod.fst
      if !okTarget entry then .trap s { cause := addrPath, addr := entry.toNat }
      else if busy || !s.recordReady g false o 64 then .wait s
      else
        match firstCond [poisonedByte rec_ bs,
            (walkBad bytes size one).map fun n => ({ cause := recordCause, index := n, addr := rec_ } : Cond)] with
        | some c => .trap s c
        | none =>
          if (opndOffsets bytes).any fun o => !s.recordReady g false o 128 then .wait s
          else match s.readOpnds g bytes size (List.range 4) with
            | .error c => .trap s c
            | .ok os => k s rec_ bytes os

/-! ## TASKP and WALK -/

/-- The entries of a core's TDT in use (12 R301). -/
def State.tdtUsed (s : State) (core : Nat) : Nat :=
  (s.tasks.filter fun t => t.core == core && t.stage != .arriving && (t.walk.isNone || t.stage != .posted)).length

/-- TASKP (R237): the task is posted, and the operation counts until its arrival. DEDUCED, log entry 26. -/
def execTaskp (c b a : BitVec 5) (f : BitVec 1) (s : State) : Outcome :=
  onGroup s fun g i =>
    let flag := i.flag f
    let ix := g.sreg c.toNat
    if s.hazard g [] [] [a.toNat, b.toNat, c.toNat] then .wait s
    else withWalkRecord s g a b true false fun s rec_ bytes os =>
      if ix.val.toNat / 2 ^ 60 ≠ 0 then .trap s { cause := recordCause, addr := rec_ }
      else if 64 ≤ s.tdtUsed g.core || !g.flagFree flag then .wait s
      else
        let id := s.ids
        let s := s.newId
        let t : Task :=
          { id := id, core := g.core, team := g.team, gid := g.gid, walk := none, poison := ix.poison, op := some s.ids,
            recAddr := rec_, entry := (g.sreg b.toNat).val, arg := BitVec.ofNat 64 (field bytes 48 8),
            i := bitsAt ix.val.toNat 0 20, j := bitsAt ix.val.toNat 20 20, k := bitsAt ix.val.toNat 40 20,
            opnds := os, sync := field bytes 12 4, stage := .posted, buf := 0, age := 0, clock := g.lclock,
            body := none, failed := false, sent := 0 }
        .done ({ s with tasks := s.tasks ++ [t] }.issueOp g flag (.task id) false)

/-- WALK (R215): the record is posted to the tile walker once it holds no other walk of the team. -/
def execWalk (b a : BitVec 5) (s : State) : Outcome :=
  onWaiting s fun g _ =>
    if s.hazard g [] [] [a.toNat, b.toNat] then .wait s
    else Res.unless s (walkCond g true)
      (withWalkRecord s g a b false (s.walkOf g.team).isSome fun s rec_ bytes os =>
          let w : Walk :=
            { id := s.ids, core := g.core, clock := g.lclock, team := g.team, gid := g.gid, recAddr := rec_,
              e0 := field bytes 0 4, e1 := field bytes 4 4, e2 := field bytes 8 4, sync := field bytes 12 4,
              opnds := os, entry := (g.sreg b.toNat).val, arg := BitVec.ofNat 64 (field bytes 48 8), posted := [],
              failed := false }
          .done { s.newId with walks := s.walks ++ [w] })

/-- WALK_TASK_POST: a triple not yet posted becomes a task when a TDT entry is free (10 R269). -/
def execWalkTaskPost (core i j k : Nat) (s : State) : Outcome :=
  let n := i + 2 ^ 20 * j + 2 ^ 40 * k
  .next (match findBy (fun w => w.core == core && i < w.e0 && j < w.e1 && k < w.e2 && !w.posted.contains n) s.walks with
    | none => s
    | some w =>
      match s.team w.team with
      | none => s
      | some t =>
        if 64 ≤ s.tdtUsed core || !s.active t.world then s
        else
          let task : Task :=
            { id := s.ids, core := core, team := w.team, gid := w.gid, walk := some w.id, poison := false, op := none,
              recAddr := w.recAddr, entry := w.entry, arg := w.arg, i := i, j := j, k := k, opnds := w.opnds,
              sync := w.sync, stage := .posted, buf := 0, age := 0, clock := w.clock, body := none, failed := false,
              sent := 0 }
          { s.newId with tasks := s.tasks ++ [task],
                         walks := updBy (fun v => v.id == w.id) (fun v => { v with posted := n :: v.posted }) s.walks })

/-! ## Footprints and dependences (12 R302) -/

/-- The memory base of an operand for indices (12 R300). -/
def Operand.memBase (o : Operand) (i j k : Nat) : DWord :=
  BitVec.ofInt 64 (o.mbase.toNat + i * o.stepI + j * o.stepJ + k * o.stepK)

/-- The memory bytes from the lowest to the highest that an operand's copy touches; those of a gather or scatter are taken
from the index list as it stands when the dependence is checked: DESIGN CHOICE, log entry 62. -/
def State.opndMem (s : State) (team : Nat) (o : Operand) (i j k : Nat) : Option (Nat × Nat) :=
  let c := newCopy true o.indexed o.layout 0 (o.memBase i j k) 0#64 0 false none false 0 none 0
  s.copyExtent ⟨0, 0, 0, 0, team, none, .plain, false, 0⟩ c

/-- The scratchpad bytes of an operand's buffer. -/
def Operand.pads (o : Operand) (b : Nat) : List Nat :=
  (List.range o.layout.total).flatMap fun n =>
    (addrs (o.lbase + b * o.lstep + o.layout.padOff n) o.layout.esize).map (permute o.layout.swz)

/-- Whether operands of two tasks conflict; `bs` are the buffers that the other may hold. -/
def State.opndClash (s : State) (team : Nat) (x y : Operand) (xi yi : Nat × Nat × Nat) (xb : Nat) (bs : List Nat) : Bool :=
  let mem := match s.opndMem team x xi.1 xi.2.1 xi.2.2, s.opndMem team y yi.1 yi.2.1 yi.2.2 with
    | some (a, b), some (c, d) => a % 2 ^ 56 ≤ d % 2 ^ 56 && c % 2 ^ 56 ≤ b % 2 ^ 56
    | _, _ => false
  ((2 ≤ x.use || 2 ≤ y.use) && mem) || bs.any fun b => (x.pads xb).any (y.pads b).contains

/-- The buffers below the smallest NBUF of a list of operands; with no operand 65, which is no bound: DESIGN CHOICE, log
entry 62. -/
def bufferCount (os : List Operand) : Nat := os.foldl (fun m o => min m o.nbuf) 65

/-- Whether a task that holds its buffer depends on another's indices, operands and buffers. -/
def State.taskClash (s : State) (t : Task) (os : List Operand) (ix : Nat × Nat × Nat) (bs : List Nat) : Bool :=
  t.opnds.any fun x => os.any fun y => s.opndClash t.team x y (t.i, t.j, t.k) ix t.buf bs

/-- The buffers that a task holds, or, where it holds none yet, every one that it may come to hold: DESIGN CHOICE, log entry
62. -/
def Task.buffers (t : Task) : List Nat :=
  match t.stage with
  | .posted | .entered => List.range (bufferCount t.opnds)
  | _ => [t.buf]

/-- Whether every earlier task of the team that a task depends on has ended. -/
def State.taskFree (s : State) (t : Task) : Bool :=
  let before := t.walk.getD t.id
  (s.tasks.all fun u => u.team != t.team || before ≤ u.walk.getD u.id || u.stage == .arriving ||
    !s.taskClash t u.opnds (u.i, u.j, u.k) u.buffers) &&
  s.walks.all fun w => w.team != t.team || before ≤ w.id ||
    (List.range (w.e0 * w.e1 * w.e2)).all fun x =>
      let ix := (x % w.e0, x / w.e0 % w.e1, x / (w.e0 * w.e1))
      w.posted.contains (ix.1 + 2 ^ 20 * ix.2.1 + 2 ^ 40 * ix.2.2) ||
        !s.taskClash t w.opnds ix (List.range (bufferCount w.opnds))

/-! ## The stages of a task (12 R301) -/

/-- A task's world. -/
def State.taskWorld (s : State) (t : Task) : Nat := ((s.team t.team).map (·.world)).getD 63

/-- TASK_ENTER. -/
def execTaskEnter (task : Nat) (s : State) : Outcome :=
  .next (match s.task task with
    | some t =>
      let used := (s.tasks.filter fun u => u.core == t.core && u.stage != .posted && u.stage != .arriving).length
      if t.stage = .posted ∧ used < 64 ∧ s.active (s.taskWorld t) then
        s.modTask task fun t => { t with stage := .entered }
      else s
    | none => s)

/-- TASK_BUFFER: the lowest buffer that no unfinished task of the walk, or of the record address, holds. -/
def execTaskBuffer (task : Nat) (s : State) : Outcome :=
  .next (match s.task task with
    | some t =>
      let peers := s.tasks.filter fun u => u.team == t.team && u.walk == t.walk && u.recAddr == t.recAddr &&
        u.id != task && u.stage != .posted && u.stage != .entered && u.stage != .arriving
      match findBy (fun b => !peers.any fun u => u.buf == b) (List.range (bufferCount t.opnds)) with
      | some b =>
        if t.stage = .entered ∧ s.active (s.taskWorld t) then
          s.modTask task fun t => { t with stage := .buffered, buf := b }
        else s
      | none => s
    | none => s)

/-- Whether an operand is copied in a direction. -/
def Operand.copied (o : Operand) (load : Bool) : Bool := if load then o.use % 2 == 1 else 2 ≤ o.use

/-- The copies of a task's operands in one direction started, each as it takes an entry of its queue and is checked as
R233 checks it; a failure fails the task (12 R295, R300, R303). -/
def State.taskCopies (s : State) (t : Task) (load : Bool) : List (Operand × Nat) → State
  | [] => s
  | (o, p) :: l =>
    let past := fun (s : State) => s.modTask t.id fun u => { u with sent := p + 1 }
    if o.copied load = false then (past s).taskCopies t load l
    else if 16 ≤ s.sceUsed t.core load then s
    else
      let mem := o.memBase t.i t.j t.k
      let pad := BitVec.ofNat 64 (2 * 2 ^ 60 + o.lbase + t.buf * o.lstep)
      let w := s.taskWorld t
      let c := newCopy load o.indexed o.layout t.recAddr mem pad 0 false none false t.clock (some t.id) p
      match s.copyCond t.core t.team w o.layout load o.indexed false 0 mem.toNat pad.toNat with
      | some e => ((s.engineFault t.core t.gid t.team w 2 (s.copyCause c e)).1).modTask t.id fun t => { t with failed := true }
      | none =>
        (past { s.newId with ops := s.ops ++ [(⟨s.ids, t.gid, t.core, w, t.team, none, .copy c, false, 0⟩ : Op)] }).taskCopies
          t load l

/-- The number of copies a task starts in one direction. -/
def Task.copies (t : Task) (load : Bool) : Nat := (t.opnds.filter fun o => o.copied load).length

/-- Whether a task has copies of its direction left to start. -/
def Task.unsent (t : Task) : Bool := t.sent < t.opnds.length

/-- TASK_INPUTS: the stage begins, or the next copies find entries. -/
def execTaskInputs (task : Nat) (s : State) : Outcome :=
  .next (match s.task task with
    | some t =>
      if !s.active (s.taskWorld t) then s
      else if t.stage = .buffered ∧ s.taskFree t then
        (s.modTask task fun t => { t with stage := .inputs, sent := 0 }).taskCopies t true t.opnds.zipIdx
      else if t.stage = .inputs ∧ !t.failed then s.taskCopies t true (t.opnds.zipIdx.drop t.sent)
      else s
    | none => s)

/-- Whether copies of a task are outstanding. -/
def State.taskBusy (s : State) (task : Nat) : Bool :=
  s.ops.any fun o => (o.copy?.map fun c => c.task == some task).getD false

/-- TASK_READY. -/
def execTaskReady (task : Nat) (s : State) : Outcome :=
  .next (match s.task task with
    | some t =>
      if t.stage = .inputs ∧ !t.unsent ∧ !s.taskBusy task ∧ !t.failed ∧ s.active (s.taskWorld t) then
        s.modTask task fun t => { t with stage := .ready, age := s.clock }
      else s
    | none => s)

/-- TASK_RUN: the body's group starts once its slot and entry frame are obtained (10 R263, R270). -/
def execTaskRun (task : Nat) (s : State) : Outcome :=
  .next (match s.task task with
    | some t =>
      match s.team t.team with
      | some tm =>
        match s.freeSlot t.core with
        | some slot =>
          if t.stage = .ready ∧ s.mayStart tm ∧
              s.canServe (s.poolOf tm.core tm.grid) t.age 256 (granules tm.kernel.frame) then
            let (s, tids) := s.newTids (s.heldTids tm.key) 64
            let n := t.i + 2 ^ 20 * t.j + 2 ^ 40 * t.k
            let ths : List Thread := tids.zipIdx.map fun (tid, l) => (l, tid, none, srHash (BitVec.ofNat 32 (64 * n + l)))
            let ix := fun (v : Nat) => (⟨BitVec.ofNat 64 v, t.poison⟩ : SReg)
            let regs := startRegs [(1, ⟨tm.args, false⟩), (2, ⟨t.arg, false⟩), (3, ix t.i), (4, ix t.j), (5, ix t.k),
              (6, ⟨BitVec.ofNat 64 t.buf, false⟩)]
            let clock := max t.clock (((s.grid tm.grid).map (·.launcher)).getD 0)
            let gid := s.ids
            (s.addGroup tm slot (.task task t.walk.isSome t.i t.j t.k) t.entry ths regs clock).modTask task fun t =>
              { t with stage := .running, body := some gid }
          else s
        | none => s
      | none => s
    | none => s)

/-! ## The end of a task (12 R303, R304) -/

/-- An engine's arrival at a sync word: none while the word refuses it; a poisoned word stays as it is. -/
def State.engineArrive (s : State) (team o clock : Nat) : Option State :=
  let (y, bad) := s.syncWord team o
  if bad then some s
  else if y.refuses then none
  else some ((s.setSync team o (y.arrive 1)).raisePhase team o clock)

/-- A walk whose tasks have all ended makes its arrival and is done; a failed walk makes none (10 R269, 12 R303). -/
def State.finishWalk (s : State) (id : Nat) : State :=
  match findBy (fun w => w.id == id) s.walks with
  | none => s
  | some w =>
    if w.posted.length < w.e0 * w.e1 * w.e2 || (s.tasks.any fun t => t.walk == some id) then s
    else
      let end_ := fun (s : State) => { s with walks := dropBy (fun v => v.id == id) s.walks }.reap w.team
      if w.failed then end_ s
      else match s.engineArrive w.team w.sync w.clock with
        | some s => end_ s
        | none => s

/-- A task removed, and its operation completed. -/
def State.removeTask (s : State) (t : Task) : State :=
  let s := { s with tasks := dropBy (fun u => u.id == t.id) s.tasks }
  let s := match t.op.bind s.op with
    | some o => s.completeOp { o with time := t.clock }
    | none => s
  s.reap t.team

/-- A `TASKP` task's arrival, held while the word refuses it. -/
def State.taskArrive (s : State) (t : Task) : State :=
  match s.engineArrive t.team t.sync t.clock with
  | some s => s.removeTask t
  | none => s.modTask t.id fun t => { t with stage := .arriving }

/-- A task ended: of a walk, the walk may be done; of a `TASKP`, its arrival follows unless it failed. -/
def State.finishTask (s : State) (t : Task) : State :=
  match t.walk with
  | some w =>
    let s := s.removeTask t
    let s := { s with walks := updBy (fun v => v.id == w) (fun v =>
      { v with failed := v.failed || t.failed, clock := max v.clock t.clock }) s.walks }
    s.finishWalk w
  | none => if t.failed then s.removeTask t else s.taskArrive t

/-- TASK_END: the output copies start once the body's writes are performed, and the task ends once they have completed;
a failed task ends at once. -/
def execTaskEnd (task : Nat) (s : State) : Outcome :=
  .next (match s.task task with
    | some t =>
      if !s.active (s.taskWorld t) then s
      else if t.failed ∧ t.stage ≠ .running ∧ t.stage ≠ .arriving then s.finishTask t
      else if t.stage = .outputs then
        let quiet := s.ops.all fun o => some o.gid != t.body || o.done
        if quiet then (s.modTask task fun t => { t with stage := .draining, sent := 0 }).taskCopies t false t.opnds.zipIdx
        else s
      else if t.stage = .draining ∧ t.unsent then s.taskCopies t false (t.opnds.zipIdx.drop t.sent)
      else if t.stage = .draining ∧ !s.taskBusy task then s.finishTask t
      else s
    | none => s)

/-- ENGINE_ARRIVAL: an arrival that a sync word refused is tried again; the number is a task's or a walk's (12 R304). -/
def execEngineArrival (task : Nat) (s : State) : Outcome :=
  .next (match s.task task with
    | some t => if t.stage = .arriving ∧ s.active (s.taskWorld t) then s.taskArrive t else s
    | none => s.finishWalk task)

end Sys2Proof.Machine
end

