-- ==== Sys2Proof/Machine/Bank.lean ====
section
/-!
DEFINITION. Sys2Proof/Machine/Bank.lean: bank calls (09 R241 to R245, 13 R311 to R330): `MEMCALL`, the blocks at the row
sequencers, the built-in commands, the start and end of a KERNEL, and the replies.
-/
namespace Sys2Proof.Machine

/-! ## Spans of bytes -/

/-- The pieces of n bytes from an address that lie in one 64 KiB page each. -/
def pageSpans (a n : Nat) : List (Nat × Nat) :=
  if n = 0 then [] else
  (List.range ((a + n - 1) / 65536 - a / 65536 + 1)).map fun k =>
    let lo := max a ((a / 65536 + k) * 65536)
    (lo, min (a + n) ((a / 65536 + k + 1) * 65536) - lo)

/-- The physical addresses of pieces on path 0x0, or the fault with its address: DETAIL, stage, address; DETAIL 0 is a
walk that waits, stage 0 an address that world 60 may not name (05 R120). -/
def State.xlateSpans (s : State) (agent w need : Nat) :
    List (Nat × Nat) → State × Except (Nat × Nat × Nat) (List Nat)
  | [] => (s, .ok [])
  | (a, n) :: l =>
    match s.xlate agent w (a % 2 ^ 56) need false with
    | (s, .ok t) =>
      match s.xlateSpans agent w need l with
      | (s, .ok ps) => (s, .ok (addrs t.pa n ++ ps))
      | (s, .error e) => (s, .error e)
    | (s, .held) => (s, .error (0, 0, a))
    | (s, .fault d st _) => (s, .error (d, st, a))
    | (s, _) => (s, .error (1, 0, a))

/-- How the read of bytes on path 0x0 as a coherent load ends; `path` is an address in the host window (18 R411). -/
inductive Grab where
  | ok (s : State) (bs : List (Byte × Bool)) (time : Nat)
  | fault (s : State) (detail stage addr : Nat)
  | path (s : State)
  | wait (s : State)
deriving DecidableEq, Repr

/-- n bytes at a path 0x0 address read by a core as a coherent load at a clock, once the read is `ready`. -/
def State.grabWhen (s : State) (ready : Bool) (core w clock a n : Nat) : Grab :=
  match s.xlateSpans core w 0 (pageSpans a n) with
  | (s, .error (0, _, _)) => .wait s
  | (s, .error (_, 0, _)) => .path s
  | (s, .error (d, st, x)) => .fault s d st x
  | (s, .ok pas) =>
    if pas.any hostWindow then .path s
    else if s.held pas none || !ready then .wait s
    else match s.readGroup core clock [⟨64, 0, pas.map Loc.mem, [], false⟩] with
      | (s, _, some b, _) => .wait (s.integrity (b * 128))
      | (s, rs, none, t) => .ok s (rs.flatMap fun a => a.bytes.map fun b => (b, a.poison)) (max clock t)

/-- Bytes read whatever is outstanding. -/
def State.grab (s : State) (core w clock a n : Nat) : Grab := s.grabWhen true core w clock a n

/-- Whether a group's earlier accesses to device memory on path 0x0 have been performed: they take times in program order
(07 R173, 11 R275). -/
def State.nearReady (s : State) (gid : Nat) : Bool :=
  s.performed gid fun o => o.touches.1.any fun t => t.1 == 0 && !atHost t

/-! ## Blocks (R242, R244) -/

/-- A command of its 32 bytes. -/
def cmdOf (b : List Byte) : Cmd :=
  { op := field b 0 1, fmt := field b 1 1, zero := field b 2 2 == 0 && field b 28 4 == 0, len := field b 4 4,
    xa := BitVec.ofNat 64 (field b 8 8), ya := BitVec.ofNat 64 (field b 16 8), scal := BitVec.ofNat 32 (field b 24 4) }

/-- Whether a block's header is well formed (R242). -/
def headerOk (b : List Byte) : Bool :=
  1 ≤ field b 0 1 && field b 0 1 ≤ 16 && field b 1 1 / 2 == 0 && field b 2 30 == 0

/-- The commands of a well-formed block. -/
def cmdsOf (b : List Byte) : List Cmd :=
  (List.range (field b 0 1)).map fun k => cmdOf ((b.drop (32 + 32 * k)).take 32)

/-- The block at an address read at one logical time: n commands are read, and again where COUNT says otherwise.
DEDUCED, log entry 29. -/
def State.grabBlock (s : State) (ready : Bool) (core w a : Nat) : Nat → Nat → Nat → Grab
  | 0, clock, n => s.grabWhen ready core w clock a (32 + 32 * n)
  | k + 1, clock, n =>
    match s.grabWhen ready core w clock a (32 + 32 * n) with
    | .ok s bs t =>
      let c := field (bs.map Prod.fst) 0 1
      if bs.any Prod.snd || !headerOk (bs.map Prod.fst) || c == n then .ok s bs t else s.grabBlock ready core w a k t c
    | r => r

/-- The element width in bytes of a command's format. -/
def Cmd.esize (c : Cmd) : Nat := if c.fmt = 1 then 4 else 2
/-- LEN. -/
def Cmd.n (c : Cmd) : Nat := c.len % 2 ^ 20

/-- Whether LEN, FMT and SCAL are what the command accepts, and its reserved fields zero (R242, R243, R315 to R317). -/
def Cmd.fieldsOk (c : Cmd) : Bool :=
  let path := fun (a : DWord) (p q : Nat) =>
    (pathOf a.toNat == p || pathOf a.toNat == q) && bitsAt a.toNat 56 4 == 0
  c.zero && c.len / 2 ^ 20 == 0 && (c.fmt == 1 || c.fmt == 3) && path c.xa 0 6 &&
  (match c.op with
    | 0 => 2 ≤ c.len && c.len ≤ 255 && path c.ya 0 1
    | 1 => path c.ya 0 6
    | 2 => c.fmt == 1 && path c.ya 0 6
    | 3 => true
    | 4 => c.scal.toNat < 2 && c.n ≤ 8192 && path c.ya 0 6
    | 5 => c.fmt == 1
    | 6 => c.scal == 0#32 && c.n ≤ 2048 && path c.ya 0 6
    | _ => false)

/-- The operands of a command: whether YA, whether it is read and written, and its bytes, those of LEN bits 19:0
elements. A format other than F32 and BF16 gives elements of two bytes: DESIGN CHOICE, log entry 28. -/
def Cmd.sides (c : Cmd) : List (Bool × Bool × Bool × Nat) :=
  match c.op with
  | 0 => [(false, true, true, 0), (true, true, false, 4 * c.n)]
  | 1 => [(false, true, false, c.esize * c.n), (true, true, false, c.esize * c.n)]
  | 2 => [(false, true, false, 4 * c.n), (true, true, true, 4 * c.n)]
  | 3 => [(false, true, false, c.esize * c.n)]
  | 4 =>
    let v := if c.n = 0 then 0 else 8 * c.esize * 1024
    if c.scal.getLsbD 0 then [(false, false, true, c.esize * c.n), (true, true, false, v)]
    else [(false, true, false, c.esize * c.n), (true, false, true, v)]
  | 5 => [(false, false, true, 4 * c.n)]
  | 6 => [(false, true, false, 1024 * c.n), (true, false, true, 1024 * c.n)]
  | _ => []

/-- Why a command ends its block: STATUS, the address, and DETAIL and AUX bits of a translation; STATUS 0 is a walk that
waits, which ends nothing. -/
abbrev CmdFail := Nat × Nat × Nat × Nat

/-- Step 1 of R312 for an operand: the translations that its accesses need. -/
def State.operandXlate (s : State) (agent w a : Nat) : List Nat → State × Except CmdFail Trans
  | [] => (s, .error (1, a, 1, 1))
  | need :: l =>
    match s.xlate agent w (a % 2 ^ 56) need false with
    | (s, .ok t) => if l = [] then (s, .ok t) else s.operandXlate agent w a l
    | (s, .held) => (s, .error (0, a, 0, 0))
    | (s, .fault d st _) => (s, .error (1, a, d, xlateAux st need))
    | (s, _) => (s, .error (1, a, 1, xlateAux 1 need))

/-- Step 1 of R312 for every operand. -/
def State.operandXlates (s : State) (agent w : Nat) (c : Cmd) :
    List (Bool × Bool × Bool × Nat) → State × Except CmdFail (List (Trans × Nat × Nat))
  | [] => (s, .ok [])
  | (y, r, wr, size) :: l =>
    let a := (if y then c.ya else c.xa).toNat
    match s.operandXlate agent w a ((if r then [0] else []) ++ if wr then [1] else []) with
    | (s, .error e) => (s, .error e)
    | (s, .ok t) =>
      match s.operandXlates agent w c l with
      | (s, .ok ts) => (s, .ok ((t, a, size) :: ts))
      | (s, .error e) => (s, .error e)

/-- Whether an address breaks the alignment its command asks of XA or YA (R315 to R317). -/
def Cmd.skewed (c : Cmd) (y : Bool) (a : Nat) : Bool :=
  match c.op with
  | 0 => y && a % 4 != 0
  | 4 => a % (if y then 1024 else c.esize) != 0 || (y && 2048 < a % 2 ^ 21 / 1024 + 8 * c.esize)
  | 6 => a % 1024 != 0
  | _ => a % c.esize != 0

/-- Whether YA of a built-in that does not use it is not aligned to the element size, as R317 asks of every one. -/
def Cmd.idleSkew (c : Cmd) : Bool := (c.op == 3 || c.op == 5) && c.ya.toNat % c.esize != 0

/-- The checks of a command in the order of R312, each step over XA then YA; answered are the physical operands. Within
step 4 a field out of range comes before an alignment: DESIGN CHOICE, log entry 62. -/
def State.checkCmd (s : State) (rsq w : Nat) (c : Cmd) : State × Except CmdFail (Nat × Nat) :=
  if 6 < c.op then (s, .error (4, c.xa.toNat, 0, 0))
  else match s.operandXlates (192 + rsq) w c c.sides with
    | (s, .error e) => (s, .error e)
    | (s, .ok ts) =>
      let bad := fun (p : Trans × Nat × Nat → Bool) => (findBy p ts).map fun e => ((2, e.2.1, 0, 0) : CmdFail)
      let order := [bad fun e => e.1.log < 21 || !e.1.near || 2 ^ 21 < e.1.pa % 2 ^ 21 + e.2.2,
        bad fun e => e.1.pa / 2 ^ 30 != rsq || 2 ^ 39 ≤ e.1.pa,
        if c.fieldsOk then none else some (4, c.xa.toNat, 0, 0),
        (findBy (fun e => c.skewed e.2 e.1.2.1) (List.zip ts [false, true])).map fun e => ((2, e.1.2.1, 0, 0) : CmdFail),
        if c.idleSkew then some (2, c.ya.toNat, 0, 0) else none,
        (findBy (fun e => !e.1.1.vert && ((c.op == 4 && e.2) || (c.op == 0 && !e.2))) (List.zip ts [false, true])).map
          fun e => ((2, e.1.2.1, 0, 0) : CmdFail)]
      match findBy (fun (o : Option CmdFail) => o.isSome) order with
      | some (some e) => (s, .error e)
      | _ => (s, .ok (((ts[0]?).map (·.1.pa)).getD 0, ((ts[1]?).map (·.1.pa)).getD 0))

/-- The record of a block's failed command (R327, 20 R436). -/
def State.blockRecord (s : State) (b : Block) (idx : Nat) (f : CmdFail) : State :=
  let (status, a, d, x) := f
  let c : Cond := if status = 1 then
      { cause := xlateCause, detail := d, index := idx, addr := a, aux := x + b.addr / 64 * 64 }
    else { cause := rowFault, detail := status, index := idx, addr := a, aux := b.addr }
  let (s, r) := s.form b.world (s.engineRecord b.core b.gid b.team 3 0 c)
  s.postOnly b.world r

/-- A block that ends with a status, which DONE's command did not survive. -/
def State.endBlock (s : State) (b : Block) (status done : Nat) : State :=
  { s.newId with ranges := s.ranges.filter fun r => r.op != b.id }.modBlock b.id fun b =>
    { b with stage := .answered, status := status, idx := done, row := none, order := s.ids }

/-- A block ended by a failure at a command: recorded, then answered. -/
def State.failBlock (s : State) (b : Block) (idx done : Nat) (f : CmdFail) : State :=
  if f.1 = 0 then s else ((s.blockRecord b idx f).endBlock b f.1 done).registerWaiting

/-- The routing of a block by the first command's XA, in the caller's translations, whatever the page permits (R313). -/
def State.routeBlock (s : State) (b : Block) : State :=
  let a := ((b.cmds.head?).map fun c => c.xa.toNat).getD 0
  match s.xlate b.core b.world (a % 2 ^ 56) 3 false with
  | (s, .ok t) => s.modBlock b.id fun b => { b with rsq := min (t.pa / 2 ^ 30) 511 }
  | (s, .held) => s
  | (s, .fault d st _) => s.failBlock b 0 0 (1, a, d, xlateAux st 0)
  | (s, _) => s.failBlock b 0 0 (1, a, 1, xlateAux 1 0)

/-- The number of a block's row sequencer while its routing waits. -/
def unrouted : Nat := 512

/-- A block sent from its bytes (R241, R313, R327): one that is poisoned, malformed or not routed is answered at once. -/
def State.sendBlock (s : State) (b : Block) (bytes : List (Byte × Bool)) : State :=
  let raw := bytes.map Prod.fst
  let s := { s with blocks := s.blocks ++ [b] }
  if bytes.any Prod.snd then s.failBlock b 0 0 (3, b.addr, 0, 0)
  else if !headerOk raw then s.failBlock b 0 0 (4, b.addr, 0, 0)
  else
    let b := { b with cmds := cmdsOf raw, atomic := (raw.getD 1 0#8).getLsbD 0, rsq := unrouted }
    (s.modBlock b.id fun _ => b).routeBlock b

/-- A block of a caller before its bytes are known. -/
def newBlock (id op gid core world team lane fid dst addr time : Nat) (parked qobj : Option Nat)
    (sync : Option (Nat × Nat)) (ctr : DWord) (graph : Option (Nat × Nat)) : Block :=
  { id := id, op := op, gid := gid, core := core, world := world, team := team, lane := lane, fid := fid, dst := dst,
    parked := parked, qobj := qobj, sync := sync, ctr := ctr, addr := addr, atomic := false, cmds := [], plans := [],
    rsq := 0, stage := .sent, idx := 0, status := 0, result := 0#32, rpois := false, time := time, row := none,
    held := none, graph := graph, read := time, order := 0 }

/-! ## MEMCALL (R241) -/

/-- What the read of a lane's block found: its bytes with their time, or a fault. -/
abbrev Fetched := Nat × Nat × Except (Nat × Nat × Nat) (List (Byte × Bool) × Nat)

/-- The blocks of a list of lanes and addresses read in lane order, or the machine where one must wait or traps. -/
def State.grabAll (s : State) (g : Group) : List (Nat × Nat) → Except (State × Option Cond) (State × List Fetched)
  | [] => .ok (s, [])
  | (l, a) :: rest =>
    let go := fun (s : State) (r : Except (Nat × Nat × Nat) (List (Byte × Bool) × Nat)) =>
      (s.grabAll g rest).map fun (t, fs) => (t, (l, a, r) :: fs)
    match s.grabBlock (s.nearReady g.gid) g.core g.world a 3 g.lclock 0 with
    | .wait t => .error (t, none)
    | .path t => .error (t, some { cause := addrPath, mask := laneMask [l], addr := a })
    | .fault s d st x => go s (.error (d, st, x))
    | .ok s bs t => go s (.ok (bs, t))

/-- The blocks of a `MEMCALL` sent. -/
def State.sendAll (s : State) (g : Group) (op dst : Nat) (parked qobj : Option Nat) (sync : Option (Nat × Nat))
    (ctr : DWord) (fs : List Fetched) : State :=
  fs.foldl (fun s (l, a, r) =>
    let b := newBlock s.ids op g.gid g.core g.world g.team l (g.lane l).fid dst a g.lclock parked qobj sync ctr none
    let s := s.newId
    match r with
    | .error (d, st, x) => { s with blocks := s.blocks ++ [b] }.failBlock b 0 0 (1, x, d, xlateAux st 0)
    | .ok (bs, t) => (s.modGroup g.gid fun g => g.raise t).sendBlock { b with time := t, read := t } bs) s

/-- The queue object of QREPLY: QUEUE_BIND where it is not a scalar object without a live producer. -/
def State.replyQueue (s : State) (gang obj : Nat) : Option Cond :=
  match s.queue gang obj with
  | some q => if q.live || q.vector then some { cause := queueBind, index := obj } else none
  | none => some { cause := queueBind, index := obj }

/-- The place of a sync word that 0 leaves out. -/
def State.optSync (s : State) (g : Group) (a : DWord) : Except Cond (Option (Nat × Nat)) :=
  if a = 0#64 then .ok none else (s.syncPlace g a).map some

/-- A check of a list of lanes' addresses. -/
def addrCheck (cause : Nat) (as : List (Nat × Nat)) (bad : Nat → Bool) : Option Cond :=
  failCond cause (as.filter fun e => bad e.2) fun _ c => c

/-- MEMCALL: POISON_USE, ADDR_PATH, ADDR_ALIGN, QUEUE_BIND, then every lane's block is read and sent. The checks stand
where no lane contributes: DESIGN CHOICE, log entry 56. -/
def execMemcall (gd : BitVec 4) (q n : BitVec 1) (j : BitVec 2) (c b : BitVec 5) (a : BitVec 7) (f : BitVec 1) (s : State) :
    Outcome :=
  onGroup s fun g i =>
    let flag := i.flag f
    let ls := g.contributing i gd
    let reply := q == 1#1
    let sa := (g.sreg b.toNat).val
    let ctr := (g.sreg c.toNat).val
    let obj := sa.toNat % 16
    let as := ls.map fun l => (l, ((g.lane l).vreg (a.toNat + 1)).val.toNat * 2 ^ 32 + ((g.lane l).vreg a.toNat).val.toNat)
    let foreign := fun (x : Nat) => pathOf x != 0 || bitsAt x 56 4 != 0 ||
      (g.world == 60 && (!s.physOk (x % 2 ^ 56) || hostWindow (x % 2 ^ 56)))
    let sync := if reply then .ok none else s.optSync g sa
    let cond := fun (k : Nat) (x : DWord) => some ({ cause := k, addr := x.toNat } : Cond)
    let syncBad := fun (k : Nat) => match sync with
      | .error e => if e.cause = k then some e else none
      | .ok _ => none
    if s.hazard g ls [a.toNat, a.toNat + 1] [b.toNat, c.toNat] then .wait s
    else Res.unless s (firstCond [boundCond g ls [a.toNat, a.toNat + 1], vPoison g ls 0 [a.toNat, a.toNat + 1],
        sPoison g (if reply then 2 else 0) [b.toNat], sPoison g 0 [c.toNat],
        addrCheck addrPath as foreign, syncBad addrPath,
        if ctr ≠ 0#64 ∧ ctr.toNat / 2 ^ 56 ≠ 0 then cond addrPath ctr else none,
        addrCheck addrAlign as fun x => x % 64 != 0, syncBad addrAlign,
        if ctr.toNat % 8 ≠ 0 then cond addrAlign ctr else none,
        if reply then s.replyQueue (s.gangOf g) obj else none])
      (if !g.flagFree flag then .wait s
      else if ls = [] then .done (s.issueOp g flag .plain true)
      else
        let park := n = 0#1 ∧ !reply
        let qobj := if reply then some obj else none
        let place := match sync with | .ok p => p | .error _ => none
        match s.grabAll g as with
        | .error (t, none) => .wait t
        | .error (t, some e) => .trap t e
        | .ok (s, fs) =>
          let op := s.ids
          let s := (s.issueOp g flag (.memcall ls.length qobj) false).sendAll g op a.toNat
            (if park then some j.toNat else none) qobj place ctr fs
          let s := match qobj with
            | some k => s.modQueue (s.gangOf g) k fun u => { u with producer := .replies op }
            | none => s
          if park then
            let m := laneMask ls
            .done (s.modGroup g.gid fun g =>
              { g.mapLanes m.getLsbD (fun _ l => { l with pcv := i.after }) with
                jregs := mapSet 0#64 g.jregs j.toNat (g.jreg j.toNat ||| m),
                issue := some { i with lanes := i.lanes &&& ~~~m } })
          else .done s)

/-! ## The order of commands in memory (R324, R325) -/

/-- Lines first to last of n bytes. -/
def lineSpan (pa n : Nat) : List (Nat × Nat) := if n = 0 then [] else [(pa / 128, (pa + n - 1) / 128)]

/-- Whether a line lies in a list of spans. -/
def inSpans (sp : List (Nat × Nat)) (ln : Nat) : Bool := sp.any fun e => e.1 ≤ ln && ln ≤ e.2

/-- Whether a footprint must wait for an X check-out. -/
def State.spansHeld (s : State) (sp : List (Nat × Nat)) (but : Nat) : Bool :=
  s.ranges.any fun r => r.excl && r.op != but && sp.any fun e => r.lo ≤ e.2 && e.1 ≤ r.hi

/-- The footprint prepared (R325): U atoms merged, dirty lines written back; answered is the command's time. -/
def State.prepare (s : State) (sp : List (Nat × Nat)) (time : Nat) : State × Nat :=
  let s := (s.mergeAll ((s.uatoms.map (·.atom)).filter fun a => inSpans sp (a / 4)) time none).writeBack (inSpans sp)
  let top := s.stamps.foldl (fun m e => if inSpans sp (e.1 / 4) then max m (e.2.2 + 1) else m) (if sp = [] then 0 else 1)
  (s, max time top)

/-- The stamps of a footprint after a command at t: rts at least t in the lines read, wts = rts = t for the atoms of
which a byte is written; `writes` are pieces of bytes. -/
def State.stampSpans (s : State) (reads writes : List (Nat × Nat)) (t : Nat) : State :=
  let lines := reads.flatMap fun e => (List.range (4 * (e.2 + 1 - e.1))).map (4 * e.1 + ·)
  let atoms := writes.flatMap fun e =>
    if e.2 = 0 then [] else (List.range ((e.1 + e.2 - 1) / 32 + 1 - e.1 / 32)).map (e.1 / 32 + ·)
  let s := lines.foldl (fun s a => s.setStamp a ((s.stamp a).1, max (s.stamp a).2 t)) s
  s.stampAll atoms t

/-- A command's write at the banks: nothing is left dirty in the L2, and its rows are written for a sluice (21 R454). -/
def State.bankWrite (s : State) (b : Block) (cells : List Host.Cell) (poisoned : List Nat) : State :=
  let lns := distinct (cells.map fun c => c.1 / 128)
  let s := (s.homeWrite cells poisoned).noteWriter (atomsOf (cells.map Prod.fst)) (s.teamWriter b.core b.team) none
  ({ s with dirty := s.dirty.filter fun e => !lns.contains e.1 }.meter b.world 15 cells.length).touchRows lns

/-- The bank-rows that n bytes touch. -/
def bankRows (pa n : Nat) : Nat := if n = 0 then 0 else (pa + n - 1) / 1024 - pa / 1024 + 1

/-- A read at the banks of bytes in a number of rows (R319), with the poison of each: counted where the MACs hold (22
R464). -/
def State.bankReadAt (s : State) (b : Block) (rows : Nat) (pas : List Nat) :
    State × List (Byte × Bool) × Option Nat :=
  match s.homeRead pas with
  | (s, bs, none) => ((s.meter b.world 13 rows).meter b.world 14 pas.length, bs, none)
  | r => r

/-- A read at the banks of n bytes. -/
def State.bankRead (s : State) (b : Block) (pa n : Nat) : State × List (Byte × Bool) × Option Nat :=
  s.bankReadAt b (bankRows pa n) (addrs pa n)

/-! ## WACC (R322) -/

def Wacc.zero : Wacc := ⟨0#640, false, false, false, false⟩

/-- An exact product entered. -/
def Wacc.add (a : Wacc) (x y : Num) : Wacc :=
  if x.isNan || y.isNan then { a with nan := true }
  else match x.mul y with
    | .nan => { a with inv := true }
    | .inf s => if s then { a with ninf := true } else { a with pinf := true }
    | .fin s m e => { a with sum := a.sum + BitVec.ofInt 640 (signedAt s m e (-298)) }

/-- The one rounding. -/
def Wacc.round (a : Wacc) : Nat :=
  if a.nan || a.inv || (a.pinf && a.ninf) then f32.nanCode
  else if a.pinf then 0x7F800000
  else if a.ninf then 0xFF800000
  else rne f32 (.fin (decide (a.sum.toInt < 0)) a.sum.toInt.natAbs (-298))

/-- One. -/
def numOne : Num := .fin false 1 0

/-! ## The built-ins (R243, R315 to R317) -/

/-- How a built-in ends: its result word with its poison, or a line whose MAC failed. -/
abbrev Ran := State × Except Nat (Nat × Bool)

/-- Element i of bytes of a size. -/
def elemAt (bs : List (Byte × Bool)) (e i : Nat) : Nat := field (bs.map Prod.fst) (e * i) e

/-- The values of n elements. -/
def elemsOf (bs : List (Byte × Bool)) (e n : Nat) : List Nat := (List.range n).map (elemAt bs e)

/-- A read that feeds a built-in. -/
def withRead (s : State) (b : Block) (pa n : Nat) (k : State → List (Byte × Bool) → Ran) : Ran :=
  match s.bankRead b pa n with
  | (s, _, some ln) => (s, .error ln)
  | (s, bs, none) => k s bs

/-- A write of a built-in, the lines poisoned where named. -/
def State.bankPut (s : State) (b : Block) (pa n : Nat) (bs : List Byte) (poisoned : List Nat) : Ran :=
  match s.badWrite (List.zip (addrs pa n) bs) with
  | some ln => (s, .error ln)
  | none => ((s.meter b.world 13 (bankRows pa n)).bankWrite b (List.zip (addrs pa n) bs) poisoned, .ok (0, false))

/-- FTZ16 of the launch that a block was called in (04 R87). -/
def State.blockFtz (s : State) (b : Block) : Bool := (((s.team b.team).bind fun t => s.grid t.grid).map (·.ftz)).getD false

/-- The sum of DOT and REDUCE. -/
def bankSum (ftz : Bool) (c : Cmd) (xs ys : List Nat) : Nat :=
  let fm := if c.fmt = 1 then f32 else bf16
  ((List.zip xs ys).foldl (fun a e => a.add (fm.read ftz e.1) (fm.read ftz e.2))
    (Wacc.zero.add (f32.decode c.scal.toNat) numOne)).round

/-- DOT's result; of no elements, SCAL with NaN canonicalised. -/
def runDot (s : State) (b : Block) (c : Cmd) (x y : Nat) : Ran :=
  if c.n = 0 then
    (s, .ok (if (f32.decode c.scal.toNat).isNan then f32.nanCode else c.scal.toNat, false))
  else withRead s b x (c.esize * c.n) fun s xs => withRead s b y (c.esize * c.n) fun s ys =>
    (s, .ok (bankSum (s.blockFtz b) c (elemsOf xs c.esize c.n) (elemsOf ys c.esize c.n), xs.any Prod.snd || ys.any Prod.snd))

/-- REDUCE enters each element as a product with 1.0. -/
def runReduce (s : State) (b : Block) (c : Cmd) (x _y : Nat) : Ran :=
  withRead s b x (c.esize * c.n) fun s xs =>
    let one := if c.fmt = 1 then 0x3F800000 else 0x3F80
    (s, .ok (bankSum (s.blockFtz b) c (elemsOf xs c.esize c.n) (List.replicate c.n one), xs.any Prod.snd))

/-- SCAL × X + Y of an element, rounded once. -/
def axpyWord (scal x y : Nat) : Nat := ffma f32 0 false false false false 0 scal x y

/-- The lines of n elements of e bytes at an address whose sources a test finds poisoned. -/
def poisonLines (pa e n : Nat) (f : Nat → Bool) : List Nat :=
  distinct (((List.range n).filter f).map fun i => (pa + e * i) / 128)

/-- AXPY. -/
def runAxpy (s : State) (b : Block) (c : Cmd) (x y : Nat) : Ran :=
  withRead s b x (4 * c.n) fun s xs => withRead s b y (4 * c.n) fun s ys =>
    let out := (List.range c.n).flatMap fun i => toBytes 4 (axpyWord c.scal.toNat (elemAt xs 4 i) (elemAt ys 4 i))
    s.bankPut b y (4 * c.n) out (poisonLines y 4 c.n fun i =>
      ((xs.drop (4 * i)).take 4).any Prod.snd || ((ys.drop (4 * i)).take 4).any Prod.snd)

/-- FILL. -/
def runFill (s : State) (b : Block) (c : Cmd) (x _y : Nat) : Ran :=
  s.bankPut b x (4 * c.n) ((List.range c.n).flatMap fun _ => toBytes 4 c.scal.toNat) []

/-- COPYROW. -/
def runCopyrow (s : State) (b : Block) (c : Cmd) (x y : Nat) : Ran :=
  withRead s b x (1024 * c.n) fun s xs =>
    s.bankPut b y (1024 * c.n) (xs.map Prod.fst) (poisonLines y 1 (1024 * c.n) fun i => (xs.getD i (0#8, false)).2)

/-- TRANSPOSE (R315): every source bit is read before any destination bit is written; of a vertical destination the lines
that it replaces whole are not read (R319). -/
def runTranspose (s : State) (b : Block) (c : Cmd) (x y : Nat) : Ran :=
  let e := c.esize
  let w := 8 * e
  if c.n = 0 then (s, .ok (0, false))
  else if c.scal.getLsbD 0 then
    withRead s b y (w * 1024) fun s rows =>
      let bit := fun (j k : Nat) => ((rows.getD (1024 * k + j / 8) (0#8, false)).1).getLsbD (j % 8)
      let word := fun (j : Nat) => (List.range w).foldl (fun v k => if bit j k then v + 2 ^ k else v) 0
      s.bankPut b x (e * c.n) ((List.range c.n).flatMap fun j => toBytes e (word j))
        (poisonLines x e c.n fun j => (List.range w).any fun k => (rows.getD (1024 * k + j / 8) (0#8, false)).2)
  else
    let lo := c.n / 1024 * 128
    let kept := (List.range w).flatMap fun k => addrs (y + 1024 * k + lo) (1024 - lo)
    withRead s b x (e * c.n) fun s hs =>
    match s.bankReadAt b (if kept = [] then 0 else w) kept with
    | (s, _, some ln) => (s, .error ln)
    | (s, rows, none) =>
      let old := fun (k i : Nat) => rows.getD ((1024 - lo) * k + i - lo) (0#8, false)
      let byte := fun (k i : Nat) => (List.range 8).foldl (fun v p =>
        let j := 8 * i + p
        let set := if j < c.n then (elemAt hs e j).testBit k else ((old k i).1).getLsbD p
        if set then v + 2 ^ p else v) 0
      let out := (List.range w).flatMap fun k => (List.range 1024).map fun i => BitVec.ofNat 8 (byte k i)
      let bad := fun (n : Nat) =>
        let i := n % 1024
        (List.range 8).any fun p =>
          let j := 8 * i + p
          if j < c.n then ((hs.drop (e * j)).take e).any Prod.snd else (old (n / 1024) i).2
      s.bankPut b y (w * 1024) out (poisonLines y 1 (w * 1024) bad)

/-! ## Running a block (R244) -/

/-- The operands of the command a block is at: those of an ATOMIC block were translated before it began. -/
def State.planCmd (s : State) (b : Block) (c : Cmd) : State × Except CmdFail (Nat × Nat) :=
  match b.plans[b.idx]? with
  | some p => (s, .ok p)
  | none => s.checkCmd b.rsq b.world c

/-- The lines that a command reads and writes (R324). -/
def Cmd.spans (c : Cmd) (x y : Nat) : List (Nat × Nat) × List (Nat × Nat) :=
  if c.n = 0 then ([], [])
  else if c.op = 0 then (lineSpan y (4 * c.n), lineSpan (x / 2 ^ 21 * 2 ^ 21) (2 ^ 21))
  else
    let part := fun (f : Bool × Bool × Bool × Nat → Bool) =>
      c.sides.flatMap fun e => if f e then lineSpan (if e.1 then y else x) e.2.2.2 else []
    (part fun e => e.2.1, part fun e => e.2.2.1)

/-- The pieces of bytes that a built-in writes. -/
def Cmd.wrote (c : Cmd) (x y : Nat) : List (Nat × Nat) :=
  if c.n = 0 then [] else (c.sides.filter fun e => e.2.2.1).map fun e => (if e.1 then y else x, e.2.2.2)

/-- A command that took effect: its result is the block's, and the last one answers the block. -/
def State.cmdDone (s : State) (b : Block) (v : Nat) (p : Bool) (t : Nat) : State :=
  s.newId.modBlock b.id fun b =>
    { b with idx := b.idx + 1, result := BitVec.ofNat 32 v, rpois := p, time := max b.time t, row := none, order := s.ids,
             stage := if b.idx + 1 = b.cmds.length then .answered else .running }

/-- A failed MAC within a command: the polder is quarantined and the block ends with STATUS 2 (R319). -/
def State.cmdIntegrity (s : State) (b : Block) (ln : Nat) : State :=
  ((s.integrity (ln * 128)).endBlock b 2 b.idx).registerWaiting

/-- The command that a running block is at, where it is of an operation, or of none of R242's, which its checks refuse. -/
def State.cmdAt (s : State) (blk op : Nat) : Option (Block × Cmd) :=
  (s.block blk).bind fun b => (b.cmds[b.idx]?).bind fun c =>
    if b.stage = .running ∧ (c.op = op ∨ 6 < c.op) then some (b, c) else none

/-- A built-in command performed as one access at one logical time (R325). -/
def builtIn (s : State) (blk op : Nat) (run : State → Block → Cmd → Nat → Nat → Ran) : Outcome :=
  .next (match s.cmdAt blk op with
    | none => s
    | some (b, c) =>
      match s.planCmd b c with
      | (s, .error f) => s.failBlock b b.idx b.idx f
      | (s, .ok (x, y)) =>
        let (rd, wr) := c.spans x y
        if s.spansHeld (rd ++ wr) b.id then s
        else
          let (s, t) := s.prepare (rd ++ wr) b.read
          match run s b c x y with
          | (s, .error ln) => s.cmdIntegrity b ln
          | (s, .ok (v, p)) => (s.stampSpans rd (c.wrote x y) t).cmdDone b v p t)

/-- DOT. -/
def execDot (blk : Nat) (s : State) : Outcome := builtIn s blk 1 runDot
/-- AXPY. -/
def execAxpy (blk : Nat) (s : State) : Outcome := builtIn s blk 2 runAxpy
/-- REDUCE. -/
def execReduce (blk : Nat) (s : State) : Outcome := builtIn s blk 3 runReduce
/-- TRANSPOSE. -/
def execTranspose (blk : Nat) (s : State) : Outcome := builtIn s blk 4 runTranspose
/-- FILL. -/
def execFill (blk : Nat) (s : State) : Outcome := builtIn s blk 5 runFill
/-- COPYROW. -/
def execCopyrow (blk : Nat) (s : State) : Outcome := builtIn s blk 6 runCopyrow

/-- Every command of a list checked before the first runs (R244, R327): the operands, or the first that fails. -/
def State.checkAll (s : State) (b : Block) (k : Nat) : List Cmd → State × Except (Nat × CmdFail) (List (Nat × Nat))
  | [] => (s, .ok [])
  | c :: cs =>
    match s.checkCmd b.rsq b.world c with
    | (s, .error f) => (s, .error (k, f))
    | (s, .ok p) =>
      match s.checkAll b (k + 1) cs with
      | (s, .ok ps) => (s, .ok (p :: ps))
      | (s, .error e) => (s, .error e)

/-- BANK_CALL_BLOCK: a block begins at its row sequencer, an ATOMIC one after every command is checked; a command of no
operation ends it. -/
def execBankCallBlock (blk : Nat) (s : State) : Outcome :=
  .next (match s.block blk with
    | none => s
    | some b =>
      match b.stage with
      | .sent =>
        if b.rsq = unrouted then s.routeBlock b
        else if b.atomic then
          match s.checkAll b 0 b.cmds with
          | (s, .error (k, f)) => s.failBlock b k 0 f
          | (s, .ok ps) => s.modBlock blk fun b => { b with stage := .running, plans := ps }
        else s.modBlock blk fun b => { b with stage := .running }
      | .running =>
        match b.cmds[b.idx]? with
        | some c => if 6 < c.op then s.failBlock b b.idx b.idx (4, c.xa.toNat, 0, 0) else s
        | none => s
      | .answered | .delivered => s)

/-! ## KERNEL (R248, R252, R321) -/

/-- The context at command start. -/
def newRow (page : Nat) (scal : Word) (ws : List Word) (time : Nat) : RowCtx :=
  { x := [], cy := 0#8192, bases := [], wacc := Wacc.zero, wpois := false, xpois := 0#8, page := page, scal := scal,
    words := ws, first := 0, stop := 0, pos := 0, loop := none, rows := [], time := time }

/-- The start of a KERNEL: checked, its footprint held, its words fetched. DEDUCED, log entry 28. -/
def State.kernelStart (s : State) (b : Block) (c : Cmd) : State :=
  match s.planCmd b c with
  | (s, .error f) => s.failBlock b b.idx b.idx f
  | (s, .ok (x, y)) =>
    let (rd, wr) := c.spans x y
    if s.spansHeld (rd ++ wr) b.id then s
    else
      let (s, t) := s.prepare (rd ++ wr) b.read
      match s.bankRead b y (4 * c.n) with
      | (s, _, some ln) => s.cmdIntegrity b ln
      | (s, bs, none) =>
        if bs.any Prod.snd then s.failBlock b b.idx b.idx (3, c.ya.toNat, 0, 0)
        else
          let ws := (elemsOf bs 4 c.n).map (BitVec.ofNat 32)
          let s := s.modBlock b.id fun b => { b with row := some (newRow (x / 2 ^ 21 * 2 ^ 21) c.scal ws t) }
          { s with ranges := s.ranges ++ (rd ++ wr).map fun e => (⟨e.1, e.2, true, 0, b.id, 0⟩ : Range) }

/-- X[n] with its tag. -/
def RowCtx.xreg (r : RowCtx) (n : Nat) : BitVec 8192 × Bool := (mapGet 0#8192 r.x n, r.xpois.getLsbD n)

/-- The rows written put in the page, the page's place in the order taken, and the result word. -/
def State.kernelEnd (s : State) (b : Block) (r : RowCtx) : State :=
  let cells := r.rows.flatMap fun e => List.zip (addrs (r.page + 1024 * e.1) 1024) (toBytes 1024 e.2.1.toNat)
  let bad := r.rows.flatMap fun e => if e.2.2 then (List.range 8).map (r.page / 128 + 8 * e.1 + ·) else []
  let clause := s.ranges.filterMap fun q => if q.op = b.id ∧ q.lo ≠ r.page / 128 then some (q.lo, q.hi) else none
  let s := (s.bankWrite b cells bad).stampSpans (clause ++ lineSpan r.page (2 ^ 21))
    (r.rows.map fun e => (r.page + 1024 * e.1, 1024)) r.time
  let s := { s with ranges := s.ranges.filter fun q => q.op != b.id }
  (s.cmdDone b (r.xreg 0).1.toNat (r.xreg 0).2 r.time).registerWaiting

/-- KERNEL: its start; at the end of a clause the next header, which R44 may refuse; at the end of the words its
result. -/
def execKernel (blk : Nat) (s : State) : Outcome :=
  .next (match s.cmdAt blk 0 with
    | none => s
    | some (b, c) =>
      match b.row with
      | none => s.kernelStart b c
      | some r =>
        if r.pos ≠ r.stop then s
        else if r.words.length ≤ r.pos then s.kernelEnd b r
        else
          let w := (r.words.getD r.pos 0#32).toNat
          let stop := r.pos + 1 + w % 16
          if w / 2 ^ 28 ≠ 10 ∨ w % 16 = 0 ∨ w / 2 ^ 4 % 8 ≠ 7 ∨ w / 2 ^ 7 % 2 ^ 12 ≠ 0 ∨ w / 2 ^ 19 % 256 ≠ 255 ∨
              r.words.length < stop then
            s.failBlock b b.idx b.idx (2, (c.ya.toNat + 4 * r.pos) % 2 ^ 64, 0, 0)
          else s.modBlock blk fun b => { b with row := some { r with first := r.pos + 1, stop := stop, pos := r.pos + 1 } })

/-! ## Replies (R245) -/

/-- The status word. -/
def Block.statusWord (b : Block) : Nat := b.status + 256 * b.idx

/-- The registers or queue entry that a reply writes; none while the queue is full, or another block of the instruction
that completed earlier has not been delivered (13 R328). -/
def State.deliver (s : State) (b : Block) : Option State :=
  match b.qobj with
  | none =>
    let ws := [(b.dst, (⟨BitVec.ofNat 32 b.statusWord, b.rpois⟩ : Reg)), (b.dst + 1, ⟨b.result, b.rpois⟩)]
    some (s.modGroup b.gid fun g =>
      ((g.mapLanes (· == b.lane) fun _ n => ws.foldl (fun n w => n.setVAt b.fid w.1 w.2) n).stick psnBit b.rpois).raise
        b.time)
  | some k =>
    let gang := ((s.team b.team).map (·.gang)).getD 0
    match s.queue gang k with
    | none => some s
    | some q =>
      if s.blocks.any (fun c => c.op == b.op && c.stage == .answered && c.order < b.order) then none
      else if q.drained then some s
      else if 64 ≤ q.entries.length then none
      else
        let e : QEntry := ⟨[BitVec.ofNat 32 b.statusWord, b.result], b.rpois, b.time⟩
        some (s.modQueue gang k fun q => { q with entries := q.entries ++ [e] })

/-- A block that has replied removed: the last of its instruction ends a QREPLY binding and completes it. -/
def State.retireBlock (s : State) (b : Block) (t : Nat) : State :=
  let s := { s with blocks := dropBy (fun c => c.id == b.id) s.blocks }
  match s.op b.op with
  | some o =>
    match o.kind with
    | .memcall left q =>
      let o := { o with time := max o.time t, kind := .memcall (left - 1) q }
      if left ≤ 1 then
        let gang := ((s.team b.team).map (·.gang)).getD 0
        let s := match q with
          | some k => s.modQueue gang k fun u => if u.producer = Producer.replies b.op then { u with producer := .closed } else u
          | none => s
        s.completeOp o
      else (s.modOp b.op fun _ => o).settle b.gid
    | _ => s
  | none => s

/-- The addition of 1 to a delivered reply's counter, then the block's end. -/
def State.countReply (s : State) (b : Block) : State :=
  if b.ctr = 0#64 then s.retireBlock b b.time
  else match s.addCounter b.core b.world b.team b.time b.ctr.toNat 1 with
    | .done s t => s.retireBlock b t
    | .wait s => s
    | .fail s e =>
      let e := if e.cause = xlateCause then { e with aux := e.aux + b.addr / 64 * 64 } else e
      match s.holdEngine b.core b.gid b.team b.world 3 e with
      | (s, some r) => s.modBlock b.id fun b => { b with held := some r }
      | (s, none) => (s.engineFault b.core b.gid b.team b.world 3 e).1.retireBlock b b.time

/-- The response to a held fault of a reply's counter (20 R438). -/
def State.answerBlock (s : State) (b : Block) (r : Record) (retry : Bool) : State :=
  if retry then s.modBlock b.id fun b => { b with held := none }
  else (s.reportFault b.gid b.team b.world r.aborted).1.retireBlock b b.time

/-- BANK_CALL_REPLY: the reply is delivered, BRUN rises by 64, then the counter by 1; outside RUN, as in
quarantine (20 R444), it is discarded once counted (22 R464). -/
def execBankCallReply (blk : Nat) (s : State) : Outcome :=
  .next (match s.block blk with
    | none => s
    | some b =>
      if !s.active b.world then
        match b.stage with
        | .answered => (s.meter b.world 12 b.idx).retireBlock b b.time
        | .delivered => s.retireBlock b b.time
        | _ => s
      else if b.held.isSome ∨ b.graph.isSome then s
      else match b.stage with
        | .answered =>
          match s.deliver b with
          | none => s
          | some s =>
            let s := (s.meter b.world 12 b.idx).modBlock blk fun b => { b with stage := .delivered }
            (match b.sync with
              | some (t, o) => s.raiseSync t o 64 b.time
              | none => s).countReply b
        | .delivered => s.countReply b
        | _ => s)

end Sys2Proof.Machine
end

