-- ==== Sys2Proof/Machine/Row.lean ====
section
/-!
DEFINITION. Sys2Proof/Machine/Row.lean: the row class (09 R248 to R252, 13 R314, R322): the words of a KERNEL in its
context.
-/
namespace Sys2Proof.Machine

/-- How a row word ends: the context after it, a row fault, or a line whose MAC failed. -/
inductive RowRes where
  | ok (s : State) (r : RowCtx)
  | fault (s : State)
  | bad (s : State) (line : Nat)
deriving DecidableEq, Repr

/-- X[n] written with its tag. -/
def RowCtx.setX (r : RowCtx) (n : Nat) (v : BitVec 8192) (p : Bool) : RowCtx :=
  { r with x := mapSet 0#8192 r.x n v,
           xpois := if p then r.xpois ||| BitVec.ofNat 8 (2 ^ n) else r.xpois &&& ~~~BitVec.ofNat 8 (2 ^ n) }

/-- B[n]. -/
def RowCtx.base (r : RowCtx) (n : Nat) : Nat := mapGet 0 r.bases n

/-- The next word: the words before a running `BLOOP` repeat (R251). -/
def RowCtx.advance (r : RowCtx) : RowCtx :=
  match r.loop with
  | some (start, at_, left) =>
    if r.pos + 1 = at_ then
      if left ≤ 1 then { r with pos := at_ + 1, loop := none } else { r with pos := start, loop := some (start, at_, left - 1) }
    else { r with pos := r.pos + 1 }
  | none => { r with pos := r.pos + 1 }

/-- The row word at hand of the block of `cur`: a fault ends the command, which then has no effect (R244, R252); each
word executed counts its steps (22 R463). -/
def onRow (s : State) (steps : Nat) (f : State → Block → RowCtx → RowRes) : Outcome :=
  match s.cur with
  | .block id =>
    match s.block id with
    | some b =>
      match b.row with
      | some r =>
        if r.stop ≤ r.pos then .fault .noClause
        else
          .next (match f s b r with
            | .ok s r => (s.meter b.world 11 steps).modBlock id fun b => { b with row := some r.advance }
            | .fault s =>
              let y := ((b.cmds[b.idx]?).map fun c => c.ya.toNat).getD 0
              s.failBlock b b.idx b.idx (2, (y + 4 * r.pos) % 2 ^ 64, 0, 0)
            | .bad s ln => s.cmdIntegrity b ln)
      | none => .fault .noClause
    | none => .fault .noClause
  | _ => .fault .noClause

/-- A bank-row read (R319, R321): what the command has written to it, else the row at the bank. -/
def State.readRow (s : State) (b : Block) (r : RowCtx) (n : Nat) : State × Except Nat (BitVec 8192 × Bool) :=
  match findBy (fun e => e.1 == n) r.rows with
  | some e => (s.meter b.world 13 1, .ok e.2)
  | none =>
    match s.bankRead b (r.page + 1024 * n) 1024 with
    | (s, _, some ln) => (s, .error ln)
    | (s, bs, none) => (s, .ok (BitVec.ofNat 8192 (ofBytes (bs.map Prod.fst)), bs.any Prod.snd))

/-- Consecutive bank-rows read. -/
def State.readRows (s : State) (b : Block) (r : RowCtx) (n : Nat) :
    Nat → State × Except Nat (List (BitVec 8192 × Bool))
  | 0 => (s, .ok [])
  | k + 1 =>
    match s.readRows b r n k with
    | (s, .error ln) => (s, .error ln)
    | (s, .ok l) =>
      match s.readRow b r (n + k) with
      | (s, .error ln) => (s, .error ln)
      | (s, .ok v) => (s, .ok (l ++ [v]))

/-- A bank-row written. -/
def RowCtx.writeRow (r : RowCtx) (n : Nat) (v : BitVec 8192) (p : Bool) : RowCtx :=
  { r with rows := mapIns r.rows n (v, p) }

/-- The bank-row that B[n] and a signed offset name. -/
def RowCtx.rowAt (r : RowCtx) (n : BitVec 2) (i : BitVec 13) : Option Nat :=
  let k := (r.base n.toNat : Int) + i.toInt
  if 0 ≤ k ∧ k ≤ 2047 then some k.toNat else none

/-- XLD. -/
def execXld (i : BitVec 13) (n : BitVec 2) (d : BitVec 3) (s : State) : Outcome :=
  onRow s 1 fun s b r =>
    match r.rowAt n i with
    | none => .fault s
    | some k =>
      match s.readRow b r k with
      | (s, .error ln) => .bad s ln
      | (s, .ok (v, p)) => .ok s (r.setX d.toNat v p)

/-- XST. -/
def execXst (i : BitVec 13) (n : BitVec 2) (x : BitVec 3) (s : State) : Outcome :=
  onRow s 1 fun s b r =>
    match r.rowAt n i with
    | none => .fault s
    | some k => .ok (s.meter b.world 13 1) (r.writeRow k (r.xreg x.toNat).1 (r.xreg x.toNat).2)

/-- A bitwise word of X registers: the destination takes the OR of its sources' tags. -/
def bitwise (s : State) (d : BitVec 3) (xs : List (BitVec 3)) (f : List (BitVec 8192) → BitVec 8192) : Outcome :=
  onRow s 1 fun s _ r =>
    let vs := xs.map fun x => r.xreg x.toNat
    .ok s (r.setX d.toNat (f (vs.map Prod.fst)) (vs.any Prod.snd))

/-- Source n of a list. -/
def srcAt (vs : List (BitVec 8192)) (n : Nat) : BitVec 8192 := vs.getD n 0#8192
/-- The majority of three rows. -/
def majRow (a b c : BitVec 8192) : BitVec 8192 := (a &&& b) ||| (a &&& c) ||| (b &&& c)

/-- BAND. -/
def execBand (b a d : BitVec 3) (s : State) : Outcome := bitwise s d [a, b] fun v => srcAt v 0 &&& srcAt v 1
/-- BOR. -/
def execBor (b a d : BitVec 3) (s : State) : Outcome := bitwise s d [a, b] fun v => srcAt v 0 ||| srcAt v 1
/-- BXOR. -/
def execBxor (b a d : BitVec 3) (s : State) : Outcome := bitwise s d [a, b] fun v => srcAt v 0 ^^^ srcAt v 1
/-- BNOT. -/
def execBnot (a d : BitVec 3) (s : State) : Outcome := bitwise s d [a] fun v => ~~~srcAt v 0
/-- BMAJ. -/
def execBmaj (c b a d : BitVec 3) (s : State) : Outcome :=
  bitwise s d [a, b, c] fun v => majRow (srcAt v 0) (srcAt v 1) (srcAt v 2)
/-- BSEL. -/
def execBsel (c b a d : BitVec 3) (s : State) : Outcome :=
  bitwise s d [a, b, c] fun v => (srcAt v 2 &&& srcAt v 0) ||| (~~~srcAt v 2 &&& srcAt v 1)
/-- BSHL. -/
def execBshl (n : BitVec 13) (a d : BitVec 3) (s : State) : Outcome :=
  bitwise s d [a] fun v => srcAt v 0 <<< n.toNat

/-- BADDC: the carry in is CY, zeros or ones; 3 is refused. -/
def execBaddc (i : BitVec 2) (b a d : BitVec 3) (s : State) : Outcome :=
  onRow s 1 fun s _ r =>
    let x := r.xreg a.toNat
    let y := r.xreg b.toNat
    let k := match i.toNat with | 0 => r.cy | 1 => 0#8192 | _ => ~~~0#8192
    if i = 3#2 then .fault s
    else .ok s { r.setX d.toNat (x.1 ^^^ y.1 ^^^ k) (x.2 || y.2) with cy := majRow x.1 y.1 k }

/-- The rows of ADDN or SUBN (R250) from bit position k up: row k of a and b is read, then row k of d is written.
Row k of d takes the tags of the rows up to k of both operands, and X6 and X7 the OR of all; the product of MULN takes the
OR of all its inputs and leaves X4 to X7 clear: DESIGN CHOICE, log entry 56. -/
def addRows (s : State) (b : Block) (r : RowCtx) (sub : Bool) (w : Nat) :
    Nat → State × Except Nat (RowCtx × BitVec 8192 × BitVec 8192 × Bool)
  | 0 => (s, .ok (r, 0#8192, if sub then ~~~0#8192 else 0#8192, false))
  | k + 1 =>
    match addRows s b r sub w k with
    | (s, .error ln) => (s, .error ln)
    | (s, .ok (r, _, cy, p)) =>
      match s.readRow b r (r.base 1 + k) with
      | (s, .error ln) => (s, .error ln)
      | (s, .ok (x, px)) =>
        match s.readRow b r (r.base 2 + k) with
        | (s, .error ln) => (s, .error ln)
        | (s, .ok (y, py)) =>
          let y := if sub then ~~~y else y
          let d := x ^^^ y ^^^ cy
          let p := p || px || py
          (s.meter b.world 13 1, .ok (r.writeRow (r.base 0 + k) d p, d, majRow x y cy, p))

/-- ADDN and SUBN: every row is checked before any is written; X6 ends with the last row, X7 with the carry. -/
def addOp (s : State) (sub : Bool) (w : Nat) : Outcome :=
  onRow s w fun s b r =>
    if w = 0 ∨ 64 < w ∨ [0, 1, 2].any fun n => decide (2048 < r.base n + w) then .fault s
    else match addRows s b r sub w w with
      | (s, .error ln) => .bad s ln
      | (s, .ok (r, d, cy, p)) => .ok s ((r.setX 6 d p).setX 7 cy p)

/-- ADDN. -/
def execAddn (w : BitVec 13) (s : State) : Outcome := addOp s false w.toNat
/-- SUBN. -/
def execSubn (w : BitVec 13) (s : State) : Outcome := addOp s true w.toNat

/-- One ripple of a partial product's row into the sum from a bit position. -/
def rippleRows : List (BitVec 8192) → List (BitVec 8192) → BitVec 8192 → List (BitVec 8192)
  | [], _, _ => []
  | p :: ps, [], c => (p ^^^ c) :: rippleRows ps [] (p &&& c)
  | p :: ps, x :: xs, c => (p ^^^ x ^^^ c) :: rippleRows ps xs (majRow p x c)

/-- The product rows of two vertical vectors, least significant first. -/
def mulRows (as bs : List (BitVec 8192)) : List (BitVec 8192) :=
  bs.zipIdx.foldl (fun p (m, k) => p.take k ++ rippleRows (p.drop k) (as.map (· &&& m)) 0#8192)
    (List.replicate (2 * as.length) 0#8192)

/-- MULN: all input rows are read first, then the product's rows are written; X4 to X7 are left zero. -/
def execMuln (w : BitVec 13) (s : State) : Outcome :=
  let n := w.toNat
  onRow s (n * n) fun s b r =>
    if n = 0 ∨ 32 < n ∨ 2048 < r.base 1 + n ∨ 2048 < r.base 2 + n ∨ 2048 < r.base 0 + 2 * n then .fault s
    else match s.readRows b r (r.base 1) n with
      | (s, .error ln) => .bad s ln
      | (s, .ok as) =>
        match s.readRows b r (r.base 2) n with
        | (s, .error ln) => .bad s ln
        | (s, .ok bs) =>
          let p := as.any Prod.snd || bs.any Prod.snd
          let r := (mulRows (as.map Prod.fst) (bs.map Prod.fst)).zipIdx.foldl
            (fun r (v, k) => r.writeRow (r.base 0 + k) v p) r
          .ok (s.meter b.world 13 (2 * n)) ([4, 5, 6, 7].foldl (fun r k => r.setX k 0#8192 false) r)

/-- Whether a word is a `BLOOP`. -/
def isBloop (w : Word) : Bool := w.toNat % 128 == 0x0E

/-- BLOOP: the L words before it in its clause, which hold no `BLOOP`, run count − 1 further times. -/
def execBloop (n : BitVec 13) (l : BitVec 3) (s : State) : Outcome :=
  onRow s 1 fun s _ r =>
    let k := l.toNat
    if k = 0 ∨ n = 0#13 ∨ r.pos < r.first + k ∨ ((r.words.drop (r.pos - k)).take k).any isBloop then .fault s
    else if n = 1#13 then .ok s r
    else .ok s { r with pos := r.pos - k - 1, loop := some (r.pos - k, r.pos, n.toNat - 1) }

/-- ROWSTEP: a row base outside 0 to 2,047 is a row fault. -/
def execRowstep (v : BitVec 13) (set : BitVec 1) (n : BitVec 2) (s : State) : Outcome :=
  onRow s 1 fun s _ r =>
    let k : Int := if set = 1#1 then v.toNat else (r.base n.toNat : Int) + v.toInt
    if k < 0 ∨ 2047 < k then .fault s else .ok s { r with bases := mapSet 0 r.bases n.toNat k.toNat }

/-- Element i of a row: an F32 word or a BF16 element. -/
def rowElem (v : BitVec 8192) (bits i : Nat) : Nat := v.toNat / 2 ^ (bits * i) % 2 ^ bits

/-- DOT of rows: exact products entered in WACC, whose tag takes those of the sources; BF16 elements are read under FTZ16
(04 R87). DEDUCED, log entry 27. -/
def execRowDot (y : BitVec 1) (m : BitVec 10) (b a : BitVec 3) (s : State) : Outcome :=
  onRow s 1 fun s blk r =>
    let ftz := s.blockFtz blk
    let bits := if y = 1#1 then 16 else 32
    let fm := if y = 1#1 then bf16 else f32
    let u := r.xreg a.toNat
    let v := r.xreg b.toNat
    if 8192 / bits < m.toNat then .fault s
    else .ok s { r with
      wacc := (List.range m.toNat).foldl (fun w i =>
        w.add (fm.read ftz (rowElem u.1 bits i)) (fm.read ftz (rowElem v.1 bits i))) r.wacc
      wpois := r.wpois || u.2 || v.2 }

/-- The row whose F32 word i is f i, for i below 256. -/
def rowOf (f : Nat → Nat) : BitVec 8192 :=
  BitVec.ofNat 8192 (ofBytes ((List.range 256).flatMap fun i => toBytes 4 (f i)))

/-- AXPY of rows, with SCAL of the command. -/
def execRowAxpy (b a d : BitVec 3) (s : State) : Outcome :=
  onRow s 1 fun s _ r =>
    let u := r.xreg a.toNat
    let v := r.xreg b.toNat
    .ok s (r.setX d.toNat (rowOf fun i => axpyWord r.scal.toNat (rowElem u.1 32 i) (rowElem v.1 32 i)) (u.2 || v.2))

/-- XREDUCE: WACC rounded once into word 0, then cleared with its tag. -/
def execXreduce (d : BitVec 3) (s : State) : Outcome :=
  onRow s 1 fun s _ r =>
    .ok s { r.setX d.toNat (BitVec.ofNat 8192 r.wacc.round) r.wpois with wacc := Wacc.zero, wpois := false }

end Sys2Proof.Machine
end

