-- ==== Sys2Proof/Machine/Coll.lean ====
section
/-!
DEFINITION. Sys2Proof/Machine/Coll.lean: collectives (09 R246, R247; 18 R404 to R408): their issue, their completion with
the contributions of the other ranks, and the loss of a link.
-/
namespace Sys2Proof.Machine

/-- The checks of a collective record (R246): the first bad field. -/
def collBad (b : List Byte) : Option Nat :=
  let spec := field b 4 4
  badField [(4, !([1, 11, 12].contains (spec % 16)) || 2 < spec / 16 % 16 || spec / 2 ^ 24 != 0),
    (24, field b 24 8 == 0 || 2 ^ 32 < field b 24 8), (32, field b 32 8 / 2 ^ 56 != 0 || field b 32 8 % 8 != 0),
    (56, field b 56 8 != 0)]

/-- The open communicator of a world with a handle. -/
def State.comm (s : State) (w : Nat) (h : Word) : Option Comm :=
  findBy (fun c => c.world == w && c.handle == h) s.comms

/-- A collective of an operation. -/
def Op.coll? (o : Op) : Option Coll :=
  match o.kind with
  | .coll c => some c
  | _ => none

/-- The collectives of an open communicator that this rank has outstanding. -/
def State.collUsed (s : State) (w : Nat) (h : Word) : Nat :=
  (s.ops.filter fun o => o.world == w && (o.coll?.any fun c => c.comm == h && c.known && !c.closed)).length

/-- The elements of SEND, and of RECV, at P ranks. -/
def Coll.sendCount (c : Coll) (p : Nat) : Nat := if c.kind = 2 ∨ c.kind = 4 then c.count * p else c.count
def Coll.recvCount (c : Coll) (p : Nat) : Nat := if c.kind = 1 ∨ c.kind = 4 then c.count * p else c.count

/-- Whether bytes from `lo` to `hi`, on whichever path, meet a buffer that a collective names. -/
def Coll.names (c : Coll) (lo hi : Nat) : Bool :=
  let meets := fun (a : DWord) (n : Nat) => lo % 2 ^ 56 < a.toNat + 4 * n && a.toNat ≤ hi % 2 ^ 56
  meets c.send (c.sendCount c.size) || meets c.recv (c.recvCount c.size)

/-- The bytes that a command of a block writes, from the first to the last. -/
def Cmd.writes (c : Cmd) : List (Nat × Nat) :=
  if c.op = 0 then [(c.xa.toNat / 2 ^ 21 * 2 ^ 21, c.xa.toNat / 2 ^ 21 * 2 ^ 21 + 2 ^ 21 - 1)]
  else c.sides.filterMap fun (y, _, w, n) =>
    let a := (if y then c.ya else c.xa).toNat
    if w && n != 0 then some (a, a + n - 1) else none

/-- Whether an earlier copy or bank call of the group has yet to write a buffer that a collective names: the release of
R247 waits for it, as that of 07 R181 does. By the addresses they name: DEDUCED, log entry 30. -/
def State.collPrior (s : State) (g : Group) (c : Coll) : Bool :=
  (s.ops.any fun o => o.gid == g.gid && !o.done && match o.kind with
    | .copy k => !k.load && k.stream.isNone && ((s.copyExtent o k).map fun e => c.names e.1 e.2).getD false
    | _ => false) ||
  s.blocks.any fun b => b.gid == g.gid && b.graph.isNone && b.stage != .answered && b.stage != .delivered &&
    b.cmds.any fun m => m.writes.any fun e => c.names e.1 e.2

/-- A `COLL` instruction at issue (R246, R406): it waits for the group's earlier writes to its buffers and takes the next
CSEQ of its communicator. -/
def collIssue (s : State) (kind : Nat) (a : BitVec 5) (f : BitVec 1) : Outcome :=
  onGroup s fun g i =>
    let flag := i.flag f
    let rec_ := (g.sreg a.toNat).val.toNat
    if s.hazard g [] [] [a.toNat] then .wait s
    else match firstCond [sPoison g 0 [a.toNat],
        if rec_ / 2 ^ 56 ≠ 0 then some { cause := addrPath, addr := rec_ } else none,
        if rec_ % 64 ≠ 0 then some { cause := addrAlign, addr := rec_ } else none] with
      | some c => .trap s c
      | none =>
        if !s.performed g.gid (fun o => o.touches.1.any fun t => t.1 == 0 || t.1 == 6) then .wait s
        else match s.grab g.core g.world g.lclock rec_ 64 with
          | .wait s => .wait s
          | .path s => .trap s { cause := addrPath, addr := rec_ }
          | .fault s d st x => .trap s { cause := xlateCause, detail := d, addr := x, aux := xlateAux st 0 }
          | .ok s bs t =>
            let b := bs.map Prod.fst
            match firstCond [poisonedByte rec_ bs,
                (collBad b).map fun n => ({ cause := recordCause, index := n, addr := rec_ } : Cond)] with
            | some c => .trap s c
            | none =>
              let h := BitVec.ofNat 32 (field b 0 4)
              let cm := s.comm g.world h
              let k : Coll :=
                  { kind := kind, comm := h, spec := BitVec.ofNat 32 (field b 4 4), send := BitVec.ofNat 64 (field b 8 8),
                    recv := BitVec.ofNat 64 (field b 16 8), count := field b 24 8, ctr := BitVec.ofNat 64 (field b 32 8),
                    cinc := BitVec.ofNat 64 (field b 40 8), recAddr := rec_, cseq := (cm.map (·.cseq)).getD 0,
                    known := cm.isSome, lost := false, bad := false, finished := false, held := none,
                    size := (cm.map (·.size)).getD 1, read := [], wrote := none, closed := false }
              if !g.flagFree flag || (cm.isSome && 8 ≤ s.collUsed g.world h) || s.collPrior g k then .wait s
              else
                let s := { s with comms := updBy (fun c => c.world == g.world && c.handle == h)
                                    (fun c => { c with cseq := c.cseq + 1 }) s.comms }
                .done ((s.modGroup g.gid fun g => g.raise t).issueOp g flag (.coll k) false)

/-- COLL.ALLRED. -/
def execCollAllred (a : BitVec 5) (f : BitVec 1) (s : State) : Outcome := collIssue s 0 a f
/-- COLL.ALLGATH. -/
def execCollAllgath (a : BitVec 5) (f : BitVec 1) (s : State) : Outcome := collIssue s 1 a f
/-- COLL.REDSCAT. -/
def execCollRedscat (a : BitVec 5) (f : BitVec 1) (s : State) : Outcome := collIssue s 2 a f
/-- COLL.BCAST. -/
def execCollBcast (a : BitVec 5) (f : BitVec 1) (s : State) : Outcome := collIssue s 3 a f
/-- COLL.ALL2ALL. -/
def execCollAll2all (a : BitVec 5) (f : BitVec 1) (s : State) : Outcome := collIssue s 4 a f

/-! ## The collective engine (R406) -/

/-- Whether SEND and RECV overlap as R406 forbids, or the root lies at P or above. -/
def Coll.overlaps (c : Coll) (p : Nat) : Bool :=
  let a := c.send.toNat
  let b := c.recv.toNat
  let same := (c.kind == 0 || c.kind == 3) && a == b
  (!same && a < b + 4 * c.recvCount p && b < a + 4 * c.sendCount p) ||
    (c.kind == 3 && p ≤ c.spec.toNat / 2 ^ 8 % 2 ^ 16)

/-- The elements that a flit carries: F32 SUM partials travel four to a flit, other elements as their words (R407). -/
def Coll.perFlit (c : Coll) : Nat := if (c.kind = 0 ∨ c.kind = 2) ∧ c.spec.toNat % 256 = 1 then 4 else 52

/-- Whether a collective's stream between two devices may pass 2^36 flits (R403): how a collective is split over flits is
not architectural. -/
def State.streamLong (s : State) (c : Coll) (p : Nat) : Bool :=
  decide (2 ^ 36 * c.perFlit < c.count * p) && Config.freeNat s.fresh % 2 == 1

/-- The reduction of one element's values over the ranks (R247): XS320 rounded once, wrapping integers, R99's extremes;
poisoned where any value is (20 R433). -/
def reduceElem (ty op : Nat) (vs : List (Nat × Bool)) : Nat × Bool :=
  let xs := vs.map Prod.fst
  let first := xs.headD 0
  (match ty, op with
    | 1, 0 => fromXs (xs.foldl (fun a v => xsAdd a (toXs v)) Xs.zero) 0
    | 1, k => xs.foldl (fext f32 (k == 1)) (fext f32 (k == 1) first first)
    | _, 0 => xs.sum % 2 ^ 32
    | 11, 1 => xs.foldl (fun a v => if toSigned 32 a < toSigned 32 v then v else a) first
    | 11, _ => xs.foldl (fun a v => if toSigned 32 v < toSigned 32 a then v else a) first
    | _, 1 => xs.foldl max first
    | _, _ => xs.foldl min first, vs.any Prod.snd)

/-- RECV of rank ρ after the collective (R247), from SEND of every rank in rank order. -/
def Coll.result (c : Coll) (rho : Nat) (sends : List (List (Nat × Bool))) : List (Nat × Bool) :=
  let ty := c.spec.toNat % 16
  let op := c.spec.toNat / 16 % 16
  let at_ := fun (l : List (Nat × Bool)) (i : Nat) => l.getD i (0, false)
  match c.kind with
  | 0 => (List.range c.count).map fun i => reduceElem ty op (sends.map fun l => at_ l i)
  | 1 => sends.flatMap fun l => l.take c.count
  | 2 => (List.range c.count).map fun i => reduceElem ty op (sends.map fun l => at_ l (rho * c.count + i))
  | 3 => (sends.getD (c.spec.toNat / 2 ^ 8 % 2 ^ 16) []).take c.count
  | _ => sends.flatMap fun l => (l.drop (rho * c.count)).take c.count

/-- The physical addresses of a buffer of words, or why it is refused; the cause 0 is a walk that waits. A buffer off path
0x0 ends the collective with STATUS RECORD, as one that does not translate: DESIGN CHOICE, log entry 62. -/
def State.collBuffer (s : State) (w need : Nat) (a : DWord) (n : Nat) : State × Except Cond (List Nat) :=
  if a.toNat / 2 ^ 56 ≠ 0 then (s, .error { cause := addrPath, addr := a.toNat })
  else match s.xlateSpans deviceAgent w need (pageSpans a.toNat (4 * n)) with
    | (s, .ok ps) => if ps.any hostWindow then (s, .error { cause := addrPath, addr := a.toNat }) else (s, .ok ps)
    | (s, .error (0, _, _)) => (s, .error { cause := 0 })
    | (s, .error (d, st, x)) => (s, .error { cause := xlateCause, detail := d, addr := x, aux := xlateAux st need })

/-- A buffer of words read by the engine: the values with their poison. -/
def collWords (bs : List (Byte × Bool)) (n : Nat) : List (Nat × Bool) :=
  (List.range n).map fun i => (elemAt bs 4 i, ((bs.drop (4 * i)).take 4).any Prod.snd)

/-- The elements of a list read by the engine at addresses of SEND, each once (R408). -/
def State.readSend (s : State) (pas : List Nat) (is : List Nat) : State × Except Nat (List (Nat × (Nat × Bool))) :=
  match s.agentRead (is.flatMap fun i => (pas.drop (4 * i)).take 4) with
  | (s, _, some b) => (s, .error b)
  | (s, bs, none) => (s, .ok (List.zip is (collWords bs is.length)))

/-- The elements of SEND that are not read yet. -/
def Coll.unread (c : Coll) (n : Nat) : List Nat := (List.range n).filter fun i => !c.read.any fun e => e.1 == i

/-- Whether a view word's copy was decoded from bytes in lines that a test picks (07 R167). -/
def viewOn (f : Nat → Bool) (key : Nat) : Bool :=
  (List.range 6).any fun k => key / 2 ^ (40 * (k + 1)) != 0 && f (key / 2 ^ (40 * k) % 2 ^ 40 / 128)

/-- A core's copies of lines on paths 0x1 and 0x5 discarded (R247: an acquire for the named buffers only). -/
def State.dropLines (s : State) (core : Nat) (lns : List Nat) : State :=
  { s with ro := s.ro.filter fun e => e.1 / copySpan != core || !lns.contains (e.1 % copySpan),
           views := s.views.filter fun e => e.1 / copySpan != core || !viewOn lns.contains (e.1 % copySpan) }

/-- A write of the engine as an agent's; one that meets a failed MAC is not performed (20 R431). -/
def State.collStore (s : State) (cells : List Host.Cell) (poisoned : List Nat) : State :=
  match s.badWrite cells with
  | some b => s.integrity (b * 128)
  | none => s.agentWrite cells poisoned

/-- The engine's write of words, element by element. -/
def State.collWrite (s : State) (pas : List Nat) (vs : List (Nat × Bool)) : State :=
  vs.zipIdx.foldl (fun s (v, i) =>
    let ps := (pas.drop (4 * i)).take 4
    s.collStore (List.zip ps (toBytes 4 v.1)) (if v.2 then ps.map (· / 128) else [])) s

/-- A collective's state changed. -/
def State.modColl (s : State) (id : Nat) (f : Coll → Coll) : State :=
  s.modOp id fun o => { o with kind := match o.kind with | .coll c => .coll (f c) | k => k }

/-- CTR raised, then the operation's end (R247); a held addition waits. -/
def State.countColl (s : State) (o : Op) (c : Coll) : State :=
  let end_ := fun (s : State) (t : Nat) => (s.meter o.world 28 1).completeOp { o with time := max o.time t }
  if c.ctr = 0#64 then end_ s 0
  else match s.addCounter o.core o.world o.team o.time c.ctr.toNat c.cinc.toNat with
    | .done s t => end_ s t
    | .wait s => s
    | .fail s e =>
      match s.holdEngine o.core o.gid o.team o.world 4 e with
      | (s, some r) => s.modColl o.id fun c => { c with held := some r }
      | (s, none) => end_ (s.engineFault o.core o.gid o.team o.world 4 e).1 0

/-- STATUS written at the record, then the counter. -/
def State.endColl (s : State) (o : Op) (c : Coll) (status : Nat) (written : List Nat) : State :=
  match s.xlate deviceAgent o.world ((c.recAddr + 48) % 2 ^ 56) 1 false with
  | (s, .held) => s
  | (s, .ok t) =>
    if s.held (addrs t.pa 8 ++ written) none then s
    else
      let cells := List.zip (addrs t.pa 8) (toBytes 8 status)
      let s := if hostWindow t.pa then s.hostWrite cells else s.collStore cells []
      let o := { o with time := max o.time (s.topRts (atomsOf (t.pa :: written))) }
      ((s.modOp o.id fun p => { p with time := o.time }).modColl o.id fun c => { c with finished := true }).countColl o
        { c with finished := true }
  | (s, .fault d st _) =>
    let e : Cond := { cause := xlateCause, detail := d, addr := c.recAddr + 48, aux := xlateAux st 1 }
    let s := (s.engineFault o.core o.gid o.team o.world 4 e).1
    (s.modColl o.id fun c => { c with finished := true }).countColl o { c with finished := true }
  | (s, _) => (s.modColl o.id fun c => { c with finished := true }).countColl o { c with finished := true }

/-- RECV's words written, with the STATUS that is left to write; the issuing core's copies of the named buffers go (R247). -/
def State.putRecv (s : State) (o : Op) (named to_ : List Nat) (vs : List (Nat × Bool)) (status : Nat) : State :=
  (((s.collWrite to_ vs).dropLines o.core (distinct ((named ++ to_).map (· / 128)))).modColl o.id fun c =>
    { c with wrote := some status }).modOp o.id fun p => { p with time := max (max p.time o.time) (s.topRts (atomsOf to_)) }

/-- The operation as it acquires the writes to the buffers that it names (R247). -/
def Op.acquired (o : Op) (s : State) (named : List Nat) : Op :=
  { o with time := (atomsOf named).foldl (fun m a => max m (s.stamp a).1) o.time }

/-- Flits sent for a collective (22 R463): how many is not architectural. -/
def State.sendFlits (s : State) (w : Nat) : State := (s.meter w 22 (208 * Config.freeNat s.fresh)).draw

/-- The end of a collective whose link is lost (R407): RECV is undefined, so each word that can be written takes a free
value. -/
def State.loseColl (s : State) (o : Op) (c : Coll) : State :=
  let n := c.recvCount c.size
  match s.collBuffer o.world 1 c.recv n with
  | (s, .ok pas) =>
    if s.held pas none then s
    else
      let vs := (List.range n).map fun i => ((Config.undefRecv s.fresh i).toNat, false)
      let o := o.acquired s pas
      ((s.draw.sendFlits o.world).putRecv o [] pas vs 2).endColl o c 2 pas
  | (s, .error e) => if e.cause = 0 then s else s.endColl o c 2 []

/-- A buffer refused in translation: held where it may be, else the collective ends with STATUS RECORD.
DEDUCED, log entry 30. -/
def State.refuseColl (s : State) (o : Op) (c : Coll) (e : Cond) : State :=
  if e.cause = 0 then s else
  match s.holdEngine o.core o.gid o.team o.world 4 e with
  | (s, some r) => s.modColl o.id fun c => { c with held := some r }
  | (s, none) =>
    let (s, r) := s.form o.world (s.engineRecord o.core o.gid o.team 4 0 e)
    ((s.blame o.team).postOnly o.world r).endColl o c 3 []

/-- The other ranks' contributions in rank order, with this rank's own; none while a rank's is missing, or where one names
a rank that there is not. -/
def gatherRanks (p rho : Nat) (own : RankData) (ranks : List RankData) : Option (List RankData) :=
  if ranks.any fun d => decide (p ≤ d.rank) then none else
  (List.range p).mapM fun r => if r = rho then some own else findBy (fun d => d.rank == r) ranks

/-- An element of SEND, taken by a free draw, read before the collective completes (R408). -/
def State.readOn (s : State) (o : Op) (c : Coll) (pas : List Nat) : State :=
  let left := c.unread (c.sendCount c.size)
  match left[Config.freeNat s.fresh % left.length]? with
  | none => s
  | some i =>
    match s.draw.readSend pas [i] with
    | (s, .error b) => s.integrity (b * 128)
    | (s, .ok es) => s.modColl o.id fun c => { c with read := c.read ++ es }

/-- A collective performed with every rank's contribution (R406); while one is missing the engine reads on. -/
def State.runColl (s : State) (o : Op) (c : Coll) (cm : Comm) (ranks : List RankData) : State :=
  match s.collBuffer o.world 0 c.send (c.sendCount cm.size) with
  | (s, .error e) => s.refuseColl o c e
  | (s, .ok from_) =>
    match s.collBuffer o.world 1 c.recv (c.recvCount cm.size) with
    | (s, .error e) => s.refuseColl o c e
    | (s, .ok to_) =>
      if s.held (from_ ++ to_) none then s
      else
        match s.readSend from_ (c.unread (c.sendCount cm.size)) with
        | (s', .error b) => s'.integrity (b * 128)
        | (s', .ok es) =>
          let mine := (List.range (c.sendCount cm.size)).map fun i =>
            ((findBy (fun e => e.1 == i) (c.read ++ es)).map Prod.snd).getD (0, false)
          let own : RankData := ⟨cm.rank, c.kind, c.spec, c.count, false,
            mine.map fun v => (BitVec.ofNat 32 v.1, v.2)⟩
          match gatherRanks cm.size cm.rank own ranks with
          | none => s.readOn o c from_
          | some all =>
            let s := s'
            let long := s.streamLong c cm.size
            let s := s.draw
            let o := o.acquired s (from_ ++ to_)
            let past := s.dropLines o.core (distinct ((from_ ++ to_).map (· / 128)))
            if all.any fun d => d.kind != c.kind || d.spec != c.spec || d.count != c.count then past.endColl o c 1 []
            else if long || all.any (·.bad) then past.endColl o c 3 []
            else
              let out := c.result cm.rank (all.map fun d => d.data.map fun v => (v.1.toNat, v.2))
              ((s.sendFlits o.world).putRecv o from_ to_ out 0).endColl o c 0 to_

/-- Whether a port may carry a world's flits to a device (18 R400, R401, 17 R399). -/
def State.carries (s : State) (w : Nat) (dev : BitVec 12) (k : Nat) : Bool :=
  (mapGet 0#18 s.routes dev.toNat).getLsbD k && (mapGet Port.reset s.ports k).stat == 2#2 &&
  mapGet 0#8 s.lshare (18 * w + k) != 0#8

/-- The port that a communicator's flits to a device take: of the UP ports that ROUTE names, the one that the hash selects
(R401). -/
def State.portFor (s : State) (dev : BitVec 12) (comm : Word) : Option Nat :=
  let up := (List.range 18).filter fun k =>
    (mapGet 0#18 s.routes dev.toNat).getLsbD k && (mapGet Port.reset s.ports k).stat == 2#2
  up[Config.portHash s.devid dev comm % up.length]?

/-- Whether a route to every other rank remains (R407). -/
def State.routed (s : State) (w : Nat) (cm : Comm) : Bool :=
  cm.devs.all fun d => d == s.devid || (s.portFor d cm.handle).any (s.carries w d)

/-- COLLECTIVE_COMPLETION: the collective completes once every rank's contribution has arrived; a handle that was not
open, a CSEQ past its range, or buffers that overlap end it with STATUS RECORD, and a polder in quarantine with LINK
(20 R444). -/
def execCollectiveCompletion (op : Nat) (ranks : List RankData) (s : State) : Outcome :=
  .next (match s.op op with
    | some o =>
      match o.coll? with
      | none => s
      | some c =>
        match c.wrote with
        | some status =>
          if c.finished then (if c.held.isSome then s else s.countColl o c)
          else s.endColl o c (if c.known && (c.lost || !s.active o.world) then 2 else status) []
        | none =>
        if c.finished then (if c.held.isSome then s else s.countColl o c)
        else if c.known && (!s.active o.world || c.lost) then s.loseColl o c
        else if c.held.isSome then s
        else if !c.known || c.bad || 2 ^ 32 ≤ c.cseq then s.endColl o c 3 []
        else match s.comm o.world c.comm with
          | none => s.loseColl o c
          | some cm =>
            if c.overlaps cm.size then s.endColl o c 3 []
            else if !s.routed o.world cm then s.loseColl o c
            else s.runColl o c cm ranks
    | none => s)

/-- COLLECTIVE_LINK_TIMEOUT: the flits of a collective whose RECV is not written have stopped arriving (R407). -/
def execCollectiveLinkTimeout (op : Nat) (s : State) : Outcome :=
  .next (match s.op op with
    | some o =>
      match o.coll? with
      | some c => if c.finished || !c.known || c.wrote.isSome then s else (s.modColl op fun c => { c with lost := true }).loseColl o { c with lost := true }
      | none => s
    | none => s)

/-- The response to a collective's held fault (20 R438): after ABORT a counter's addition is lost, a buffer's collective
ends with STATUS RECORD. -/
def State.answerColl (s : State) (o : Op) (c : Coll) (r : Record) (retry : Bool) : State :=
  let s := s.modColl o.id fun c => { c with held := none }
  if retry then s
  else if c.finished then
    ((s.reportFault o.gid o.team o.world r.aborted).1.meter o.world 28 1).completeOp o
  else (s.blame o.team).modColl o.id fun c => { c with bad := true }

end Sys2Proof.Machine
end

