-- ==== Sys2Proof/Machine/Latch.lean ====
section
/-!
DEFINITION. Sys2Proof/Machine/Latch.lean: world latches (17 R383, R384) and the invalidation of translations (05 R129,
R130).
-/
namespace Sys2Proof.Machine

/-! ## World latches -/

/-- Steps 3 and 4 of a latch change: the atoms that the cluster's merge unit holds are merged, and all that the cluster
keeps is cleared. Check-out ranges stay registered, and the collectives of saved groups run on (21 R447). -/
def State.clearCluster (s : State) (c : Nat) : State :=
  let mine := fun (core : Nat) => core / 4 == c
  let s := s.uatoms.foldl (fun s u => if u.holders.any (fun h => h.1 == c) then s.mergeAtom u.atom 0 (some c) else s) s
  let saved := (s.pldrs.flatMap (·.2.saved)).flatMap fun v => v.groups.map (·.gid)
  let gangs := (s.teams.filter fun t => mine t.core).map (·.gang)
  { s with l1 := s.l1.filter (fun e => !mine (e.1 / copySpan)), ro := s.ro.filter (fun e => !mine (e.1 / copySpan)),
           views := s.views.filter (fun e => !mine (e.1 / copySpan)),
           tlb := s.tlb.filter (fun e => !(e.agent < 192 && mine e.agent)),
           tags := s.tags.filter (fun e => !mine (e.1 / 2048)),
           groups := s.groups.filter (fun g => !mine g.core), teams := s.teams.filter (fun t => !mine t.core),
           queues := s.queues.filter (fun q => !gangs.contains q.gang),
           ops := s.ops.filter (fun o => !(mine o.core && o.gid != 0) || (o.coll?.isSome && saved.contains o.gid)),
           blocks := s.blocks.filter (fun b => !(mine b.core && b.graph.isNone)),
           tasks := s.tasks.filter (fun t => !mine t.core), walks := s.walks.filter (fun k => !mine k.core) }

/-- The latch of a cluster set after its clear (steps 4 to 6). -/
def State.setLatch (s : State) (c w : Nat) : State :=
  let s := s.clearCluster c
  { s with latch := mapSet 63#6 s.latch c (BitVec.ofNat 6 w), changing := mapSet false s.changing c false }

/-- A cluster given to a world and latched to it at once. -/
def State.giveCluster (s : State) (c w : Nat) : State :=
  { s with clown := mapSet 63#6 s.clown c (BitVec.ofNat 6 w) }.setLatch c w

/-- The clusters of a world by CLOWN. -/
def State.clusters (s : State) (w : Nat) : List Nat :=
  (List.range 48).filter fun c => mapGet 63#6 s.clown c == BitVec.ofNat 6 w

/-! ## Invalidation (05 R129, R130) -/

/-- Whether a kept translation is one that an invalidation names: KIND 0 that whose page contains an address, its page of
stage 2 and an intermediate address for STAGE 2, KIND 1 a world's, KIND 2 every polder's. -/
def TlbEntry.named (e : TlbEntry) (kind stage addr w : Nat) : Bool :=
  match kind with
  | 0 => e.world == w &&
    (if stage = 2 then e.ia / 2 ^ e.log2 == addr / 2 ^ e.log2 else e.page * 65536 / 2 ^ e.log1 == addr % 2 ^ 56 / 2 ^ e.log1)
  | 1 => e.world == w
  | _ => e.world < 48

/-- The named translations marked by a group, or by 0 for an INVCTL: they may stay in use until the invalidation
completes. -/
def State.invalidate (s : State) (by_ kind stage addr w : Nat) : State :=
  { s with tlb := s.tlb.map fun e =>
      if e.named kind stage addr w then { e with stale := true, marks := by_ :: e.marks } else e }

/-- Whether an invalidation of a group, or the INVCTL of a world, named an entry. -/
def TlbEntry.markedBy (e : TlbEntry) (by_ w : Nat) : Bool := e.stale && e.marks.contains by_ && (by_ != 0 || e.world == w)

/-- Whether an access, in flight or waiting with its checks passed, or a command block in flight was translated through an entry that the invalidations of a group, or
the INVCTL of a world, named. -/
def State.staleInUse (s : State) (by_ w : Nat) : Bool :=
  let es := s.tlb.filter fun e => e.markedBy by_ w
  (s.ops.any fun o => !o.done && o.touches.1.any fun t => t.2.any fun p =>
    p.1.isNone && es.any fun e => e.world == o.world && e.pa / 65536 == p.2 / 65536) ||
  (s.groups.any fun g => (g.passed.getD []).any fun p => p.2.any fun l => l.bytes.any fun b =>
    b.1.isNone && es.any fun e => e.world == g.world && e.pa / 65536 == b.2 / 65536) ||
  (s.blocks.any fun b => b.stage == .running && es.any fun e => e.world == b.world)

/-- The translations that they named removed. -/
def State.dropStale (s : State) (by_ w : Nat) : State :=
  { s with tlb := s.tlb.filter fun e => !e.markedBy by_ w }

end Sys2Proof.Machine
end

