-- ==== Sys2Proof/Machine/Launch.lean ====
section
/-!
DEFINITION. Sys2Proof/Machine/Launch.lean: `LAUNCH` (08 R216), the launch queues and the distributor (16 R353 to R363),
the lock-keeper's start (16 R351), spawn bins (08 R201, 10 R261), graphs (16 R365 to R368), the ends of grids.
-/
namespace Sys2Proof.Machine

/-! ## Reading the structures of a launch (R216, R355, R366) -/

/-- Why a launch's structures are not read: a trap, or a wait. -/
inductive Unread where
  | wait
  | trap (c : Cond)
deriving DecidableEq, Repr

/-- A reader of memory that keeps the addresses read. -/
abbrev Reading (α : Type) := State × Except Unread (α × List Nat)

/-- n bytes at an address of path 0x0 or 0x1, with their poison, and where those in device memory stand; merges are forced
at clock c. Bytes behind the host window are as the host has them (18 R411). -/
def State.take (s : State) (core w c a n : Nat) : Reading (List (Byte × Bool)) :=
  match s.xlateSpans core w 0 (pageSpans (a % 2 ^ 56) n) with
  | (s, .error (d, st, x)) =>
    if d = 0 then (s, .error .wait)
    else if st = 0 then (s, .error (.trap { cause := addrPath, addr := a / 2 ^ 56 * 2 ^ 56 + x % 2 ^ 56 }))
    else (s, .error (.trap { cause := xlateCause, detail := d, addr := a / 2 ^ 56 * 2 ^ 56 + x % 2 ^ 56, aux := xlateAux st 0 }))
  | (s, .ok pas) =>
    let near := pas.filter (!hostWindow ·)
    if s.held near none then (s, .error .wait)
    else match s.readHome c (some (core / 4)) near with
      | (s, _, some b) => (s.integrity (b * 128), .error .wait)
      | (s, bs, none) =>
        let (s, hs) := if near.length = pas.length then (s, []) else s.hostRead (pas.filter hostWindow)
        let found := List.zip near bs ++ List.zip (pas.filter hostWindow) hs
        (s, .ok (pas.map fun p => ((findBy (fun e => e.1 == p) found).map (·.2)).getD (0#8, false), near))

/-- Bytes that must not be poisoned. -/
def State.takeClean (s : State) (core w c a n : Nat) : Reading (List Byte) :=
  match s.take core w c a n with
  | (s, .error e) => (s, .error e)
  | (s, .ok (bs, pas)) =>
    match poisonedByte a bs with
    | some c => (s, .error (.trap c))
    | none => (s, .ok (bs.map Prod.fst, pas))

/-- The one logical time of a read of atoms at their homes: at least the clock and each wts; each rts is raised to it. -/
def State.readAt (s : State) (clock : Nat) (pas : List Nat) : State × Nat :=
  let atoms := atomsOf pas
  let t := atoms.foldl (fun t a => max t (s.stamp a).1) clock
  (atoms.foldl (fun s a => s.setStamp a ((s.stamp a).1, max t (s.stamp a).2)) s, t)

/-! ## Records and descriptors (R353 to R355) -/

/-- The fields of a launch record. -/
def launchOf (b : List Byte) : Launch :=
  { target := BitVec.ofNat 64 (field b 0 8), gx := field b 8 4, gy := field b 12 4, gz := field b 16 4,
    gang := field b 20 1, prio := field b 21 1 % 4, attr := BitVec.ofNat 16 (field b 22 2), poolcap := field b 24 2,
    args := BitVec.ofNat 64 (field b 32 8), ctr := BitVec.ofNat 64 (field b 40 8),
    cinc := BitVec.ofNat 64 (field b 48 8) }

/-- KIND of a launch record. -/
def launchKind (b : List Byte) : Nat := field b 21 1 / 4 % 2

/-- An address on path 0x0 or 0x1, aligned. -/
def lowPath (a align : Nat) : Bool := a / 2 ^ 60 ≤ 1 && a / 2 ^ 56 % 16 == 0 && a % align == 0

/-- A kernel descriptor of its bytes. -/
def kernelOf (b : List Byte) : Kernel :=
  { entry := BitVec.ofNat 64 (field b 0 8), trapent := BitVec.ofNat 64 (field b 8 8), frame := field b 16 1,
    groups := field b 17 1, tiles := field b 19 1, scratch := field b 20 4, bins := field b 24 1,
    queues := field b 25 1, qkind := BitVec.ofNat 16 (field b 26 2), timer := field b 28 4,
    attr := BitVec.ofNat 16 (field b 32 2) }

/-- Whether a descriptor's fields are in range (R354); GANGHINT is not read. -/
def kernelOk (b : List Byte) : Bool :=
  let k := kernelOf b
  lowPath k.entry.toNat 4 && (k.trapent == 0#64 || lowPath k.trapent.toNat 4) && 1 ≤ k.frame && k.frame ≤ 128 &&
  1 ≤ k.groups && k.groups ≤ 16 && k.tiles ≤ 48 && k.scratch % 4096 == 0 && k.scratch ≤ 1048576 && k.bins ≤ 16 &&
  k.queues ≤ 16 && k.qkind.toNat / 2 ^ k.queues == 0 && 64 ≤ k.timer && k.timer ≤ 65536 && k.attr.toNat / 4 == 0 &&
  field b 34 30 == 0

/-- Steps 2 to 4 of R355 on a grid's record and kernel; a graph's record has no kernel. DEDUCED, log entry 36. -/
def launchStatus (b : List Byte) (k : Option Kernel) : Nat :=
  let l := launchOf b
  let dim := fun (n : Nat) => 1 ≤ n && n ≤ 2 ^ 20
  if k.isSome && !(dim l.gx && dim l.gy && dim l.gz && 1 ≤ l.gang && l.gang ≤ 4) then 2
  else if field b 21 1 / 8 != 0 || l.attr.toNat / 8 != 0 || field b 26 6 != 0 || field b 56 8 != 0 ||
      !(l.poolcap == 0 || (8 ≤ l.poolcap && l.poolcap ≤ 1024)) || (k.isSome && l.attr.getLsbD 2) ||
      (k.isNone && !(l.gx == 0 && l.gy == 0 && l.gz == 0 && l.gang == 0)) ||
      (l.ctr != 0#64 && !(l.ctr.toNat / 2 ^ 56 == 0 && l.ctr.toNat % 8 == 0)) then 4
  else match k with
    | some k =>
      let need := k.groups * granules k.frame
      if (if l.poolcap = 0 then 1024 else l.poolcap) < need || 256 < k.groups || 1048576 < k.scratch || 48 < k.tiles
      then 3 else 0
    | none => 0

/-- A grid's descriptor read and the grid's record checked: the launch, or the status that refuses it. -/
def State.takeGrid (s : State) (core w c : Nat) (b : List Byte) : Reading (Except Nat (Launch × Kernel)) :=
  let l := launchOf b
  if !lowPath l.target.toNat 64 then (s, .ok (.error 1, []))
  else match s.takeClean core w c l.target.toNat 64 with
    | (s, .error e) => (s, .error e)
    | (s, .ok (d, pas)) =>
      let n := if kernelOk d then launchStatus b (some (kernelOf d)) else 1
      (s, .ok (if n = 0 then .ok (l, kernelOf d) else .error n, pas))

/-! ## Graph templates (R365, R366) -/

/-- Whether a node record is malformed, whatever its body holds. -/
def nodeBad (b : List Byte) : Bool :=
  let ty := field b 0 1
  let op := field b 1 1
  let body := field b 8 8
  let src := field b 16 8
  let dst := field b 24 8
  let len := field b 32 8
  !(1 ≤ ty && ty ≤ 4) || (if ty = 4 then 4 < op else op != 0) || field b 2 6 != 0 || field b 40 24 != 0 ||
  (if ty = 2 then body != 0 || src / 2 ^ 56 != 0 || src % 128 != 0 || dst / 2 ^ 56 != 0 || dst % 128 != 0 || len % 128 != 0
   else body / 2 ^ 56 != 0 || body % 64 != 0 || src != 0 || dst != 0 || len != 0)

/-- A node's body read, none where it is malformed. A command block keeps its poison for its run (R313). A body that its
record does not place on path 0x0 is not read: DEDUCED, log entry 36. -/
def State.takeBody (s : State) (core w c : Nat) (b : List Byte) : Reading (Option NodeBody) :=
  let body := field b 8 8
  let ok := fun (x : NodeBody) => if nodeBad b then none else some x
  let ty := field b 0 1
  if ty = 2 then (s, .ok (ok (.copy (BitVec.ofNat 64 (field b 16 8)) (BitVec.ofNat 64 (field b 24 8)) (field b 32 8)), []))
  else if !(ty = 1 || ty = 3 || ty = 4) || body / 2 ^ 56 != 0 || body % 64 != 0 then (s, .ok (none, []))
  else if ty = 3 then
    match s.take core w c body 32 with
    | (s, .error e) => (s, .error e)
    | (s, .ok (h, pas)) =>
      let raw := h.map Prod.fst
      let n := if headerOk raw then field raw 0 1 else 0
      match s.take core w c (body + 32) (32 * n) with
      | (s, .error e) => (s, .error e)
      | (s, .ok (r, more)) =>
        let all := h ++ r
        (s, .ok (ok (.bankcall (BitVec.ofNat 64 body) (all.map Prod.fst) (all.any Prod.snd)), pas ++ more))
  else
    match s.takeClean core w c body 64 with
    | (s, .error e) => (s, .error e)
    | (s, .ok (r, pas)) =>
      if ty = 4 then (s, .ok (ok (.coll (field b 1 1) (BitVec.ofNat 64 body) r), pas))
      else if launchKind r != 0 then (s, .ok (none, pas))
      else match s.takeGrid core w c r with
        | (s, .error e) => (s, .error e)
        | (s, .ok (.error _, more)) => (s, .ok (none, pas ++ more))
        | (s, .ok (.ok (l, k), more)) => (s, .ok (ok (.grid l k), pas ++ more))

/-- The nodes of a template, from their records' bytes. -/
def State.takeNodes (s : State) (core w c : Nat) : List (List Byte) → Reading (List (Option NodeBody))
  | [] => (s, .ok ([], []))
  | b :: l =>
    match s.takeBody core w c b with
    | (s, .error e) => (s, .error e)
    | (s, .ok (x, pas)) =>
      match s.takeNodes core w c l with
      | (s, .error e) => (s, .error e)
      | (s, .ok (xs, more)) => (s, .ok (x :: xs, pas ++ more))

/-- A graph template read whole, its header, nodes, edges and bodies, before any of it is checked (R355): none where it is
malformed. -/
def State.takeGraph (s : State) (core w c target : Nat) : Reading (Option (List NodeBody × List (Nat × Nat))) :=
  match s.takeClean core w c target 64 with
  | (s, .error e) => (s, .error e)
  | (s, .ok (h, p1)) =>
    let nodes := field h 8 8
    let edges := field h 16 8
    let nodesOk := 1 ≤ field h 0 4 && field h 0 4 ≤ 256 && lowPath nodes 64
    let edgesOk := field h 4 4 ≤ 1024 && lowPath edges 1
    let n := if nodesOk then field h 0 4 else 0
    let m := if edgesOk then field h 4 4 else 0
    match s.takeClean core w c nodes (64 * n) with
    | (s, .error e) => (s, .error e)
    | (s, .ok (nb, p2)) =>
      match s.takeClean core w c edges (4 * m) with
      | (s, .error e) => (s, .error e)
      | (s, .ok (eb, p3)) =>
        match s.takeNodes core w c ((List.range n).map fun i => (nb.drop (64 * i)).take 64) with
        | (s, .error e) => (s, .error e)
        | (s, .ok (xs, p4)) =>
          let es := (List.range m).map fun i => (field eb (4 * i) 2, field eb (4 * i + 2) 2)
          let ok := nodesOk && edgesOk && field h 24 40 == 0 && es.all (fun e => e.1 < e.2 && e.2 < n) && !xs.contains none
          (s, .ok (if ok then some (xs.filterMap id, es) else none, p1 ++ p2 ++ p3 ++ p4))

/-- What a `LAUNCH` reads and checks at its second step (08 R216, 16 R355): the launch, or the status that refuses it. The
one logical time of the read is answered last. -/
def State.takeLaunch (s : State) (core w c a : Nat) : State × Except Unread (Except Nat LaunchRead × Nat) :=
  match s.takeClean core w c a 64 with
  | (s, .error e) => (s, .error e)
  | (s, .ok (r, pas)) =>
    let l := launchOf r
    let timed := fun (s : State) (more : List Nat) (f : Nat → Except Nat LaunchRead) =>
      let (s, t) := s.readAt c (pas ++ more)
      (s, Except.ok (f t, t))
    if launchKind r = 0 then
      match s.takeGrid core w c r with
      | (s, .error e) => (s, .error e)
      | (s, .ok (.error n, more)) => timed s more fun _ => .error n
      | (s, .ok (.ok (l, k), more)) => timed s more fun t => .ok (.grid l k t)
    else if !lowPath l.target.toNat 64 then timed s [] fun _ => .error 1
    else match s.takeGraph core w c l.target.toNat with
      | (s, .error e) => (s, .error e)
      | (s, .ok (none, more)) => timed s more fun _ => .error 1
      | (s, .ok (some (xs, es), more)) =>
        let n := launchStatus r none
        timed s more fun t => if n = 0 then .ok (.graph l xs es t) else .error n

/-! ## Acceptance (R356) -/

/-- The copies of paths 0x1 and 0x5 in the cores of a world discarded: a launch sees nothing older than its start
(07 R174). DEDUCED, log entry 13. -/
def State.startSpan (s : State) (w : Nat) : State :=
  let keep := fun (e : Nat × Option Copied) => mapGet 63#6 s.latch (e.1 / copySpan / 4) != BitVec.ofNat 6 w
  { s with ro := s.ro.filter keep, views := s.views.filter keep }

/-- A grid of a polder with the next GRIDID; its Launch span begins. -/
def State.newGrid (s : State) (w : Nat) (l : Launch) (k : Kernel) (clock : Nat) (cluster : Option Nat)
    (node : Option (Nat × Nat)) (keeper : Bool) : State :=
  let p := s.polder w
  let g : Grid :=
    { key := s.ids, world := w, gridid := p.gridid, prio := l.prio, strict := l.attr.getLsbD 0 || k.attr.getLsbD 0,
      ftz := l.attr.getLsbD 1 || k.attr.getLsbD 1, kernel := k, gx := l.gx, gy := l.gy, gz := l.gz, gang := l.gang,
      args := l.args, ctr := l.ctr, cinc := l.cinc, poolcap := l.poolcap, next := 0, ended := 0, launcher := clock,
      cluster := cluster, node := node, keeper := keeper, desc := l.target, base := p.meters, clock := clock,
      error := false, held := none }
  ({ s with grids := s.grids ++ [g], ids := s.ids + 1 }.setPolder w { p with gridid := p.gridid + 1#32 }).startSpan w

/-- An entry at the end of a launch queue. -/
def State.enqueue (s : State) (w prio : Nat) (graph : Bool) (key : Nat) : State :=
  { s with launches := s.launches ++ [⟨w, prio, graph, key, s.clock, false⟩] }

/-- The teams of a grid. -/
def Grid.total (g : Grid) : Nat := g.gx * g.gy * g.gz

/-- The graph of an entry: its own, or that of which it is a ready node. -/
def State.graphOf (s : State) (e : LaunchEntry) : Option Graph :=
  if e.graph then s.graph e.key else findBy (fun k => k.nodes.any fun n => n.key == e.key) s.graphs

/-- Whether an entry is a ready node of a graph: it takes no entry of the queue's own (R356). -/
def State.ofNode (s : State) (e : LaunchEntry) : Bool := !e.graph && (s.graphOf e).isSome

/-- Whether every node of a graph has been placed or cancelled, which frees its entry (R356). -/
def State.allPlaced (s : State) (k : Graph) : Bool :=
  k.nodes.all fun n => n.state != .waiting && !s.launches.any fun e => !e.graph && e.key == n.key

/-- The entries of a queue in use. -/
def State.queued (s : State) (w prio : Nat) : Nat :=
  (s.launches.filter fun e => e.world == w && e.prio == prio && !s.ofNode e &&
    !(e.graph && ((s.graph e.key).map s.allPlaced).getD true)).length

/-- A graph of its template's snapshot. -/
def newGraph (key w : Nat) (l : Launch) (xs : List NodeBody) (es : List (Nat × Nat)) (clock : Nat)
    (cluster : Option Nat) : Graph :=
  { key := key, world := w, target := l.target, prio := l.prio, reent := l.attr.getLsbD 2, ctr := l.ctr, cinc := l.cinc,
    nodes := xs.map fun b => ⟨b, .waiting, 0, 0, false, 0, none⟩, edges := es, clock := clock,
    cluster := cluster, held := none }

/-- The cluster to which the launches of a world-60 group are bound: cluster 0 in training, then the cluster of its
SERVICE command (23 R476, R486). -/
def State.launchCluster (s : State) (g : Group) : Option Nat :=
  if g.world ≠ 60 then none else if s.trust.boot = 2#4 then some 0 else some (g.core / 4)

/-- The status of `LAUNCH` in S[SB], with a clear tag. -/
def State.launchDone (s : State) (g : Group) (b : BitVec 5) (n : Nat) : State :=
  s.modGroup g.gid fun g => g.setS b.toNat ⟨BitVec.ofNat 64 n, false⟩

/-- The priority of a launch as read. -/
def LaunchRead.prio : LaunchRead → Nat
  | .grid l _ _ | .graph l _ _ _ => l.prio

/-- The acceptance of a launch as read, once its queue has room (08 R216 step 3, 16 R356). -/
def State.accept (s : State) (g : Group) (b : BitVec 5) (r : LaunchRead) : Res :=
  if 256 ≤ s.queued g.world r.prio then .wait (s.modGroup g.gid fun h => { h with launching := some r })
  else
    let key := s.ids
    let s := match r with
      | .grid l k t => (s.newGrid g.world l k t (s.launchCluster g) none false).enqueue g.world l.prio false key
      | .graph l xs es t =>
        ({ s with graphs := s.graphs ++ [newGraph key g.world l xs es t (s.launchCluster g)], ids := key + 1 }.startSpan
          g.world).enqueue g.world l.prio true key
    .done (((s.modGroup g.gid fun h => { h with launching := none }).meter g.world 26 1).launchDone g b 0)

/-- The operations that a `LAUNCH` lets perform before it reads its record: those that a `REL` waits for (08 R216), and
the group's loads on path 0x0, which its own read follows (11 R275). -/
def launchWaits (o : Op) : Bool := releaseWaits o || o.touches.1.any (·.1 == 0)

/-- LAUNCH. -/
def execLaunch (b a : BitVec 5) (s : State) : Outcome :=
  onWaiting s fun g _ =>
    let rec_ := (g.sreg a.toNat).val.toNat
    match g.launching with
    | some r => s.accept g b r
    | none =>
      if s.hazard g [] [] [a.toNat, b.toNat] then .wait s
      else match firstCond [sPoison g 0 [a.toNat],
          if rec_ / 2 ^ 56 ≠ 0 ∨ (g.world = 60 ∧ s.physOk rec_ = false) then some { cause := addrPath, addr := rec_ } else none,
          if rec_ % 64 ≠ 0 then some { cause := addrAlign, addr := rec_ } else none] with
        | some c => .trap s c
        | none =>
          if !s.performed g.gid launchWaits || !s.active g.world then .wait s
          else
            match s.takeLaunch g.core g.world (max g.lclock (s.opTime g.gid launchWaits)) rec_ with
            | (s, .error .wait) => .wait s
            | (s, .error (.trap c)) => .trap s c
            | (s, .ok (r, t)) =>
              let s := s.modGroup g.gid fun h => h.raise t
              match r with
              | .error n => .done (s.launchDone g b n)
              | .ok r => s.accept g b r

/-! ## The distributor (R357 to R362) -/

/-- Whether a graph is held by an earlier launch of the same graph that has not completed (R368). -/
def State.graphHeld (s : State) (k : Graph) : Bool :=
  !k.reent && s.graphs.any fun j => j.key < k.key && j.world == k.world && j.target == k.target

/-- The clusters whose queues a world keeps apart: those of SERVICE commands are served independently (23 R486). -/
def launchLines (w : Nat) : List (Option Nat) := if w = 60 then (List.range 48).map some else [none]

/-- The cluster to which an entry is bound. -/
def State.lineOf (s : State) (e : LaunchEntry) : Option Nat :=
  match s.graphOf e with
  | some k => k.cluster
  | none => (s.grid e.key).bind (·.cluster)

/-- The head of a queue: graphs that run are past it. A held graph is the head, but for the ready nodes of the launches
accepted before it, which pass it (R364, R368). DEDUCED, log entry 63. -/
def State.head (s : State) (w prio : Nat) (line : Option Nat) : Option LaunchEntry :=
  match s.launches.filter fun e => e.world == w && e.prio == prio && s.lineOf e == line &&
      !(e.graph && ((s.graph e.key).map fun k => !s.graphHeld k).getD false) with
  | [] => none
  | e :: l =>
    if e.graph then
      (findBy (fun f => !f.graph && ((s.graphOf f).map fun k => decide (k.key < e.key)).getD false) l).or (some e)
    else some e

/-- The free granules of the pool that a grid's team on a core draws on, none where a private pool cannot be taken. -/
def State.roomIn (s : State) (k : Grid) (core : Nat) : Option Nat :=
  let free := fun (p : Pool) => s.usable p - s.inUse p
  if k.poolcap = 0 then some (free (core, none))
  else if s.teams.any fun t => t.grid == k.key && t.core == core then some (free (core, some k.key))
  else if k.poolcap ≤ free (core, none) then some k.poolcap else none

/-- The free slots, scratchpad bytes and tile slots of a core. -/
def State.freeOf (s : State) (core : Nat) : Nat × Nat × Nat :=
  let ts := s.teams.filter fun t => t.core == core
  (256 - (s.groups.filter fun g => g.core == core).length, 1048576 - (ts.map (·.kernel.scratch)).sum,
    48 - (ts.map (·.kernel.tiles)).sum)

/-- Whether a team of a grid fits a core (R359), with the keys of R360: granules, slots, scratchpad. -/
def State.fits (s : State) (k : Grid) (core : Nat) : Option (Nat × Nat × Nat) :=
  let cl := core / 4
  let (slots, scr, tiles) := s.freeOf core
  let mine := match k.cluster with | some c => c == cl | none => !mapGet false s.service cl
  if mapGet 63#6 s.latch cl == BitVec.ofNat 6 k.world && !mapGet false s.changing cl && mine &&
      k.kernel.groups ≤ slots && k.kernel.scratch ≤ scr && k.kernel.tiles ≤ tiles then
    match s.roomIn k core with
    | some n => if k.kernel.groups * granules k.kernel.frame ≤ n then some (n, slots, scr) else none
    | none => none
  else none

/-- The base cores of a gang of n teams in a cluster. -/
def gangBases (n : Nat) : List Nat :=
  if n = 1 then [0, 1, 2, 3] else if n = 2 then [0, 2] else if n = 3 then [0, 1] else [0]

/-- The least of each key over a gang's cores, none where one does not fit. -/
def State.gangFits (s : State) (k : Grid) (base : Nat) : Nat → Option (Nat × Nat × Nat)
  | 0 => some (2 ^ 64, 2 ^ 64, 2 ^ 64)
  | n + 1 =>
    match s.gangFits k base n, s.fits k (base + n) with
    | some (a, b, c), some (x, y, z) => some (min a x, min b y, min c z)
    | _, _ => none

/-- The least loaded of base cores with their keys, by core number: greater keys first, then the lower core (R360). -/
def leastLoaded (cands : List (Nat × (Nat × Nat × Nat))) : Option Nat :=
  (cands.foldl (fun best c => match best with
    | none => some c
    | some (cb, (a, b, d)) =>
      let (_, (x, y, z)) := c
      if a < x ∨ (a = x ∧ (b < y ∨ (b = y ∧ d < z))) then some c else some (cb, (a, b, d))) none).map (·.1)

/-- The base cores at which n teams of a gang can stand (R358), with the keys that a test gives. -/
def basesOf (n : Nat) (keys : Nat → Option (Nat × Nat × Nat)) : List (Nat × (Nat × Nat × Nat)) :=
  (List.range 48).flatMap fun cl => (gangBases n).filterMap fun b => (keys (4 * cl + b)).map fun x => (4 * cl + b, x)

/-- The least loaded place of the gang. -/
def State.bestPlace (s : State) (k : Grid) (n : Nat) : Option Nat := leastLoaded (basesOf n fun b => s.gangFits k b n)

/-- The lowest group slots of a core that are free. -/
def State.freeSlots (s : State) (core n : Nat) : List Nat :=
  ((List.range 256).filter fun k => !s.groups.any fun g => g.core == core && g.slot == k).take n

/-- One team of a grid placed on a core, whole (R358). Scratchpad starts at zero: DESIGN CHOICE, log entry 34. -/
def State.placeTeam (s : State) (k : Grid) (core teamid gang : Nat) : State :=
  let slot := (findBy (fun x => !s.teams.any fun t => t.core == core && t.slot == x) (List.range 256)).getD 0
  let t : Team :=
    { key := s.ids, grid := k.key, world := k.world, core := core, slot := slot, teamid := teamid, gang := gang,
      kernel := k.kernel, args := k.args, scratch := [], spoison := [], tiles := [], tstate := [], phase := [],
      bins := List.replicate k.kernel.bins ⟨none, [], false⟩, error := false }
  let s := { s with teams := s.teams ++ [t], ids := s.ids + 1 }
  (s.freeSlots core k.kernel.groups).zipIdx.foldl (fun s (g, j) =>
    let ths : List Thread := (List.range 64).map fun l =>
      let tid := BitVec.ofNat 32 (64 * j + l)
      (l, tid, none, threadSeed tid teamid)
    s.addGroup t g .launched k.kernel.entry ths (startRegs [(1, ⟨k.args, false⟩)]) k.launcher) s

/-- A gang of n teams placed on consecutive cores, its queue objects created with its first team (R358, 10 R259). -/
def State.placeGang (s : State) (k : Grid) (base n : Nat) : State :=
  let gang := s.ids
  let qs := (List.range k.kernel.queues).map fun i =>
    (⟨gang, i, k.kernel.qkind.getLsbD i, [], .never, none, false⟩ : Queue)
  let s := { s with ids := s.ids + 1, queues := s.queues ++ qs }
  let s := (List.range n).foldl (fun s i => s.placeTeam k (base + i) (k.next + i) gang) s
  s.modGrid k.key fun k => { k with next := k.next + n }

/-- The age of a queue's head begins again after a placement or a change of head (R357). -/
def State.freshHead (s : State) (w prio : Nat) (line : Option Nat) : State :=
  match s.head w prio line with
  | some e => { s with launches := updBy (fun f => f.key == e.key)
                        (fun f => { f with since := s.clock, reserving := false }) s.launches }
  | none => s

/-- The queues of a world whose heads another state had not: the age of each new head begins. -/
def State.headsSince (s old : State) (w : Nat) : State :=
  (launchLines w).foldl (fun t n => [0, 1, 2, 3].foldl (fun t p =>
    if (t.head w p n).map (·.key) = (old.head w p n).map (·.key) then t else t.freshHead w p n) t) s

/-- The placement of the head of a queue, none where it does not fit. -/
def State.placeHead (s : State) (w prio : Nat) (e : LaunchEntry) : Option State :=
  match s.grid e.key with
  | none => none
  | some k =>
    let n := min k.gang (k.total - k.next)
    let line := s.lineOf e
    (s.bestPlace k n).map fun base =>
      let s := s.placeGang k base n
      let s := if k.total ≤ k.next + n then { s with launches := dropBy (fun f => f.key == e.key) s.launches } else s
      s.freshHead w prio line

/-- The heads of a world's queues that fit now have not failed to fit until now (R357). -/
def State.noteFits (s : State) (w : Nat) : State :=
  (launchLines w).foldl (fun t n => [3, 2, 1, 0].foldl (fun t p => match t.head w p n with
    | some e =>
      if (t.placeHead w p e).isSome then
        { t with launches := updBy (fun f => f.key == e.key) (fun f => { f with since := t.clock }) t.launches }
      else t
    | none => t) t) s

/-- The first head that fits placed, queue 3 first; a reserving head keeps the lower queues back. -/
def State.placeFirst (s : State) (w : Nat) (line : Option Nat) : List Nat → Option State
  | [] => none
  | p :: ps =>
    match s.head w p line with
    | none => s.placeFirst w line ps
    | some e =>
      if e.graph then s.placeFirst w line ps
      else match s.placeHead w p e with
        | some s => some s
        | none => if e.reserving then none else s.placeFirst w line ps

/-- Whether teams of a world may be placed: world 60, or a polder that runs. -/
def State.mayPlace (s : State) (w : Nat) : Bool :=
  w == 60 || ((s.polder w).state == .run && (s.polder w).stopping.isNone && !(s.polder w).susp)

/-- TEAM_PLACEMENT: one placement opportunity of a world. -/
def execTeamPlacement (w : Nat) (s : State) : Outcome :=
  .next (if s.mayPlace w then
      let s := s.noteFits w
      ((launchLines w).findSome? fun n => s.placeFirst w n [3, 2, 1, 0]).getD s
    else s)

/-- HEAD_RESERVING: a head grid that has not fitted for 2^20 cycles (R357). When a head fits is noted at each placement
opportunity: DEDUCED, log entry 60. -/
def execHeadReserving (w prio : Nat) (s : State) : Outcome :=
  .next ((launchLines w).foldl (fun s n => match s.head w prio n with
    | some e =>
      if (s.grid e.key).isNone || s.clock < e.since + 2 ^ 20 || (s.placeHead w prio e).isSome then s
      else { s with launches := updBy (fun f => f.key == e.key) (fun f => { f with reserving := true }) s.launches }
    | none => s) s)

/-! ## Spawn bins (08 R201, 10 R261) -/

/-- BINTIMER_EXPIRY: BINTIMER cycles have passed since the oldest record of a bin was posted. -/
def execBintimerExpiry (team bin : Nat) (s : State) : Outcome :=
  .next (match s.team team with
    | none => s
    | some t =>
      match (t.bins[bin]?).bind fun b => b.recs.head? with
      | some r =>
        if s.mayStart t && r.posted + t.kernel.timer ≤ s.clock then
          s.modTeam team fun t => { t with bins := t.bins.zipIdx.map fun (b, j) =>
            if j = bin then { b with due := true } else b }
        else s
      | none => s)

/-- Whether a lower bin of a team became ready in the same cycle. -/
def Team.lowerBin (t : Team) (bin age : Nat) : Bool :=
  (t.bins.take bin).any fun b => b.ready t.kernel.timer == some age

/-- BIN_LAUNCH: a ready bin's group starts once a slot and the entry frame are obtained. -/
def execBinLaunch (team bin : Nat) (s : State) : Outcome :=
  .next (match s.team team with
    | none => s
    | some t =>
      match t.bins[bin]? with
      | none => s
      | some b =>
        match b.ready t.kernel.timer, s.freeSlot t.core with
        | some age, some slot =>
          if !s.mayStart t || t.lowerBin bin age ||
              !s.canServe (s.poolOf t.core t.grid) age 256 (granules t.kernel.frame) then s
          else
            let ths : List Thread := (b.recs.take 64).zipIdx.map fun (r, l) =>
              (l, r.tid, some r.payload, threadSeed r.tid t.teamid)
            let s := s.addGroup t slot .spawned (b.key.getD 0#64) ths (startRegs [(1, ⟨t.args, false⟩)])
              (((s.grid t.grid).map (·.launcher)).getD 0)
            let rest := b.recs.drop 64
            let b' : Bin := ⟨if rest = [] then none else b.key, rest, false⟩
            s.modTeam team fun t => { t with bins := t.bins.zipIdx.map fun (c, j) => if j = bin then b' else c }
        | _, _ => s)

/-! ## The lock-keeper (R351) -/

/-- The lowest-numbered core of a polder (R361). -/
def State.lowestCore (s : State) (w : Nat) : Option Nat :=
  (findBy (fun c => mapGet 63#6 s.clown c == BitVec.ofNat 6 w) (List.range 48)).map (4 * ·)

/-- The kernel of a polder's lock-keeper: the firmware's where LKDESC is 0, else that of the descriptor at LKDESC. The
firmware's has a frame of 1 and one group (R352). PRESUMED, log entry 37. -/
def firmwareKernel : Kernel :=
  { entry := Config.firmwareLockkeeper, trapent := 0#64, frame := 1, groups := 1, tiles := 0, scratch := 0, bins := 0,
    queues := 0, qkind := 0#16, timer := 1024, attr := 0#16 }

/-- The launch of a lock-keeper: one team of one group, gang size 1, priority 3, no attributes. -/
def keeperLaunch (desc args : DWord) : Launch :=
  { target := desc, gx := 1, gy := 1, gz := 1, gang := 1, prio := 3, attr := 0#16, poolcap := 0, args := args,
    ctr := 0#64, cinc := 0#64 }

/-- A lock-keeper grid started on the lowest core with room, of those of the polder. -/
def State.startKeeper (s : State) (w : Nat) (k : Kernel) : Option State :=
  let p := s.polder w
  let key := s.ids
  let s' := s.newGrid w (keeperLaunch p.lkdesc p.lkargs) k 0 none none true
  match s'.grid key with
  | none => none
  | some g =>
    (findBy (fun c => (s'.fits g c).isSome) (List.range 192)).map fun c => s'.placeGang g c 1

/-- The lock-keeper's kernel; one whose descriptor cannot be read, is malformed or has TEAM other than 1 does not start:
DESIGN CHOICE, log entry 62. -/
def State.keeperKernel (s : State) (w core : Nat) : State × Option Kernel :=
  let p := s.polder w
  if p.lkdesc = 0#64 then (s, some firmwareKernel)
  else if !lowPath p.lkdesc.toNat 64 then (s, none)
  else match s.takeClean core w 0 p.lkdesc.toNat 64 with
    | (s, .ok (b, _)) => if kernelOk b && field b 17 1 == 1 then (s, some (kernelOf b)) else (s, none)
    | (s, .error _) => (s, none)

/-- LOCKKEEPER_RESTART: the lock-keeper that ended starts again, its descriptor read again: DESIGN CHOICE, log entry 62. -/
def execLockkeeperRestart (w : Nat) (s : State) : Outcome :=
  .next (if !(s.polder w).lkended || !s.mayPlace w then s
    else match s.keeperKernel w ((s.lowestCore w).getD 0) with
      | (s, some k) =>
        match s.startKeeper w k with
        | some s => s.setPolder w { s.polder w with lkended := false }
        | none => s
      | (s, none) => s)

/-! ## Completion (R363) -/

/-- The core whose caches an engine of a polder uses. DEDUCED, log entry 38. -/
def State.engineCore (s : State) (w : Nat) : Nat := (s.lowestCore w).getD 0

/-- A cluster of SERVICE commands latched back to 63 once every group of world 60 on it has ended and every grid started
there has completed (23 R486). -/
def State.serviceEnd (s : State) (cluster : Option Nat) : State :=
  match cluster with
  | none => s
  | some c =>
    if mapGet false s.service c && !(s.groups.any fun g => g.core / 4 == c) && !(s.teams.any fun t => t.core / 4 == c) &&
        !(s.grids.any fun k => k.cluster == some c) && !(s.graphs.any fun k => k.cluster == some c) then
      { s with service := mapSet false s.service c false }.giveCluster c 63
    else s

/-- What remains after a grid: its tags go, and the ranges that its teams left; its polder's lock-keeper or its service
cluster takes note. -/
def State.dropGrid (s : State) (k : Grid) : State :=
  let s := { s with grids := dropBy (fun g => g.key == k.key) s.grids, tags := s.tags.filter fun t => t.2.grid != k.key }
  let s := { s with ranges := s.ranges.filter fun r => r.grid != k.key || r.team == 0 }.registerWaiting
  let s := if k.keeper then s.setPolder k.world { s.polder k.world with lkended := true } else s
  s.serviceEnd k.cluster

/-- The record of a grid's counter fault: engine source 6, its GRIDID. -/
def State.gridRecord (s : State) (k : Grid) (flags : Nat) (c : Cond) : Record :=
  c.record 0#64 flags k.gridid.toNat 0 (originOf (s.engineCore k.world) 0 6)

/-- A grid's end. -/
def State.finishGrid (s : State) (k : Grid) (clock : Nat) : State :=
  let s := (s.meter k.world 29 1).dropGrid k
  s.modNode k.key fun n => { n with state := if k.error then .failed else .completed, clock := max n.clock clock }

/-- GRID_COMPLETION: every team has ended; the counter rises, then the Launch span ends. -/
def execGridCompletion (grid : Nat) (s : State) : Outcome :=
  .next (match s.grid grid with
    | none => s
    | some k =>
      if k.ended < k.total || k.held.isSome || !s.active k.world then s
      else if k.ctr = 0#64 then s.finishGrid k k.clock
      else match s.addCounter (s.engineCore k.world) k.world 0 k.clock k.ctr.toNat k.cinc.toNat with
        | .wait s => s
        | .done s t => s.finishGrid k t
        | .fail s c =>
          let report := fun (s : State) =>
            let (s, r) := s.form k.world (s.gridRecord k 2 c)
            (s.postOnly k.world r).finishGrid { k with error := true } k.clock
          if !c.replay || 48 ≤ k.world then report s
          else
            let (s', r) := s.form k.world (s.gridRecord k 32 c)
            match s'.post k.world r with
            | (s', .written) | (s', .waits) => s'.modGrid grid fun k => { k with held := some r }
            | (s', _) => report s')

/-! ## Graphs (R366 to R368) -/

/-- A node of a graph changed. -/
def Graph.modAt (k : Graph) (n : Nat) (f : Node → Node) : Graph :=
  { k with nodes := k.nodes.zipIdx.map fun (x, j) => if j = n then f x else x }

/-- Whether a node waits, every node with an edge into it has completed, and no lower node does so too. -/
def Graph.nextReady (k : Graph) : Option Nat :=
  let done := fun (i : Nat) => ((k.nodes[i]?).map fun n => n.state == .completed).getD false
  findBy (fun i => ((k.nodes[i]?).map fun n => n.state == .waiting).getD false &&
    (k.edges.all fun e => e.2 != i || done e.1)) (List.range k.nodes.length)

/-- A node that is not a GRID starts: a copy, a block from no lane, or a collective (R367). -/
def State.startBody (s : State) (k : Graph) (node : Nat) (n : Node) : State :=
  let core := s.engineCore k.world
  let run := fun (s : State) => s.modGraph k.key fun k => k.modAt node fun n => { n with state := .running, clock := k.clock }
  match n.body with
  | .grid _ _ => s
  | .copy _ _ _ => run s
  | .bankcall a bytes poison =>
    (run s).sendBlock (newBlock n.key 0 0 core k.world n.key 64 0 0 a.toNat k.clock none none none 0#64 (some (k.key, node)))
      (bytes.map fun b => (b, poison))
  | .coll kind a b =>
    let h := BitVec.ofNat 32 (field b 0 4)
    let cm := s.comm k.world h
    match collBad b with
    | some o =>
      let s := (s.engineFault core 0 n.key k.world 4 { cause := recordCause, index := o, addr := a.toNat }).1
      (run s).modNode n.key fun n => { n with state := .failed }
    | none =>
      let c : Coll :=
        { kind := kind, comm := h, spec := BitVec.ofNat 32 (field b 4 4), send := BitVec.ofNat 64 (field b 8 8),
          recv := BitVec.ofNat 64 (field b 16 8), count := field b 24 8, ctr := BitVec.ofNat 64 (field b 32 8),
          cinc := BitVec.ofNat 64 (field b 40 8), recAddr := a.toNat, cseq := (cm.map (·.cseq)).getD 0,
          known := cm.isSome, lost := false, bad := false, finished := false, held := none,
          size := (cm.map (·.size)).getD 1, read := [], wrote := none, closed := false }
      let s := { run s with comms := updBy (fun c => c.world == k.world && c.handle == h)
                              (fun c => { c with cseq := c.cseq + 1 }) s.comms }
      { s with ops := s.ops ++ [⟨n.key, 0, core, k.world, n.key, none, .coll c, false, k.clock⟩] }

/-- Whether a COLLECTIVE node waits for one of the communicator's eight (18 R406). -/
def State.collWaits (s : State) (w : Nat) : NodeBody → Bool
  | .coll _ _ b =>
    let h := BitVec.ofNat 32 (field b 0 4)
    (s.comm w h).isSome && 8 ≤ s.collUsed w h
  | _ => false

/-- A queued node starts once it is the head of its queue, and leaves it. -/
def State.startNode (s : State) (graph node : Nat) : State :=
  match s.graph graph with
  | none => s
  | some k =>
    match k.nodes[node]? with
    | none => s
    | some n =>
      if n.state != .queued || (s.head k.world k.prio k.cluster).map (·.key) != some n.key || s.collWaits k.world n.body then s
      else
        let s' := { s with launches := dropBy (fun e => e.key == n.key) s.launches }.freshHead k.world k.prio k.cluster
        s'.startBody k node n

/-- GRAPH_NODE_READY: the lowest ready node takes its place in the queue of the graph's priority, as if accepted now; one
that is not a GRID starts when it is the queue's head (R367). -/
def execGraphNodeReady (graph node : Nat) (s : State) : Outcome :=
  .next (match s.graph graph with
    | none => s
    | some k =>
      if s.graphHeld k || !s.mayPlace k.world then s
      else if k.nextReady != some node then s.startNode graph node
      else match k.nodes[node]? with
        | none => s
        | some n =>
          let key := s.ids
          let queue := fun (s : State) (st : NodeState) =>
            (s.enqueue k.world k.prio false key).modGraph graph fun k => k.modAt node fun n =>
              { n with state := st, key := key, clock := k.clock }
          match n.body with
          | .grid l d => queue (s.newGrid k.world l d k.clock k.cluster (some (graph, node)) false) .running
          | _ => (queue s.newId .queued).startNode graph node)

/-- A COPY node's fault: held for a response where it may be, else the node fails (R367, 20 R438). -/
def State.copyNodeFault (s : State) (graph node : Nat) (k : Graph) (n : Node) (c : Cond) : State :=
  let core := s.engineCore k.world
  match s.holdEngine core 0 n.key k.world 1 c with
  | (s, some r) => s.modGraph graph fun k => k.modAt node fun n => { n with held := some r }
  | (s, none) => (s.engineFault core 0 n.key k.world 1 c).1.modGraph graph fun k =>
      k.modAt node fun n => { n with state := .failed }

/-- GRAPH_COPY_NODE: the next 128 bytes of a COPY node, read and written by the engine of its polder at the node's clock
as a copy moves an element (R367, 11 R279). -/
def execGraphCopyNode (graph node : Nat) (s : State) : Outcome :=
  .next (match s.graph graph with
    | none => s
    | some k =>
      match k.nodes[node]? with
      | none => s
      | some n =>
        match n.body with
        | .copy src dst len =>
          if n.state != .running || n.held.isSome || len ≤ n.next || !s.active k.world then s
          else
            let core := s.engineCore k.world
            let fault := fun (s : State) (need a d st : Nat) => s.copyNodeFault graph node k n
              { cause := xlateCause, detail := d, addr := a, aux := xlateAux st need }
            let a := src.toNat + n.next
            let b := dst.toNat + n.next
            match s.xlate deviceAgent k.world (a % 2 ^ 56) 0 false, s.xlate deviceAgent k.world (b % 2 ^ 56) 1 false with
            | (s, .held), _ | _, (s, .held) => s
            | (s, .fault d st _), _ => fault s 0 a d st
            | _, (s, .fault d st _) => fault s 1 b d st
            | (_, .ok ta), (s, .ok tb) =>
              let from_ := addrs ta.pa 128
              let into := addrs tb.pa 128
              if s.held ((from_ ++ into).filter (!hostWindow ·)) none then s
              else match (s.engineMerge n.clock (from_ ++ into)).readGroup core n.clock [⟨64, 0, from_.map .mem, [], false⟩] with
                | (s, _, some l, _) => s.integrity (l * 128)
                | (s, rs, none, t) =>
                  match s.writeAccs core 0 (max n.clock t) (rs.map fun r => { r with locs := into.map .mem }) with
                  | (s, some l, _) => s.integrity (l * 128)
                  | (s, none, t) =>
                    (s.meter k.world 19 128).modGraph graph fun k => k.modAt node fun n =>
                      { n with next := n.next + 128, clock := max n.clock t }
            | _, _ => s.copyNodeFault graph node k n { cause := addrPath, addr := a }
        | _ => s)

/-- Every node that depends on a failed or cancelled one cancelled, in index order: edges run upwards. -/
def Graph.cancel (k : Graph) : Graph :=
  (List.range k.nodes.length).foldl (fun k i =>
    let dead := k.edges.any fun e => e.2 == i &&
      ((k.nodes[e.1]?).map fun n => n.state == .failed || n.state == .cancelled).getD false
    if dead then k.modAt i fun n => if n.state == .waiting then { n with state := .cancelled } else n else k) k

/-- Whether a node has ended. -/
def Node.over (n : Node) : Bool := n.state == .completed || n.state == .failed || n.state == .cancelled

/-- A graph's end: its entry freed, the graph gone. -/
def State.dropGraph (s : State) (k : Graph) : State :=
  (({ s with graphs := dropBy (fun g => g.key == k.key) s.graphs,
             launches := dropBy (fun e => e.graph && e.key == k.key) s.launches }.meter k.world 29 1).headsSince s
    k.world).serviceEnd k.cluster

/-- A graph whose nodes have all ended raises its counter and is done (R367). -/
def State.endGraph (s : State) (k : Graph) : State :=
  let clock := k.nodes.foldl (fun t n => max t n.clock) k.clock
  if !k.nodes.all Node.over || k.held.isSome then s
  else if k.ctr = 0#64 then s.dropGraph k
  else
    let core := s.engineCore k.world
    match s.addCounter core k.world 0 clock k.ctr.toNat k.cinc.toNat with
    | .wait s => s
    | .done s _ => s.dropGraph k
    | .fail s c =>
      match s.holdEngine core 0 0 k.world 6 c with
      | (s, some r) => s.modGraph k.key fun k => { k with held := some r }
      | (s, none) => (s.engineFault core 0 0 k.world 6 c).1.dropGraph k

/-- GRAPH_NODE_COMPLETION: a node that has done its work completes or fails, its dependants are cancelled on a failure,
and the graph ends when every node has ended. -/
def execGraphNodeCompletion (graph node : Nat) (s : State) : Outcome :=
  .next (match s.graph graph with
    | none => s
    | some k =>
      if !s.active k.world then s
      else match k.nodes[node]? with
        | none => s
        | some n =>
          let after := fun (s : State) => match s.graph graph with
            | some k =>
              let k := k.cancel
              let s := s.modGraph graph fun _ => k
              s.endGraph k
            | none => s
          let finish := fun (s : State) (bad : Bool) (clock : Nat) => after (s.modGraph graph fun k => k.modAt node fun n =>
            { n with state := if bad || n.bad then .failed else .completed, clock := max n.clock clock })
          match n.state, n.body with
          | .running, .copy _ _ len => if n.next < len || n.held.isSome then s else finish s false 0
          | .running, .bankcall _ _ _ =>
            match s.block n.key with
            | some b =>
              if b.stage != .answered then s
              else
                let s := (s.meter k.world 12 b.idx)
                finish { s with blocks := dropBy (fun c => c.id == b.id) s.blocks } (b.status != 0) b.time
            | none => finish s true 0
          | .running, .coll _ _ _ => if (s.op n.key).isSome then s else finish s false 0
          | .running, .grid _ _ => if (s.grid n.key).isSome then s else finish s true 0
          | .completed, _ | .failed, _ | .cancelled, _ => after s
          | _, _ => s)

end Sys2Proof.Machine
end

