-- ==== Sys2Proof/Machine/Spill.lean ====
section
/-!
DEFINITION. Sys2Proof/Machine/Spill.lean: the spillway and swap-out (10 R264 to R268), the responses to held faults (20
R438).
-/
namespace Sys2Proof.Machine

/-! ## Sizes (10 R266, 21 R450, R451) -/

/-- The size of a part of n bytes: its 16-byte opening and the padding to 64. -/
def partSize (n : Nat) : Nat := if n = 0 then 0 else (16 + n + 63) / 64 * 64

/-- The saved context of a group: its record, its frames that are not in the spill area, its operand latch.
DEDUCED, log entry 39. -/
def Group.contextSize (g : Group) : Nat :=
  partSize 2048 +
  partSize ((g.frames.filter fun f => !f.spilled).foldl (fun n f => n + 64 + 2112 * granules f.count) 0) +
  partSize (if g.latch.isSome then 65536 else 0)

/-- The bytes of the spill area that a group's spilled frames take. -/
def Group.spillSize (g : Group) : Nat := (g.frames.filter (·.spilled)).foldl (fun n f => n + 2048 * granules f.count) 0

/-- The bytes of a polder's spill area in use: frames, the contexts of groups that are swapped out, and saved teams with
the header of each core's image (21 R450). -/
def State.spillUsed (s : State) (w : Nat) : Nat :=
  let saved := (s.polder w).saved
  (s.groups.foldl (fun n g =>
    if g.world = w then n + g.spillSize + (if g.swapped then g.contextSize else 0) else n) 0) +
  saved.foldl (fun n v => n + v.bytes.length + v.groups.foldl (fun n g => n + g.spillSize) 0) 0 +
  4096 * (distinct (saved.map (·.header))).length

/-- Whether n bytes more fit in a polder's spill area. -/
def State.spillFits (s : State) (w n : Nat) : Bool :=
  s.spillUsed w + n ≤ (s.polder w).spillsize.toNat

/-- A place of n bytes in a polder's spill area that meets no saved image: the first of those given, then the lowest such
on a 4 KiB boundary after the area's start or an image. DESIGN CHOICE, log entry 44. -/
def State.spillPlace (s : State) (w n : Nat) (first : List Nat) : Option Nat :=
  let p := s.polder w
  let lo := p.spillbase.toNat
  let images := p.saved.map fun v => (v.header, v.image + v.bytes.length)
  let up := fun (a : Nat) => (a + 4095) / 4096 * 4096
  findBy (fun a => lo ≤ a && a + n ≤ lo + p.spillsize.toNat && images.all fun r => a + n ≤ r.1 || r.2 ≤ a)
    (first ++ lo :: images.map fun r => up r.2)

/-- How a move into the spill area ends: the area takes it, has no room for it, or keeps it waiting on a walk or an X
range (11 R291). -/
inductive Spilling where
  | moved (s : State)
  | full
  | waits
deriving DecidableEq, Repr

/-- n bytes of a frame or a context moved into a polder's spill area through its translation (R264, R266, 17 R371); an
area that does not translate has no room. Where in the area, and the bytes, whose layout the spec does not state: free
values, log entry 39. -/
def State.spillOut (s : State) (w n : Nat) : Spilling :=
  let p := s.polder w
  let free := p.spillbase.toNat + 64 * (Config.freeNat s.fresh % ((p.spillsize.toNat - n) / 64 + 1))
  match s.spillPlace w n [free] with
  | none => .full
  | some a =>
    match s.draw.xlateSpans deviceAgent w 1 (pageSpans a n) with
    | (_, .error (d, _, _)) => if d = 0 then .waits else .full
    | (t, .ok pas) =>
      let cells := List.zip pas ((List.range n).map fun i => Config.partByte s.fresh i)
      if t.held pas none then .waits else .moved ((t.agentWrite cells []).meter w 25 n)

/-! ## Victims (R264, R265) -/

/-- The groups that draw on a pool. -/
def State.poolGroups (s : State) (p : Pool) : List Group :=
  s.groups.filter fun g => s.poolOf g.core g.grid == p && g.liveLanes != []

/-- Whether a group is blocked on a frame request: its own, or that of a return at whose address it stands (R267). -/
def Group.blocked (g : Group) : Bool :=
  (g.request.map fun r => !r.served).getD false || (g.issue.isNone && g.ready != [] && g.stuckBack g.nextClause.2)

/-- The cycle at which a group's wait began: its oldest frame request's, else that of the instruction or WAIT. -/
def Group.age (g : Group) : Option Nat :=
  match g.requests with
  | [] => g.since
  | r :: rs => some (rs.foldl (fun m q => min m q.age) r.age)

/-- The least depth of a frame in the chain of any live lane, none where it is the current frame of one or stands in
none. -/
def Group.spillDepth (g : Group) (fid : Nat) : Option Nat :=
  if g.liveLanes.any fun l => (g.lane l).fid == fid then none
  else g.liveLanes.foldl (fun m l =>
    let c := (g.lane l).chain
    match c.findIdx? fun f => f.fid == fid with
    | some i => some (match m with | some d => min d (c.length - 1 - i) | none => c.length - 1 - i)
    | none => m) none

/-- Insertion by a key, least first, equal keys in order of arrival. -/
def insKey {α : Type} (k : Nat) (a : α) : List (Nat × α) → List (Nat × α)
  | [] => [(k, a)]
  | (j, b) :: l => if k < j then (k, a) :: (j, b) :: l else (j, b) :: insKey k a l

/-- A list ordered by a key. -/
def orderBy {α : Type} (key : α → Nat) (l : List α) : List α :=
  (l.foldl (fun m a => insKey (key a) a m) []).map Prod.snd

/-- The candidate frames of a group: least depth first, then oldest. -/
def Group.spillable (g : Group) : List Frame :=
  orderBy (fun f => (g.spillDepth f.fid).getD 0 * 2 ^ 64 + f.born)
    (g.frames.filter fun f => !f.spilled && (g.spillDepth f.fid).isSome)

/-- Victims youngest wait first, the higher GRPID first of equals. -/
def youngest (gs : List Group) : List Group :=
  (orderBy (fun (g : Group) => (g.age.getD 0) * 256 + g.slot) gs).reverse

/-- Frames spilled, one after another, until a need fits, or the spill area has no room for the next or keeps it waiting:
answers which of the two stopped it. -/
def State.spillFrames (s : State) (p : Pool) (need : Nat) : List (Nat × Nat × Frame) → State × Option Spilling
  | [] => (s, none)
  | (gid, w, f) :: l =>
    if s.inUse p + need ≤ s.usable p then (s, none)
    else if !s.spillFits w (2048 * granules f.count) then (s, some .full)
    else match s.spillOut w (2048 * granules f.count) with
      | .full => (s, some .full)
      | .waits => (s, some .waits)
      | .moved s =>
        (s.modGroup gid fun g =>
          { g with frames := updBy (fun h => h.fid == f.fid) (fun h => { h with spilled := true }) g.frames }.noteSpill).spillFrames
          p need l

/-- Whether a group stands at a clause header and waits there, so that it may be swapped out (R265): at a waiting
instruction, its access held on a fault or not (20 R438), on WAIT, or at a stalled `SPUSH`. Its register writes and
replies are all in. -/
def State.swappable (s : State) (g : Group) : Bool :=
  !g.swapped && s.pendingV g.gid == [] && s.pendingS g.gid == [] &&
  !(s.blocks.any fun b => b.gid == g.gid && b.graph.isNone) &&
  (match g.request with
    | some r => (match r.use with | .call _ => !r.served | _ => false)
    | none => true) &&
  (match g.issue with
    | some i => g.spush.isSome || (i.idx == 0 && (i.instr.map instrWaits).getD false && g.age.isSome)
    | none => g.request.isNone && g.since.isSome)

/-- Groups swapped out until a need fits or the spill area stops it; each returns by a request of the age of its wait. What
a waiting instruction has recorded stands. -/
def State.swapGroups (s : State) (p : Pool) (need : Nat) : List Group → State × Option Spilling
  | [] => (s, none)
  | g :: l =>
    if s.inUse p + need ≤ s.usable p then (s, none)
    else if !s.spillFits g.world g.contextSize then (s, some .full)
    else match s.spillOut g.world g.contextSize with
      | .full => (s, some .full)
      | .waits => (s, some .waits)
      | .moved t =>
        let back := match g.request with | some ⟨_, n, .call d, _⟩ => some (n, d) | _ => none
        (t.modGroup g.gid fun g =>
          { g with swapped := true, issue := if g.spush.isSome then g.issue else none,
                   request := some ⟨g.age.getD s.clock, g.held', .swapIn back, false⟩ }).swapGroups p need l

/-- The oldest request of a pool: age, tie, granules. -/
def State.oldestWaiter (s : State) (p : Pool) : Option (Nat × Nat × Nat) :=
  (s.waiters p).foldl (fun m w => match m with
    | none => some w
    | some v => if w.1 < v.1 ∨ (w.1 = v.1 ∧ w.2.1 < v.2.1) then some w else some v) none

/-- Whether a group of a pool is blocked or waits. -/
def State.stuck (s : State) (g : Group) : Bool := g.blocked || g.swapped || s.swappable g || g.held.isSome

/-- SPILL_FULL at the `CALL`, `CALLX` or trap entry of the oldest request (R266): a `CALL` that is not at hand yet, after a
return, takes it once it is. -/
def State.spillFullTrap (s : State) (p : Pool) (g : Group) : State :=
  match g.request with
  | some r =>
    if !(s.poolGroups p).all s.stuck then s
    else match r.use with
      | .call d =>
        let c : Cond := { cause := spillFull, index := d, aux := r.granules }
        if g.issue.isNone then s else (s.modGroup g.gid fun g => { g with request := none }).raise g.gid ((g.issue.map Issue.len).getD 1) c
      | .trap t => s.undelivered g.gid g.world t.record
      | _ => s
  | none => s

/-- SPILLWAIT_EXPIRY: the spillway of a group's pool acts for the oldest request, which has waited SPILLWAIT cycles or
finds every group of the pool blocked. -/
def execSpillwaitExpiry (gid : Nat) (s : State) : Outcome :=
  .next (match s.group gid with
    | none => s
    | some g =>
      let p := s.poolOf g.core g.grid
      match s.oldestWaiter p with
      | none => s
      | some (age, tie, need) =>
        let all := (s.poolGroups p).all Group.blocked
        let wait := (s.polder g.world).spillwait.toNat
        if !(all || age + wait ≤ s.clock) || s.inUse p + need ≤ s.usable p || !s.active g.world then s
        else
          let ben := findBy (fun h => h.slot == tie && s.poolOf h.core h.grid == p &&
            h.requests.any fun r => r.age == age) s.groups
          let own := fun (h : Group) => (ben.map fun b => b.gid == h.gid).getD false
          let others := (s.poolGroups p).filter fun h => !own h
          let frames := (youngest (others.filter fun h => h.blocked && !h.swapped)).flatMap fun h =>
            h.spillable.map fun f => (h.gid, h.world, f)
          let (s, stop) := s.spillFrames p need frames
          let others := (s.poolGroups p).filter fun h => !own h
          let (s, stop) := if stop.isSome then (s, stop) else s.swapGroups p need (youngest (others.filter s.swappable))
          if s.inUse p + need ≤ s.usable p ∨ stop ≠ some .full then s
          else match ben with
            | some b => ((s.group b.gid).map fun b => s.spillFullTrap p b).getD s
            | none => s)

/-! ## FBRESP (20 R438) -/

/-- The report of a held fault of a group that is aborted. DEDUCED, log entry 11. -/
def State.abortGroup (s : State) (w : Nat) (g : Group) : State :=
  match g.heldTrap with
  | none => s
  | some t =>
    let (s, r) := s.form w { t.record with flags := t.record.flags &&& 0xDF#8, seq := 0#32 }
    s.undelivered g.gid w r

/-- The answer to a held fault of an engine's operation. -/
def State.answerOp (s : State) (o : Op) (seq : BitVec 32) (retry : Bool) : State :=
  let mine := fun (h : Option Record) => (h.map (·.seq)) == some seq
  match o.kind with
  | .copy c => match c.held with
    | some r => if r.seq = seq then s.answerCopy o c r retry else s
    | none => s
  | .coll c => if mine c.held then (c.held.map fun r => s.answerColl o c r retry).getD s else s
  | _ => s

/-- The answer to a held fault of a graph or of its COPY nodes. -/
def State.answerGraph (s : State) (k : Graph) (seq : BitVec 32) (retry : Bool) : State :=
  let core := s.engineCore k.world
  let s := match k.held with
    | some r =>
      if r.seq ≠ seq then s
      else if retry then s.modGraph k.key fun k => { k with held := none }
      else (s.reportFault 0 0 k.world r.aborted).1.dropGraph k
    | none => s
  k.nodes.zipIdx.foldl (fun s (n, i) => match n.held with
    | some r =>
      if r.seq ≠ seq then s
      else
        let s := if retry then s else (s.reportFault 0 n.key k.world { r.aborted with origin := originOf core 0 1 }).1
        s.modGraph k.key fun k => k.modAt i fun n =>
          { n with held := none, state := if retry then n.state else .failed }
    | none => s) s

/-- The answer to a held fault of a grid's counter. -/
def State.answerGrid (s : State) (k : Grid) (seq : BitVec 32) (retry : Bool) : State :=
  match k.held with
  | some r =>
    if r.seq ≠ seq then s
    else if retry then s.modGrid k.key fun k => { k with held := none }
    else
      let (s, r) := s.form k.world r.aborted
      (s.postOnly k.world r).finishGrid { k with error := true } k.clock
  | none => s

/-- The saved teams of a polder changed. -/
def State.mapSaved (s : State) (w : Nat) (f : Saved → Saved) : State :=
  let p := s.polder w
  s.setPolder w { p with saved := p.saved.map f }

/-- The held fault of a saved copy aborted: as `copyFails`, what it tells its group, its queue and its task. -/
def State.abortSavedCopy (s : State) (w gang : Nat) (o : Op) (c : Copy) (r : Record) : State :=
  let (s, q) := s.reportFault o.gid o.team w r.aborted
  let close := fun (u : Queue) => if u.gang = gang ∧ c.stream = some u.obj then { u with producer := .faulted q } else u
  { s with queues := s.queues.map close }.mapSaved w fun v =>
    { v with groups := updBy (fun g => g.gid == o.gid) (fun g => g.dropFlag o.flag) v.groups,
             ops := dropBy (fun x => x.id == o.id) v.ops,
             tasks := updBy (fun t => some t.id == c.task) (fun t => { t with failed := true }) v.tasks,
             queues := v.queues.map close }

/-- The held trap of a saved group aborted: its record is not delivered, and its lanes have ended by its return. -/
def State.abortSavedGroup (s : State) (w : Nat) (g : Group) (t : PendingTrap) : State :=
  let (s, r) := s.form w { t.record with flags := (t.record.flags &&& 0xDF#8) ||| 16#8, seq := 0#32 }
  let dead := fun (h : Group) =>
    { h.mapLanes (fun _ => true) (fun _ l => l.exited) with
      held := none, heldTrap := none, issue := none, lapsed := some r.seq }
  (s.postOnly w r).mapSaved w fun v => { v with groups := updBy (fun h => h.gid == g.gid) dead v.groups }

/-- The answer to a held fault of a saved team (21 R447). -/
def State.answerSaved (s : State) (w : Nat) (seq : BitVec 32) (retry : Bool) : State :=
  (s.polder w).saved.foldl (fun s v =>
    let s := v.groups.foldl (fun s g =>
      if g.held ≠ some seq then s
      else if retry then
        let free := fun (h : Group) => { h with held := none, heldTrap := none }
        s.mapSaved w fun v => { v with groups := updBy (fun h => h.gid == g.gid) free v.groups }
      else match g.heldTrap with
        | some t => s.abortSavedGroup w g t
        | none => s) s
    v.ops.foldl (fun s o => match o.kind with
      | .copy c => match c.held with
        | some r =>
          if r.seq ≠ seq then s
          else if retry then
            let free := fun (x : Op) => { x with kind := OpKind.copy { c with held := none } }
            s.mapSaved w fun v => { v with ops := updBy (fun x => x.id == o.id) free v.ops }
          else s.abortSavedCopy w v.team.gang o c r
        | none => s
      | _ => s) s) s

/-- A response to the held fault of a polder with a SEQ. -/
def State.answer (s : State) (w : Nat) (seq : BitVec 32) (retry : Bool) : State :=
  match findBy (fun g => g.world == w && g.held == some seq) s.groups with
  | some g => if retry then s.modGroup g.gid fun g => { g with held := none, heldTrap := none } else s.abortGroup w g
  | none =>
    let s := s.answerSaved w seq retry
    let s := (s.ops.filter fun o => o.world == w).foldl (fun s o => s.answerOp o seq retry) s
    let s := (s.blocks.filter fun b => b.world == w).foldl (fun s b => match b.held with
      | some r => if r.seq = seq then s.answerBlock b r retry else s
      | none => s) s
    let s := (s.graphs.filter fun k => k.world == w).foldl (fun s k => s.answerGraph k seq retry) s
    (s.grids.filter fun k => k.world == w).foldl (fun s k => s.answerGrid k seq retry) s

/-- FBRESP_RETRY: the access walks again. -/
def execFbrespRetry (w : Nat) (seq : BitVec 32) (s : State) : Outcome := .next (s.answer w seq true)
/-- FBRESP_ABORT: the fault is unresolved, or the group ends. -/
def execFbrespAbort (w : Nat) (seq : BitVec 32) (s : State) : Outcome := .next (s.answer w seq false)

end Sys2Proof.Machine
end

