-- ==== Sys2Proof/Machine/Requester.lean ====
section
/-!
DEFINITION. Sys2Proof/Machine/Requester.lean: accesses of agents outside the device (11 R293): a function's BAR2 (18
R410), owner-61 memory (R484), and the debug path (22 R469).
-/
namespace Sys2Proof.Machine

/-- An answer sent. -/
def State.reply (s : State) (r : Reply) : State := { s with outbox := s.outbox ++ [r] }

/-- n bytes from an intermediate address cut at the 64 KiB pages: the first address and the length of each part. -/
def spans : Nat → Nat → Nat → List (Nat × Nat)
  | 0, _, _ => []
  | fuel + 1, a, n =>
    let k := min n (65536 - a % 65536)
    if n = 0 then [] else (a, k) :: spans fuel (a + k) (n - k)

/-- The physical bytes of spans of a polder's intermediate addresses, `some none` where stage 2 refuses one, none where the
walk waits on an X range; a failed MAC on the way is an integrity event. -/
def State.stage2Spans (s : State) (w need : Nat) : List (Nat × Nat) → State × Option (Option (List Nat))
  | [] => (s, some (some []))
  | (a, n) :: rest =>
    match s.stage2 w a with
    | (s, .ok t) =>
      if t.grants need && s.owner t.pa == w then
        match s.stage2Spans w need rest with
        | (s, some (some pas)) => (s, some (some (addrs t.pa n ++ pas)))
        | r => r
      else (s, some none)
    | (s, .held) => (s, none)
    | (s, .fault _ _ bad) => (s.integrityOf bad, some none)
    | (s, _) => (s, some none)

/-- The bytes at an intermediate address of a polder that its function's accesses name (R410): `some none` where they are
refused, none while they wait. -/
def State.ownBytes (s : State) (w ia n need : Nat) : State × Option (Option (List Nat)) :=
  let p := s.polder w
  if w < 48 && p.state == .run && p.ide && p.keys then s.stage2Spans w need (spans (n / 65536 + 2) ia n)
  else (s, some none)

/-- The bytes that an access through a polder's BAR2, of 2^39 bytes, names. -/
def State.bar2 (s : State) (w off n need : Nat) : State × Option (Option (List Nat)) :=
  if off + n ≤ 2 ^ 39 then s.ownBytes w off n need else (s, some none)

/-- A read by a requester at the homes of its bytes: the bytes and their poison, none where a MAC fails; the bytes count
in HOSTRD of their owner. -/
def State.requesterRead (s : State) (w : Nat) (pas : List Nat) : State × Option (List Byte × Bool) :=
  match s.agentRead pas with
  | (s, _, some b) => (s.integrity (b * 128), none)
  | (s, bs, none) => (s.meter w 21 pas.length, some (bs.map Prod.fst, bs.any Prod.snd))

/-- A write by a requester, in time after its last one (11 R293): false where a MAC fails; the bytes count in HOSTWR of
their owner. The requester is the function, path or world: DEDUCED, log entry 59. -/
def State.requesterWrite (s : State) (w : Nat) (cells : List Host.Cell) : State × Bool :=
  match s.badWrite cells with
  | some b => (s.integrity (b * 128), false)
  | none =>
    let last := mapGet 0 s.rtimes w
    let t := s.writeHome (last + 1) 0 none cells [] externalWriter (some 3#2)
    ({ t with rtimes := mapSet 0 t.rtimes w (max last (t.topRts (atomsOf (cells.map Prod.fst)))) }.meter w 20 cells.length,
      true)

/-- A read or write that a requester is allowed, and its answer. -/
def State.requester (s : State) (w : Nat) (pas : List Nat) (write : Option (List Byte)) : State :=
  match write with
  | some bs => (s.requesterWrite w (List.zip pas bs)).1
  | none =>
    match s.requesterRead w pas with
    | (s, some (bs, p)) => s.reply (.data bs p)
    | (s, none) => s.reply .unsupportedRequest

/-! ## The debug path (22 R469) -/

/-- The bytes at DBGADDR, any intermediate address. -/
def State.debugBytes8 (s : State) (need : Nat) : State × Option (Option (List Nat)) :=
  let w := s.trust.dbgworld.toNat
  if w < 48 && (s.polder w).dbgopen.getLsbD 0 then s.ownBytes w (8 * s.trust.dbgia.toNat) 8 need else (s, some none)

/-- DBGDATA and ERR after an access. -/
def State.debugEnd (s : State) (data : DWord) (err : Bool) : State :=
  { s with trust := { s.trust with dbgdata := data, dbgerr := err } }

/-- A read of DBGDATA: the value read, with ERR where it was refused or poisoned. -/
def State.debugRead (s : State) : State :=
  match s.debugBytes8 0 with
  | (_, none) => s
  | (t, some (some pas)) =>
    if t.held pas none then s
    else match t.requesterRead t.trust.dbgworld.toNat pas with
      | (t, some (bs, false)) => (t.debugEnd (BitVec.ofNat 64 (ofBytes bs)) false).reply (.data bs false)
      | (t, _) => (t.debugEnd 0#64 true).reply (.data (toBytes 8 0) false)
  | (t, some none) => (t.debugEnd 0#64 true).reply (.data (toBytes 8 0) false)

/-- A write of DBGDATA. -/
def State.debugWrite (s : State) (v : DWord) : State :=
  match s.debugBytes8 1 with
  | (_, none) => s
  | (t, some (some pas)) =>
    if t.held pas none then s
    else
      let (t, ok) := t.requesterWrite t.trust.dbgworld.toNat (List.zip pas (toBytes 8 v.toNat))
      t.debugEnd v !ok
  | (t, some none) => t.debugEnd v true

end Sys2Proof.Machine
end

