-- ==== Sys2Proof/Machine/Regs.lean ====
section
/-!
DEFINITION. Sys2Proof/Machine/Regs.lean: the device's registers outside the cores: the slice map (17 R372 to R377), the
mailboxes (17 R380), entropy (17 R392), fault buffers (20 R432, R485), debug and its wipe (22 R468 to R471), boot (23
R473 to R476), memory interfaces (23 R478, R479), Link ports (18 R401), a virtual function's window (17 R390).
-/
namespace Sys2Proof.Machine

/-- The bits of a value under a mask in the place of the old ones. -/
def blend (old v mask : DWord) : DWord := (old &&& ~~~mask) ||| (v &&& mask)
def blend32 (old v mask : Word) : Word := (old &&& ~~~mask) ||| (v &&& mask)

/-! ## The slice map (17 R373 to R377) -/

/-- A write to the slice map refused: bits LOCKED 0, BUSY 1, CONFLICT 2, VALUE 3 of SMSTAT. DEDUCED, log entry 40. -/
def State.refuseMap (s : State) (bit : Nat) : State :=
  { s with trust := { s.trust with smstat := s.trust.smstat ||| BitVec.ofNat 4 (2 ^ bit) } }

/-- Whether an owner value is a polder whose resources are locked (R377). -/
def State.lockedOwner (s : State) (w : Nat) : Bool :=
  w < 48 && (match (s.polder w).state with
    | .locked | .run | .quarantined | .releasing => true
    | _ => false)

/-- A write of CLOWN[c]: an allowed change of WORLD begins a latch change (R384); a cluster of SERVICE commands refuses every
value with CONFLICT (23 R486). -/
def State.writeClown (s : State) (c : Nat) (v : Word) : State :=
  let old := (mapGet 63#6 s.clown c).toNat
  let w := v.toNat % 64
  if mapGet false s.service c then s.refuseMap 2
  else if s.lockedOwner old || s.lockedOwner w then s.refuseMap 0
  else if mapGet false s.changing c then s.refuseMap 1
  else if !(w < 48 || w == 60 || w == 63) then s.refuseMap 3
  else if old != 63 && w != old && w != 63 then s.refuseMap 2
  else if w = old then s
  else { s with clown := mapSet 63#6 s.clown c (BitVec.ofNat 6 w), changing := mapSet false s.changing c true }

/-- The key set of an owner: a polder's is one more than its draw, that of world 60 and of 61 is 0; none without one. -/
def State.keySetOf (s : State) (w : Nat) : Option Nat :=
  if w < 48 then (if (s.polder w).keys then some ((s.polder w).keydraw + 1) else none)
  else if w = 60 ∨ w = 61 then some 0 else none

/-- A pseudo-channel read from now on under an owner's key set, if it has one (17 R395, R396). -/
def State.rekey (s : State) (p w : Nat) : State :=
  match s.keySetOf w with
  | some k => { s with pckeys := mapSet (0, 0) s.pckeys p ((mapGet (0, 0) s.pckeys p).1, k) }
  | none => s

/-- What of a checked-out range stands in a pseudo-channel, and what does not. -/
def Range.within (r : Range) (p : Nat) : Option Range :=
  let lo := max r.lo (p * 2 ^ 23)
  let hi := min r.hi (p * 2 ^ 23 + 2 ^ 23 - 1)
  if lo ≤ hi then some { r with lo := lo, hi := hi } else none
def Range.outside (r : Range) (p : Nat) : List Range :=
  let below := { r with hi := min r.hi (p * 2 ^ 23 - 1) }
  let above := { r with lo := max r.lo (p * 2 ^ 23 + 2 ^ 23) }
  (if r.lo < p * 2 ^ 23 then [below] else []) ++ if above.lo ≤ r.hi then [above] else []

/-- The rows of a pseudo-channel written as zero, with good codewords and no history; no hart keeps a copy. -/
def State.zeroChannel (s : State) (p : Nat) : State :=
  let out := fun (a : Nat) => a / 2 ^ 30 != p
  let now := (mapGet (0, 0) s.pckeys p).2
  { s with lkeys := s.lkeys.filter (fun e => out (e.1 * 128)), pckeys := mapSet (0, 0) s.pckeys p (now, now),
           l1 := s.l1.filter (fun e => e.1 / copySpan < 256 || out (e.1 % copySpan * 32)),
           hres := s.hres.filter (fun e => e.2.1.all out),
           mem := s.mem.filter (fun e => out e.1), lines := s.lines.filter (fun e => out (e.1 * 128)),
           dirty := s.dirty.filter (fun e => out (e.1 * 128)), stamps := s.stamps.filter (fun e => out (e.1 * 32)),
           uatoms := s.uatoms.filter (fun u => out (u.atom * 32)), vars := s.vars.filter (fun e => out (e.atom * 32)),
           ranges := s.ranges.flatMap fun r => r.outside p }

/-- The lines of a pseudo-channel that the L2 holds dirty in ways that their owner does not have are not found there (R375):
what HBM holds of them is read. DEDUCED, log entry 55. -/
def State.forgetWays (s : State) (p : Nat) : State :=
  (s.dirty.filter fun e => e.1 / 2 ^ 23 == p && !(s.waysOf e.1).contains e.2.way).foldl (fun s e => s.discardLine e.1) s

/-- A write of PCOWN[p] (R374): a channel taken from a polder in UNLOCKED is zeroed first; one that a LOCAL sluice fills
refuses every value with CONFLICT (21 R454). -/
def State.writePcown (s : State) (p : Nat) (v : Word) : State :=
  let old := (mapGet 63#6 s.pcown p).toNat
  let w := v.toNat % 64
  if old == 62 then s.refuseMap 2
  else if s.lockedOwner old || s.lockedOwner w then s.refuseMap 0
  else if !(w < 48 || w == 60 || w == 61 || w == 63) then s.refuseMap 3
  else if w ≠ 63 ∧ !(mapGet Phy.reset s.phys p).ready then s.refuseMap 3
  else if old != 63 && w != old && w != 63 then s.refuseMap 2
  else
    let s := if old < 48 ∧ w ≠ old ∧ (s.polder old).state = .unlocked then s.zeroChannel p else s
    let s := if w = old then s else s.rekey p w
    let s := { s with pcown := mapSet 63#6 s.pcown p (BitVec.ofNat 6 w),
                      tlb := if w = old then s.tlb else s.tlb.filter fun e => e.world != old }
    if w = old ∨ w = 63 then s else s.forgetWays p

/-- The number of a way mask: owner w on die d. -/
def wayKey (w d : Nat) : Nat := 2 * w + d

/-- The ways of other owners on a die that count for overlap (R371). -/
def State.otherWays (s : State) (w d : Nat) : DWord :=
  ((List.range 48 ++ [60, 61]).filter (· != w)).foldl (fun m o => m ||| mapGet 0#64 s.ways (wayKey o d)) 0#64

/-- A write of WAYMASK[w][d] (R375): ways taken away are written back first. -/
def State.writeWays (s : State) (w d : Nat) (v mask : DWord) : State :=
  let old := mapGet 0#64 s.ways (wayKey w d)
  let v := blend old v mask
  if s.lockedOwner w then s.refuseMap 0
  else if w = 60 ∧ d = 0 ∧ v &&& 15#64 ≠ 15#64 then s.refuseMap 3
  else if w ≠ 63 ∧ v &&& s.otherWays w d ≠ 0#64 then s.refuseMap 2
  else
    let gone := maskBits (old &&& ~~~v)
    let s := s.writeBack fun ln => s.owner (ln * 128) == w && lineDie ln == d &&
      s.dirty.any fun e => e.1 == ln && gone.contains e.2.way
    { s with ways := mapSet 0#64 s.ways (wayKey w d) v }

/-- A write of LSHARE[w][k] (R376). -/
def State.writeLshare (s : State) (w k : Nat) (v : Word) : State :=
  if s.lockedOwner w then s.refuseMap 0
  else { s with lshare := mapSet 0#8 s.lshare (18 * w + k) (v.setWidth 8) }

/-! ## The mailboxes (17 R380) -/

def Trust.mbox (t : Trust) (own : Bool) : Mailbox := if own then t.mbox60 else t.mbox0
def Trust.setMbox (t : Trust) (own : Bool) (m : Mailbox) : Trust :=
  if own then { t with mbox60 := m } else { t with mbox0 := m }

/-- A write of MBCMD: ignored while GO reads 1; GO joins the commands to serve in order. -/
def State.writeMbcmd (s : State) (own : Bool) (v : Word) : State :=
  let m := s.trust.mbox own
  if m.go then s
  else
    let m := { m with go := v.getLsbD 31, world := (v >>> 8).setWidth 6, op := v.setWidth 8 }
    let t := s.trust.setMbox own m
    { s with trust := { t with order := if m.go then t.order ++ [own] else t.order } }

def Mailbox.cmd (m : Mailbox) : Word :=
  BitVec.ofNat 32 ((if m.go then 2 ^ 31 else 0) + 256 * m.world.toNat + m.op.toNat)
def Mailbox.status (m : Mailbox) : Word := BitVec.ofNat 32 (256 * m.lstat.toNat + m.code.toNat)

/-! ## Fault buffers (20 R432, R437, R485) -/

/-- The HELD records that wait for room, oldest first, written while there is room; one whose buffer cannot be written is
aborted. -/
def State.flushWaiting (s : State) (w : Nat) : Nat → State
  | 0 => s
  | n + 1 =>
    let p := s.polder w
    match p.waitrec with
    | [] => s
    | r :: rs =>
      if p.fbhead - p.fbtail = p.fbsize then s
      else
        match (s.setPolder w { p with waitrec := rs }).postOwn w r with
        | (s, .written) | (s, .waits) => s.flushWaiting w n
        | (s, _) => (s.answer w r.seq false).flushWaiting w n

/-- A write of FBTAIL: ignored above FBHEAD or below the previous value. -/
def State.writeFbtail (s : State) (w : Nat) (v : DWord) : State :=
  let p := s.polder w
  if p.fbhead < v ∨ v < p.fbtail then s
  else (s.setPolder w { p with fbtail := v }).flushWaiting w p.waitrec.length

/-- A write of PFBTAIL. -/
def State.writePfbtail (s : State) (v : DWord) : State :=
  if s.trust.pfbhead < v ∨ v < s.trust.pfbtail then s else { s with trust := { s.trust with pfbtail := v } }

/-! ## Debug (22 R470, R471) -/

/-- The debug wipe: everything but the rollback counters and the life-cycle state returns to its reset value, the keys
and with them every byte of HBM are lost, and MODE takes its value. One event: DEDUCED, log entry 42. While WIPING reads
1 nothing else is performed. -/
def State.wipe (s : State) (mode : Nat) : State :=
  { State.reset with
    trust := { Trust.reset with lcs := s.trust.lcs, fusetc := s.trust.fusetc, fusefw := s.trust.fusefw,
                                mode := BitVec.ofNat 2 mode, keys := false, drbg := false },
    cxl := s.cxl, throttled := s.throttled, clock := s.clock, hclock := s.hclock, fresh := s.fresh, ids := s.ids,
    moves := s.moves, turn := s.turn, outbox := s.outbox }

/-- A request for scan or memory test: the wipe begins. One that meets a wipe in progress is ignored, as is one outside
mission mode, which only a power-on reset gives back. -/
def State.beginWipe (s : State) (mode : Nat) : State :=
  if s.trust.wiping ∨ s.trust.mode ≠ 0#2 then s
  else { s with trust := { s.trust with wiping := true, wipeto := BitVec.ofNat 2 mode } }

/-- The wipe in progress ends. -/
def State.endWipe (s : State) : State := s.wipe s.trust.wipeto.toNat

/-- A write of DBGREQ: the key, then the request. -/
def State.writeDbgreq (s : State) (v : Word) : State :=
  let req := v.toNat % 4
  if v.toNat / 65536 ≠ 0x5CA7 ∨ req = 0 ∨ req = 3 then s else s.beginWipe req

/-- A write of DBGADDR: ERR is cleared by a one. -/
def State.writeDbgaddr (s : State) (v : DWord) : State :=
  { s with trust := { s.trust with dbgerr := s.trust.dbgerr && !v.getLsbD 63, dbgworld := (v >>> 56).setWidth 6,
                                   dbgia := (v >>> 3).setWidth 53 } }

/-! ## Boot (23 R473 to R476) -/

/-- The address of the boot window. -/
def bootBase : Nat := 0x10000000000

/-- Why an image is rejected (R475): 1 FORMAT, 2 SIGNATURE, 3 ROLLBACK, 4 SIZE; 0 where it passes. -/
def Trust.imageReason (t : Trust) (b : List Byte) : Nat :=
  let len := field b 12 4
  if field b 0 4 ≠ 0x57465A43 ∨ field b 32 32 ≠ 0 ∨ field b 160 96 ≠ 0 ∨ len < field b 16 8 + 64 then 1
  else if len ≠ t.bootlen.toNat ∨ 2 ^ 24 < len then 4
  else if !Config.firmwareSigOk b then 2
  else if field b 4 4 < t.fusetc.toNat ∨ field b 8 4 < t.fusefw.toNat then 3
  else 0

/-- The service kernel's launch: one team of one group with S1 = ARGS. PRESUMED, log entry 37. -/
def serviceLaunch (desc args : Nat) : Launch :=
  { target := BitVec.ofNat 64 desc, gx := 1, gy := 1, gz := 1, gang := 1, prio := 0, attr := 0#16, poolcap := 0,
    args := BitVec.ofNat 64 args, ctr := 0#64, cinc := 0#64 }

/-- GO of BOOTCTL: the image is verified, and one that passes starts the service kernel on core 0. -/
def State.bootGo (s : State) : State :=
  let t := s.trust
  if t.mode ≠ 0#2 ∨ !(t.boot = 0#4 ∨ t.boot = 4#4) then s
  else
    let b := s.bytes bootBase (max 256 (min (2 ^ 24) t.bootlen.toNat))
    let r := t.imageReason b
    if r ≠ 0 then { s with trust := { t with boot := 4#4, reason := BitVec.ofNat 8 r } }
    else
      let s := { s with trust := { t with boot := 2#4, reason := 0#8, image := b,
                                          tcsvn := BitVec.ofNat 32 (field b 4 4), fwsvn := BitVec.ofNat 32 (field b 8 4) } }
      let s := s.giveCluster 0 60
      let d := (b.drop (field b 16 8)).take 64
      if !kernelOk d then s
      else
        let key := s.ids
        let s := s.newGrid 60 (serviceLaunch (bootBase + field b 16 8) (field b 24 8)) { kernelOf d with groups := 1 } 0
          (some 0) none false
        match s.grid key with
        | some k => s.placeGang k 0 1
        | none => s

/-! ## Memory interfaces (23 R478, R479) -/

def State.phy (s : State) (p : Nat) : Phy := mapGet Phy.reset s.phys p
def State.setPhy (s : State) (p : Nat) (y : Phy) : State := { s with phys := mapSet Phy.reset s.phys p y }

/-- The lanes of a byte that REPAIR names. -/
def badLanes (repair : Word) (b : Nat) : List Nat := (List.range 8).filter fun i => repair.getLsbD (8 * b + i)

/-- UNREP. -/
def Phy.unrep (y : Phy) : Bool := (List.range 4).any fun b => 2 ≤ (badLanes y.repair b).length

/-- READY as it stands after a write of PHYCTL or REPAIR. -/
def Phy.update (y : Phy) : Phy := { y with ready := y.en && !y.train && !y.unrep }

/-- PHYSTAT. -/
def Phy.status (y : Phy) : Word :=
  let used := ((List.range 4).filter fun b => badLanes y.repair b != []).length
  BitVec.ofNat 32 (16 * used + (if y.run.isSome then 4 else 0) + (if y.unrep then 2 else 0) + if y.ready then 1 else 0)

/-- PHYCTL. -/
def Phy.control (y : Phy) : Word :=
  BitVec.ofNat 32 (16 * y.rate.toNat + (if y.train then 2 else 0) + if y.en then 1 else 0)

/-- Whether writes to a unit are ignored for its owner. -/
def State.phyOwned (s : State) (p : Nat) : Bool :=
  let w := (mapGet 63#6 s.pcown p).toNat
  w < 48 || w == 61

/-- A write of PHYCTL. -/
def State.writePhyctl (s : State) (p : Nat) (v : Word) : State :=
  let y := s.phy p
  let rate := (v >>> 4).setWidth 4
  if s.phyOwned p || 4#4 < rate || (rate != y.rate && y.en && !y.train) then s
  else s.setPhy p { y with rate := rate, train := v.getLsbD 1, en := v.getLsbD 0 }.update

/-- A write of REPAIR. -/
def State.writeRepair (s : State) (p : Nat) (v : Word) : State :=
  let y := s.phy p
  if s.phyOwned p || !y.train then s else s.setPhy p { y with repair := v }.update

/-- A write of PATCTL: GO starts a run of WRITE or READ where none is in progress and the interface is clocked. -/
def State.writePatctl (s : State) (p : Nat) (v : Word) : State :=
  let y := s.phy p
  if s.phyOwned p || !y.train then s
  else
    let op := v.setWidth 2
    let go := v.getLsbD 31 && (op == 1#2 || op == 2#2) && y.run.isNone && y.en
    s.setPhy p { y with patop := op, run := if go then some (op, y.repair) else y.run }

/-- The delays of lanes written: `wr` for WDLY. -/
def State.writeDelays (s : State) (p : Nat) (wr : Bool) (lanes : List Nat) (v : Word) : State :=
  let y := s.phy p
  let put := fun (m : List (Nat × BitVec 6)) => lanes.foldl (fun m i => mapSet 32#6 m i (v.setWidth 6)) m
  if s.phyOwned p || !y.train then s
  else s.setPhy p (if wr then { y with wdly := put y.wdly } else { y with rdly := put y.rdly })

/-- PATERR of a run's results: a lane on a spare reports that spare's result, whose own bit reads 0. -/
def reportErr (repair : Word) (err : BitVec 36) : BitVec 36 :=
  (List.range 4).foldl (fun e b =>
    match (badLanes repair b).head? with
    | some i =>
      let bit := fun (k : Nat) => BitVec.ofNat 36 (2 ^ k)
      let e := e &&& ~~~(bit (8 * b + i)) &&& ~~~(bit (32 + b))
      if err.getLsbD (32 + b) then e ||| bit (8 * b + i) else e
    | none => e) err

/-- A read of a 32-bit word of a memory interface. -/
def State.readPhy (s : State) (p o : Nat) : Word :=
  let y := s.phy p
  let dly := fun (m : List (Nat × BitVec 6)) (i : Nat) => (mapGet 32#6 m i).setWidth 32
  if o = 0 then y.control
  else if o = 4 then y.status
  else if o = 8 then y.repair
  else if o = 16 then BitVec.ofNat 32 ((if y.run.isSome then 2 ^ 31 else 0) + y.patop.toNat)
  else if o = 24 then y.paterr.setWidth 32
  else if o = 28 then (y.paterr >>> 32).setWidth 32
  else if 256 ≤ o ∧ o < 400 then dly y.rdly ((o - 256) / 4)
  else if 512 ≤ o ∧ o < 656 then dly y.wdly ((o - 512) / 4)
  else 0#32

/-- A write of a 32-bit word of a memory interface. -/
def State.writePhy (s : State) (p o : Nat) (v : Word) : State :=
  if o = 0 then s.writePhyctl p v
  else if o = 8 then s.writeRepair p v
  else if o = 16 then s.writePatctl p v
  else if 256 ≤ o ∧ o < 400 then s.writeDelays p false [(o - 256) / 4] v
  else if 512 ≤ o ∧ o < 656 then s.writeDelays p true [(o - 512) / 4] v
  else if o = 768 then s.writeDelays p false (List.range 36) v
  else if o = 772 then s.writeDelays p true (List.range 36) v
  else s

/-! ## Link ports (18 R401, R407) -/

def State.port (s : State) (k : Nat) : Port := mapGet Port.reset s.ports k
def State.setPort (s : State) (k : Nat) (p : Port) : State := { s with ports := mapSet Port.reset s.ports k p }

/-- The collectives that need a port end with LINK (R407): those that send through it, and of those whose ranks may send
to this device through it, the ones that do. DEDUCED, log entry 50. -/
def State.losePort (s : State) (k : Nat) : State :=
  s.ops.foldl (fun s o =>
    match o.coll? with
    | none => s
    | some c =>
      match s.comm o.world c.comm with
      | none => s
      | some cm =>
        let out := cm.devs.any fun d => d != s.devid && s.portFor d cm.handle == some k
        let back := cm.devs.any fun d => d != s.devid && s.carries o.world d k
        let hit := out || (back && Config.freeNat s.fresh % 2 == 1)
        let s := s.draw
        if hit && c.known && !c.finished then s.modOp o.id fun o => { o with kind := .coll { c with lost := true } } else s) s

/-- A port no longer up: its flits are lost. -/
def State.dropPort (s : State) (k : Nat) (stat : BitVec 2) : State :=
  let up := (s.port k).stat == 2#2
  let s := if up then s.losePort k else s
  s.setPort k { s.port k with stat := stat, tries := 0 }

/-- A write of LCTL: EN 1 trains a port that is down, EN 0 takes it down; FAILED is left only by 0 and then 1. -/
def State.writeLctl (s : State) (k : Nat) (v : Word) : State :=
  let p := s.port k
  if !v.getLsbD 0 then (s.dropPort k 0#2).setPort k { (s.dropPort k 0#2).port k with en := false, bad := 0 }
  else if p.stat = 0#2 then s.setPort k { p with en := true, stat := 1#2 }
  else s.setPort k { p with en := true }

/-- A read of a 32-bit word of a port. -/
def State.readPort (s : State) (k o : Nat) : Word :=
  let p := s.port k
  if o = 0 then (if p.en then 1#32 else 0#32)
  else if o = 8 then BitVec.ofNat 32 (p.stat.toNat + 16 * p.peer.toNat + 65536 * p.pport.toNat)
  else if o = 16 then p.replays
  else if o = 24 then p.tagerr
  else if k = 0 ∧ o = 256 then s.devid.setWidth 32
  else if k = 0 ∧ 65536 ≤ o ∧ o < 81920 then (mapGet 0#18 s.routes ((o - 65536) / 4)).setWidth 32
  else 0#32

/-- A write of a 32-bit word of a port. -/
def State.writePort (s : State) (k o : Nat) (v : Word) : State :=
  if o = 0 then s.writeLctl k v
  else if k = 0 ∧ o = 256 then
    (if (List.range 18).any fun j => (s.port j).stat == 2#2 then s else { s with devid := v.setWidth 12 })
  else if k = 0 ∧ 65536 ≤ o ∧ o < 81920 then
    { s with routes := mapSet 0#18 s.routes ((o - 65536) / 4) (v.setWidth 18) }
  else s

/-! ## The Trust Controller's area (17 R372, 20 R485, 22 R470, 23 R474) -/

/-- A 64-bit register of the area: the offset of its low half. -/
def trust64 (o : Nat) : Bool :=
  [0x8, 0x108, 0x310, 0x318, 0x600, 0x608, 0x610, 0x618, 0x620].contains o || (0x11000 ≤ o && o < 0x11400)

/-- A 64-bit register of the area read by world 60. -/
def State.readTrust64 (s : State) (o : Nat) : DWord :=
  let t := s.trust
  if o = 0x8 then t.mbox0.arg
  else if o = 0x108 then t.mbox60.arg
  else if o = 0x600 then t.pfbbase
  else if o = 0x608 then t.pfbsize
  else if o = 0x610 then t.pfbhead
  else if o = 0x618 then t.pfbtail
  else if o = 0x620 then BitVec.ofNat 64 ((if t.waddr then 2 ^ 32 else 0) + t.pflost.toNat)
  else if 0x11000 ≤ o ∧ o < 0x11400 then mapGet 0#64 s.ways (wayKey ((o - 0x11000) / 16) ((o - 0x11000) / 8 % 2))
  else 0#64

/-- RNGSTAT. -/
def Trust.rngstat (t : Trust) : Word :=
  BitVec.ofNat 32 (65536 * t.fails.toNat + (if t.retest then 2 else 0) + if t.ok then 1 else 0)
/-- DBGSTAT. -/
def Trust.dbgstat (t : Trust) : Word := BitVec.ofNat 32 (8 * t.mode.toNat + (if t.wiping then 4 else 0) + t.lcs.toNat)

/-- CLOWN[c] as it reads. -/
def State.readClown (s : State) (c : Nat) : Word :=
  BitVec.ofNat 32 ((if mapGet false s.changing c then 256 else 0) + (mapGet 63#6 s.clown c).toNat)

/-- A 32-bit word of the area read by world 60. -/
def State.readTrust (s : State) (o : Nat) : Word :=
  let t := s.trust
  let base := o / 8 * 8
  if trust64 base then (if o = base then (s.readTrust64 base).setWidth 32 else (s.readTrust64 base >>> 32).setWidth 32)
  else if o = 0 then t.mbox0.cmd
  else if o = 0x10 then t.mbox0.status
  else if o = 0x100 then t.mbox60.cmd
  else if o = 0x110 then t.mbox60.status
  else if o = 0x200 then t.rngstat
  else if o = 0x300 then t.dbgstat
  else if o = 0x400 then BitVec.ofNat 32 (256 * t.reason.toNat + t.boot.toNat)
  else if o = 0x408 then t.bootlen
  else if 0x10000 ≤ o ∧ o < 0x100C0 then s.readClown ((o - 0x10000) / 4)
  else if 0x10100 ≤ o ∧ o < 0x10900 then (mapGet 63#6 s.pcown ((o - 0x10100) / 4)).setWidth 32
  else if 0x12000 ≤ o ∧ o < 0x14000 ∧ o % 128 < 72 then
    (mapGet 0#8 s.lshare (18 * ((o - 0x12000) / 128) + o % 128 / 4)).setWidth 32
  else if o = 0x14000 then t.smstat.setWidth 32
  else 0#32

/-- A 64-bit register of the area written under a mask; DBGADDR and DBGDATA answer the physical function only (22
R469). -/
def State.writeTrust64 (s : State) (own : Bool) (o : Nat) (v mask : DWord) : State :=
  let t := s.trust
  if o = 0x8 then { s with trust := { t with mbox0 := { t.mbox0 with arg := blend t.mbox0.arg v mask } } }
  else if o = 0x108 then { s with trust := { t with mbox60 := { t.mbox60 with arg := blend t.mbox60.arg v mask } } }
  else if o = 0x310 then
    (if own then s
    else
      let old := BitVec.ofNat 64 (t.dbgworld.toNat * 2 ^ 56 + 8 * t.dbgia.toNat)
      s.writeDbgaddr (blend old v mask))
  else if o = 0x318 then (if own then s else s.debugWrite (blend t.dbgdata v mask))
  else if o = 0x600 then { s with trust := { t with pfbbase := blend t.pfbbase v mask &&& ~~~63#64 } }
  else if o = 0x608 then
    (let n := blend t.pfbsize v mask
    if 65536#64 < n then s else { s with trust := { t with pfbsize := n } })
  else if o = 0x618 then s.writePfbtail (blend t.pfbtail v mask)
  else if o = 0x620 then { s with trust := { t with waddr := t.waddr && !(v &&& mask).getLsbD 32 } }
  else if 0x11000 ≤ o ∧ o < 0x11400 then s.writeWays ((o - 0x11000) / 16) ((o - 0x11000) / 8 % 2) v mask
  else s

/-- A 32-bit register of the area written. -/
def State.writeTrust32 (s : State) (o : Nat) (v : Word) : State :=
  let t := s.trust
  if o = 0 then s.writeMbcmd false v
  else if o = 0x100 then s.writeMbcmd true v
  else if o = 0x308 then s.writeDbgreq v
  else if o = 0x404 then (if v.getLsbD 0 then s.bootGo else s)
  else if o = 0x408 then (if t.boot = 0#4 ∨ t.boot = 4#4 then { s with trust := { t with bootlen := v } } else s)
  else if 0x10000 ≤ o ∧ o < 0x100C0 then s.writeClown ((o - 0x10000) / 4) v
  else if 0x10100 ≤ o ∧ o < 0x10900 then s.writePcown ((o - 0x10100) / 4) v
  else if 0x12000 ≤ o ∧ o < 0x14000 ∧ o % 128 < 72 then s.writeLshare ((o - 0x12000) / 128) (o % 128 / 4) v
  else if o = 0x14000 then { s with trust := { t with smstat := t.smstat &&& ~~~v.setWidth 4 } }
  else s

/-- A 32-bit word of the area written; half of a 64-bit register leaves the other half. -/
def State.writeTrust (s : State) (own : Bool) (o : Nat) (v : Word) : State :=
  let base := o / 8 * 8
  if trust64 base then
    (if o = base then s.writeTrust64 own base (v.setWidth 64) 0xFFFFFFFF#64
    else s.writeTrust64 own base (v.setWidth 64 <<< 32) 0xFFFFFFFF00000000#64)
  else s.writeTrust32 o v

/-! ## A virtual function's registers (17 R390, R391, 20 R432) -/

/-- PSTATE. -/
def Polder.pstate (p : Polder) : Nat :=
  (match p.state with
    | .free => 0 | .creating => 1 | .unlocked => 2 | .locked => 3 | .run => 4 | .quarantined => 5 | .releasing => 6) +
  (if p.rngbad then 8 else 0) + if p.susp then 16 else 0

/-- A register of the window at an offset. -/
def Polder.readReg (p : Polder) (o : Nat) : DWord :=
  if o = 0 then BitVec.ofNat 64 p.pstate
  else if o = 0x8 then p.s1root
  else if o = 0x10 then p.lkdesc
  else if o = 0x18 then p.lkargs
  else if o = 0x20 then p.spillbase
  else if o = 0x28 then p.spillsize
  else if o = 0x30 then p.fbbase
  else if o = 0x38 then p.fbsize
  else if o = 0x40 then p.spillwait
  else if o = 0x48 then p.invaddr
  else if o = 0x50 then BitVec.ofNat 64 ((if p.invgo then 2 ^ 63 else 0) + if p.invkind then 1 else 0)
  else if o = 0x58 then p.fbhead
  else if o = 0x60 then p.fbtail
  else if o = 0x68 then BitVec.ofNat 64 ((if p.wfault then 2 ^ 32 else 0) + p.lost.toNat)
  else if o = 0x78 then p.cecnt
  else if o = 0x80 then p.uecnt
  else 0#64

/-- A write of INVCTL: GO begins a stage-1 invalidation; ignored while one is in progress. -/
def State.writeInvctl (s : State) (w : Nat) (go kind : Bool) : State :=
  let p := s.polder w
  if p.invgo then s
  else
    let s := s.setPolder w { p with invkind := kind, invgo := go }
    if go then s.invalidate 0 (if kind then 1 else 0) 1 p.invaddr.toNat w else s

/-- A write of FBRESP (R438); a write to its reserved bits is ignored (01 R9). -/
def State.writeFbresp (s : State) (w : Nat) (v : DWord) : State :=
  let act := v.toNat / 2 ^ 32 % 4
  if act = 1 ∨ act = 2 then s.answer w (v.setWidth 32) (act == 1) else s

/-- A write of a register of the window. -/
def State.writeVf (s : State) (w o : Nat) (v : DWord) : State :=
  let p := s.polder w
  let set := p.state = .unlocked ∨ p.state = .locked
  if p.state = .free then s
  else if o = 0x40 then
    (if v < 1024#64 ∨ 1048576#64 < v then s else s.setPolder w { p with spillwait := v })
  else if o = 0x60 then s.writeFbtail w v
  else if o = 0x68 then s.setPolder w { p with wfault := p.wfault && !v.getLsbD 32 }
  else if o = 0x70 then (if p.state = .run then s.writeFbresp w v else s)
  else if o = 0x48 then (if p.state = .run then s.setPolder w { p with invaddr := v } else s)
  else if o = 0x50 then s.writeInvctl w (v.getLsbD 63) (v.getLsbD 0)
  else if !set then s
  else if o = 0x8 then s.setPolder w { p with s1root := v }
  else if o = 0x10 then s.setPolder w { p with lkdesc := v }
  else if o = 0x18 then s.setPolder w { p with lkargs := v }
  else if o = 0x20 then s.setPolder w { p with spillbase := v &&& ~~~65535#64 }
  else if o = 0x28 then s.setPolder w { p with spillsize := v &&& ~~~65535#64 }
  else if o = 0x30 then s.setPolder w { p with fbbase := v &&& ~~~63#64 }
  else if o = 0x38 then (if 65536#64 < v then s else s.setPolder w { p with fbsize := v })
  else s

/-! ## Writes by the host and the hypervisor -/

/-- CLOWN_WRITE. -/
def execClownWrite (c : Nat) (v : Word) (s : State) : Outcome := .next (if c < 48 then s.writeClown c v else s)
/-- PCOWN_WRITE. -/
def execPcownWrite (p : Nat) (v : Word) (s : State) : Outcome := .next (if p < 512 then s.writePcown p v else s)
/-- WAYMASK_WRITE. -/
def execWaymaskWrite (w die : Nat) (v : DWord) (s : State) : Outcome :=
  .next (if w < 64 ∧ die < 2 then s.writeWays w die v (-1#64) else s)
/-- LSHARE_WRITE. -/
def execLshareWrite (w port : Nat) (v : Word) (s : State) : Outcome :=
  .next (if w < 64 ∧ port < 18 then s.writeLshare w port v else s)

/-- A 64-bit value written to a register or, where two of 32 bits stand there, to the first of them. -/
def State.writeRegister (s : State) (r : RegAddr) (v : DWord) : State :=
  match r with
  | .trust own o =>
    if trust64 (o / 8 * 8) then s.writeTrust64 own (o / 8 * 8) v (-1#64) else s.writeTrust32 (o / 4 * 4) (v.setWidth 32)
  | .port k o => if k < 18 then s.writePort k (o / 4 * 4) (v.setWidth 32) else s
  | .phy p o => if p < 512 then s.writePhy p (o / 4 * 4) (v.setWidth 32) else s
  | .vf w o => if w < 48 ∧ s.trust.vfs then s.writeVf w (o / 8 * 8) v else s

/-- REGISTER_WRITE: the new value and the effects its register's description names (01 R9). -/
def execRegisterWrite (reg : RegAddr) (v : DWord) (s : State) : Outcome := .next (s.writeRegister reg v)

/-- INVCTL_ADDRESS: INVCTL written with GO = 1 and KIND 0. -/
def execInvctlAddress (w : Nat) (s : State) : Outcome := .next (s.writeInvctl w true false)
/-- INVCTL_WORLD: INVCTL written with GO = 1 and KIND 1. -/
def execInvctlWorld (w : Nat) (s : State) : Outcome := .next (s.writeInvctl w true true)
/-- INVCTL_COMPLETION: GO reads 0 once nothing translated through a removed entry is in flight. -/
def execInvctlCompletion (w : Nat) (s : State) : Outcome :=
  .next (if (s.polder w).invgo && !s.staleInUse 0 w then
      (s.dropStale 0 w).setPolder w { s.polder w with invgo := false }
    else s)

/-- A stage-2 invalidation made through the physical function (R391): the entries of a world, those of one intermediate
page, are gone. The spec gives it no register: DEDUCED, log entry 64. -/
def State.pfInvalidate (s : State) (w : Nat) (ia : Option Nat) : State :=
  let named := fun (e : TlbEntry) => e.named (if ia.isSome then 0 else 1) 2 (ia.getD 0) w
  { s with tlb := s.tlb.filter fun e => !named e }

/-! ## Entropy (17 R392) -/

/-- A failure counted; a start-up test runs after it. -/
def Trust.healthFailure (t : Trust) : Trust :=
  { t with fails := if t.fails = 0xFFFF#16 then t.fails else t.fails + 1#16, ok := false, retest := true }

/-- RNG_STARTUP_TEST: the start-up test ends. The service key set is drawn once the first one passes (R393, R394).
DEDUCED, log entry 59. -/
def execRngStartupTest (pass : Bool) (s : State) : Outcome :=
  .next (if !s.trust.retest then s
    else if pass then
      let t := { s.trust with ok := true, retest := false }
      if t.keys ∨ t.mode ≠ 0#2 then { s with trust := t }
      else { s.draw with trust := { t with keys := true, keydraw := s.fresh } }
    else { s with trust := s.trust.healthFailure })

/-- RNG_HEALTH_FAILURE: a continuous health test fails. -/
def execRngHealthFailure (s : State) : Outcome := .next { s with trust := s.trust.healthFailure }

/-! ## Ports and interfaces -/

/-- LCTL_WRITE. -/
def execLctlWrite (port : Nat) (v : Word) (s : State) : Outcome := .next (if port < 18 then s.writeLctl port v else s)

/-- PORT_TRAINING_END: training succeeds, or fails and begins again; the eighth failure in a row is FAILED. -/
def execPortTrainingEnd (port : Nat) (ok : Bool) (peer : BitVec 12) (peerPort : BitVec 5) (s : State) : Outcome :=
  let p := s.port port
  .next (if p.stat ≠ 1#2 then s
    else if ok then s.setPort port { p with stat := 2#2, peer := peer, pport := peerPort, bad := 0, rxseq := 0#32,
                                            acked := 0#32, tries := 0 }
    else if 7 ≤ p.bad then s.setPort port { p with stat := 3#2, bad := p.bad + 1 }
    else s.setPort port { p with bad := p.bad + 1 })

/-- PORT_DOWN: a port that was up goes down, and the collectives that need it end with LINK. -/
def execPortDown (port : Nat) (s : State) : Outcome :=
  .next (if (s.port port).stat = 2#2 then s.dropPort port 0#2 else s)

/-- PHYCTL_WRITE. -/
def execPhyctlWrite (p : Nat) (v : Word) (s : State) : Outcome := .next (if p < 512 then s.writePhyctl p v else s)
/-- REPAIR_WRITE. -/
def execRepairWrite (p : Nat) (v : Word) (s : State) : Outcome := .next (if p < 512 then s.writeRepair p v else s)
/-- PATTERN_RUN_WRITE: PATCTL written with GO = 1 and OP WRITE. -/
def execPatternRunWrite (p : Nat) (s : State) : Outcome :=
  .next (if p < 512 then s.writePatctl p 0x80000001#32 else s)
/-- PATTERN_RUN_READ: PATCTL written with GO = 1 and OP READ. -/
def execPatternRunRead (p : Nat) (s : State) : Outcome :=
  .next (if p < 512 then s.writePatctl p 0x80000002#32 else s)
/-- PATTERN_RUN_COMPLETION: the run ends, `err` being what each lane and spare found. -/
def execPatternRunCompletion (p : Nat) (err : BitVec 36) (s : State) : Outcome :=
  let y := s.phy p
  .next (match y.run with
    | some (_, rep) => s.setPhy p { y with run := none, paterr := reportErr rep err }
    | none => s)
/-- RDLYALL_WRITE. -/
def execRdlyallWrite (p : Nat) (v : Word) (s : State) : Outcome :=
  .next (if p < 512 then s.writeDelays p false (List.range 36) v else s)
/-- WDLYALL_WRITE. -/
def execWdlyallWrite (p : Nat) (v : Word) (s : State) : Outcome :=
  .next (if p < 512 then s.writeDelays p true (List.range 36) v else s)

/-! ## Debug requests and boot -/

/-- DBGREQ_SCAN: a write of DBGREQ that asks for scan mode. -/
def execDbgreqScan (v : Word) (s : State) : Outcome := .next (if v.toNat % 4 = 1 then s.writeDbgreq v else s)
/-- DBGREQ_MEMORY_TEST: a write of DBGREQ that asks for memory-test mode. -/
def execDbgreqMemoryTest (v : Word) (s : State) : Outcome := .next (if v.toNat % 4 = 2 then s.writeDbgreq v else s)
/-- TEST_ACCESS_PORT_ENTRY: scan or memory test asked for through the test access port. -/
def execTestAccessPortEntry (mode : BitVec 2) (s : State) : Outcome :=
  .next (if mode = 1#2 ∨ mode = 2#2 then s.beginWipe mode.toNat else s)

/-- BOOTCTL_GO: a write of BOOTCTL. -/
def execBootctlGo (v : Word) (s : State) : Outcome := .next (if v.getLsbD 0 then s.bootGo else s)

/-- BOOT_READY: every group of world 60 has ended (R476). -/
def execBootReady (s : State) : Outcome :=
  .next (if s.trust.boot ≠ 2#4 ∨ s.groups.any (fun g => g.world == 60) then s
    else
      let t := s.trust
      let up := fun (a b : Word) => if a < b then b else a
      { s with trust := { t with boot := 3#4, vfs := true, fusetc := up t.fusetc t.tcsvn, fusefw := up t.fusefw t.fwsvn } }.giveCluster
        0 63)

end Sys2Proof.Machine
end

