-- ==== Sys2Proof/Machine/System.lean ====
section
/-!
DEFINITION. Sys2Proof/Machine/System.lean: the system class of world 60: control space (05 R126 to R128), translation
maintenance (R129, R130), cache maintenance (R131, R132).
-/
namespace Sys2Proof.Machine

/-! ## Control space -/

/-- Whether an address names a unit of control space: path 0x7, bits 59:40 zero, an area and a unit within its range. -/
def ctlOk (a : Nat) : Bool :=
  let unit := bitsAt a 20 16
  pathOf a == 7 && bitsAt a 40 20 == 0 &&
  (match bitsAt a 36 4 with
    | 0 | 5 | 6 => unit == 0
    | 1 => unit < 64
    | 2 => unit < 512
    | 3 => unit < 18
    | 4 => unit < 2
    | _ => false)

/-- The 32 bits that a control-space address reads: zero where no register stands. -/
def State.ctlRead (s : State) (a : Nat) : Word :=
  let unit := bitsAt a 20 16
  let o := a % 2 ^ 20 / 4 * 4
  match bitsAt a 36 4 with
  | 2 => s.readPhy unit o
  | 3 => s.readPort unit o
  | 6 => s.readTrust o
  | _ => 0#32

/-- 32 bits written to a control-space address. -/
def State.ctlWrite (s : State) (a : Nat) (v : Word) : State :=
  let unit := bitsAt a 20 16
  let o := a % 2 ^ 20 / 4 * 4
  match bitsAt a 36 4 with
  | 2 => s.writePhy unit o v
  | 3 => s.writePort unit o v
  | 6 => s.writeTrust true o v
  | _ => s

/-- 64 bits written: a 64-bit register at once, else the two registers at A and A + 4, low half first. -/
def State.ctlWrite64 (s : State) (a : Nat) (v : DWord) : State :=
  let o := a % 2 ^ 20
  if bitsAt a 36 4 = 6 ∧ trust64 o then s.writeTrust64 true o v (-1#64)
  else (s.ctlWrite a (v.setWidth 32)).ctlWrite (a + 4) ((v >>> 32).setWidth 32)

/-- The checks of R127 on an address, in order. -/
def ctlCond (g : Group) (a d : BitVec 5) (store : Bool) (addr n : Nat) : Option Cond :=
  firstCond [sPoison g 0 [a.toNat], if store then sPoison g 1 [d.toNat] else none,
    if ctlOk addr then none else some { cause := addrPath, addr := addr },
    if addr % n = 0 then none else some { cause := addrAlign, addr := addr }]

/-- CLD: the register's value in S[SD] with a clear tag; `.S32` extends its sign. -/
def execCld (w : BitVec 3) (i : BitVec 12) (a d : BitVec 5) (f : BitVec 1) (s : State) : Outcome :=
  onGroup s fun g j =>
    let n := widthBytes w.toNat
    let flag := j.flag f
    let addr := scalarAddr g a i
    if s.hazard g [] [] [a.toNat, d.toNat] || !g.flagFree flag then .wait s
    else Res.unless s (ctlCond g a d false addr n)
      (let lo := s.ctlRead addr
      let v : DWord := if n = 8 then s.ctlRead (addr + 4) ++ lo
        else if 4 ≤ w.toNat then lo.signExtend 64 else lo.setWidth 64
      .done ((s.issueOp g flag .plain true).modGroup g.gid fun g => g.setS d.toNat ⟨v, false⟩))

/-- CST: the register written, with the effects its description names. -/
def execCst (w : BitVec 3) (i : BitVec 12) (a d : BitVec 5) (f : BitVec 1) (s : State) : Outcome :=
  onGroup s fun g j =>
    let n := widthBytes w.toNat
    let flag := j.flag f
    let addr := scalarAddr g a i
    if s.hazard g [] [] [a.toNat, d.toNat] || !g.flagFree flag then .wait s
    else Res.unless s (ctlCond g a d true addr n)
      (let v := (g.sreg d.toNat).val
      let s := s.issueOp g flag .plain true
      .done (if n = 8 then s.ctlWrite64 addr v else s.ctlWrite addr (v.setWidth 32)))

/-! ## Translations -/

/-- TLBINV: the named translations are marked; KIND ALL reads no operand, KIND WORLD only the world. -/
def execTlbinv (sf k : BitVec 2) (b a : BitVec 5) (s : State) : Outcome :=
  onGroup s fun g _ =>
    let reads := if k = 2#2 then [] else if k = 1#2 then [b.toNat] else [a.toNat, b.toNat]
    let w := (g.sreg b.toNat).val.toNat % 64
    let here := k = 2#2 ∨ (w < 48 ∧ (s.polder w).state ≠ .free)
    if s.hazard g [] [] reads then .wait s
    else Res.unless s (sPoison g 1 reads)
      (let s := if here then s.invalidate g.gid k.toNat sf.toNat (g.sreg a.toNat).val.toNat w else s
      .done (s.modGroup g.gid fun g => { g with tlbinv := g.tlbinv + 1 }))

/-- TLBINV_COMPLETION: nothing translated through an entry that the group's invalidations named is in flight, and the
entries are gone. -/
def execTlbinvCompletion (gid : Nat) (s : State) : Outcome :=
  .next (match s.group gid with
    | none => s
    | some g =>
      if g.tlbinv = 0 || s.staleInUse gid 0 then s
      else (s.dropStale gid 0).modGroup gid fun g => { g with tlbinv := 0 })

/-- TLBSYNC: the group stalls until its invalidations have completed. -/
def execTlbsync (s : State) : Outcome :=
  onGroup s fun g _ => if g.tlbinv = 0 then .done s else .wait s

/-! ## Caches -/

/-- Whether a line is skipped by maintenance: an atom of it in U state, a check-out range, no installed memory. -/
def State.lineSkipped (s : State) (ln : Nat) : Bool :=
  2 ^ 32 ≤ ln || (s.uatoms.any fun u => u.atom / 4 == ln) || s.ranges.any fun r => r.lo ≤ ln && ln ≤ r.hi

/-- A line written back by the home L2: a write of its present value in the coherent order. -/
def State.cleanLine (s : State) (ln : Nat) : State :=
  ((List.range 4).map (4 * ln + ·)).foldl (fun s a => s.setStamp a ((s.stamp a).2 + 1, (s.stamp a).2 + 1))
    (s.writeBack (· == ln))

/-- Maintenance of the dirty lines that a test picks: CLEAN and CLEANINV write them back, INV discards them but for a
polder's. -/
def State.maintain (s : State) (op : Nat) (pick : Nat → Bool) : State :=
  (s.dirty.map Prod.fst).foldl (fun s ln =>
    if !pick ln || s.lineSkipped ln then s
    else if op = 2 ∧ 48 ≤ s.owner (ln * 128) then s.discardLine ln
    else s.cleanLine ln) s

/-- CMAINT over the lines that overlap a physical range. -/
def execCmaint (o : BitVec 2) (b a : BitVec 5) (s : State) : Outcome :=
  onGroup s fun g _ =>
    let lo := (g.sreg a.toNat).val.toNat
    let n := (g.sreg b.toNat).val.toNat
    if s.hazard g [] [] [a.toNat, b.toNat] then .wait s
    else Res.unless s (sPoison g 1 [a.toNat, b.toNat])
      (let pick := fun (ln : Nat) => n != 0 && lo < (ln + 1) * 128 && ln * 128 < lo + n
      .done ((s.maintain o.toNat pick).modGroup g.gid fun g => { g with cmaint := g.cmaint + 1 }))

/-- Whether the L2 holds a line dirty in the ways of a world. -/
def State.inWays (s : State) (w ln : Nat) : Bool :=
  (s.dirtyLine ln).any fun d => (maskBits (mapGet 0#64 s.ways (2 * w + lineDie ln))).contains d.way

/-- CMAINT.W over the lines held in a world's ways. -/
def execCmaintW (o : BitVec 2) (a : BitVec 5) (s : State) : Outcome :=
  onGroup s fun g _ =>
    let w := (g.sreg a.toNat).val.toNat % 64
    if s.hazard g [] [] [a.toNat] then .wait s
    else Res.unless s (sPoison g 1 [a.toNat])
      (.done ((s.maintain o.toNat (s.inWays w)).modGroup g.gid fun g =>
        { g with cmaint := g.cmaint + 1 }))

/-- CMAINT_COMPLETION: every write-back has reached HBM and every invalidation has taken effect. -/
def execCmaintCompletion (gid : Nat) (s : State) : Outcome := .next (s.modGroup gid fun g => { g with cmaint := 0 })

/-- CSYNC: the group stalls until its maintenance has completed; its `CST`s have, as each is whole at issue. -/
def execCsync (s : State) : Outcome :=
  onGroup s fun g _ => if g.cmaint = 0 then .done s else .wait s

end Sys2Proof.Machine
end

