-- ==== Sys2Proof/Machine/Trust.lean ====
section
/-!
DEFINITION. Sys2Proof/Machine/Trust.lean: the Trust Controller: parameter blocks and the mailbox's order (17 R380), CREATE
(17 R381, R382), SERVICE (23 R486), release (21 R462, 22 R467), TDISP (17 R378, R379), the SPDM responder, measurements
and vendor requests (17 R397, R398, 18 R404, R405, 22 R466 to R468).
-/
namespace Sys2Proof.Machine

/-! ## Parameter blocks -/

/-- Whether world 60 may name device physical addresses: its own memory and the boot window (17 R369, 23 R473). -/
def State.ownMemory (s : State) (pas : List Nat) : Bool := pas.all fun a => bootWindow a || s.owner a == 60

/-- Bytes of a parameter block: a host address, or a device physical address from world 60's mailbox (17 R380, 18 R411);
none where it cannot be read clean. Bytes under an X range are waited for: the command is served again. DEDUCED, log entry 41. -/
def State.paramBytes (s : State) (own : Bool) (a n : Nat) : State × Option (List Byte) :=
  let pas := addrs (if own then a else 2 ^ 39 + a % 2 ^ 39) n
  if !own || pas.all hostWindow then
    let (s, bs) := s.hostRead pas
    (s, some (bs.map Prod.fst))
  else if !s.ownMemory pas then (s, none)
  else if s.held pas none then ({ s with trust := { s.trust with blocked := true } }, none)
  else match s.agentRead pas with
    | (s, bs, none) => (s, if bs.any Prod.snd then none else some (bs.map Prod.fst))
    | (s, _, some b) => (s.integrity (b * 128), none)

/-- Bytes written in the same address space; to another owner's memory nothing is. -/
def State.paramWrite (s : State) (own : Bool) (a : Nat) (bs : List Byte) : State :=
  let pas := addrs (if own then a else 2 ^ 39 + a % 2 ^ 39) bs.length
  if !own || pas.all hostWindow then s.hostWrite (List.zip pas bs)
  else if !s.ownMemory pas then s
  else if s.held pas none then { s with trust := { s.trust with blocked := true } }
  else s.agentWrite (List.zip pas bs) []

/-- The mailbox whose command is served next, and the command. -/
def State.mail (s : State) : Option (Bool × Mailbox) := s.trust.order.head?.map fun own => (own, s.trust.mbox own)

/-- The end of the command served: its code and LSTAT. -/
def State.mailEnd (s : State) (code lstat : Nat) : State :=
  match s.mail with
  | none => s
  | some (own, m) =>
    let t := s.trust.setMbox own { m with go := false, code := BitVec.ofNat 8 code, lstat := BitVec.ofNat 8 lstat }
    { s with trust := { t with order := t.order.drop 1 } }

/-- The end of an attempt at a command: nothing, where its parameters stand under an X range. -/
def State.unlessBlocked (s : State) : Outcome → Outcome
  | .next t => .next (if t.trust.blocked && !s.trust.blocked then s else t)
  | o => o

/-- An event that serves the next command where it has the operation; the command's polder is its WORLD. -/
def State.serve (s : State) (op : Nat) (f : Bool → Mailbox → Outcome) : Outcome :=
  match s.mail with
  | some (own, m) => if m.op.toNat = op then s.unlessBlocked (f own m) else .next s
  | none => .next s

/-! ## CREATE (17 R382) -/

/-- Whether a polder's configuration is valid (R371). -/
def State.configOk (s : State) (w : Nat) : Bool :=
  let pcs := (List.range 512).filter fun p => mapGet 63#6 s.pcown p == BitVec.ofNat 6 w
  s.clusters w != [] && pcs != [] &&
  ([0, 1].all fun d => !(pcs.any fun p => p / 256 == d) || mapGet 0#64 s.ways (wayKey w d) != 0#64) &&
  [0, 1].all fun d => (List.range 48 ++ [60, 61]).all fun o =>
    mapGet 0#64 s.ways (wayKey o d) &&& s.otherWays o d == 0#64

/-- The pseudo-channels of a world. -/
def State.channels (s : State) (w : Nat) : List Nat :=
  (List.range 512).filter fun p => mapGet 63#6 s.pcown p == BitVec.ofNat 6 w

/-- A key request (17 R393): granted while OK is 1 and the reseed is healthy. -/
def State.keyRequest (s : State) (healthy : Bool) : State × Bool :=
  if !s.trust.ok then (s, false)
  else if healthy then ({ s with trust := { s.trust with drbg := true } }, true)
  else ({ s with trust := s.trust.healthFailure }, false)

/-- K1 and K2 for XTS and KM for the MAC (17 R394). -/
structure KeySet where
  k1 : BitVec 256
  k2 : BitVec 256
  km : BitVec 256
deriving DecidableEq, Repr

/-- The key set of a draw: drawn again while K1 equals K2, at most this often; then K2 differs (17 R394). -/
def keySet (draw : Nat) : Nat → Nat → KeySet
  | 0, i => ⟨Config.keyBits draw i, ~~~(Config.keyBits draw i), Config.keyBits draw (i + 2)⟩
  | n + 1, i =>
    if Config.keyBits draw i = Config.keyBits draw (i + 1) then keySet draw n (i + 3)
    else ⟨Config.keyBits draw i, Config.keyBits draw (i + 1), Config.keyBits draw (i + 2)⟩

/-- The key set of a polder while it has one, and that of the service world. -/
def Polder.keySet? (p : Polder) : Option KeySet := if p.keys then some (keySet p.keydraw 64 0) else none
def Trust.keySet? (t : Trust) : Option KeySet := if t.keys then some (keySet t.keydraw 64 0) else none

/-- Steps 3 to 7 of CREATE for a polder whose keys are drawn: every row is zeroed under the new keys. -/
def State.install (s : State) (w : Nat) (b : List Byte) : State :=
  let s := (s.clusters w).foldl (fun s c => s.giveCluster c w) s
  let r := fun (o : Nat) => BitVec.ofNat 64 (field b o 8)
  let s := { s with trust := { s.trust with records := s.trust.records.filter fun e => e.1 != w }, rtimes := mapDel s.rtimes w }
  let s := s.draw.setPolder w
    { Polder.reset with state := .unlocked, s2root := r 0, s1root := r 8, lkdesc := r 16, lkargs := r 24,
                        keys := true, keydraw := s.fresh, pid := Config.freeWord s.fresh }
  (s.channels w).foldl (fun s p => (s.rekey p w).zeroChannel p) s

/-- CREATE; `healthy` says that no health test fails during the reseed. A CREATE that fails leaves CREATING (R379). -/
def execCreate (healthy : Bool) (s : State) : Outcome :=
  s.serve 1 fun own m =>
    let w := m.world.toNat
    let p := s.polder w
    .next (if 48 ≤ w ∨ !(p.state = .free ∨ p.state = .creating) then s.mailEnd 1 0
      else match (s.setPolder w { p with state := .creating }).paramBytes own m.arg.toNat 64 with
        | (s, none) => s.mailEnd 2 0
        | (s, some b) =>
          let root := field b 0 8
          if !s.configOk w || field b 32 32 != 0 || root % 4096 != 0 || s.owner root != 61 then s.mailEnd 2 0
          else
            match s.keyRequest healthy with
            | (s, false) => (s.setPolder w { s.polder w with rngbad := true }).mailEnd 3 0
            | (s, true) => (s.install w b).mailEnd 0 0)

/-- MAILBOX_BADOP: an operation that the mailbox does not have. -/
def execMailboxBadop (s : State) : Outcome :=
  .next (match s.mail with
    | some (own, m) =>
      let op := m.op.toNat
      if op = 1 ∨ op = 2 ∨ (op = 8 ∧ own = true) ∨ (16 ≤ op ∧ op ≤ 25) then s else s.mailEnd 4 0
    | none => s)

/-! ## SERVICE (23 R486) -/

/-- The launch record of a SERVICE command as a world-60 `LAUNCH` reads it. -/
def State.serviceRecord (s : State) (c a : Nat) : Reading (Except Nat (Launch × Kernel)) :=
  if a % 64 ≠ 0 ∨ !(bootWindow a || s.owner a == 60) then (s, .ok (.error 1, []))
  else match s.takeClean (4 * c) 60 0 a 64 with
    | (s, .error e) => (s, .error e)
    | (s, .ok (r, pas)) =>
      if launchKind r != 0 then (s, .ok (.error 4, pas))
      else match s.takeGrid (4 * c) 60 0 r with
        | (s, .ok (x, more)) => (s, .ok (x, pas ++ more))
        | (s, .error e) => (s, .error e)

/-- SERVICE: a cluster latched to world 60 runs the grid of a launch record. -/
def execService (s : State) : Outcome :=
  s.serve 8 fun own m =>
    let c := m.world.toNat
    let a := m.arg.toNat
    .next (if !own then s
      else if s.trust.boot ≠ 3#4 then s.mailEnd 1 0
      else if 48 ≤ c ∨ mapGet 63#6 s.clown c ≠ 63#6 ∨ mapGet false s.changing c = true then s.mailEnd 2 0
      else
        let old := s
        let s := s.giveCluster c 60
        match s.serviceRecord c a with
        | (_, .error .wait) => old
        | (s, .error (.trap _)) => (s.giveCluster c 63).mailEnd 2 1
        | (s, .ok (.error n, _)) => (s.giveCluster c 63).mailEnd 2 n
        | (s, .ok (.ok (l, k), pas)) =>
          if 256 ≤ s.queued 60 l.prio then old
          else
            let (s, t) := s.readAt 0 pas
            let key := s.ids
            let s := (s.newGrid 60 l k t (some c) none false).enqueue 60 l.prio false key
            { s with service := mapSet false s.service c true }.mailEnd 0 0)

/-! ## Measurements (17 R398, 22 R466, R470) -/

def wordBytes (v : Word) : List Byte := toBytes 4 v.toNat
def dwordBytes (v : DWord) : List Byte := toBytes 8 v.toNat

/-- DBGSTAT followed by the opening masks. -/
def State.debugBytes (s : State) : List Byte :=
  wordBytes s.trust.dbgstat ++ (List.range 48).flatMap fun w => wordBytes (s.polder w).dbgopen

/-- The slice map: its registers in the order of their offsets, WORLD as written. -/
def State.mapBytes (s : State) : List Byte :=
  ((List.range 48).flatMap fun c => wordBytes ((mapGet 63#6 s.clown c).setWidth 32)) ++
  ((List.range 512).flatMap fun p => wordBytes ((mapGet 63#6 s.pcown p).setWidth 32)) ++
  ((List.range 128).flatMap fun k => dwordBytes (mapGet 0#64 s.ways k)) ++
  ((List.range 1152).flatMap fun k => wordBytes ((mapGet 0#8 s.lshare k).setWidth 32))

/-- A polder's PSTATE, its slice-map fields by index, its function's registers 0x08 to 0x38. -/
def State.polderBytes (s : State) (w : Nat) : List Byte :=
  let p := s.polder w
  dwordBytes (p.readReg 0) ++
  ((s.clusters w).flatMap fun c => wordBytes (BitVec.ofNat 32 c)) ++
  ((s.channels w).flatMap fun c => wordBytes (BitVec.ofNat 32 c)) ++
  ([0, 1].flatMap fun d => dwordBytes (mapGet 0#64 s.ways (wayKey w d))) ++
  ((List.range 18).flatMap fun k => wordBytes ((mapGet 0#8 s.lshare (18 * w + k)).setWidth 32)) ++
  (List.range 7).flatMap fun k => dwordBytes (p.readReg (8 * (k + 1)))

/-- The digests of measurements 1 to 5 and 0x10 + w. PRESUMED, log entry 43. -/
def State.digest (s : State) (i : Nat) : Option (List Byte) :=
  let h := fun (b : List Byte) => some (toBytes 48 (Config.sha384 b).toNat)
  if i = 1 then h Config.romImage
  else if i = 2 ∨ i = 3 then h s.trust.image
  else if i = 4 then h s.debugBytes
  else if i = 5 then h s.mapBytes
  else if 16 ≤ i ∧ i < 64 then h (s.polderBytes (i - 16))
  else none

/-- The 32 meters of a polder, as sealed where its release has sealed them. -/
def Polder.meterBytes (p : Polder) : List Byte :=
  (List.range 32).flatMap fun k => toBytes 8 (mapGet 0 (p.sealed.getD p.meters) k)

/-- Whether a polder has a meter block. -/
def Polder.metered (p : Polder) : Bool :=
  match p.state with
  | .free | .creating => false
  | _ => true

/-- The meter block of a polder, with the next SEQ. -/
def State.meterBlock (s : State) (w : Nat) : State × List Byte :=
  let p := s.polder w
  let p := { p with measseq := p.measseq + 1#64 }
  (s.setPolder w p, dwordBytes p.pid ++ dwordBytes p.measseq ++ p.meterBytes)

/-- The measurement of the firmware that the alias key comes from. -/
def Trust.firmwareMeasure (t : Trust) : BitVec 384 := Config.sha384 t.image

/-- The signature of bytes under the alias key (17 R397). -/
def Trust.sign (t : Trust) (b : List Byte) : List Byte := toBytes 96 (Config.aliasSign t.firmwareMeasure t.fwsvn b).toNat

/-- A measurement with its signature. What the signature covers beside it is SPDM's: DEDUCED, log entry 43. -/
def State.measured (s : State) (index : Nat) (b : List Byte) : State := s.reply (.measurement index (b ++ s.trust.sign b))

/-- GET_MEASUREMENTS of an index: Busy while no nonce can be drawn (R393). -/
def execGetMeasurements (index : Nat) (s : State) : Outcome :=
  .next (if !s.trust.ok then s.reply .spdmBusy
    else if 64 ≤ index ∧ index < 112 then
      (if (s.polder (index - 64)).metered then
        let (s, b) := s.meterBlock (index - 64)
        s.measured index b
      else s.reply .absent)
    else match s.digest index with
      | some b => s.measured index b
      | none => s.reply .absent)

/-! ## Release (21 R462, 22 R467) -/

/-- The digests of measurements 1 to 3. -/
def State.digests (s : State) : List Byte := [1, 2, 3].flatMap fun i => (s.digest i).getD []

/-- The signed bytes of the release record that seals a polder's meters, as they stand, with its next SEQ. -/
def State.releaseSigned (s : State) (w : Nat) : List Byte :=
  let p := s.polder w
  let reason := (if p.byStop then 1 else 0) + (if p.quar then 2 else 0) + if p.imported then 4 else 0
  [0x52#8, 0x45#8, 0x4C#8, 0x31#8] ++ toBytes 4 w ++ dwordBytes p.pid ++ dwordBytes (p.measseq + 1#64) ++
    toBytes 4 reason ++ wordBytes p.dbgopen ++ List.replicate 32 0#8 ++ p.meterBytes ++ s.digests

/-- The release record: its signed bytes and SIG. -/
def State.releaseRecord (s : State) (w : Nat) : List Byte :=
  let b := s.releaseSigned w
  b ++ s.trust.sign b

/-- An open sluice's destinations zeroed and freed. -/
def State.dropSluice (s : State) (w : Nat) : State :=
  match (s.polder w).sluice with
  | none => s
  | some u =>
    let s := if u.stream then s else u.pairs.foldl (fun s e =>
      let s := s.zeroChannel e.2
      { s with pcown := mapSet 63#6 s.pcown e.2 63#6 }) s
    s.setPolder w { s.polder w with sluice := none }

/-- Communicators of a world closed, some or all: a collective in progress ends with LINK (18 R405). -/
def State.closeComms (s : State) (w : Nat) (pick : Word → Bool) : State :=
  let s := s.ops.foldl (fun s o => match o.coll? with
    | some c => if o.world = w ∧ pick c.comm = true ∧ c.known = true then
        s.modColl o.id fun c => { c with closed := true, lost := c.lost || !c.finished } else s
    | none => s) s
  { s with comms := s.comms.filter fun c => !(c.world == w && pick c.handle) }

/-- The SEQs of a polder's held faults (20 R438). -/
def State.heldSeqs (s : State) (w : Nat) : List (BitVec 32) :=
  let ofOp := fun (o : Op) => (match o.kind with | .copy c => c.held | .coll c => c.held | _ => none).toList
  let recs := ((s.ops.filter fun o => o.world == w).flatMap ofOp) ++
    ((s.polder w).saved.flatMap fun v => v.ops.flatMap ofOp) ++
    ((s.blocks.filter fun b => b.world == w).flatMap fun b => b.held.toList) ++
    ((s.graphs.filter fun k => k.world == w).flatMap fun k => k.held.toList ++ k.nodes.flatMap fun n => n.held.toList) ++
    ((s.grids.filter fun k => k.world == w).flatMap fun k => k.held.toList)
  ((s.groups.filter fun g => g.world == w).flatMap fun g => g.held.toList) ++
    ((s.polder w).saved.flatMap fun v => v.groups.flatMap fun g => g.held.toList) ++ recs.map (·.seq)

/-- Steps 1 and 2 of the release: no new work; held faults aborted, an open sluice too, the import key destroyed, communicators
closed. Saved teams are gone; what the polder has checked out is free again, so that what waits for it ends. DEDUCED, log
entry 65. -/
def State.beginRelease (s : State) (w : Nat) (byStop : Bool) : State :=
  let bad := decide ((s.polder w).state = .quarantined)
  let s := s.setPolder w { s.polder w with state := .releasing, byStop := byStop, quar := bad, importing := none, stopping := none,
                                           shrink := none }
  let s := (s.heldSeqs w).foldl (fun s q => s.answer w q false) s
  let s := ((s.dropSluice w).closeComms w fun _ => true)
  let keys := (s.grids.filter fun k => k.world == w).map (·.key)
  { s with ranges := s.ranges.filter fun r => !keys.contains r.grid }.setPolder w
    { s.polder w with susp := false, saved := [] }

/-- Whether step 3 of the release is over: the groups stand at clause boundaries, or stalled in a clause where nothing that is
left will let them go on, copies between elements, everything else is complete (R462). DEDUCED, log entry 65. -/
def State.workEnded (s : State) (w : Nat) : Bool :=
  (s.groups.all fun g => g.world != w || !g.inClause || g.stalled) &&
  (s.ops.all fun o => o.world != w || (match o.kind with | .copy _ | .task _ => true | _ => false)) &&
  !s.blocks.any fun b => b.world == w

/-- The work of a polder discarded unsaved. -/
def State.discardWork (s : State) (w : Nat) : State :=
  let other := fun (v : Nat) => v != w
  let gangs := (s.teams.filter fun t => t.world == w).map (·.gang)
  let s := { s with groups := s.groups.filter (fun g => other g.world),
                    queues := s.queues.filter (fun q => !gangs.contains q.gang),
                    teams := s.teams.filter (fun t => other t.world), ops := s.ops.filter (fun o => other o.world),
                    grids := s.grids.filter (fun k => other k.world), graphs := s.graphs.filter (fun k => other k.world),
                    launches := s.launches.filter (fun e => other e.world) }
  { s with tasks := s.tasks.filter (fun t => s.teams.any fun u => u.key == t.team),
           walks := s.walks.filter (fun k => s.teams.any fun u => u.key == k.team) }

/-- Step 4 of the release: the meters sealed into the record. -/
def State.sealRelease (s : State) (w : Nat) : State :=
  let r := s.releaseRecord w
  let s := (s.setPolder w { s.polder w with sealed := some (s.polder w).meters }).meterBlock w |>.1
  { s with trust := { s.trust with records := mapIns s.trust.records w r } }

/-- The rest of the release: the work discarded, the meters sealed, latches to 63 with the U atoms of each cluster merged, the polder's memory zeroed, its
keys destroyed, its slice-map fields free. -/
def State.endRelease (s : State) (w : Nat) : State :=
  let s := (s.discardWork w).sealRelease w
  let pcs := s.channels w
  let s := (s.clusters w).foldl (fun s c => s.giveCluster c 63) s
  let s := pcs.foldl (fun s p => s.zeroChannel p) s
  { s with pcown := s.pcown.filter (fun e => e.2 != BitVec.ofNat 6 w), ways := s.ways.filter (fun e => e.1 / 2 != w),
           lshare := s.lshare.filter (fun e => e.1 / 18 != w), vars := s.vars.filter (fun v => v.world != w),
           tlb := s.tlb.filter (fun e => e.world != w), rtimes := mapDel s.rtimes w }.setPolder w Polder.reset

/-- Whether a polder may be released. -/
def Polder.releasable (p : Polder) : Bool :=
  match p.state with
  | .unlocked | .locked | .run | .quarantined => true
  | _ => false

/-- A polder whose release STOP_INTERFACE_REQUEST began and whose work has ended. -/
def State.stopEnds (s : State) : Option Nat :=
  (findBy (fun (e : Nat × Polder) => e.2.state == .releasing && e.2.byStop && s.workEnded e.1) s.pldrs).map Prod.fst

/-- RELEASE: the first event begins the release, the one that finds the polder's work ended runs it to its end; so does the
event for a release that STOP_INTERFACE_REQUEST began. A polder in CREATING has nothing to scrub. -/
def execRelease (s : State) : Outcome :=
  match s.stopEnds with
  | some w => .next (s.endRelease w)
  | none => s.serve 2 fun _ m =>
    let w := m.world.toNat
    let p := s.polder w
    .next (if 48 ≤ w then s.mailEnd 1 0
      else if p.state = .creating then
        ((s.clusters w).foldl (fun s c => s.giveCluster c 63) (s.setPolder w Polder.reset)).mailEnd 0 0
      else if p.releasable then s.beginRelease w false
      else if p.state = .releasing ∧ p.byStop = false then
        if !s.workEnded w then s else
        let s := (s.endRelease w).mailEnd 0 0
        let r := mapGet [] s.trust.records w
        if m.arg = 0#64 then s else s.hostWrite (List.zip (addrs (2 ^ 39 + m.arg.toNat % 2 ^ 39) r.length) r)
      else s.mailEnd 1 0)

/-! ## TDISP (17 R378, R379) -/

/-- A TDISP response: `n` is the request. -/
def State.tdisp (s : State) (w n : Nat) (ok : Bool) : State :=
  s.reply (.tdisp w ok (if ok then Config.tdispAnswer n w else []))

/-- Whether a function is enabled: its polder is in a state that has a TDI. -/
def Polder.enabled (p : Polder) : Bool :=
  match p.state with
  | .unlocked | .locked | .run | .quarantined => true
  | _ => false

/-- GET_TDISP_VERSION. -/
def execGetTdispVersion (w : Nat) (s : State) : Outcome := .next (s.tdisp w 0 true)
/-- GET_TDISP_CAPABILITIES. -/
def execGetTdispCapabilities (w : Nat) (s : State) : Outcome := .next (s.tdisp w 1 true)
/-- GET_DEVICE_INTERFACE_REPORT: of an interface that is locked or runs. -/
def execGetDeviceInterfaceReport (w : Nat) (s : State) : Outcome :=
  let ok := (s.polder w).state == .locked || (s.polder w).state == .run
  .next (s.reply (.tdisp w ok (if ok then Config.interfaceReport w else [])))
/-- GET_DEVICE_INTERFACE_STATE: CONFIG_UNLOCKED 0, CONFIG_LOCKED 1, RUN 2, ERROR 3. -/
def execGetDeviceInterfaceState (w : Nat) (s : State) : Outcome :=
  let code := fun (n : Nat) => s.reply (.tdisp w true [BitVec.ofNat 8 n])
  .next (match (s.polder w).state with
    | .unlocked => code 0
    | .locked => code 1
    | .run => code 2
    | .quarantined => code 3
    | _ => s.tdisp w 4 false)
/-- LOCK_INTERFACE_REQUEST: UNLOCKED becomes LOCKED, and the slice map of the polder is locked. -/
def execLockInterfaceRequest (w : Nat) (s : State) : Outcome :=
  .next (if (s.polder w).state = .unlocked then (s.setPolder w { s.polder w with state := .locked }).tdisp w 2 true
    else s.tdisp w 2 false)
/-- START_INTERFACE_REQUEST: LOCKED becomes RUN and the lock-keeper starts; an imported polder is suspended instead. -/
def execStartInterfaceRequest (w : Nat) (s : State) : Outcome :=
  let p := s.polder w
  .next (if p.state ≠ .locked then s.tdisp w 5 false
    else if p.imported then (s.setPolder w { p with state := .run, susp := true }).tdisp w 5 true
    else
      let s := s.setPolder w { p with state := .run }
      let none' := fun (s : State) => s.setPolder w { s.polder w with lkended := true }
      (match s.keeperKernel w (s.engineCore w) with
        | (s, some k) => (s.startKeeper w k).getD (none' s)
        | (s, none) => none' s).tdisp w 5 true)
/-- STOP_INTERFACE_REQUEST: the release begins. -/
def execStopInterfaceRequest (w : Nat) (s : State) : Outcome :=
  .next (if (s.polder w).releasable then (s.beginRelease w true).tdisp w 6 true else s.tdisp w 6 false)
/-- TDISP_UNSUPPORTED_REQUEST. -/
def execTdispUnsupportedRequest (w : Nat) (s : State) : Outcome := .next (s.reply (.tdispUnsupported w))
/-- TDISP_ERROR_TRANSITION: the polder is quarantined. -/
def execTdispErrorTransition (w : Nat) (s : State) : Outcome :=
  .next (match (s.polder w).state with
    | .unlocked | .locked | .run => s.setPolder w { s.polder w with state := .quarantined }
    | _ => s)

/-! ## The SPDM responder (17 R393, R397, 18 R409) -/

/-- The certificate chain of slot 0 (R397). -/
def State.certChain (s : State) : List Byte :=
  Config.rootCert ++ Config.deviceIdCert ++ Config.aliasCert s.trust.firmwareMeasure s.trust.fwsvn

/-- SPDM_REQUEST: one that needs a fresh nonce or key share is answered Busy while none can be drawn; what R397 fixes of an
answer is as it says, the rest is free. -/
def execSpdmRequest (req : SpdmReq) (s : State) : Outcome :=
  let answer := s.draw.reply (.spdm (Config.spdmAnswer s.fresh))
  .next (match req with
    | .getVersion => s.reply (.spdmVersion 1 3)
    | .getCapabilities => s.reply (.spdmCaps [.cert, .chal, .measSig, .keyEx, .encrypt, .mac, .chunk])
    | .negotiateAlgorithms => s.reply (.spdmAlgs [.ecdsaP384, .sha384, .ecdheP384, .aes256Gcm])
    | .getDigests => s.reply (.spdmCert (toBytes 48 (Config.sha384 s.certChain).toNat))
    | .getCertificate o n => s.reply (.spdmCert ((s.certChain.drop o).take n))
    | .challenge | .keyExchange => if s.trust.ok then answer else s.reply .spdmBusy
    | .ideKm w go => if w < 48 then (answer.setPolder w { s.polder w with ide := go }) else s.reply .spdmInvalid
    | _ => answer)

/-! ## Vendor-defined requests (18 R404, R405, 22 R467, R468) -/

/-- COMM_OPEN. -/
def execCommOpen (req : List Byte) (s : State) : Outcome :=
  let w := field req 1 1
  let h := BitVec.ofNat 32 (field req 4 4)
  let size := field req 8 2
  let rank := field req 10 2
  let key := BitVec.ofNat 256 (field req 12 32)
  let devs := (List.range size).map fun i => field req (44 + 2 * i) 2
  .next (if field req 0 1 ≠ 1 ∨ 48 ≤ w ∨ (s.polder w).state ≠ .run ∨ field req 2 2 ≠ 0 ∨ (s.comm w h).isSome ∨
        size = 0 ∨ 4096 < size ∨ size ≤ rank ∨ req.length < 44 + 2 * size ∨ devs.any (fun d => 4096 ≤ d) ∨
        devs.getD rank 0 ≠ s.devid.toNat ∨ 64 ≤ s.comms.length ∨ s.comms.any (fun c => c.key == key) then
      s.reply .spdmInvalid
    else
      let c : Comm := ⟨w, h, size, rank, key, devs.map (BitVec.ofNat 12), 0⟩
      { s with comms := s.comms ++ [c] }.reply (.spdm []))

/-- COMM_CLOSE: a collective in progress ends with LINK. -/
def execCommClose (req : List Byte) (s : State) : Outcome :=
  let w := field req 1 1
  let h := BitVec.ofNat 32 (field req 4 4)
  .next (if field req 0 1 ≠ 2 ∨ (s.comm w h).isNone then s.reply .spdmInvalid
    else
      (s.closeComms w fun c => c == h).reply (.spdm []))

/-- DEBUG_OPEN: in a secured session, of a polder in UNLOCKED; set bits stay. -/
def execDebugOpen (secured : Bool) (req : List Byte) (s : State) : Outcome :=
  let w := field req 1 1
  let o := field req 4 4
  .next (if !secured ∨ field req 0 1 ≠ 3 ∨ 48 ≤ w ∨ (s.polder w).state ≠ .unlocked ∨ 1 < o then s.reply .spdmInvalid
    else (s.setPolder w { s.polder w with dbgopen := (s.polder w).dbgopen ||| BitVec.ofNat 32 o }).reply (.spdm []))

/-- GET_RELEASE: the kept record of a world. -/
def execGetRelease (req : List Byte) (s : State) : Outcome :=
  let w := field req 1 1
  .next (if field req 0 1 ≠ 4 ∨ field req 2 6 ≠ 0 then s.reply .spdmInvalid
    else match findBy (fun e => e.1 == w) s.trust.records with
      | some e => s.reply (.spdm e.2)
      | none => s.reply .spdmInvalid)

end Sys2Proof.Machine
end

