-- ==== Sys2Proof/Machine/Image.lean ====
section
/-!
DEFINITION. Sys2Proof/Machine/Image.lean: the context image and its sections (21 R450, R451), written and read back, those of
another device too (R461).
-/
namespace Sys2Proof.Machine

/-! ## The context image (R450, R451)

The layout of the parts other than the group records is the model's. DESIGN CHOICE, log entry 44. -/

/-- Flags eight to a byte, the first lowest. -/
def packBits (bs : List Bool) : List Byte :=
  toBytes ((bs.length + 7) / 8) (bs.foldr (fun b n => 2 * n + b.toNat) 0)

/-- n bytes: those given, zeros after them. -/
def fillTo (n : Nat) (b : List Byte) : List Byte := (b ++ List.replicate (n - b.length) 0#8).take n

/-- The frames of a group that are not in the spill area. -/
def Group.kept (g : Group) : List Frame := g.frames.filter fun f => !f.spilled

/-- Where a frame stands in part 3, whose frames are `fids`. -/
def frameIndex (fids : List Nat) (fid : Nat) : Nat := (fids.findIdx? (· == fid)).getD 0

/-- A group record; CUR counts the frames of part 3. -/
def Group.recordBytes (g : Group) (fids : List Nat) : List Byte :=
  let lanes := (List.range 64).map g.lane
  let queue := fun (k : Nat) => match findBy (fun e => e.1 == k) g.qregs with
    | some e => BitVec.ofNat 8 (e.2.obj + (if e.2.producer then 16 else 0) + 32)
    | none => 0#8
  ((List.range 32).flatMap fun n => dwordBytes (g.sreg n).val) ++ packBits ((List.range 32).map fun n => (g.sreg n).poison) ++
  [g.cregs.setWidth 8] ++ (List.range 4).map queue ++ ((List.range 12).map fun k => BitVec.ofNat 8 (g.flag k)) ++
  List.replicate 3 0#8 ++ ((List.range 4).flatMap fun k => dwordBytes (g.jreg k)) ++ wordBytes g.gstat ++
  wordBytes (g.held.getD 0#32) ++ toBytes 8 g.lclock ++
  ((List.range 7).flatMap fun k => packBits (lanes.map fun x => x.preds.getLsbD k)) ++
  (lanes.map fun x => BitVec.ofNat 8 x.depth) ++
  (lanes.flatMap fun x => toBytes 2 (frameIndex fids x.fid)) ++
  toBytes 4 (match g.spush with | some k => 2 ^ 31 + k | none => 0) ++ List.replicate 188 0#8 ++
  (lanes.flatMap fun x => dwordBytes x.pcv) ++ (lanes.flatMap fun x => wordBytes x.srs) ++
  (lanes.flatMap fun x => wordBytes x.tid) ++ List.replicate 256 0#8

/-- A register of a frame in a lane. -/
def Lane.vregAt (l : Lane) (fid r : Nat) : Reg :=
  ((findBy (fun c => c.fid == fid) l.chain).map fun c => mapGet ⟨0#32, false⟩ c.regs r).getD ⟨0#32, false⟩

/-- A trap frame's return point in three bytes: what its record was and the barrier that let it pass, the word after, the
clause's length. -/
def TrapPoint.bytes (p : TrapPoint) : List Byte :=
  let bar := match p.bar with | some (gang, n) => 2 + 4 * gang.toNat + 8 * n | none => 0
  [BitVec.ofNat 8 (p.header.toNat + bar), BitVec.ofNat 8 p.after, BitVec.ofNat 8 p.words]

/-- A frame: 64 bytes of its declared count, trap resume index, members, return address, the frame below that of its
lowest member (0 for none, one more than its index, or 2^32 - 1 for one in the spill area) and a trap's return point, then for
each granule eight registers of 64 lanes and their poison tags. -/
def Group.frameBytes (g : Group) (fids : List Nat) (f : Frame) : List Byte :=
  let lanes := (List.range 64).map g.lane
  let has := fun (l : Lane) => l.chain.any fun c => c.fid == f.fid
  let below := fun (l : Lane) => ((l.chain.dropWhile fun c => c.fid != f.fid).drop 1).head?.map (·.fid)
  let under := (findBy has lanes).bind below
  fillTo 64 (toBytes 4 f.count ++ toBytes 4 ((f.trap.map fun p => 2 ^ 31 + p.idx).getD 0) ++ packBits (lanes.map has) ++
    dwordBytes f.ret ++ toBytes 4 ((under.map fun u => if fids.contains u then frameIndex fids u + 1 else 2 ^ 32 - 1).getD 0) ++
    ((f.trap.map TrapPoint.bytes).getD [])) ++
  (List.range (granules f.count)).flatMap fun k =>
    let regs := (List.range 8).flatMap fun r => lanes.map fun l => l.vregAt f.fid (8 * k + r)
    (regs.flatMap fun v => wordBytes v.val) ++ packBits (regs.map (·.poison))

/-- What a group waits for, in a byte of the team part: 0 for nothing recorded, 1 for a `REGROUP`, else its arrival at a
barrier with the barrier's number. -/
def Waiting.byte : Waiting → Byte
  | .barrier gang n done => BitVec.ofNat 8 (128 + 64 * done.toNat + 32 * gang.toNat + n)
  | .regroup => 1#8
  | _ => 0#8

/-- The team part: TEAMID, GRIDID, the gang's number and size, base core, SCRATCH, TILES, BINS, BINTIMER, the number of groups
that were launched, which stand first, and for each group what it has recorded. -/
def Saved.teamPart (v : Saved) (gridid gang : Nat) : List Byte :=
  let t := v.team
  fillTo 256 (toBytes 8 t.teamid ++ toBytes 4 gridid ++ toBytes 4 (t.teamid / gang) ++ toBytes 4 gang ++
    toBytes 4 (t.core - t.teamid % gang) ++ toBytes 4 t.kernel.scratch ++ toBytes 4 t.kernel.tiles ++ toBytes 4 t.kernel.bins ++
    toBytes 4 t.kernel.timer ++ toBytes 4 (v.groups.filter (·.isLaunched)).length ++ v.groups.map (·.waiting.byte))

/-- The code of a tile's mode. -/
def TileMode.code : TileMode → Nat
  | .f => 0
  | .xl => 1
  | .xh => 2

/-- The code of a task's stage. -/
def TaskStage.code : TaskStage → Nat
  | .posted => 0
  | .entered => 1
  | .buffered => 2
  | .inputs => 3
  | .ready => 4
  | .running => 5
  | .outputs => 6
  | .draining => 7
  | .arriving => 8

/-- One more than the place of a group in its team, 0 for none. -/
def placeOf (gs : List Group) (gid : Nat) : Nat := ((gs.findIdx? fun g => g.gid == gid).map (· + 1)).getD 0

/-- A task's entry: its stage first, the flag that a `TASKP` counts on, 255 for none, last. -/
def Task.bytes (t : Task) (gs : List Group) (flag : Nat) : List Byte :=
  fillTo 256 ([BitVec.ofNat 8 t.stage.code, BitVec.ofNat 8 t.buf] ++ toBytes 2 t.sent ++ toBytes 4 t.i ++ toBytes 4 t.j ++
    toBytes 4 t.k ++ toBytes 8 t.recAddr ++ dwordBytes t.entry ++ dwordBytes t.arg ++ toBytes 8 t.sync ++ toBytes 8 t.clock ++
    packBits [t.poison, t.failed, t.walk.isSome] ++ toBytes 2 (placeOf gs t.gid) ++
    toBytes 2 ((t.body.map (placeOf gs)).getD 0) ++ toBytes 1 flag)

/-- A walk: an entry of its own, marked 255, with its extents and how many of its triples are posted, then these, 32 to an
entry. -/
def Walk.bytes (k : Walk) (gs : List Group) : List Byte :=
  fillTo 256 ([255#8] ++ packBits [k.failed] ++ toBytes 2 (placeOf gs k.gid) ++ toBytes 4 k.e0 ++ toBytes 4 k.e1 ++
    toBytes 4 k.e2 ++ toBytes 8 k.recAddr ++ dwordBytes k.entry ++ dwordBytes k.arg ++ toBytes 8 k.sync ++ toBytes 8 k.clock ++
    toBytes 8 k.posted.length) ++
  fillTo (256 * ((k.posted.length + 31) / 32)) (k.posted.flatMap (toBytes 8))

/-- A layout record's 64 bytes, as `copyRec` reads them. -/
def CopyRec.bytes (y : CopyRec) : List Byte :=
  let i32 := fun (v : Int) => wordBytes (BitVec.ofInt 32 v)
  toBytes 4 (y.elog + 8 * y.order + 2 ^ 6 * y.swz + 2 ^ 10 * y.inner.toNat) ++
  toBytes 4 ((y.sync.map (2 ^ 31 + ·)).getD 0) ++ dwordBytes y.ctr ++ wordBytes y.cinc ++ toBytes 2 y.brows ++
  toBytes 2 y.bcols ++ toBytes 2 y.n0 ++ toBytes 2 y.n1 ++ toBytes 2 y.n2 ++ [0#8, 0#8] ++ i32 y.grow ++ i32 y.gst0 ++
  i32 y.gst1 ++ i32 y.gst2 ++ toBytes 4 y.lrow ++ toBytes 4 y.lst0 ++ toBytes 4 y.lst1 ++ toBytes 4 y.lst2

/-- A saved copy: its record, operands, next element and flag, with its group, queue object, task and clock. -/
def Op.copyBytes (o : Op) (gs : List Group) (ts : List Task) : List Byte :=
  match o.kind with
  | .copy c =>
    let task := (c.task.bind fun t => ts.findIdx? fun u => u.id == t).map (· + 1)
    fillTo 128 (c.layout.bytes ++ toBytes 8 c.recAddr ++ dwordBytes c.mbase ++ dwordBytes c.sbase ++ toBytes 8 c.next ++
      toBytes 8 c.clock ++ toBytes 1 (o.flag.getD 255) ++ toBytes 1 c.chk ++
      packBits [c.load, c.indexed, c.nowait, c.checkin] ++ toBytes 1 (c.stream.getD 255) ++ toBytes 2 (placeOf gs o.gid) ++
      toBytes 1 (task.getD 0) ++ toBytes 1 c.opnd)
  | _ => List.replicate 128 0#8

/-- How a queue object's producer stands: live ones are found by their bindings. -/
def Producer.code : Producer → Nat
  | .never => 0
  | .group _ => 1
  | .stream _ => 2
  | .replies _ => 3
  | .closed => 4
  | .faulted _ => 5

/-- A queue object: 64 bytes of its number, kind, count and producer, the poison of its entries and their greatest clock, then
its entries. -/
def Queue.bytes (q : Queue) : List Byte :=
  let seq := match q.producer with | .faulted r => r | _ => 0#32
  fillTo 64 ([BitVec.ofNat 8 q.obj, BitVec.ofNat 8 q.vector.toNat, BitVec.ofNat 8 q.entries.length, BitVec.ofNat 8 q.drained.toNat] ++
    fillTo 8 (packBits (q.entries.map (·.poison))) ++ toBytes 4 q.producer.code ++ wordBytes seq ++
    toBytes 8 (q.entries.foldl (fun n e => max n e.clock) 0)) ++
  fillTo 16384 (q.entries.flatMap fun e => fillTo 256 (e.words.flatMap wordBytes))

/-- The bytes of the values of a latch: its rows of K elements, each in whole bytes. -/
def Latch.depth (l : Latch) : Nat := 32 * 2 ^ l.shape.toNat
def Latch.width (l : Latch) : Nat := (typeBits l.fmta.toNat + 7) / 8

/-- An operand latch: 32 bytes of its fields, poisoned rows and group, then its values row by row. -/
def Latch.bytes (l : Latch) (group : Nat) : List Byte :=
  fillTo 32 ([l.asrc.setWidth 8, l.a.setWidth 8, l.la.setWidth 8, l.fmta.setWidth 8, l.shape.setWidth 8] ++
    toBytes 16 l.poison.toNat ++ toBytes 2 group) ++
  (List.range (128 * l.depth)).flatMap fun x => toBytes l.width (mapGet 0 l.codes (256 * (x / l.depth) + x % l.depth))

/-- A bin: its key in 7 bytes and the number of its records, the poison of two records to a bit, then its records. -/
def Bin.bytes (b : Bin) : List Byte :=
  let pairs := (List.range 64).map fun k => ((b.recs.drop (2 * k)).take 2).any (·.payload.poison)
  toBytes 7 (b.key.getD 0#64).toNat ++ toBytes 1 b.recs.length ++ packBits pairs ++
  b.recs.flatMap fun r => wordBytes r.tid ++ wordBytes r.payload.val

/-- The words of every tile slot of a team, those undefined as they happen to be (01 R13). -/
def Team.allTiles (t : Team) : List Word :=
  (mapRun none (16384 * t.kernel.tiles) 0 t.tiles).zipIdx.map fun (w, x) => w.getD (Config.undefTile t.key x)

/-- The parts of a saved team's section: KIND, COUNT, contents. -/
def Saved.parts (v : Saved) (gridid gang : Nat) : List (Nat × (Nat × List Byte)) :=
  let t := v.team
  let frames := v.groups.flatMap fun g => g.kept.map fun f => (g, f)
  let fids := frames.map fun e => e.2.fid
  let words := t.allTiles
  let tile := fun (k : Nat) =>
    let x := t.tileState k
    (((words.drop (16384 * k)).take 16384).flatMap wordBytes) ++
      fillTo 32 ([BitVec.ofNat 8 x.mode.code, BitVec.ofNat 8 x.nv.toNat] ++ toBytes 16 x.poison.toNat)
  let latches := v.groups.zipIdx.filterMap fun e => e.1.latch.map fun l => (l, e.2)
  let flag := fun (k : Task) => ((findBy (fun o => o.kind == OpKind.task k.id) v.ops).bind (·.flag)).getD 255
  let tasks := v.tasks.flatMap (fun k => k.bytes v.groups (flag k)) ++ v.walk.toList.flatMap (·.bytes v.groups)
  let copies := v.ops.filter (·.copy?.isSome)
  [(1, (1, v.teamPart gridid gang)), (2, (v.groups.length, v.groups.flatMap fun g => g.recordBytes fids)),
   (3, (frames.length, frames.flatMap fun e => e.1.frameBytes fids e.2)),
   (4, (1, mapRun 0#8 t.kernel.scratch 0 t.scratch ++ packBits (mapRun false (t.kernel.scratch / 4) 0 t.spoison))),
   (5, (t.kernel.tiles, (List.range t.kernel.tiles).flatMap tile)),
   (6, (v.tags.length, v.tags.flatMap fun e => fillTo 16 (wordBytes e.2.key ++ wordBytes e.2.slot ++ toBytes 4 (e.1 % 2048)))),
   (7, (t.bins.length, t.bins.flatMap Bin.bytes)),
   (8, (tasks.length / 256, tasks)), (9, (copies.length, copies.flatMap (·.copyBytes v.groups v.tasks))),
   (10, (v.queues.length, v.queues.flatMap Queue.bytes)), (11, (latches.length, latches.flatMap fun e => e.1.bytes e.2))]

/-- A part: KIND, COUNT and size, its contents, the padding to 64; none where there is nothing. -/
def part (kind count : Nat) (b : List Byte) : List Byte :=
  if b = [] then []
  else toBytes 4 kind ++ toBytes 4 count ++ toBytes 8 b.length ++ b ++
    List.replicate (partSize b.length - 16 - b.length) 0#8

/-- The section of a saved team. -/
def Saved.section_ (v : Saved) (gridid gang : Nat) : List Byte :=
  (v.parts gridid gang).flatMap fun p => part p.1 p.2.1 p.2.2

/-- The contents that bytes of a section have for a part. -/
def Saved.partOf (v : Saved) (gridid gang kind : Nat) (b : List Byte) : List Byte :=
  let ps := v.parts gridid gang
  let start := (ps.takeWhile fun p => p.1 != kind).foldl (fun n p => n + partSize p.2.2.length) 16
  (b.drop start).take ((findBy (fun p => p.1 == kind) ps).elim 0 fun p => p.2.2.length)

/-- A bit of packed flags. -/
def bitAt (b : List Byte) (k : Nat) : Bool := (b.getD (k / 8) 0#8).getLsbD (k % 8)

/-- A group as its record reads: S, C, F, J, GSTAT, LCLOCK, P, PCV, SRS and TID. -/
def Group.ofRecord (g : Group) (b : List Byte) : Group :=
  let d := fun (o : Nat) => BitVec.ofNat 64 (field b o 8)
  let preds := fun (l : Nat) => (List.range 7).foldl (fun n k => if bitAt (b.drop (0x148 + 8 * k)) l then n + 2 ^ k else n) 0
  let lane := fun (l : Nat) (x : Lane) =>
    { x with pcv := d (0x300 + 8 * l), srs := BitVec.ofNat 32 (field b (0x500 + 4 * l) 4),
             tid := BitVec.ofNat 32 (field b (0x600 + 4 * l) 4), preds := BitVec.ofNat 7 (preds l) }
  { g.mapLanes (fun _ => true) lane with
    sregs := (List.range' 1 31).foldl (fun m n => mapSet ⟨0#64, false⟩ m n ⟨d (8 * n), bitAt (b.drop 0x100) n⟩) g.sregs,
    cregs := BitVec.ofNat 4 (field b 0x104 1),
    flags := (List.range 12).foldl (fun m k => mapSet 0 m k (field b (0x109 + k) 1)) g.flags,
    jregs := (List.range 4).foldl (fun m k => mapSet 0#64 m k (d (0x118 + 8 * k))) g.jregs,
    gstat := BitVec.ofNat 32 (field b 0x138 4), lclock := field b 0x140 8 }

/-- A team with the scratchpad and the tiles that the contents of their parts give. -/
def Team.withBytes (t : Team) (scr tiles : List Byte) : Team :=
  let n := t.kernel.scratch
  let word := fun (k : Nat) => BitVec.ofNat 32 (field tiles (65568 * (k / 16384) + 4 * (k % 16384)) 4)
  let old := List.zip (mapRun none (16384 * t.kernel.tiles) 0 t.tiles) t.allTiles
  let words := old.zipIdx.filterMap fun (e, k) =>
    if e.2 = word k then e.1.map fun w => (k, some w) else some (k, some (word k))
  let state := fun (k : Nat) =>
    let o := 65568 * k + 65536
    let mode := match field tiles o 1 with | 0 => TileMode.f | 1 => .xl | _ => .xh
    (⟨mode, field tiles (o + 1) 1 == 1, BitVec.ofNat 128 (field tiles (o + 2) 16)⟩ : TileState)
  { t with
    scratch := ((scr.take n).zipIdx.filter fun e => e.1 != 0#8).map fun e => (e.2, e.1),
    spoison := (List.range (n / 4)).filterMap fun k => if bitAt (scr.drop n) k then some (k, true) else none,
    tiles := words,
    tstate := (List.range t.kernel.tiles).foldl (fun m k => mapSet TileState.reset m k (state k)) t.tstate }

/-- A saved team as bytes of its section give it: its group records, its scratchpad and its tiles; what else the section holds
is as it was saved. DEDUCED, log entry 45. -/
def Saved.ofBytes (v : Saved) (gridid gang : Nat) (b : List Byte) : Saved :=
  let recs := v.partOf gridid gang 2 b
  { v with
    groups := v.groups.zipIdx.map fun (g, k) => g.ofRecord ((recs.drop (2048 * k)).take 2048),
    team := v.team.withBytes (v.partOf gridid gang 4 b) (v.partOf gridid gang 5 b) }

/-- The image of a core's saved teams: its header and sections. -/
def imageOf (w : Nat) (secs : List (List Byte)) : List Byte :=
  let head := [0x43#8, 0x5A#8, 0x43#8, 0x58#8] ++ toBytes 4 w ++ toBytes 4 secs.length ++ List.replicate 52 0#8 ++
    secs.zipIdx.flatMap fun (b, i) => toBytes 4 (4096 + (secs.take i).flatten.length) ++ toBytes 4 b.length
  fillTo 4096 head ++ secs.flatten

/-- The saved teams of an image at an address, with their sections. -/
def placeSections (addr : Nat) (vs : List Saved) (secs : List (List Byte)) : List Saved :=
  (List.zip vs secs).zipIdx.map fun (e, i) =>
    { e.1 with header := addr, image := addr + 4096 + (secs.take i).flatten.length, bytes := e.2 }

/-! ## Sections of another device (R461)

The parts of a section read back in the same layout. What a section does not hold, of its grid's launch, of a held trap's
record and of the frames in the spill area, is free: `Config.imported`. DEDUCED, log entry 45. -/

/-- The parts of a section, at most n; none where one is malformed. -/
def sectionParts : Nat → List Byte → Option (List (Nat × (Nat × List Byte)))
  | _, [] => some []
  | 0, _ => none
  | n + 1, b =>
    let size := field b 8 8
    if size = 0 ∨ b.length < partSize size then none
    else (sectionParts n (b.drop (partSize size))).map fun l =>
      (field b 0 4, (field b 4 4, (b.drop 16).take size)) :: l

/-- A section as read: its address, that of its image's header, its bytes and parts, and the number from which what it holds
is numbered. -/
structure SectionImage where
  addr   : Nat
  header : Nat
  bytes  : List Byte
  parts  : List (Nat × (Nat × List Byte))
  base   : Nat
deriving DecidableEq, Repr

/-- COUNT of a part. -/
def SectionImage.count (x : SectionImage) (kind : Nat) : Nat := ((findBy (fun p => p.1 == kind) x.parts).map (·.2.1)).getD 0
/-- The contents of a part, and its k-th piece of n bytes. -/
def SectionImage.part (x : SectionImage) (kind : Nat) : List Byte := ((findBy (fun p => p.1 == kind) x.parts).map (·.2.2)).getD []
def SectionImage.piece (x : SectionImage) (kind n k : Nat) : List Byte := ((x.part kind).drop (n * k)).take n
/-- A field of the team part. -/
def SectionImage.team (x : SectionImage) (lo n : Nat) : Nat := field (x.part 1) lo n
def SectionImage.teamid (x : SectionImage) : Nat := x.team 0 8
def SectionImage.gridid (x : SectionImage) : Nat := x.team 8 4
def SectionImage.gang (x : SectionImage) : Nat := x.team 12 4
/-- A free number of the section's grid, by the draw of the reading. -/
def SectionImage.launch (x : SectionImage) (d k : Nat) : DWord := Config.imported d (2 * (16 * x.gridid + k))

/-- A frame of part 3. -/
structure FrameImage where
  count : Nat
  ret   : DWord
  trap  : Option TrapPoint
  below : Nat
  regs  : List Byte
deriving DecidableEq, Repr

/-- The frames of part 3, n of them. -/
def framesOf : Nat → List Byte → List FrameImage
  | 0, _ => []
  | n + 1, b =>
    let t := field b 4 4
    let f := field b 28 1
    let bar := if f / 2 % 2 = 1 then some (f / 4 % 2 == 1, f / 8) else none
    let trap := if 2 ^ 31 ≤ t then some (⟨f % 2 == 1, t - 2 ^ 31, field b 29 1, field b 30 1, bar⟩ : TrapPoint) else none
    let size := 2112 * granules (field b 0 4)
    ⟨field b 0 4, BitVec.ofNat 64 (field b 16 8), trap, field b 24 4, (b.drop 64).take size⟩ :: framesOf n (b.drop (64 + size))

/-- Whether a section can be a team's: a team part, a record for each group, every frame of 1 to 128 registers in full, parts of
KIND 1 to 11 once each, and a scratchpad and tiles of the sizes that the team part gives. -/
def SectionImage.ok (x : SectionImage) : Bool :=
  let fs := framesOf (x.count 3) (x.part 3)
  let n := x.team 24 4
  (x.part 1).length == 256 && (x.part 2).length == 2048 * x.count 2 && x.count 2 ≤ 256 && x.team 16 4 ≠ 0 && x.count 3 ≤ 1024 &&
  (distinct (x.parts.map Prod.fst)).length == x.parts.length && x.parts.all (fun p => 1 ≤ p.1 && p.1 ≤ 11) &&
  fs.all (fun f => 1 ≤ f.count && f.count ≤ 128 && f.regs.length == 2112 * granules f.count) &&
  (x.part 4).length == n + (n / 4 + 7) / 8 && (x.part 5).length == 65568 * x.team 28 4

/-- The registers of a frame in a lane. -/
def FrameImage.lane (f : FrameImage) (l : Nat) : List (Nat × Reg) :=
  (List.range f.count).foldl (fun m r =>
    let b := f.regs.drop (2112 * (r / 8))
    let k := 64 * (r % 8) + l
    mapSet ⟨0#32, false⟩ m r ⟨BitVec.ofNat 32 (field b (4 * k) 4), bitAt (b.drop 2048) k⟩) []

/-- A frame of a lane that stood in the spill area: its registers are free. -/
def spilledFrame (d fid : Nat) : LaneFrame :=
  ⟨fid, (List.range 128).foldl (fun m r =>
    let v := Config.imported d (2 * (256 * fid + r) + 1)
    mapSet ⟨0#32, false⟩ m r ⟨v.setWidth 32, v.getLsbD 32⟩) []⟩

/-- The chain of n frames of a lane from the i-th of part 3 down, numbered from `base`; from a frame in the spill area on they
are numbered from `spilled`. -/
def chainOf (fs : List FrameImage) (d base spilled l : Nat) : Nat → Nat → List LaneFrame
  | 0, _ => []
  | n + 1, i =>
    match fs[i]? with
    | none => (List.range (n + 1)).map fun k => spilledFrame d (spilled + k)
    | some f => ⟨base + i, f.lane l⟩ :: (if f.below = 0 then [] else chainOf fs d base spilled l n (f.below - 1))

/-- A group waits as the byte of the team part says. -/
def waitingOf (b : Nat) : Waiting :=
  if 128 ≤ b then .barrier (b / 32 % 2 == 1) (b % 32) (b / 64 % 2 == 1) else if b = 1 then .regroup else .no

/-- The held trap of a saved group: its record is in the fault buffer, not in the section. -/
def heldOf (d : Nat) (seq : BitVec 32) (members : Mask) (h : DWord) (base : Nat) : PendingTrap :=
  let v := fun (k : Nat) => Config.imported d (2 * (256 * base + k) + 1)
  { record :=
      { cause := (v 0).setWidth 8, detail := (v 1).setWidth 8, lane := (v 2).setWidth 8, flags := (v 3).setWidth 8,
        index := (v 4).setWidth 32, pc := v 5, addr := v 6, mask := v 7, aux := v 8, seq := seq, link := (v 9).setWidth 32,
        gridid := (v 10).setWidth 32, origin := (v 11).setWidth 32, teamlo := (v 12).setWidth 32, resume := (v 13).setWidth 32 },
    members := members, hdr := h, point := ⟨false, (v 14).toNat % 16, (v 14).toNat % 16 + 1, 16, none⟩ }

/-- The k-th group of a section: its lanes with their chains, then its record. A group saved at a stalled `SPUSH` resumes there.
-/
def SectionImage.group (x : SectionImage) (t : Team) (fs : List FrameImage) (d : Nat) (kind : GroupKind) (k : Nat) : Group :=
  let b := x.piece 2 2048 k
  let base := x.base + 2 ^ 12
  let lane := fun (l : Nat) =>
    let pcv := BitVec.ofNat 64 (field b (0x300 + 8 * l) 8)
    let chain := if pcv = exitPc then []
      else chainOf fs d base (x.base + 2 ^ 20 + 2 ^ 14 * k + 2 ^ 8 * l) l (field b (0x180 + l) 1 + 1) (field b (0x1C0 + 2 * l) 2)
    (l, { Lane.none with chain := chain })
  let lanes := (List.range 64).map lane
  let fids := distinct (lanes.flatMap fun e => e.2.chain.map (·.fid))
  let frame := fun (fid : Nat) => match fs[fid - base]? with
    | some f => (⟨fid, f.count, f.ret, f.trap, false, fid, [], []⟩ : Frame)
    | none =>
      let v := Config.imported d (2 * (256 * fid + 128) + 1)
      ⟨fid, 1 + v.toNat % 128, Config.imported d (2 * (256 * fid + 129) + 1), none, true, fid, [], []⟩
  let latch := (List.range (x.count 11)).foldl (fun (m, r) _ =>
    let l : Latch := ⟨BitVec.ofNat 1 (field r 0 1), BitVec.ofNat 7 (field r 1 1), BitVec.ofNat 5 (field r 2 1),
      BitVec.ofNat 4 (field r 3 1), BitVec.ofNat 3 (field r 4 1), [], BitVec.ofNat 128 (field r 5 16)⟩
    let vals := r.drop 32
    let codes := (List.range (128 * l.depth)).foldl (fun m y =>
      mapSet 0 m (256 * (y / l.depth) + y % l.depth) (field vals (l.width * y) l.width)) []
    (if field r 21 2 = k then some { l with codes := codes } else m, vals.drop (128 * l.depth * l.width)))
    ((none : Option Latch), x.part 11)
  let g : Group :=
    { gid := x.base + 1 + k, core := t.core, slot := 0, world := t.world, team := t.key, grid := t.grid, kind := kind,
      lanes := lanes, sregs := [], cregs := 0#4, qregs := [], flags := [], jregs := [], lclock := 0, lcfrac := 0,
      gstat := 0#32, latch := latch.1, frames := fids.map frame, issue := none, waiting := waitingOf (x.team (44 + k) 1),
      request := none, held := none, heldTrap := none, asyncs := [], spush := none, popped := [], swapped := false, tlbinv := 0,
      cmaint := 0, restores := [], since := none, faults := [], lapsed := none, second := none, passed := none, atoms := [],
      launching := none }
  let g := g.ofRecord b
  let h := g.nextClause.1
  let stall := field b 0x240 4
  let seq := BitVec.ofNat 32 (field b 0x13C 4)
  let qregs := (List.range 4).filterMap fun q =>
    let v := field b (0x105 + q) 1
    if v / 32 % 2 = 1 then some (q, (⟨v % 16, v / 16 % 2 == 1⟩ : QBind)) else none
  let g := if stall < 2 ^ 31 then g
    else g.mapLanes (fun l => (g.lane l).pcv == h && g.ready.contains l) fun _ n => { n with resume := some (stall % 16) }
  { g with
    qregs := qregs,
    held := if seq = 0#32 then none else some seq,
    heldTrap := if seq = 0#32 then none else some (heldOf d seq (laneMask g.liveLanes) h g.gid) }

/-- The bins of part 7, n of them; their timers begin again. -/
def binsOf (now : Nat) : Nat → List Byte → List Bin
  | 0, _ => []
  | n + 1, b =>
    let k := field b 7 1
    let rec_ := fun (i : Nat) =>
      (⟨BitVec.ofNat 32 (field b (16 + 8 * i) 4),
        ⟨BitVec.ofNat 32 (field b (20 + 8 * i) 4), bitAt (b.drop 8) (i / 2)⟩, now⟩ : BinRec)
    ⟨if k = 0 then none else some (BitVec.ofNat 64 (field b 0 7)), (List.range k).map rec_, false⟩ ::
      binsOf now n (b.drop (16 + 8 * k))

/-- The stage of a task by its code. -/
def stageOf (n : Nat) : TaskStage :=
  match n with
  | 0 => .posted
  | 1 => .entered
  | 2 => .buffered
  | 3 => .inputs
  | 4 => .ready
  | 5 => .running
  | 6 => .outputs
  | 7 => .draining
  | _ => .arriving

/-- The team of a section, its grid and gang by their numbers. -/
def SectionImage.toTeam (x : SectionImage) (w now d grid gang : Nat) : Team :=
  let kernel : Kernel :=
    { entry := x.launch d 0, trapent := x.launch d 1, frame := 1 + (x.launch d 2).toNat % 128, groups := x.team 40 4,
      tiles := x.team 28 4, scratch := x.team 24 4, bins := x.team 32 4, queues := (x.launch d 3).toNat % 17,
      qkind := (x.launch d 3).extractLsb' 32 16, timer := x.team 36 4, attr := (x.launch d 4).setWidth 16 }
  let t : Team :=
    { key := x.base, grid := grid, world := w, core := x.team 20 4 + x.teamid % x.team 16 4, slot := 0, teamid := x.teamid,
      gang := gang, kernel := kernel, args := x.launch d 5, scratch := [], spoison := [], tiles := [], tstate := [], phase := [],
      bins := binsOf now (x.count 7) (x.part 7), error := false }
  t.withBytes (x.part 4) (x.part 5)

/-- The entries of part 8 that are tasks, and where a walk's stands. -/
def SectionImage.tasks (x : SectionImage) : List (List Byte) :=
  ((List.range (x.count 8)).map (x.piece 8 256)).takeWhile fun b => field b 0 1 ≠ 255

/-- A group of a section by one more than its place, 0 for none that lives. -/
def SectionImage.gid (x : SectionImage) (n : Nat) : Nat := if n = 0 then 0 else x.base + n

/-- The tasks of a section, their operands read again through their records by `opnds`. -/
def SectionImage.taskList (x : SectionImage) (core : Nat) (opnds : Nat → List Operand) : List Task :=
  x.tasks.zipIdx.map fun (b, k) =>
    let bits := b.drop 56
    let walk := if bitAt bits 2 then some (x.base + 2 ^ 18) else none
    { id := x.base + 2 ^ 17 + k, core := core, team := x.base, gid := x.gid (field b 57 2), walk := walk,
      poison := bitAt bits 0, op := if walk.isSome then none else some (x.base + 2 ^ 17 + 2 ^ 10 + k),
      recAddr := field b 16 8, entry := BitVec.ofNat 64 (field b 24 8), arg := BitVec.ofNat 64 (field b 32 8),
      i := field b 4 4, j := field b 8 4, k := field b 12 4, opnds := opnds (field b 16 8), sync := field b 40 8,
      stage := stageOf (field b 0 1), buf := field b 1 1, age := 0, clock := field b 48 8,
      body := if field b 59 2 = 0 then none else some (x.gid (field b 59 2)), failed := bitAt bits 1, sent := field b 2 2 }

/-- The walk of a section. -/
def SectionImage.walk (x : SectionImage) (core : Nat) (opnds : Nat → List Operand) : Option Walk :=
  let n := x.tasks.length
  let b := x.piece 8 256 n
  if x.count 8 ≤ n then none
  else some
    { id := x.base + 2 ^ 18, core := core, clock := field b 48 8, team := x.base, gid := x.gid (field b 2 2),
      recAddr := field b 16 8, e0 := field b 4 4, e1 := field b 8 4, e2 := field b 12 4, sync := field b 40 8,
      opnds := opnds (field b 16 8), entry := BitVec.ofNat 64 (field b 24 8), arg := BitVec.ofNat 64 (field b 32 8),
      posted := (List.range (field b 56 8)).map fun k => field ((x.part 8).drop (256 * (n + 1))) (8 * k) 8,
      failed := bitAt (b.drop 1) 0 }

/-- The copies of a section and the operations of its `TASKP`s. -/
def SectionImage.ops (x : SectionImage) (w core : Nat) : List Op :=
  let op := fun (id g fl : Nat) (kind : OpKind) (time : Nat) =>
    (⟨id, x.gid g, core, w, x.base, if fl = 255 then none else some fl, kind, false, time⟩ : Op)
  ((List.range (x.count 9)).map fun k =>
    let b := x.piece 9 128 k
    let bits := b.drop 106
    let task := field b 110 1
    let stream := field b 107 1
    let c := newCopy (bitAt bits 0) (bitAt bits 1) (copyRec b) (field b 64 8) (BitVec.ofNat 64 (field b 72 8))
      (BitVec.ofNat 64 (field b 80 8)) (field b 105 1) (bitAt bits 2) (if stream = 255 then none else some stream)
      (bitAt bits 3) (field b 96 8) (if task = 0 then none else some (x.base + 2 ^ 17 + task - 1)) (field b 111 1)
    op (x.base + 2 ^ 16 + k) (field b 108 2) (field b 104 1) (.copy { c with next := field b 88 8 }) (field b 96 8)) ++
  (x.tasks.zipIdx.filter fun e => !bitAt (e.1.drop 56) 2).map fun (b, k) =>
    op (x.base + 2 ^ 17 + 2 ^ 10 + k) (field b 57 2) (field b 61 1) (.task (x.base + 2 ^ 17 + k)) 0

/-- The queue objects of a section; live bindings are found among the groups and copies of the gang. -/
def SectionImage.queues (x : SectionImage) (gang : Nat) (gs : List Group) (ops : List Op) : List Queue :=
  (List.range (x.count 10)).map fun k =>
    let b := x.piece 10 16448 k
    let obj := field b 0 1
    let vector := field b 1 1 == 1
    let bound := fun (p : Bool) => (findBy (fun g => g.qregs.any fun e => e.2.obj == obj && e.2.producer == p) gs).map (·.gid)
    let producer := match field b 12 4 with
      | 0 => Producer.never
      | 1 => ((bound true).map Producer.group).getD .closed
      | 2 => ((findBy (fun o => (o.copy?.bind (·.stream)) == some obj) ops).map fun o => Producer.stream o.id).getD .closed
      | 5 => .faulted (BitVec.ofNat 32 (field b 16 4))
      | _ => .closed
    let entry := fun (i : Nat) =>
      (⟨(List.range (if vector then 64 else 2)).map fun y => BitVec.ofNat 32 (field b (64 + 256 * i + 4 * y) 4),
        bitAt (b.drop 4) i, field b 20 8⟩ : QEntry)
    ⟨gang, obj, vector, (List.range (field b 2 1)).map entry, producer, bound false, field b 3 1 == 1⟩

/-- The team of a section with all that is its own but queue objects, in a state that knows it. -/
def SectionImage.saved (x : SectionImage) (s : State) (w grid gang : Nat) : Saved :=
  let d := s.fresh
  let t := x.toTeam w s.clock d grid gang
  let fs := framesOf (x.count 3) (x.part 3)
  let body := fun (k : Nat) => findBy (fun e => field e.1 59 2 == k + 1) x.tasks.zipIdx
  let kind := fun (k : Nat) => if k < x.team 40 4 then GroupKind.launched else match body k with
    | some (b, n) => .task (x.base + 2 ^ 17 + n) (bitAt (b.drop 56) 2) (field b 4 4) (field b 8 4) (field b 12 4)
    | none => .spawned
  let gs := (List.range (x.count 2)).map fun k => x.group t fs d (kind k) k
  let opnds := fun (a : Nat) =>
    let bytes := (addrs (a % 2 ^ 20) 64).map fun o => (t.scratchByte o).1
    match gs with
    | [] => []
    | g :: _ => match ({ s with teams := [t] } : State).readOpnds g bytes t.kernel.scratch (List.range 4) with
      | .ok os => os
      | .error _ => []
  { team := t, groups := gs, ops := x.ops w t.core, tasks := x.taskList t.core opnds, walk := x.walk t.core opnds,
    tags := (List.range (x.count 6)).map fun k =>
      let b := x.piece 6 16 k
      (2048 * t.core + field b 8 4, (⟨true, BitVec.ofNat 32 (field b 0 4), BitVec.ofNat 32 (field b 4 4), grid⟩ : TagEntry)),
    queues := [], image := x.addr, bytes := x.bytes, since := s.clock, header := x.header }

end Sys2Proof.Machine
end

