-- ==== Sys2Proof/Machine/Preempt.lean ====
section
/-!
DEFINITION. Sys2Proof/Machine/Preempt.lean: latch changes (17 R384), SUSPEND and RESUME (21 R446 to
R452), GROW and SHRINK (R453), sluices (R454 to R457), sealed checkpoints and IMPORT (R458 to R461).
-/
namespace Sys2Proof.Machine

/-! ## What a team saves (R447 to R450) -/

/-- Whether an operation goes with its team: a copy, or what a `TASKP` counts. -/
def Op.withTeam (o : Op) : Bool := match o.kind with | .copy _ | .task _ => true | _ => false

/-- What a team saves, out of the machine: its gang's queue objects with the lowest team. DEDUCED, log entry 10. -/
def State.collect (s : State) (t : Team) : Saved :=
  let gang := s.teams ++ (s.polder t.world).saved.map (·.team)
  let lowest := gang.all fun u => u.gang != t.gang || t.teamid ≤ u.teamid
  { team := t,
    groups := (s.groups.filter fun g => g.team == t.key).map fun g =>
      { g with issue := if g.spush.isSome || g.held.isSome then g.issue else none, popped := [], second := none },
    ops := s.ops.filter fun o => o.team == t.key && o.withTeam,
    tasks := s.tasks.filter fun k => k.team == t.key, walk := s.walkOf t.key,
    tags := s.tags.filter fun e => e.1 / 2048 == t.core && e.2.grid == t.grid,
    queues := if lowest then s.queues.filter fun q => q.gang == t.gang else [],
    image := 0, bytes := [], since := s.clock }

/-- The GRIDID and the teams of a gang of a saved team's grid. -/
def State.savedIds (s : State) (v : Saved) : Nat × Nat :=
  ((s.grid v.team.grid).map fun k => (k.gridid.toNat, max k.gang 1)).getD (0, 1)

/-- A team and all that is its own taken out of the machine. -/
def State.withdraw (s : State) (t : Team) : State :=
  let s := { s with teams := dropBy (fun u => u.key == t.key) s.teams, groups := dropBy (fun g => g.team == t.key) s.groups,
                    ops := s.ops.filter (fun o => !(o.team == t.key && o.withTeam)),
                    tasks := dropBy (fun k => k.team == t.key) s.tasks, walks := dropBy (fun k => k.team == t.key) s.walks,
                    tags := s.tags.filter (fun e => !(e.1 / 2048 == t.core && e.2.grid == t.grid &&
                      !(s.teams.any fun u => u.key != t.key && u.core == t.core && u.grid == t.grid))) }
  if s.teams.any fun u => u.gang == t.gang then s else { s with queues := dropBy (fun q => q.gang == t.gang) s.queues }

/-- The teams of a world on some cores saved, core by core, each image where the spill area holds none; none where the area
cannot be written, `some none` while its walk or an X range keeps the write waiting. -/
def State.saveCores (s : State) (w : Nat) : List Nat → Option (Option State)
  | [] => some (some s)
  | core :: l =>
    let ts := s.teams.filter fun t => t.core == core && t.world == w
    if ts = [] then s.saveCores w l
    else
      let vs := ts.map fun t => s.collect t
      let secs := vs.map fun v => v.section_ (s.savedIds v).1 (s.savedIds v).2
      let bytes := imageOf w secs
      match s.spillPlace w bytes.length [] with
      | none => none
      | some addr =>
        match s.xlateSpans deviceAgent w 1 (pageSpans addr bytes.length) with
        | (_, .error (d, _, _)) => if d = 0 then some none else none
        | (s, .ok pas) =>
          if s.held pas none then some none else
          let s := (s.agentWrite (List.zip pas bytes) []).meter w 25 bytes.length
          let s := ts.foldl (fun s t => s.withdraw t) s
          let p := s.polder w
          (s.setPolder w { p with saved := p.saved ++ placeSections addr vs secs }).saveCores w l

/-! ## Stopping (R447, R448) -/

/-- Whether a group has stopped: it stands at a header or waits, and its operations but for copies, collectives and tasks, which
are saved or run on, are complete. -/
def State.stopped (s : State) (g : Group) : Bool :=
  !g.inClause && (s.ops.all fun o => o.gid != g.gid || (match o.kind with | .copy _ | .coll _ | .task _ => true | _ => false)) &&
  !(s.blocks.any fun b => b.gid == g.gid && b.graph.isNone)

/-- The cores of a world that hold a team, of some clusters. -/
def State.heldCores (s : State) (w : Nat) (pick : Nat → Bool) : List Nat :=
  (List.range 192).filter fun c => pick (c / 4) && s.teams.any fun t => t.core == c && t.world == w

/-- Whether the spill area has the space that R448 asks for. -/
def State.roomToSave (s : State) (w : Nat) (pick : Nat → Bool) : Bool :=
  let groups := s.groups.filter fun g => g.world == w && pick (g.core / 4)
  s.spillUsed w + 6960 * 1024 * (s.heldCores w pick).length + 65536 * groups.length ≤ (s.polder w).spillsize.toNat

/-- Whether every group of a world on some clusters has stopped, and what its ended groups left is complete too: a pass
whose group has ended is waited for (12 R309). -/
def State.allStopped (s : State) (w : Nat) (pick : Nat → Bool) : Bool :=
  (s.groups.all fun g => g.world != w || !pick (g.core / 4) || s.stopped g) &&
  s.ops.all fun o => o.world != w || !pick (o.core / 4) || o.gid == 0 ||
    (match o.kind with | .copy _ | .coll _ | .task _ => true | _ => false)

/-- SUSPEND: the first event begins to stop the groups, the next one that finds them stopped saves them. -/
def execSuspend (s : State) : Outcome :=
  s.serve 16 fun _ m =>
    let w := m.world.toNat
    let p := s.polder w
    let all := fun (_ : Nat) => true
    .next (if 48 ≤ w ∨ p.state ≠ .run ∨ p.susp = true then s.mailEnd 1 0
      else match p.stopping with
        | none => if s.roomToSave w all then s.setPolder w { p with stopping := some s.clock } else s.mailEnd 2 0
        | some _ =>
          if !s.allStopped w all then s
          else match s.saveCores w (s.heldCores w all) with
            | some (some s) => (s.setPolder w { s.polder w with susp := true, stopping := none }).mailEnd 0 0
            | some none => s
            | none => (s.setPolder w { p with stopping := none }).mailEnd 2 0)

/-- The clusters of a mask no longer changing. -/
def State.letGo (s : State) (mask : Nat) : State :=
  (List.range 48).foldl (fun s c => if mask.testBit c then { s with changing := mapSet false s.changing c false } else s) s

/-- SUSPEND_TIMEOUT: 2^30 cycles have passed since a SUSPEND, or the latch changes of a SHRINK, began to stop groups. -/
def execSuspendTimeout (s : State) : Outcome :=
  .next (match s.mail with
    | none => s
    | some (_, m) =>
      let w := m.world.toNat
      let p := s.polder w
      match m.op.toNat, p.stopping, p.shrink with
      | 16, some t, _ => if s.clock < t + 2 ^ 30 then s else (s.setPolder w { p with stopping := none }).mailEnd 5 0
      | 19, _, some (t, mask, _) =>
        if s.clock < t + 2 ^ 30 then s else ((s.setPolder w { p with shrink := none }).letGo mask).mailEnd 5 0
      | _, _, _ => s)

/-- Whether a merge of an atom that a cluster's merge unit holds waits on an X range (11 R289). -/
def State.mergeWaits (s : State) (c : Nat) : Bool :=
  s.uatoms.any fun u => u.holders.any (·.1 == c) && s.held (addrs (32 * u.atom) 32) none

/-- WORLD_LATCH_CHANGE: a cluster whose CLOWN was written takes its new latch once its groups have stopped and their
operations, copies too, are complete (17 R384); a group of world 60, which has no spill area, is lost: log entry 42. -/
def execWorldLatchChange (c : Nat) (s : State) : Outcome :=
  .next (if !mapGet false s.changing c then s
    else if (s.ops.any fun o => o.core / 4 == c && o.gid != 0) || s.mergeWaits c then s
    else if s.pldrs.any fun e => (e.2.shrink.map fun x => x.2.1.testBit c).getD false then s
    else if s.groups.any fun g => g.core / 4 == c && !s.stopped g then s
    else s.setLatch c (mapGet 63#6 s.clown c).toNat)

/-! ## RESUME (R452, R461) -/

/-- The order of saved teams: by GRIDID, then TEAMID. -/
def State.savedOrder (s : State) (vs : List Saved) : List Saved :=
  orderBy (fun v => ((s.grid v.team.grid).map (·.gridid.toNat)).getD 0 * 2 ^ 64 + v.team.teamid) vs

/-- What a saved team needs of a core: granules, slots, scratchpad, tiles. -/
def Saved.needs (v : Saved) : Nat × Nat × Nat × Nat :=
  (v.groups.foldl (fun n g => n + g.held') 0, v.groups.length, v.team.kernel.scratch, v.team.kernel.tiles)

/-- Whether a saved team fits a core, as a team of its grid is placed (R359), with the keys of R360. -/
def State.savedFits (s : State) (k : Grid) (v : Saved) (core : Nat) : Option (Nat × Nat × Nat) :=
  let (g, n, scr, tiles) := v.needs
  let (slots, fscr, ftiles) := s.freeOf core
  if mapGet 63#6 s.latch (core / 4) == BitVec.ofNat 6 k.world && !mapGet false s.changing (core / 4) && n ≤ slots &&
      scr ≤ fscr && tiles ≤ ftiles then
    match s.roomIn k core with
    | some r => if g ≤ r then some (r, slots, fscr) else none
    | none => none
  else none

/-- The least of each key over the cores of a gang's saved teams, none where one does not fit. -/
def State.savedKeys (s : State) (k : Grid) (base : Nat) : List Saved → Option (Nat × Nat × Nat)
  | [] => some (2 ^ 64, 2 ^ 64, 2 ^ 64)
  | v :: vs =>
    match s.savedKeys k base vs, s.savedFits k v (base + v.team.teamid % k.gang) with
    | some (a, b, c), some (x, y, z) => some (min a x, min b y, min c z)
    | _, _ => none

/-- The base core for the saved teams of a gang: the least loaded at which every one fits (R360). -/
def State.savedBase (s : State) (k : Grid) (vs : List Saved) : Option Nat :=
  let n := min k.gang (k.total - (vs.foldl (fun m v => min m v.team.teamid) k.total) / k.gang * k.gang)
  leastLoaded (basesOf n fun b => s.savedKeys k b vs)

/-- A saved tag entry put back on a core: one already present is skipped, one whose set is full is dropped with a
record. -/
def State.restoreTag (s : State) (t : Team) (core : Nat) (e : TagEntry) : State :=
  if (tagWay s.tags core e.grid e.key).isSome then s
  else match findBy (fun w => !(mapGet TagEntry.empty s.tags (tagSlot core e.key w)).valid) (List.range 4) with
    | some w => { s with tags := mapSet TagEntry.empty s.tags (tagSlot core e.key w) e }
    | none =>
      let c : Cond := { cause := poisonUse, detail := 5 }
      let (s, r) := s.form t.world (c.record 0#64 16 (s.teamIds t.key).1 t.teamid (originOf core 0 0))
      s.postOnly t.world r

/-- A saved team placed on a core: its groups take the lowest free slots; LCLOCK has gone on rising (R449), the timers of
its bins have stood still (10 R261), but the ages of those that were ready are kept. -/
def State.restore (s : State) (v : Saved) (core : Nat) : State :=
  let slot := (findBy (fun x => !s.teams.any fun t => t.core == core && t.slot == x) (List.range 256)).getD 0
  let away := s.clock - v.since
  let later := fun (b : Bin) =>
    if (b.ready v.team.kernel.timer).isSome then b else { b with recs := b.recs.map fun r => { r with posted := r.posted + away } }
  let t := { v.team with core := core, slot := slot, bins := v.team.bins.map later }
  let gs := (List.zip v.groups (s.freeSlots core v.groups.length)).map fun (g, k) =>
    { g.tick away with core := core, slot := k }
  let s := { s with teams := s.teams ++ [t], groups := s.groups ++ gs,
                    ops := s.ops ++ v.ops.map (fun o => { o with core := core }),
                    tasks := s.tasks ++ v.tasks.map (fun k => { k with core := core }),
                    walks := s.walks ++ (v.walk.toList.map fun k => { k with core := core }), queues := s.queues ++ v.queues }
  let s := v.tags.foldl (fun s e => s.restoreTag t core e.2) s
  gs.foldl (fun s g => s.settle g.gid) s

/-- A saved team whose section does not read as it was written ends with an undelivered RECORD record. -/
def State.loseSaved (s : State) (w : Nat) (v : Saved) : State :=
  let c : Cond := { cause := recordCause, addr := v.image }
  let gr := ((s.grid v.team.grid).map (·.gridid.toNat)).getD 0
  let (s, r) := s.form w (c.record 0#64 16 gr v.team.teamid (originOf v.team.core 0 0))
  (s.postOnly w r).modGrid v.team.grid fun k => { k with ended := k.ended + 1, error := true }

/-- n bytes of the spill area read: none while the read waits, `some none` where they cannot be read clean. -/
def State.readImage (s : State) (w a n : Nat) : State × Option (Option (List Byte)) :=
  match s.xlateSpans deviceAgent w 0 (pageSpans a n) with
  | (s, .error (d, _, _)) => (s, if d = 0 then none else some none)
  | (s, .ok pas) =>
    if s.held pas none then (s, none) else
    match s.agentRead pas with
    | (s, _, some b) => (s.integrity (b * 128), some none)
    | (s, bs, none) => (s, some (if bs.any Prod.snd then none else some (bs.map Prod.fst)))

/-- A saved team as its section reads: as it was saved where the bytes still are; with the contents of its group records,
scratchpad and tiles where those alone differ; `some none` where it is malformed, none while the read waits. DEDUCED,
log entry 45. -/
def State.readSection (s : State) (w : Nat) (v : Saved) : State × Option (Option Saved) :=
  match s.readImage w v.image v.bytes.length with
  | (s, some (some b)) =>
    let (gridid, gang) := s.savedIds v
    let u := v.ofBytes gridid gang b
    (s, some (if b == v.bytes then some v else if u.section_ gridid gang == b then some u else none))
  | (s, some none) => (s, some none)
  | (s, none) => (s, none)

/-- The places and sizes of the sections of an image, by its header; none are named where its MAGIC is another. -/
def sectionsOf (a : Nat) (h : List Byte) : List (Nat × Nat × Nat) :=
  if h.take 4 ≠ [0x43#8, 0x5A#8, 0x43#8, 0x58#8] then []
  else (List.range (min 256 (field h 8 4))).map fun i => (a, a + field h (64 + 8 * i) 4, field h (68 + 8 * i) 4)

/-- The sections of some images by their headers; none while a read waits. -/
def State.readHeaders (s : State) (w : Nat) : List Nat → State × Option (List (Nat × Nat × Nat))
  | [] => (s, some [])
  | a :: l =>
    match s.readImage w a 4096 with
    | (s, none) => (s, none)
    | (s, some b) =>
      let (s, rest) := s.readHeaders w l
      (s, rest.map fun rest => sectionsOf a (b.getD []) ++ rest)

/-- Sections read: those that can be a team's, numbered from n on, and the places of the others with what their bytes give as
TEAMID and GRIDID; none while a read waits. -/
def State.readSections (s : State) (w n : Nat) : List (Nat × Nat × Nat) →
    State × Option (List SectionImage × List (Nat × Nat × Nat))
  | [] => (s, some ([], []))
  | (header, a, len) :: l =>
    match s.readImage w a len with
    | (s, none) => (s, none)
    | (s, some b) =>
      let (s, rest) := s.readSections w (n + 2 ^ 24) l
      let bytes := b.getD []
      let x : SectionImage := ⟨a, header, bytes, (sectionParts 11 bytes).getD [], n⟩
      (s, rest.map fun (good, bad) =>
        if x.ok then (x :: good, bad) else (good, (a, field bytes 16 8, field bytes 24 4) :: bad))

/-- The grid of some saved teams, complete but for them. What no section holds of its launch is free; the lock-keeper is told
by its code where this is the firmware's. DEDUCED, log entry 45. -/
def State.importedGrid (s : State) (w key : Nat) (x : SectionImage) (vs : List Saved) : Grid :=
  let d := s.fresh
  let gs := vs.flatMap (·.groups)
  let gstat := ((gs.head?).map (·.gstat)).getD 0#32
  let total := x.team 16 4 * (1 + vs.foldl (fun n v => max n (v.team.teamid / x.team 16 4)) 0)
  let clock := gs.foldl (fun n g => max n g.lclock) 0
  let p := s.polder w
  let lo := Config.firmwareLockkeeper.toNat
  let firmware := gs.any fun g => g.liveLanes.any fun l =>
    lo ≤ (g.lane l).pcv.toNat && (g.lane l).pcv.toNat < lo + 4 * firmwareLoop.length
  let keeper := if p.lkdesc = 0#64 then firmware else (x.launch d 6).getLsbD 0
  { key := key, world := w, gridid := BitVec.ofNat 32 x.gridid, prio := gstat.toNat / 64 % 8, strict := gstat.getLsbD 4,
    ftz := gstat.getLsbD 5, kernel := ((vs.head?).map (·.team.kernel)).getD (x.toTeam w 0 d key 0).kernel, gx := total, gy := 1,
    gz := 1, gang := x.team 16 4, args := x.launch d 5, ctr := if keeper then 0#64 else x.launch d 7, cinc := x.launch d 8,
    poolcap := (x.launch d 9).toNat % 1025, next := total, ended := total - vs.length, launcher := clock, cluster := none,
    node := none, keeper := keeper, desc := if keeper then p.lkdesc else x.launch d 10, base := [], clock := clock,
    error := false, held := none }

/-- The saved teams of an imported polder, from the sections of the images that its stream named: those of another device as
well. A malformed section's team ends with its record (R452). -/
def State.adopt (s : State) (w : Nat) : State :=
  match s.readHeaders w (((s.polder w).importing.map (·.images)).getD []) with
  | (_, none) => s
  | (s', some l) =>
    match s'.readSections w s.ids l with
    | (_, none) => s
    | (s, some (xs, bad)) =>
      let first := fun (x : SectionImage) => ((findBy (fun y => y.gridid == x.gridid) xs).map (·.base)).getD x.base
      let lead := fun (x : SectionImage) =>
        ((findBy (fun y => y.gridid == x.gridid && y.gang == x.gang) xs).map (·.base)).getD x.base
      let grid := fun (x : SectionImage) => first x + 2 ^ 19
      let gang := fun (x : SectionImage) => lead x + 2 ^ 19 + 1
      let vs := xs.map fun x => (x, x.saved s w (grid x) (gang x))
      let whole := vs.map fun (x, v) =>
        let mates := vs.filter fun e => e.2.team.gang == v.team.gang
        { v with queues := x.queues v.team.gang (mates.flatMap (·.2.groups)) (mates.flatMap (·.2.ops)) }
      let grids := (xs.filter fun x => first x == x.base).map fun x =>
        s.importedGrid w (grid x) x (whole.filter fun v => v.team.grid == grid x)
      let s := bad.foldl (fun s (a, teamid, gridid) =>
        let (s, r) := s.form w (({ cause := recordCause, addr := a } : Cond).record 0#64 16 gridid teamid (originOf 0 0 0))
        s.postOnly w r) s
      let s := { s.draw with ids := s.ids + 2 ^ 24 * (l.length + 1), grids := s.grids ++ grids }
      s.setPolder w { s.polder w with importing := none, saved := whole }

/-- The next gang of saved teams placed, its malformed sections lost; none where it does not fit or a read waits. -/
def State.resumeNext (s : State) (w : Nat) : Option State :=
  let p := s.polder w
  match s.savedOrder p.saved with
  | [] => none
  | v :: _ =>
    let gang := (s.savedOrder p.saved).filter fun u => u.team.gang == v.team.gang
    let rest := p.saved.filter fun u => u.team.gang != v.team.gang
    match s.grid v.team.grid with
    | none => some (s.setPolder w { p with saved := rest })
    | some k =>
      let (s, good, bad, waits) := gang.foldl (fun (s, good, bad, waits) u =>
        match s.readSection w u with
        | (s, none) => (s, good, bad, true)
        | (s, some (some x)) => (s, good ++ [x], bad, waits)
        | (s, some none) => (s, good, bad ++ [u], waits)) (s, ([] : List Saved), ([] : List Saved), false)
      (if waits then none else if good = [] then some 0 else s.savedBase k good).map fun base =>
        let s := s.setPolder w { s.polder w with saved := rest }
        let s := bad.foldl (fun s u => s.loseSaved w u) s
        good.foldl (fun s u => s.restore u (base + u.team.teamid % k.gang)) s

/-- RESUME: each event places the next saved gang that fits; with none left the distributor is released. -/
def execResume (s : State) : Outcome :=
  s.serve 17 fun _ m =>
    let w := m.world.toNat
    let p := s.polder w
    .next (if 48 ≤ w ∨ p.state ≠ .run ∨ p.susp = false then s.mailEnd 1 0
      else if p.importing.isSome then s.adopt w
      else if p.saved = [] then (s.setPolder w { p with susp := false }).mailEnd 0 0
      else (s.resumeNext w).getD s)

/-! ## Resize (R453) -/

/-- The resources a list block names, none where it is malformed. -/
def listBlock (b : List Byte) : Option (Nat × Nat) :=
  if field b 6 2 ≠ 0 then none else some (field b 0 6, field b 8 64)

/-- The numbers of a mask below n. -/
def bitsOf (mask n : Nat) : List Nat := (List.range n).filter mask.testBit

/-- GROW: the free resources named join the polder. -/
def execGrow (s : State) : Outcome :=
  s.serve 18 fun own m =>
    let w := m.world.toNat
    .next (if 48 ≤ w ∨ (s.polder w).state ≠ .run then s.mailEnd 1 0
      else match s.paramBytes own m.arg.toNat 72 with
        | (s, none) => s.mailEnd 2 0
        | (s, some b) =>
          match listBlock b with
          | none => s.mailEnd 2 0
          | some (cm, pm) =>
            let cs := bitsOf cm 48
            let ps := bitsOf pm 512
            if (cs.any fun c => mapGet 63#6 s.clown c != 63#6 || mapGet false s.changing c) ||
                ps.any fun p => mapGet 63#6 s.pcown p != 63#6 || !(s.phy p).ready then s.mailEnd 2 0
            else
              let s := ps.foldl (fun s p =>
                { (s.rekey p w).zeroChannel p with pcown := mapSet 63#6 s.pcown p (BitVec.ofNat 6 w) }) s
              (cs.foldl (fun s c => s.giveCluster c w) s).mailEnd 0 0)

/-- The pseudo-channel of the first line of a polder's fault buffer. -/
def State.bufferChannel (s : State) (w : Nat) : Option Nat :=
  match (s.translate deviceAgent w (s.polder w).fbbase.toNat 1 false).2 with
  | .ok t => some (t.pa / 2 ^ 30)
  | _ => none

/-- Whether a block, or an access that is not yet performed, is in flight on some pseudo-channels (13 R329, 17 R369). -/
def State.busyOn (s : State) (mask : Nat) : Bool :=
  (s.blocks.any fun b => mask.testBit b.rsq && (b.stage == .sent || b.stage == .running)) ||
  s.ops.any fun o => !o.done && o.touches.1.any fun t => t.2.any fun p => p.1.isNone && mask.testBit (p.2 / 2 ^ 30)

/-- Whether a SHRINK of masks is one that the polder can bear. -/
def State.shrinkOk (s : State) (w cm pm : Nat) : Bool :=
  let cs := s.clusters w
  let ps := s.channels w
  (bitsOf cm 48).all cs.contains && (bitsOf pm 512).all ps.contains && (cs.any fun c => !cm.testBit c) &&
  (ps.any fun p => !pm.testBit p) && (match s.bufferChannel w with | some p => !pm.testBit p | none => true)

/-- SHRINK: the first event begins to stop the groups of the clusters named, the next one that finds them stopped saves
them and frees what is named. -/
def execShrink (s : State) : Outcome :=
  s.serve 19 fun own m =>
    let w := m.world.toNat
    let p := s.polder w
    .next (if 48 ≤ w ∨ p.state ≠ .run then s.mailEnd 1 0
      else match p.shrink with
        | none =>
          (match s.paramBytes own m.arg.toNat 72 with
          | (s, none) => s.mailEnd 2 0
          | (s, some b) =>
            match listBlock b with
            | none => s.mailEnd 2 0
            | some (cm, pm) =>
              if !s.shrinkOk w cm pm || !s.roomToSave w cm.testBit then s.mailEnd 2 0
              else
                let s := (bitsOf cm 48).foldl (fun s c => { s with changing := mapSet false s.changing c true }) s
                s.setPolder w { s.polder w with shrink := some (s.clock, cm, pm) })
        | some (_, cm, pm) =>
          if !s.allStopped w cm.testBit || s.busyOn pm || (bitsOf cm 48).any s.mergeWaits then s
          else match s.saveCores w (s.heldCores w cm.testBit) with
            | none => ((s.setPolder w { p with shrink := none }).letGo cm).mailEnd 2 0
            | some none => s
            | some (some s) =>
              let s := s.setPolder w { s.polder w with shrink := none }
              let s := (bitsOf cm 48).foldl (fun s c => s.giveCluster c 63) s
              ((bitsOf pm 512).foldl (fun s p =>
                { s.zeroChannel p with pcown := mapSet 63#6 s.pcown p 63#6 }) s).mailEnd 0 0)

/-! ## Sluices (R454 to R457) -/

/-- The sources and destinations of a PCLIST, none where a word is malformed or names what it may not. -/
def State.pairsOf (s : State) (w : Nat) (stream : Bool) (b : List Byte) (n : Nat) : Option (List (Nat × Nat)) :=
  let ws := (List.range n).map fun i => field b (4 * i) 4
  let ps := ws.map fun v => (v % 512, v / 2 ^ 16 % 512)
  let free := fun (p : Nat) => mapGet 63#6 s.pcown p == 63#6 && (s.phy p).ready
  if ws.any (fun v => v / 512 % 128 ≠ 0 ∨ v / 2 ^ 25 ≠ 0 ∨ (stream ∧ v / 512 ≠ 0)) ||
      ps.any (fun e => !(s.channels w).contains e.1 || !(stream || free e.2)) ||
      (distinct (ps.map Prod.fst)).length != n || (!stream && (distinct (ps.map Prod.snd)).length != n) then none
  else some ps

/-- Whether a target's statement meets a policy (R458). -/
def policyMet (b : List Byte) (draw stmt : Nat) : Bool :=
  let n := field b 0 4
  let v := Config.statementVersions draw stmt
  let es := (List.range n).map fun e => (field b (16 + 64 * e) 16, (b.drop (32 + 64 * e)).take 48)
  n ≤ 16 && field b 12 4 == 0 && field b (16 + 64 * n) (64 * (16 - n)) == 0 && field b 4 4 ≤ v.1 && field b 8 4 ≤ v.2 &&
  es.all fun e => (e.1 == 1 || e.1 == 2 || e.1 == 3) && es.any fun f =>
    f.1 == e.1 && f.2 == toBytes 48 (Config.statementDigest draw stmt e.1).toNat

/-- SLUICE_OPEN. -/
def execSluiceOpen (s : State) : Outcome :=
  s.serve 20 fun own m =>
    let w := m.world.toNat
    .next (if 48 ≤ w ∨ (s.polder w).state ≠ .run ∨ (s.polder w).sluice.isSome then s.mailEnd 1 0
      else match s.paramBytes own m.arg.toNat 64 with
        | (s, none) => s.mailEnd 2 0
        | (s, some b) =>
          let kind := field b 0 1
          let stream := kind == 1
          let n := field b 4 2
          if 1 < kind ∨ field b 1 3 ≠ 0 ∨ field b 6 2 ≠ 0 ∨ n = 0 ∨ 512 < n ∨ field b 8 8 % 4 ≠ 0 ∨
              (stream ∧ field b 16 8 % 4096 ≠ 0) then s.mailEnd 2 0
          else match s.paramBytes own (field b 8 8) (4 * n) with
            | (s, none) => s.mailEnd 2 0
            | (s, some lst) =>
              match s.pairsOf w stream lst n with
              | none => s.mailEnd 2 0
              | some ps =>
                let order := orderBy (fun e => e.1.1) ps.zipIdx
                let u : Sluice :=
                  { stream := stream, own := own, pairs := order.map Prod.fst, ords := order.map Prod.snd, policy := [], upto := 0, again := [], block := m.arg.toNat,
                    ring := field b 16 8, ringsize := field b 24 8, ckid := (Config.freeWord s.fresh).setWidth 32,
                    chunk := 0, draw := s.fresh }
                if stream then
                  (match s.paramBytes own (field b 48 8) 1040 with
                  | (s, none) => s.mailEnd 2 0
                  | (s, some pol) =>
                    if !Config.statementOk s.fresh (field b 32 8) (field b 40 8) || !policyMet pol s.fresh (field b 40 8) then
                      s.draw.mailEnd 6 0
                    else match s.draw.keyRequest true with
                      | (s, false) => s.mailEnd 3 0
                      | (s, true) => (s.setPolder w { s.polder w with sluice := some { u with policy := pol } }).mailEnd 0 0)
                else
                  let s := ps.foldl (fun s e => { s with pcown := mapSet 63#6 s.pcown e.2 62#6 }) s.draw
                  (s.setPolder w { s.polder w with sluice := some u }).mailEnd 0 0)

/-- The rows of a sluice that are dirty, as a count. -/
def Sluice.dirtyRows (u : Sluice) : Nat := u.again.length + (2 ^ 20 * u.pairs.length - u.upto)

/-- The rows of a sluice that are dirty, in order, at most n of them. -/
def Sluice.nextRows (u : Sluice) (n : Nat) : List Nat :=
  (u.again ++ (List.range (min n (2 ^ 20 * u.pairs.length - u.upto))).map (u.upto + ·)).take n

/-- The address of a row of a sluice, by its number. -/
def Sluice.rowAddr (u : Sluice) (r : Nat) : Nat :=
  ((u.pairs[r / 2 ^ 20]?).map Prod.fst).getD 0 * 2 ^ 30 + 1024 * (r % 2 ^ 20)

/-- Whether a line stands in a dirty row of a sluice. -/
def Sluice.reads (u : Sluice) (ln : Nat) : Bool :=
  match u.pairs.findIdx? fun e => e.1 == ln * 128 / 2 ^ 30 with
  | some k =>
    let r := 2 ^ 20 * k + ln * 128 % 2 ^ 30 / 1024
    u.upto ≤ r || u.again.contains r
  | none => false

/-- The dirty rows read by the bank-side units, n rows that take as many again to write: what the decoding of each line that
is not clean counts, or the first line whose MAC fails (20 R431). Among as many rows as lines have a key of their own, and one
more, some line has that of its channel. -/
def State.sluiceRead (s : State) (w : Nat) (u : Sluice) (n : Nat) : State × Option Nat :=
  let listed := (s.lines.map Prod.fst ++ s.lkeys.map Prod.fst).filter u.reads
  let first := (u.nextRows (s.lkeys.length + 1)).flatMap fun r => (List.range 8).map (u.rowAddr r / 128 + ·)
  let lns := distinct (orderBy (fun ln => ln) (listed ++ first))
  match findBy (fun ln => (s.lineRead ln).bad) lns with
  | some ln => (s, some ln)
  | none =>
    (((lns.foldl (fun t ln => t.countLine ln (s.lineRead ln).kind) s).meter w 13 n).meter w 14 (1024 * u.dirtyRows), none)

/-- Bytes 0 to 31 of a chunk, which stay in clear (R460). -/
def chunkHead (u : Sluice) (kind ord brow : Nat) : List Byte :=
  toBytes 4 kind ++ wordBytes u.ckid ++ toBytes 8 u.chunk ++ toBytes 2 ord ++ toBytes 2 0 ++ toBytes 4 brow ++ List.replicate 8 0#8

/-- A chunk written at the i-th place of the ring: PAYLOAD and TAG sealed, those of the header in clear. DEDUCED, log
entry 46. -/
def State.sendChunk (s : State) (u : Sluice) (i kind ord brow : Nat) (payload : List Byte) : State × Sluice :=
  let head := chunkHead u kind ord brow
  let pay := fillTo 1024 payload
  let body := if kind = 0 then pay ++ List.replicate 16 0#8 else (List.range 1040).map (Config.sealByte u.draw head pay)
  (s.hostWrite (List.zip (addrs (2 ^ 39 + (u.ring + 1088 * i) % 2 ^ 39) 1088) (head ++ body ++ List.replicate 16 0#8)),
    { u with chunk := u.chunk + 1 })

/-- The payload of the configuration chunk: the function's registers, NPC, and the addresses of the context images. -/
def State.configPayload (s : State) (w : Nat) (u : Sluice) : List Byte :=
  let p := s.polder w
  ((List.range 8).flatMap fun k => dwordBytes (p.readReg (8 * (k + 1)))) ++ toBytes 4 u.pairs.length ++
    (distinct (p.saved.map (·.header))).flatMap (toBytes 8)

/-- The header and configuration chunks, which open the first pass, as far as the ring has room, from its i-th place on; the
place after them. -/
def State.openStream (s : State) (w : Nat) (u : Sluice) (i : Nat) : State × Sluice × Nat :=
  let (s, u, i) :=
    if u.chunk = 0 ∧ i < u.ringsize then
      let (s, u) := s.sendChunk u i 0 0 0 ((List.range 1024).map (Config.headerByte u.draw u.policy s.certChain))
      (s, u, i + 1)
    else (s, u, i)
  if u.chunk = 1 ∧ i < u.ringsize then
    let (s, u) := s.sendChunk u i 1 0 0 (s.configPayload w u)
    (s, u, i + 1)
  else (s, u, i)

/-- Row chunks of a stream, at most n, from the i-th place of the ring: the place after them, and the line whose MAC fails,
which ends them. A row's poison does not go with it. DEDUCED, log entry 46. -/
def State.sendRows (s : State) (w : Nat) (u : Sluice) (i : Nat) : Nat → State × Sluice × Nat × Option Nat
  | 0 => (s, u, i, none)
  | n + 1 =>
    match u.nextRows 1 with
    | [] => (s, u, i, none)
    | r :: _ =>
      let u := if u.again = [] then { u with upto := u.upto + 1 } else { u with again := u.again.drop 1 }
      match s.homeRead (addrs (u.rowAddr r) 1024) with
      | (s, _, some ln) => (s, u, i, some ln)
      | (s, bs, none) =>
        let s := (s.meter w 13 1).meter w 14 1024
        let (s, u) := s.sendChunk u i 2 (u.ords.getD (r / 2 ^ 20) 0) (r % 2 ^ 20) (bs.map Prod.fst)
        s.sendRows w u (i + 1) n

/-- A pass (R455): dirty lines of the sources written back, then dirty rows copied; a stream stops after RINGSIZE
chunks. What a LOCAL sluice has copied is with its destination at the close. The rows copied, the place in the ring after the
pass, and the line whose MAC failed. -/
def State.pass (s : State) (w : Nat) (u : Sluice) : State × Sluice × Nat × Nat × Option Nat :=
  let s := s.writeBack fun ln => u.pairs.any fun e => e.1 == ln * 128 / 2 ^ 30
  let u := ((s.polder w).sluice).getD u
  let u := { u with again := orderBy (fun r => r) u.again }
  if u.stream then
    let (s, u, i) := s.openStream w u 0
    let before := u.dirtyRows
    if u.chunk < 2 then (s, u, 0, i, none) else
    let (s, u, i, bad) := s.sendRows w u i (u.ringsize - i)
    (s, u, before - u.dirtyRows, i, bad)
  else
    let n := u.dirtyRows
    match s.sluiceRead w u (2 * n) with
    | (s, some ln) => (s, u, 0, 0, some ln)
    | (s, none) => (s, { u with again := [], upto := 2 ^ 20 * u.pairs.length }, n, 0, none)

/-- The end of a sluice command at a line whose MAC failed: the polder is quarantined (20 R444). -/
def State.sluiceFails (s : State) (ln : Nat) : State := (s.integrity (ln * 128)).mailEnd 1 0

/-- SLUICE_PASS. -/
def execSluicePass (s : State) : Outcome :=
  s.serve 21 fun _ m =>
    let w := m.world.toNat
    .next (match decide (w < 48), (s.polder w).state, (s.polder w).sluice with
      | true, .run, some u =>
        (match s.pass w u with
        | (s, _, _, _, some ln) => s.sluiceFails ln
        | (s, u, n, _, none) =>
          ((s.setPolder w { s.polder w with sluice := some u }).paramWrite u.own (u.block + 56) (toBytes 8 n)).mailEnd 0 0)
      | _, _, _ => s.mailEnd 1 0)

/-- A pseudo-channel's contents, logical times and check-out ranges moved to another as a coherent read gives them (R457): a
line that reads poisoned is marked there, an uncorrectable one as zeros. DEDUCED, log entry 47. -/
def State.moveChannel (s : State) (w src dst : Nat) : State :=
  let mine := fun (a : Nat) => a / 2 ^ 30 == src
  let go := fun (a : Nat) => dst * 2 ^ 30 + a % 2 ^ 30
  let kind := fun (e : Nat × LineState) => e.2.read.kind
  let lost := (s.lines.filter fun e => kind e == .uncorrectable).map Prod.fst
  let mem := s.mem.filter fun e => mine e.1 && !lost.contains (e.1 / 128)
  let lines := s.lines.filter fun e => mine (e.1 * 128) && (kind e == .marked || kind e == .uncorrectable)
  let stamps := s.stamps.filter fun e => mine (e.1 * 32)
  let moved := s.ranges.filterMap fun r => (r.within src).map fun r =>
    { r with lo := go (r.lo * 128) / 128, hi := go (r.hi * 128) / 128 }
  let s := (s.rekey dst w).zeroChannel dst
  let s := { s with mem := putCells s.mem (mem.map fun (e : Nat × Byte) => (go e.1, e.2)) }
  let s := lines.foldl (fun s e => s.setLine (go (e.1 * 128) / 128) ⟨true, []⟩) s
  let s := stamps.foldl (fun s e => s.setStamp (go (e.1 * 32) / 32) e.2) s
  let s := s.zeroChannel src
  { s with ranges := s.ranges ++ moved, pcown := mapSet 63#6 (mapSet 63#6 s.pcown dst (BitVec.ofNat 6 w)) src 63#6 }

/-- Whether a collective, block or graph COPY of a polder is in flight. -/
def State.inFlight (s : State) (w : Nat) : Bool :=
  (s.ops.any fun o => o.world == w && o.coll?.isSome) || (s.blocks.any fun b => b.world == w) ||
  s.graphs.any fun k => k.world == w && k.nodes.any fun n =>
    n.state == .running && (match n.body with | .copy _ _ _ => true | _ => false)

/-- SLUICE_CLOSE: BUSY at its start changes nothing; where the final pass, with a stream's trailer, does not end within the ring,
it keeps what the pass did (R456). The trailer's place: DESIGN CHOICE, log entry 62. -/
def execSluiceClose (s : State) : Outcome :=
  s.serve 22 fun _ m =>
    let w := m.world.toNat
    .next (match decide (w < 48), (s.polder w).state, (s.polder w).susp, (s.polder w).sluice with
      | true, .run, true, some u =>
        if s.inFlight w then s.mailEnd 5 0
        else
          let atoms := (s.uatoms.map (·.atom)).filter fun a => u.pairs.any fun e => e.1 == a * 32 / 2 ^ 30
          match (s.mergeAll atoms 0 none).pass w u with
          | (s, _, _, _, some ln) => s.sluiceFails ln
          | (s, u, n, i, none) =>
            let s := s.paramWrite u.own (u.block + 56) (toBytes 8 n)
            if u.stream && (u.dirtyRows != 0 || u.ringsize ≤ i || u.chunk < 2) then
              (s.setPolder w { s.polder w with sluice := some u }).mailEnd 5 0
            else
              let s := if u.stream then
                  (s.sendChunk u i 3 0 0 (toBytes 8 (u.chunk + 1) ++ (s.polder w).meterBytes)).1
                else u.pairs.foldl (fun s e => s.moveChannel w e.1 e.2) s
              (s.setPolder w { s.polder w with sluice := none }).mailEnd 0 0
      | _, _, _, _ => s.mailEnd 1 0)

/-- SLUICE_ABORT: in QUARANTINED it is refused like all but RELEASE (20 R444). -/
def execSluiceAbort (s : State) : Outcome :=
  s.serve 23 fun _ m =>
    let w := m.world.toNat
    .next (if w < 48 ∧ (s.polder w).sluice.isSome ∧ (s.polder w).state ≠ .quarantined then (s.dropSluice w).mailEnd 0 0 else s.mailEnd 1 0)

/-! ## Import (R459, R461) -/

/-- The statement of an import key drawn now: its fields and the signature over them (R459). -/
def State.statement (s : State) (w : Nat) : List Byte :=
  let b := Config.importStatement w s.fresh s.digests s.trust.tcsvn s.trust.fwsvn
  b ++ s.trust.sign b

/-- IMPORT_KEY: a key pair is drawn and its statement written. -/
def execImportKey (s : State) : Outcome :=
  s.serve 24 fun own m =>
    let w := m.world.toNat
    .next (if 48 ≤ w ∨ (s.polder w).state ≠ .unlocked then s.mailEnd 1 0
      else match s.keyRequest true with
        | (s, false) => s.mailEnd 3 0
        | (s, true) =>
          let s := s.paramWrite own m.arg.toNat (s.statement w)
          (s.draw.setPolder w { s.polder w with importing := some ⟨s.fresh, 0, false, false, []⟩ }).mailEnd 0 0)

/-- One chunk applied: its code where it ends the command. -/
def State.importChunk (s : State) (w : Nat) (i : ImportState) (b : List Byte) : State × ImportState × Option Nat :=
  let pcs := s.channels w
  if i.nextSeq = 0 then
    (if field b 0 4 = 0 ∧ field b 8 8 = 0 ∧
        Config.streamHeaderOk i.draw b s.digests s.trust.tcsvn s.trust.fwsvn = true then (s, { i with nextSeq := 1 }, none)
    else (s, i, some 6))
  else match Config.openChunk i.draw b with
    | none => (s, { i with failed := true }, some 7)
    | some c =>
      let pay := c.drop 32
      let kind := field c 0 4
      let next := { i with nextSeq := i.nextSeq + 1 }
      if field c 8 8 ≠ i.nextSeq then (s, { i with failed := true }, some 7)
      else if kind = 1 then
        (if field pay 64 4 ≠ pcs.length then (s, i, some 6)
        else
          let r := fun (k : Nat) => BitVec.ofNat 64 (field pay (8 * k) 8)
          let imgs := ((List.range 119).map fun k => field pay (68 + 8 * k) 8).filter (· != 0)
          let q := { s.polder w with s1root := r 0, lkdesc := r 1, lkargs := r 2, spillbase := r 3, spillsize := r 4,
                                     fbbase := r 5, fbsize := r 6, spillwait := r 7 }
          (s.setPolder w q, { next with images := imgs }, none))
      else if kind = 2 then
        (match pcs[field c 16 2]? with
        | some p =>
          let a := p * 2 ^ 30 + 1024 * (field c 20 4 % 2 ^ 20)
          (s.agentWrite (List.zip (addrs a 1024) (pay.take 1024)) [], next, none)
        | none => (s, { i with failed := true }, some 7))
      else if kind = 3 ∧ field pay 0 8 = i.nextSeq + 1 then (s, { next with done := true }, some 0)
      else (s, { i with failed := true }, some 7)

/-- The chunks of a host buffer, n of them. -/
def State.importChunks (s : State) (own : Bool) (w a : Nat) (i : ImportState) : Nat → State × ImportState × Option Nat
  | 0 => (s, i, none)
  | n + 1 =>
    match s.paramBytes own a 1088 with
    | (s, none) => (s, i, some 2)
    | (s, some b) =>
      match s.importChunk w i b with
      | (s, i, none) => s.importChunks own w (a + 1088) i n
      | r => r

/-- IMPORT: a stretch of the stream. -/
def execImportStream (s : State) : Outcome :=
  s.serve 25 fun own m =>
    let w := m.world.toNat
    let p := s.polder w
    .next (match decide (w < 48), p.state, p.importing with
      | true, .unlocked, some i =>
        if i.done then s.mailEnd 1 0
        else if i.failed then s.mailEnd 7 0
        else
          let (s, i, code) := s.draw.importChunks own w m.arg.toNat i (Config.freeNat s.fresh)
          (s.setPolder w { s.polder w with importing := some i, imported := i.done }).mailEnd (code.getD 0) 0
      | _, _, _ => s.mailEnd 1 0)

end Sys2Proof.Machine
end

