-- ==== Sys2Proof/Machine/Agents.lean ====
section
/-!
DEFINITION. Sys2Proof/Machine/Agents.lean: the device's outside: power (00 R3), the host's accesses (18 R410, R484, 23
R473), the harts (18 R412 to R414), the debug data register (22 R469), flits (18 R402, R403), and the host link (R411).
-/
namespace Sys2Proof.Machine

/-! ## Power (00 R3) -/

/-- The end of the Boot span: everything but the rollback counters and the life-cycle fuses returns to its reset value; the
model's own fields stay. -/
def State.powered (s : State) : State :=
  { State.reset with
    trust := { Trust.reset with lcs := s.trust.lcs, fusetc := s.trust.fusetc, fusefw := s.trust.fusefw },
    fresh := s.fresh, ids := s.ids, moves := s.moves, turn := s.turn, outbox := s.outbox }

/-- POWER_ON_RESET: a new Boot span begins. -/
def execPowerOnReset (s : State) : Outcome := .next s.powered
/-- POWER_OFF: the Boot span ends; nothing of it is left for the next. -/
def execPowerOff (s : State) : Outcome := .next s.powered

/-! ## The host -/

/-- The number of bytes of an access. -/
def hostSize (a : HostAccess) : Nat := (a.write.map List.length).getD a.len
/-- 0 for a read, 1 for a write. -/
def hostNeed (a : HostAccess) : Nat := if a.write.isSome then 1 else 0

/-- BAR2_ACCESS: an access through a virtual function's BAR2 (R410). -/
def execBar2Access (w : Nat) (acc : HostAccess) (s : State) : Outcome :=
  .next (match s.bar2 w acc.offset (hostSize acc) (hostNeed acc) with
    | (_, none) => s
    | (t, some (some pas)) => if t.held pas none then s else t.requester w pas acc.write
    | (t, some none) => t.reply .unsupportedRequest)

/-- An access to device physical memory owned by 61, where `open_` says that the path exists. -/
def State.hypAccess (s : State) (open_ : Bool) (acc : HostAccess) : State :=
  let pas := addrs acc.offset (hostSize acc)
  if !open_ || !s.trust.keys || pas.any (fun a => s.owner a != 61) then s.reply .unsupportedRequest
  else if s.held pas none then s
  else s.requester 61 pas acc.write

/-- BAR4_ACCESS: an access through the physical function's BAR4 (R484). -/
def execBar4Access (acc : HostAccess) (s : State) : Outcome := .next (s.hypAccess true acc)
/-- CXL_MEM_ACCESS: an access through the HDM decoder, which exists where CXL has trained (R409). -/
def execCxlMemAccess (acc : HostAccess) (s : State) : Outcome := .next (s.hypAccess s.cxl acc)

/-- BOOT_WINDOW_ACCESS: an access to the boot window, open while BOOTSTAT.STATE is WAIT_IMAGE or REJECTED (23 R473). -/
def execBootWindowAccess (acc : HostAccess) (s : State) : Outcome :=
  let ok := (s.trust.boot == 0#4 || s.trust.boot == 4#4) && s.trust.mode == 0#2 && decide (acc.offset + hostSize acc ≤ 2 ^ 24)
  .next (if ok then s.requester 60 (addrs (bootBase + acc.offset) (hostSize acc)) acc.write else s.reply .unsupportedRequest)

/-- DBGDATA_READ (22 R469). -/
def execDbgdataRead (s : State) : Outcome := .next s.debugRead
/-- DBGDATA_WRITE (22 R469). -/
def execDbgdataWrite (v : DWord) (s : State) : Outcome := .next (s.debugWrite v)

/-! ## Harts (18 R412 to R414) -/

/-- The number of a hart among the agents with copies. -/
def hartAgent (hart : Nat) : Nat := 256 + hart

/-- HWORLD of a hart. -/
def State.hartWorld (s : State) (hart : Nat) : Nat := (mapGet 63#6 s.hworld hart).toNat

/-- The harts of both chiplets (00 R2). -/
def harts : Nat := 64

/-- HWORLD_WRITE: a change of WORLD first clears the hart's cached lines; any value but 0 to 47, 61 and 63 leaves it, and so
does a write outside machine mode, which is the hart's own exception. -/
def execHworldWrite (h : HartMode) (v : DWord) (s : State) : Outcome :=
  let w := v.toNat % 64
  let hart := h.hart
  .next (if harts ≤ hart || !h.machine || !(w < 48 || w == 61 || w == 63) || w == s.hartWorld hart then s
    else { s with hworld := mapSet 63#6 s.hworld hart (BitVec.ofNat 6 w), l1 := dropCopies (hartAgent hart) s.l1,
                  hres := mapDel s.hres hart })

/-- Whether a hart may access bytes: they belong to its world, whose key slot is filled, and the crypto ports serve the
world (R413, 20 R444, 21 R462). -/
def State.hartMay (s : State) (hart : Nat) (pas : List Nat) : Bool :=
  let w := s.hartWorld hart
  ((w < 48 && (s.polder w).keys && (s.polder w).state != .quarantined && (s.polder w).state != .releasing) || (w == 61 && s.trust.keys)) &&
  pas.all fun a => s.owner a == w

/-- A hart's clock: it never lags the passage of time (11 R277). DEDUCED, log entry 49. -/
def State.hartClock (s : State) (hart : Nat) : Nat := max (mapGet 0 s.hclock hart) (s.clock / 2048)

/-- A hart's clock raised. -/
def State.raiseHart (s : State) (hart t : Nat) : State :=
  { s with hclock := mapSet 0 s.hclock hart (max (s.hartClock hart) t) }

/-- The time that an acquire at FABRIC scope passes: that of every write performed. -/
def State.fabricTime (s : State) : Nat := s.stamps.foldl (fun t e => max t e.2.1) 0

/-- What a hart's load answers: poisoned bytes are a load access fault (20 R434). -/
def State.hartData (s : State) (hart : Nat) (bs : List (Byte × Bool)) : State :=
  s.reply (if bs.any Prod.snd then .accessFault hart else .data (bs.map Prod.fst) false)

/-- A hart's load; with `acq` it acts as an ACQ at FABRIC scope. -/
def State.hartLoad (s : State) (hart : Nat) (pas : List Nat) (acq : Bool) : State :=
  match (s.mergeAll (atomsOf pas) (s.hartClock hart) none).cohRead (hartAgent hart) (s.hartClock hart) pas with
  | (s, _, some b, _) => s.integrity (b * 128)
  | (s, bs, none, t) =>
    let top := if acq then s.fabricTime else 0
    ((s.raiseHart hart (max t top)).meter (s.hartWorld hart) 21 pas.length).hartData hart bs

/-- A hart's store; with `rel` it acts as a REL at FABRIC scope. -/
def State.hartStore (s : State) (hart : Nat) (cells : List Host.Cell) (rel : Bool) : State :=
  let w := s.hartWorld hart
  let atoms := atomsOf (cells.map Prod.fst)
  match (s.mergeAll atoms (s.hartClock hart) none).cohWrite (hartAgent hart) (s.hartClock hart) externalWriter cells [] with
  | (s, some b, _) => s.integrity (b * 128)
  | (s, none, t) =>
    let s := s.noteWriter atoms externalWriter (some 3#2)
    let s := if rel then atoms.foldl (fun s a => s.syncVar w externalWriter 3#2 a) s else s
    (s.raiseHart hart t).meter w 20 cells.length

/-- A hart's AMO: an ATOM with the same operation (R414, 07 R176), with .aq an ACQ and with .rl a REL at FABRIC scope;
poisoned bytes are a load access fault, unwritten. -/
def State.hartAmo (s : State) (hart op : Nat) (aq rl : Bool) (pas : List Nat) (data : Nat) : State :=
  let s := s.mergeAll (atomsOf pas) (s.hartClock hart) none
  match s.homeRead pas with
  | (s, _, some b) => s.integrity (b * 128)
  | (s, bs, none) =>
    let old := ofBytes (bs.map Prod.fst)
    let s := s.meter (s.hartWorld hart) 21 pas.length
    if bs.any Prod.snd then s.hartData hart bs
    else
      let new := atomOp op (8 * pas.length) old (data % 2 ^ (8 * pas.length)) 0
      let s := s.hartStore hart (List.zip pas (toBytes pas.length new)) rl
      (if aq then s.raiseHart hart s.fabricTime else s).reply (.data (bs.map Prod.fst) false)

/-- The greatest time of a write to the atoms of some bytes. -/
def State.writtenTo (s : State) (pas : List Nat) : Nat := (atomsOf pas).foldl (fun t a => max t (s.stamp a).1) 0

/-- A hart's LR: a load at the home, past the newest write of its bytes, which it reserves unless they are poisoned. -/
def State.hartLr (s : State) (hart : Nat) (pas : List Nat) (aq : Bool) : State :=
  match s.readHome (s.hartClock hart) none pas with
  | (s, _, some b) => s.integrity (b * 128)
  | (s, bs, none) =>
    let t := s.writtenTo pas
    let s := (s.raiseHart hart (max t (if aq then s.fabricTime else 0))).meter (s.hartWorld hart) 21 pas.length
    let s := if bs.any Prod.snd then s else { s with hres := mapIns s.hres hart (pas, t) }
    s.hartData hart bs

/-- A hart's SC: it stores, and answers 0, where the bytes are reserved and none of their atoms has been written since; else
it answers 1. It ends the reservation. When a store-conditional may fail: DEDUCED, log entry 49. -/
def State.hartSc (s : State) (hart : Nat) (pas : List Nat) (data : Nat) (aq rl : Bool) : State :=
  let ok := s.hres.any fun e => e.1 == hart && e.2.1 == pas && s.writtenTo pas ≤ e.2.2
  let s := { s with hres := mapDel s.hres hart }
  if ok then
    let s := s.hartStore hart (List.zip pas (toBytes pas.length data)) rl
    (if aq then s.raiseHart hart s.fabricTime else s).reply (.data (toBytes 8 0) false)
  else s.reply (.data (toBytes 8 1) false)

/-- HART_ACCESS: an access that its world does not allow takes a RISC-V access fault, and has no effect (R413). -/
def execHartAccess (hart : Nat) (acc : HartAccess) (s : State) : Outcome :=
  let pas := addrs acc.addr acc.len
  let locked := 4 ≤ acc.len && acc.addr % acc.len == 0
  .next (if harts ≤ hart || (acc.len != 1 && acc.len != 2 && acc.len != 4 && acc.len != 8) then s
    else if !s.hartMay hart pas then s.reply (.accessFault hart)
    else if s.held pas none then s
    else match acc.op with
      | .load => s.hartLoad hart pas false
      | .loadAcq => s.hartLoad hart pas true
      | .store => s.hartStore hart (List.zip pas (toBytes acc.len acc.data.toNat)) false
      | .storeRel => s.hartStore hart (List.zip pas (toBytes acc.len acc.data.toNat)) true
      | .amo op aq rl => if !locked || 8 < op.toNat then s else s.hartAmo hart op.toNat aq rl pas acc.data.toNat
      | .lr aq _ => if locked then s.hartLr hart pas aq else s
      | .sc aq rl => if locked then s.hartSc hart pas acc.data.toNat aq rl else s)

/-! ## Flits (18 R402, R403) and the host link -/

/-- One bit of the CRC-32 of a flit: reflected, polynomial 0x04C11DB7. PRESUMED, log entry 31. -/
def crcBit (r : BitVec 32) : BitVec 32 := if r.getLsbD 0 then (r >>> 1) ^^^ 0xEDB88320#32 else r >>> 1

/-- The CRC-32 of bytes. -/
def crc32 (bs : List Byte) : BitVec 32 :=
  ~~~(bs.foldl (fun r b => (List.range 8).foldl (fun r _ => crcBit r) (r ^^^ b.setWidth 32)) 0xFFFFFFFF#32)

/-- The fields of a flit of 256 bytes (R402). -/
def flitOf (b : List Byte) : Flit :=
  let w := fun (o n : Nat) => field b o n
  { ftype := BitVec.ofNat 4 (w 0 2 / 4096), dst := BitVec.ofNat 12 (w 0 2), src := BitVec.ofNat 12 (w 2 2),
    comm := BitVec.ofNat 32 (w 4 4), cseq := BitVec.ofNat 32 (w 8 4),
    index := BitVec.ofNat 36 (w 2 2 / 4096 * 2 ^ 32 + w 12 4), payload := (b.drop 16).take 208, tag := (b.drop 224).take 16,
    lseq := BitVec.ofNat 32 (w 240 4), ack := BitVec.ofNat 32 (w 244 4), credit := BitVec.ofNat 32 (w 248 4),
    crc := BitVec.ofNat 32 (w 252 4) }

/-- An open communicator that holds a flit's COMM and lists its SRC. -/
def Comm.lists (c : Comm) (f : Flit) : Bool := c.handle == f.comm && c.devs.contains f.src

/-- The collective of a communicator with a CSEQ ends as a lost link ends it (R403). -/
def State.loseCseq (s : State) (c : Comm) (cseq : Nat) : State :=
  { s with ops := s.ops.map fun o =>
      match o.kind with
      | .coll k => if o.world == c.world && k.comm == c.handle && k.cseq == cseq && k.known && !k.finished then
          { o with kind := .coll { k with lost := true } } else o
      | _ => o }

/-- A port that a flit acknowledges to: the lowest LSEQ not acknowledged, of the at most 512 that it may replay, goes past
ACK, and its replays begin again. -/
def Port.acknowledge (p : Port) (ack : Word) : Port :=
  if (ack - p.acked).toNat < 512 then { p with acked := ack + 1#32, tries := 0 } else p

/-- FLIT_RECEIVE: a flit arrives at a port. One with a bad CRC or out of order is discarded; a payload flit whose tag
verifies under no open communicator that could receive it is counted, and ends the one collective it names. -/
def execFlitReceive (port : Nat) (bytes : List Byte) (s : State) : Outcome :=
  let p := s.port port
  let flit := flitOf bytes
  .next (if p.stat ≠ 2#2 ∨ bytes.length ≠ 256 ∨ flit.crc ≠ crc32 (bytes.take 252) ∨ flit.lseq ≠ p.rxseq then s
    else
      let p := { p with rxseq := p.rxseq + 1#32 }.acknowledge flit.ack
      let s := s.setPort port p
      if flit.dst ≠ s.devid ∨ flit.ftype ≠ 1#4 then s
      else match findBy (fun c => c.lists flit && Config.flitTagOk c.key bytes) s.comms with
      | some c => s.meter c.world 23 208
      | none =>
        let s := s.setPort port { p with tagerr := satInc32 p.tagerr }
        match s.comms.filter (·.lists flit) with
        | [c] => s.loseCseq c flit.cseq.toNat
        | _ => s)

/-- FLIT_REPLAY: a sender replays from the lowest flit that is not acknowledged, at most 512; the seventeenth replay of
one flit is not sent, and the port is FAILED. -/
def execFlitReplay (port : Nat) (s : State) : Outcome :=
  let p := s.port port
  .next (if p.stat ≠ 2#2 then s
    else if 16 ≤ p.tries then s.dropPort port 3#2
    else
      let n := 1 + Config.freeNat s.fresh % 512
      let sum := p.replays.toNat + n
      (s.setPort port { p with replays := BitVec.ofNat 32 (min sum (2 ^ 32 - 1)), tries := p.tries + 1 }).draw)

/-- HOST_LINK_TRAINING: the host link trains, as CXL or as PCIe alone (R411). -/
def execHostLinkTraining (cxl : Bool) (s : State) : Outcome := .next { s with cxl := cxl }

end Sys2Proof.Machine
end

