-- ==== Sys2Proof/Machine/Errors.lean ====
section
/-!
DEFINITION. Sys2Proof/Machine/Errors.lean: errors in stored lines and on-chip storage (20 R429 to R433, R443), the passage
of time (11 R277, 22 R463) and the arithmetic clock (23 R483).
-/
namespace Sys2Proof.Machine

/-! ## Symbols in error (20 R429, R430) -/

/-- SYMBOLS_IN_ERROR: symbols of a line's stored codeword change; what a read then finds follows R430. -/
def execSymbolsInError (line : Nat) (syms : List (Nat × Byte)) (s : State) : Outcome :=
  let l := s.line line
  let errs := (syms.filter fun e => e.1 < 144).foldl (fun m e => mapSet 0#8 m e.1 (mapGet 0#8 m e.1 ^^^ e.2)) l.errs
  .next (s.setLine line { l with errs := errs })

/-! ## On-chip storage (20 R433) -/

/-- An uncorrectable word in the store of a core counted for the polder its cluster is latched to (R432). -/
def State.countCore (s : State) (core : Nat) : State :=
  let w := (mapGet 63#6 s.latch (core / 4)).toNat
  if w < 48 then s.setPolder w { s.polder w with uecnt := satInc (s.polder w).uecnt } else s

/-- The record of lost control state: POISON_USE, DETAIL STATE. -/
def stateLost : Cond := { cause := poisonUse, detail := 5 }

/-- Every copy of an L1 line poisoned. -/
def State.poisonL1 (s : State) (core line : Nat) : State :=
  let hit := fun (key : Nat) => key / copySpan == core && key % copySpan / 4 == line
  { s with l1 := s.l1.map fun e => (e.1, if hit e.1 then e.2.map fun k => { k with poison := true } else e.2) }

/-- A register of a level of a lane's chain poisoned. -/
def Group.poisonReg (g : Group) (lane level reg : Nat) : Group :=
  g.mapLanes (· == lane) fun _ l =>
    match l.chain[level]? with
    | some f => l.setVAt f.fid reg ⟨(mapGet ⟨0#32, false⟩ f.regs reg).val, true⟩
    | none => l

/-- The end of a group whose control state is lost (R441). -/
def State.loseGroup (s : State) (g : Group) : State :=
  let live := laneMask g.liveLanes
  let pc := match g.issue with
    | some i => i.hdr
    | none => ((g.liveLanes.head?).map fun l => (g.lane l).pcv).getD 0#64
  let (s, r) := s.form g.world (s.groupRecord g live stateLost pc 0)
  s.undelivered g.gid g.world r

/-- A tag-table entry lost: invalidated, with a record that is not delivered. DEDUCED, log entry 51. -/
def State.loseTag (s : State) (core entry : Nat) : State :=
  let n := core * 2048 + entry
  let e := mapGet TagEntry.empty s.tags n
  let w := (mapGet 63#6 s.latch (core / 4)).toNat
  let gridid := ((s.grid e.grid).map (·.gridid.toNat)).getD 0
  let s := { s with tags := mapSet TagEntry.empty s.tags n TagEntry.empty }
  if w = 63 then s
  else
    let (s, r) := s.form w (stateLost.record 0#64 16 gridid 0 (originOf core 0 0))
    s.postOnly w r

/-- Every polder in RUN quarantined, with an INTEGRITY record of ADDR 0 (R443). -/
def State.loseDevice (s : State) : State :=
  (List.range 48).foldl (fun s w =>
    if (s.polder w).state = .run then
      let s := s.setPolder w { s.polder w with state := .quarantined }
      let (s, r) := s.form w { Record.empty with cause := 0x21#8, flags := 0x40#8, origin := 5#32 }
      s.postOnly w r
    else s) s

/-- ON_CHIP_STORAGE_ERROR: an error in a stored word poisons it at its granule; a single-bit error is corrected and
counted. -/
def execOnChipStorageError (err : ChipError) (s : State) : Outcome :=
  .next (match err with
    | .singleBit w => if w < 48 then s.setPolder w { s.polder w with cecnt := satInc (s.polder w).cecnt } else s
    | .l1Word core line => (s.poisonL1 core line).countCore core
    | .framePool gid lane level reg =>
      match s.group gid with
      | some g => (s.modGroup gid fun g => g.poisonReg lane level reg).countCore g.core
      | none => s
    | .scratchWord team word =>
      match s.team team with
      | some t =>
        if word < t.kernel.scratch / 4 then
          (s.modTeam team fun t => { t with spoison := mapSet false t.spoison word true }).countCore t.core
        else s
      | none => s
    | .tileRow team slot row =>
      match s.team team with
      | some t =>
        let x := t.tileState slot
        s.modTeam team fun t => t.setTileState slot { x with poison := x.poison ||| BitVec.ofNat 128 (2 ^ (row % 128)) }
      | none => s
    | .groupControl gid =>
      match s.group gid with
      | some g => s.loseGroup g
      | none => s
    | .tagEntry core entry => if core < 192 && entry < 2048 then s.loseTag core entry else s
    | .mergePartial _ atom => s.modUatom atom fun u => { u with bad := u.bad ++ [0] }
    | .deviceControl => s.loseDevice)

/-! ## Time -/

/-- Meters CLCYC and PCCYC for cycles, and free counts of the bytes that lines brought into L2 and back move at the HBM rows
(meters 14 and 15). DEDUCED, log entry 12. -/
def State.meterTime (s : State) (cycles : Nat) : State :=
  let s := (List.range 48).foldl (fun s c => s.meter (mapGet 63#6 s.latch c).toNat 24 cycles) s
  let s := s.pcown.foldl (fun s e => s.meter e.2.toNat 30 cycles) s
  s.pldrs.foldl (fun s e =>
    (([14, 15] : List Nat).foldl (fun s m =>
      (s.meter e.1 m (if (s.polder e.1).metered ∧ (s.polder e.1).sealed = none then Config.freeNat s.fresh else 0)).draw) s)) s

/-- PASSAGE_OF_TIME: CLOCK counts, every logical clock rises by 1 for every 2,048 cycles, and the cycle meters count. -/
def execPassageOfTime (cycles : Nat) (s : State) : Outcome :=
  let up := (s.clock + cycles) / 2048 - s.clock / 2048
  let s := { s with clock := s.clock + cycles, groups := s.groups.map (fun (g : Group) => g.tick cycles),
                    hclock := s.hclock.map fun (e : Nat × Nat) => (e.1, e.2 + up) }
  .next (s.meterTime cycles)

/-- THERMAL_THROTTLE: the arithmetic clock is lowered; only timing changes (23 R483). -/
def execThermalThrottle (s : State) : Outcome := .next { s with throttled := true }
/-- READING_BELOW_LIMIT: the arithmetic clock is at its full rate again (23 R483). -/
def execReadingBelowLimit (s : State) : Outcome := .next { s with throttled := false }

end Sys2Proof.Machine
end

