-- ==== Sys2Proof/Machine/Dispatch.lean ====
section
/-!
DEFINITION. Sys2Proof/Machine/Dispatch.lean: one arm per constructor of Instr, each a call of that instruction's meaning.
-/
namespace Sys2Proof.Machine

/-- The meaning of a step of the machine. -/
def exec (i : Instr) (s : State) : Host.Outcome State Fault Refusal :=
  match i with
  | .clauseIssue gid => Sys2Proof.Machine.execClauseIssue gid s
  | .longLatencyCompletion op => Sys2Proof.Machine.execLongLatencyCompletion op s
  | .sadd y x b a d => Sys2Proof.Machine.execSadd y x b a d s
  | .ssub y x b a d => Sys2Proof.Machine.execSsub y x b a d s
  | .sand y x b a d => Sys2Proof.Machine.execSand y x b a d s
  | .sor y x b a d => Sys2Proof.Machine.execSor y x b a d s
  | .sxor y x b a d => Sys2Proof.Machine.execSxor y x b a d s
  | .sshl y x b a d => Sys2Proof.Machine.execSshl y x b a d s
  | .sshr y x b a d => Sys2Proof.Machine.execSshr y x b a d s
  | .ssar y x b a d => Sys2Proof.Machine.execSsar y x b a d s
  | .smul y x b a d => Sys2Proof.Machine.execSmul y x b a d s
  | .smulh y x t b a d => Sys2Proof.Machine.execSmulh y x t b a d s
  | .smin y x t b a d => Sys2Proof.Machine.execSmin y x t b a d s
  | .smax y x t b a d => Sys2Proof.Machine.execSmax y x t b a d s
  | .scmp y x t c b a k => Sys2Proof.Machine.execScmp y x t c b a k s
  | .ssel y x sf b a d => Sys2Proof.Machine.execSsel y x sf b a d s
  | .smovs n d => Sys2Proof.Machine.execSmovs n d s
  | .smovsWrite x a => Sys2Proof.Machine.execSmovsWrite x a s
  | .saddi im a d => Sys2Proof.Machine.execSaddi im a d s
  | .sandi im a d => Sys2Proof.Machine.execSandi im a d s
  | .sori im a d => Sys2Proof.Machine.execSori im a d s
  | .sxori im a d => Sys2Proof.Machine.execSxori im a d s
  | .sshli n a d => Sys2Proof.Machine.execSshli n a d s
  | .sshri n a d => Sys2Proof.Machine.execSshri n a d s
  | .ssari n a d => Sys2Proof.Machine.execSsari n a d s
  | .scmpi c im a k => Sys2Proof.Machine.execScmpi c im a k s
  | .slui im d => Sys2Proof.Machine.execSlui im d s
  | .sapc im d => Sys2Proof.Machine.execSapc im d s
  | .mrd m d => Sys2Proof.Machine.execMrd m d s
  | .spush x a q => Sys2Proof.Machine.execSpush x a q s
  | .sld w im a d f => Sys2Proof.Machine.execSld w im a d f s
  | .sst w im a d f => Sys2Proof.Machine.execSst w im a d f s
  | .cld w im a d f => Sys2Proof.Machine.execCld w im a d f s
  | .cst w im a d f => Sys2Proof.Machine.execCst w im a d f s
  | .tlbinv sf k b a => Sys2Proof.Machine.execTlbinv sf k b a s
  | .tlbinvCompletion gid => Sys2Proof.Machine.execTlbinvCompletion gid s
  | .tlbsync => Sys2Proof.Machine.execTlbsync s
  | .cmaint o b a => Sys2Proof.Machine.execCmaint o b a s
  | .cmaintW o a => Sys2Proof.Machine.execCmaintW o a s
  | .cmaintCompletion gid => Sys2Proof.Machine.execCmaintCompletion gid s
  | .csync => Sys2Proof.Machine.execCsync s
  | .vaddB32 g b a d => Sys2Proof.Machine.execVaddB32 g b a d s
  | .vsubB32 g b a d => Sys2Proof.Machine.execVsubB32 g b a d s
  | .vmulB32 g b a d => Sys2Proof.Machine.execVmulB32 g b a d s
  | .vmulhS32 g b a d => Sys2Proof.Machine.execVmulhS32 g b a d s
  | .vmulhN32 g b a d => Sys2Proof.Machine.execVmulhN32 g b a d s
  | .vminS32 g b a d => Sys2Proof.Machine.execVminS32 g b a d s
  | .vmaxS32 g b a d => Sys2Proof.Machine.execVmaxS32 g b a d s
  | .vminN32 g b a d => Sys2Proof.Machine.execVminN32 g b a d s
  | .vmaxN32 g b a d => Sys2Proof.Machine.execVmaxN32 g b a d s
  | .vshlB32 g b a d => Sys2Proof.Machine.execVshlB32 g b a d s
  | .vshrN32 g b a d => Sys2Proof.Machine.execVshrN32 g b a d s
  | .vshrS32 g b a d => Sys2Proof.Machine.execVshrS32 g b a d s
  | .vbfeN32 g b a d => Sys2Proof.Machine.execVbfeN32 g b a d s
  | .vbfeS32 g b a d => Sys2Proof.Machine.execVbfeS32 g b a d s
  | .vbcntB32 g a d => Sys2Proof.Machine.execVbcntB32 g a d s
  | .vclzB32 g a d => Sys2Proof.Machine.execVclzB32 g a d s
  | .vbrevB32 g a d => Sys2Proof.Machine.execVbrevB32 g a d s
  | .vmovB32 g a d => Sys2Proof.Machine.execVmovB32 g a d s
  | .vselB32 g b a d => Sys2Proof.Machine.execVselB32 g b a d s
  | .vaddB64 g b a d => Sys2Proof.Machine.execVaddB64 g b a d s
  | .vsubB64 g b a d => Sys2Proof.Machine.execVsubB64 g b a d s
  | .vfaddF32 g b a d => Sys2Proof.Machine.execVfaddF32 g b a d s
  | .vfsubF32 g b a d => Sys2Proof.Machine.execVfsubF32 g b a d s
  | .vfmulF32 g b a d => Sys2Proof.Machine.execVfmulF32 g b a d s
  | .vfminF32 g b a d => Sys2Proof.Machine.execVfminF32 g b a d s
  | .vfmaxF32 g b a d => Sys2Proof.Machine.execVfmaxF32 g b a d s
  | .vfaddF16x2 g b a d => Sys2Proof.Machine.execVfaddF16x2 g b a d s
  | .vfmulF16x2 g b a d => Sys2Proof.Machine.execVfmulF16x2 g b a d s
  | .vfaddBf16x2 g b a d => Sys2Proof.Machine.execVfaddBf16x2 g b a d s
  | .vfmulBf16x2 g b a d => Sys2Proof.Machine.execVfmulBf16x2 g b a d s
  | .vfaddF64 g b a d => Sys2Proof.Machine.execVfaddF64 g b a d s
  | .vfsubF64 g b a d => Sys2Proof.Machine.execVfsubF64 g b a d s
  | .vfmulF64 g b a d => Sys2Proof.Machine.execVfmulF64 g b a d s
  | .vfminF64 g b a d => Sys2Proof.Machine.execVfminF64 g b a d s
  | .vfmaxF64 g b a d => Sys2Proof.Machine.execVfmaxF64 g b a d s
  | .frcpF32 g a d => Sys2Proof.Machine.execFrcpF32 g a d s
  | .frsqF32 g a d => Sys2Proof.Machine.execFrsqF32 g a d s
  | .fex2F32 g a d => Sys2Proof.Machine.execFex2F32 g a d s
  | .flg2F32 g a d => Sys2Proof.Machine.execFlg2F32 g a d s
  | .shflB32 g b a d => Sys2Proof.Machine.execShflB32 g b a d s
  | .bcastB32 g l a d => Sys2Proof.Machine.execBcastB32 g l a d s
  | .ballot g p d => Sys2Proof.Machine.execBallot g p d s
  | .popc g m p d => Sys2Proof.Machine.execPopc g m p d s
  | .scanAddB32 g a d => Sys2Proof.Machine.execScanAddB32 g a d s
  | .scanFaddF32 g a d => Sys2Proof.Machine.execScanFaddF32 g a d s
  | .matchB32 g a d => Sys2Proof.Machine.execMatchB32 g a d s
  | .vredFaddF32 g a d => Sys2Proof.Machine.execVredFaddF32 g a d s
  | .srseed g a => Sys2Proof.Machine.execSrseed g a s
  | .vmovs g sf d => Sys2Proof.Machine.execVmovs g sf d s
  | .vcmp g b a p2 p1 qb qa j t c => Sys2Proof.Machine.execVcmp g b a p2 p1 qb qa j t c s
  | .vfcmp g b a p2 p1 qb qa j t c => Sys2Proof.Machine.execVfcmp g b a p2 p1 qb qa j t c s
  | .vfmaF32 g b a d qc qb qa abs neg sat rm c => Sys2Proof.Machine.execVfmaF32 g b a d qc qb qa abs neg sat rm c s
  | .vfmaF64 g b a d abs neg sat rm c => Sys2Proof.Machine.execVfmaF64 g b a d abs neg sat rm c s
  | .vfmaF16x2 g b a d qc qb qa abs neg sat rm c => Sys2Proof.Machine.execVfmaF16x2 g b a d qc qb qa abs neg sat rm c s
  | .vfmaBf16x2 g b a d qc qb qa abs neg sat rm c => Sys2Proof.Machine.execVfmaBf16x2 g b a d qc qb qa abs neg sat rm c s
  | .vlop3B32 g b a d lut qc qb qa c => Sys2Proof.Machine.execVlop3B32 g b a d lut qc qb qa c s
  | .vbfiB32 g b a d len pos qb qa => Sys2Proof.Machine.execVbfiB32 g b a d len pos qb qa s
  | .vcvt g a d dst src qa sat rm => Sys2Proof.Machine.execVcvt g a d dst src qa sat rm s
  | .vmadB32 g b a d qc qb qa c => Sys2Proof.Machine.execVmadB32 g b a d qc qb qa c s
  | .vaddiB32 g a d im qa => Sys2Proof.Machine.execVaddiB32 g a d im qa s
  | .vmoviB32 g a d im m => Sys2Proof.Machine.execVmoviB32 g a d im m s
  | .ldN8 g sf b o d f => Sys2Proof.Machine.execLdN8 g sf b o d f s
  | .ldS8 g sf b o d f => Sys2Proof.Machine.execLdS8 g sf b o d f s
  | .ldN16 g sf b o d f => Sys2Proof.Machine.execLdN16 g sf b o d f s
  | .ldS16 g sf b o d f => Sys2Proof.Machine.execLdS16 g sf b o d f s
  | .ldB32 g sf b o d f => Sys2Proof.Machine.execLdB32 g sf b o d f s
  | .ldB64 g sf b o d f => Sys2Proof.Machine.execLdB64 g sf b o d f s
  | .ldB128 g sf b o d f => Sys2Proof.Machine.execLdB128 g sf b o d f s
  | .stB8 g sf b o d f => Sys2Proof.Machine.execStB8 g sf b o d f s
  | .stB16 g sf b o d f => Sys2Proof.Machine.execStB16 g sf b o d f s
  | .stB32 g sf b o d f => Sys2Proof.Machine.execStB32 g sf b o d f s
  | .stB64 g sf b o d f => Sys2Proof.Machine.execStB64 g sf b o d f s
  | .stB128 g sf b o d f => Sys2Proof.Machine.execStB128 g sf b o d f s
  | .tlook g a d => Sys2Proof.Machine.execTlook g a d s
  | .tins g b a d => Sys2Proof.Machine.execTins g b a d s
  | .tinv g a d => Sys2Proof.Machine.execTinv g a d s
  | .fence sf p => Sys2Proof.Machine.execFence sf p s
  | .atomB32 g sf b o d f im x c => Sys2Proof.Machine.execAtomB32 g sf b o d f im x c s
  | .atomB64 g sf b o d f im x c => Sys2Proof.Machine.execAtomB64 g sf b o d f im x c s
  | .upd g sf b o d f im x => Sys2Proof.Machine.execUpd g sf b o d f im x s
  | .relB32 g sf b o d f im x => Sys2Proof.Machine.execRelB32 g sf b o d f im x s
  | .relB64 g sf b o d f im x => Sys2Proof.Machine.execRelB64 g sf b o d f im x s
  | .acqB32 g sf b o d f im x => Sys2Proof.Machine.execAcqB32 g sf b o d f im x s
  | .acqB64 g sf b o d f im x => Sys2Proof.Machine.execAcqB64 g sf b o d f im x s
  | .loadPerformed op => Sys2Proof.Machine.execLoadPerformed op s
  | .storePerformed op => Sys2Proof.Machine.execStorePerformed op s
  | .tzero t f => Sys2Proof.Machine.execTzero t f s
  | .mma asrc reuse la lb a t f shape exact fmtb fmta => Sys2Proof.Machine.execMma asrc reuse la lb a t f shape exact fmtb fmta s
  | .mmaPair asrc reuse la lb a t f shape exact fmtb fmta => Sys2Proof.Machine.execMmaPair asrc reuse la lb a t f shape exact fmtb fmta s
  | .tload sl t f fmt => Sys2Proof.Machine.execTload sl t f fmt s
  | .drain sl ss se t f sck rm fmt => Sys2Proof.Machine.execDrain sl ss se t f sck rm fmt s
  | .matrixGrant op => Sys2Proof.Machine.execMatrixGrant op s
  | .matrixPassCompletion op => Sys2Proof.Machine.execMatrixPassCompletion op s
  | .cpyLd r w k c b a f => Sys2Proof.Machine.execCpyLd r w k c b a f s
  | .cpySt k c b a f => Sys2Proof.Machine.execCpySt k c b a f s
  | .cpyGath r w k c b a f => Sys2Proof.Machine.execCpyGath r w k c b a f s
  | .cpyScat k c b a f => Sys2Proof.Machine.execCpyScat k c b a f s
  | .copyStart op => Sys2Proof.Machine.execCopyStart op s
  | .copyElementMove op => Sys2Proof.Machine.execCopyElementMove op s
  | .streamEntryPush op => Sys2Proof.Machine.execStreamEntryPush op s
  | .copyCompletion op => Sys2Proof.Machine.execCopyCompletion op s
  | .taskp c b a f => Sys2Proof.Machine.execTaskp c b a f s
  | .bkAdd y t c b a f => Sys2Proof.Machine.execBkAdd y t c b a f s
  | .bkScale y t c b a f => Sys2Proof.Machine.execBkScale y t c b a f s
  | .bkMax y t c b a f => Sys2Proof.Machine.execBkMax y t c b a f s
  | .bkExpsum y t c b a f => Sys2Proof.Machine.execBkExpsum y t c b a f s
  | .bkFill y t c b a f => Sys2Proof.Machine.execBkFill y t c b a f s
  | .bankCommandCompletion op => Sys2Proof.Machine.execBankCommandCompletion op s
  | .memcall g q n j c sf a f => Sys2Proof.Machine.execMemcall g q n j c sf a f s
  | .collAllred a f => Sys2Proof.Machine.execCollAllred a f s
  | .collAllgath a f => Sys2Proof.Machine.execCollAllgath a f s
  | .collRedscat a f => Sys2Proof.Machine.execCollRedscat a f s
  | .collBcast a f => Sys2Proof.Machine.execCollBcast a f s
  | .collAll2all a f => Sys2Proof.Machine.execCollAll2all a f s
  | .collectiveCompletion op ranks => Sys2Proof.Machine.execCollectiveCompletion op ranks s
  | .br o g => Sys2Proof.Machine.execBr o g s
  | .bru o n c => Sys2Proof.Machine.execBru o n c s
  | .brx a g => Sys2Proof.Machine.execBrx a g s
  | .ret g => Sys2Proof.Machine.execRet g s
  | .unwind b a g => Sys2Proof.Machine.execUnwind b a g s
  | .exit g => Sys2Proof.Machine.execExit g s
  | .spawn a p g => Sys2Proof.Machine.execSpawn a p g s
  | .regroup a => Sys2Proof.Machine.execRegroup a s
  | .barTeam k => Sys2Proof.Machine.execBarTeam k s
  | .barGang k => Sys2Proof.Machine.execBarGang k s
  | .arrive c b a => Sys2Proof.Machine.execArrive c b a s
  | .swait b a => Sys2Proof.Machine.execSwait b a s
  | .cwait b a => Sys2Proof.Machine.execCwait b a s
  | .engineArrival task => Sys2Proof.Machine.execEngineArrival task s
  | .qbind r q o => Sys2Proof.Machine.execQbind r q o s
  | .qclose q => Sys2Proof.Machine.execQclose q s
  | .rejoin j => Sys2Proof.Machine.execRejoin j s
  | .implicitRejoin gid j => Sys2Proof.Machine.execImplicitRejoin gid j s
  | .trap c g => Sys2Proof.Machine.execTrap c g s
  | .yield => Sys2Proof.Machine.execYield s
  | .walk b a => Sys2Proof.Machine.execWalk b a s
  | .nop g => Sys2Proof.Machine.execNop g s
  | .launch b a => Sys2Proof.Machine.execLaunch b a s
  | .call dm g o => Sys2Proof.Machine.execCall dm g o s
  | .callx dm a g => Sys2Proof.Machine.execCallx dm a g s
  | .xld im n d => Sys2Proof.Machine.execXld im n d s
  | .xst im n sf => Sys2Proof.Machine.execXst im n sf s
  | .band b a d => Sys2Proof.Machine.execBand b a d s
  | .bor b a d => Sys2Proof.Machine.execBor b a d s
  | .bxor b a d => Sys2Proof.Machine.execBxor b a d s
  | .bnot a d => Sys2Proof.Machine.execBnot a d s
  | .bmaj c b a d => Sys2Proof.Machine.execBmaj c b a d s
  | .bsel c b a d => Sys2Proof.Machine.execBsel c b a d s
  | .bshl sf a d => Sys2Proof.Machine.execBshl sf a d s
  | .baddc im b a d => Sys2Proof.Machine.execBaddc im b a d s
  | .addn w => Sys2Proof.Machine.execAddn w s
  | .subn w => Sys2Proof.Machine.execSubn w s
  | .muln w => Sys2Proof.Machine.execMuln w s
  | .bloop n l => Sys2Proof.Machine.execBloop n l s
  | .rowstep v sf n => Sys2Proof.Machine.execRowstep v sf n s
  | .rowDot y m b a => Sys2Proof.Machine.execRowDot y m b a s
  | .rowAxpy b a d => Sys2Proof.Machine.execRowAxpy b a d s
  | .xreduce d => Sys2Proof.Machine.execXreduce d s
  | .bankCallBlock blk => Sys2Proof.Machine.execBankCallBlock blk s
  | .kernel blk => Sys2Proof.Machine.execKernel blk s
  | .dot blk => Sys2Proof.Machine.execDot blk s
  | .reduce blk => Sys2Proof.Machine.execReduce blk s
  | .axpy blk => Sys2Proof.Machine.execAxpy blk s
  | .transpose blk => Sys2Proof.Machine.execTranspose blk s
  | .fill blk => Sys2Proof.Machine.execFill blk s
  | .copyrow blk => Sys2Proof.Machine.execCopyrow blk s
  | .bankCallReply blk => Sys2Proof.Machine.execBankCallReply blk s
  | .walkTaskPost core im j k => Sys2Proof.Machine.execWalkTaskPost core im j k s
  | .taskEnter task => Sys2Proof.Machine.execTaskEnter task s
  | .taskBuffer task => Sys2Proof.Machine.execTaskBuffer task s
  | .taskInputs task => Sys2Proof.Machine.execTaskInputs task s
  | .taskReady task => Sys2Proof.Machine.execTaskReady task s
  | .taskRun task => Sys2Proof.Machine.execTaskRun task s
  | .taskEnd task => Sys2Proof.Machine.execTaskEnd task s
  | .bintimerExpiry team bin => Sys2Proof.Machine.execBintimerExpiry team bin s
  | .binLaunch team bin => Sys2Proof.Machine.execBinLaunch team bin s
  | .frameRequestServed gid => Sys2Proof.Machine.execFrameRequestServed gid s
  | .spillwaitExpiry gid => Sys2Proof.Machine.execSpillwaitExpiry gid s
  | .trapEntry gid => Sys2Proof.Machine.execTrapEntry gid s
  | .teamPlacement w => Sys2Proof.Machine.execTeamPlacement w s
  | .headReserving w prio => Sys2Proof.Machine.execHeadReserving w prio s
  | .gridCompletion grid => Sys2Proof.Machine.execGridCompletion grid s
  | .graphNodeReady graph node => Sys2Proof.Machine.execGraphNodeReady graph node s
  | .graphCopyNode graph node => Sys2Proof.Machine.execGraphCopyNode graph node s
  | .graphNodeCompletion graph node => Sys2Proof.Machine.execGraphNodeCompletion graph node s
  | .lockkeeperRestart w => Sys2Proof.Machine.execLockkeeperRestart w s
  | .create healthy => Sys2Proof.Machine.execCreate healthy s
  | .release => Sys2Proof.Machine.execRelease s
  | .service => Sys2Proof.Machine.execService s
  | .suspend => Sys2Proof.Machine.execSuspend s
  | .resume => Sys2Proof.Machine.execResume s
  | .grow => Sys2Proof.Machine.execGrow s
  | .shrink => Sys2Proof.Machine.execShrink s
  | .sluiceOpen => Sys2Proof.Machine.execSluiceOpen s
  | .sluicePass => Sys2Proof.Machine.execSluicePass s
  | .sluiceClose => Sys2Proof.Machine.execSluiceClose s
  | .sluiceAbort => Sys2Proof.Machine.execSluiceAbort s
  | .importKey => Sys2Proof.Machine.execImportKey s
  | .importStream => Sys2Proof.Machine.execImportStream s
  | .worldLatchChange c => Sys2Proof.Machine.execWorldLatchChange c s
  | .invctlCompletion w => Sys2Proof.Machine.execInvctlCompletion w s
  | .passageOfTime cycles => Sys2Proof.Machine.execPassageOfTime cycles s
  | .mailboxBadop => Sys2Proof.Machine.execMailboxBadop s
  | .suspendTimeout => Sys2Proof.Machine.execSuspendTimeout s
  | .powerOnReset => Sys2Proof.Machine.execPowerOnReset s
  | .powerOff => Sys2Proof.Machine.execPowerOff s
  | .correctedLineRewrite line => Sys2Proof.Machine.execCorrectedLineRewrite line s
  | .collectiveLinkTimeout op => Sys2Proof.Machine.execCollectiveLinkTimeout op s
  | .fbrespRetry w seq => Sys2Proof.Machine.execFbrespRetry w seq s
  | .fbrespAbort w seq => Sys2Proof.Machine.execFbrespAbort w seq s
  | .clownWrite c v => Sys2Proof.Machine.execClownWrite c v s
  | .pcownWrite p v => Sys2Proof.Machine.execPcownWrite p v s
  | .waymaskWrite w die v => Sys2Proof.Machine.execWaymaskWrite w die v s
  | .registerWrite reg v => Sys2Proof.Machine.execRegisterWrite reg v s
  | .invctlAddress w => Sys2Proof.Machine.execInvctlAddress w s
  | .invctlWorld w => Sys2Proof.Machine.execInvctlWorld w s
  | .rngStartupTest pass => Sys2Proof.Machine.execRngStartupTest pass s
  | .rngHealthFailure => Sys2Proof.Machine.execRngHealthFailure s
  | .getTdispVersion w => Sys2Proof.Machine.execGetTdispVersion w s
  | .getTdispCapabilities w => Sys2Proof.Machine.execGetTdispCapabilities w s
  | .lockInterfaceRequest w => Sys2Proof.Machine.execLockInterfaceRequest w s
  | .getDeviceInterfaceReport w => Sys2Proof.Machine.execGetDeviceInterfaceReport w s
  | .getDeviceInterfaceState w => Sys2Proof.Machine.execGetDeviceInterfaceState w s
  | .startInterfaceRequest w => Sys2Proof.Machine.execStartInterfaceRequest w s
  | .stopInterfaceRequest w => Sys2Proof.Machine.execStopInterfaceRequest w s
  | .tdispUnsupportedRequest w => Sys2Proof.Machine.execTdispUnsupportedRequest w s
  | .spdmRequest req => Sys2Proof.Machine.execSpdmRequest req s
  | .getMeasurements index => Sys2Proof.Machine.execGetMeasurements index s
  | .commOpen req => Sys2Proof.Machine.execCommOpen req s
  | .commClose req => Sys2Proof.Machine.execCommClose req s
  | .debugOpen secured req => Sys2Proof.Machine.execDebugOpen secured req s
  | .getRelease req => Sys2Proof.Machine.execGetRelease req s
  | .flitReceive port flit => Sys2Proof.Machine.execFlitReceive port flit s
  | .flitReplay port => Sys2Proof.Machine.execFlitReplay port s
  | .lctlWrite port v => Sys2Proof.Machine.execLctlWrite port v s
  | .portTrainingEnd port ok peer peerPort => Sys2Proof.Machine.execPortTrainingEnd port ok peer peerPort s
  | .portDown port => Sys2Proof.Machine.execPortDown port s
  | .bar2Access w acc => Sys2Proof.Machine.execBar2Access w acc s
  | .bar4Access acc => Sys2Proof.Machine.execBar4Access acc s
  | .cxlMemAccess acc => Sys2Proof.Machine.execCxlMemAccess acc s
  | .bootWindowAccess acc => Sys2Proof.Machine.execBootWindowAccess acc s
  | .hartAccess hart acc => Sys2Proof.Machine.execHartAccess hart acc s
  | .hworldWrite hart v => Sys2Proof.Machine.execHworldWrite hart v s
  | .dbgreqScan v => Sys2Proof.Machine.execDbgreqScan v s
  | .dbgreqMemoryTest v => Sys2Proof.Machine.execDbgreqMemoryTest v s
  | .testAccessPortEntry mode => Sys2Proof.Machine.execTestAccessPortEntry mode s
  | .dbgdataRead => Sys2Proof.Machine.execDbgdataRead s
  | .dbgdataWrite v => Sys2Proof.Machine.execDbgdataWrite v s
  | .bootctlGo v => Sys2Proof.Machine.execBootctlGo v s
  | .bootReady => Sys2Proof.Machine.execBootReady s
  | .phyctlWrite p v => Sys2Proof.Machine.execPhyctlWrite p v s
  | .repairWrite p v => Sys2Proof.Machine.execRepairWrite p v s
  | .patternRunWrite p => Sys2Proof.Machine.execPatternRunWrite p s
  | .patternRunRead p => Sys2Proof.Machine.execPatternRunRead p s
  | .patternRunCompletion p err => Sys2Proof.Machine.execPatternRunCompletion p err s
  | .rdlyallWrite p v => Sys2Proof.Machine.execRdlyallWrite p v s
  | .wdlyallWrite p v => Sys2Proof.Machine.execWdlyallWrite p v s
  | .thermalThrottle => Sys2Proof.Machine.execThermalThrottle s
  | .symbolsInError line syms => Sys2Proof.Machine.execSymbolsInError line syms s
  | .onChipStorageError err => Sys2Proof.Machine.execOnChipStorageError err s
  | .readingBelowLimit => Sys2Proof.Machine.execReadingBelowLimit s
  | .tdispErrorTransition w => Sys2Proof.Machine.execTdispErrorTransition w s
  | .lshareWrite w port v => Sys2Proof.Machine.execLshareWrite w port v s
  | .hostLinkTraining cxl => Sys2Proof.Machine.execHostLinkTraining cxl s

end Sys2Proof.Machine
end

