-- ==== Sys2Proof/Machine/Schedule.lean ====
section
/-!
DEFINITION. Sys2Proof/Machine/Schedule.lean: what a step runs next: the next entry of the schedule `moves`, or, where none
is left, a turn of the operations and words that are pending.
-/
namespace Sys2Proof.Machine

/-- What a step does: run an instruction at a state, or it has taken place. -/
inductive Chosen where
  | run (i : Instr) (s : State)
  | did (s : State)
deriving DecidableEq, Repr

/-- Whether a group's words may run: it is resident and holds no fault (20 R438, 10 R264). -/
def Group.runs (g : Group) : Bool := g.held.isNone && !g.swapped

/-- The next word of a group's clause (02 R41, R70): an encoding that its class refuses, or a waiting instruction that is
not the first of its clause, is ILLEGAL_OP. Without a clause, the issue of its next one. -/
def State.groupWord (s : State) (gid : Nat) : Chosen :=
  match s.group gid with
  | none => .did s
  | some g =>
    if !g.runs then .did s
    else match g.issue with
      | none => .run (.clauseIssue gid) { s with cur := .none }
      | some i =>
        match decode i.cls i.word (i.words[i.idx + 1]?) with
        | .ok j _ =>
          if instrWaits j && i.idx != 0 then .did (s.raise gid i.len (i.illegal detailOperand))
          else .run j { s.noteTry g i with cur := .group gid }
        | .illegal d => .did (s.raise gid i.len (i.illegal d))

/-- The next word of a block's microkernel: an encoding that the class refuses ends the command (09 R244, 13 R252). -/
def State.rowWord (s : State) (id : Nat) : Chosen :=
  match s.block id with
  | some b =>
    match b.row with
    | some r =>
      if r.stop ≤ r.pos then .did s
      else match decode 7 (r.words.getD r.pos 0#32) none with
        | .ok j _ => .run j { s with cur := .block id }
        | .illegal _ =>
          let y := ((b.cmds[b.idx]?).map fun c => c.ya.toNat).getD 0
          .did (s.failBlock b b.idx b.idx (2, (y + 4 * r.pos) % 2 ^ 64, 0, 0))
    | none => .did s
  | none => .did s

/-! ## What is pending -/

/-- The events of an operation in flight. -/
def opEvents (o : Op) : List Instr :=
  match o.kind with
  | .load _ _ _ _ _ => [if o.done then .longLatencyCompletion o.id else .loadPerformed o.id]
  | .store _ _ => [if o.done then .longLatencyCompletion o.id else .storePerformed o.id]
  | .plain => [.longLatencyCompletion o.id]
  | .matrix m => [if m.granted then .matrixPassCompletion o.id else .matrixGrant o.id]
  | .copy c =>
    if c.started then [.copyElementMove o.id, .streamEntryPush o.id, .copyCompletion o.id] else [.copyStart o.id]
  | .bank _ => [.bankCommandCompletion o.id]
  | .coll _ => [.collectiveCompletion o.id []]
  | .memcall _ _ | .task _ => []

/-- The event that runs a block's command by its OP. -/
def cmdEvent (op id : Nat) : Instr :=
  match op with
  | 0 => .kernel id
  | 1 => .dot id
  | 2 => .axpy id
  | 3 => .reduce id
  | 4 => .transpose id
  | 5 => .fill id
  | _ => .copyrow id

/-- What a block does next. -/
def blockMoves (b : Block) : List Move :=
  match b.stage with
  | .sent => [.event (.bankCallBlock b.id)]
  | .running =>
    match b.row with
    | some r => if r.pos < r.stop then [.word (.block b.id)] else [.event (.kernel b.id)]
    | none => [.event (cmdEvent (((b.cmds[b.idx]?).map (·.op)).getD 0) b.id)]
  | .answered | .delivered => [.event (.bankCallReply b.id)]

/-- The next event of a task. -/
def taskEvents (t : Task) : List Instr :=
  match t.stage with
  | .posted => [.taskEnter t.id]
  | .entered => [.taskBuffer t.id]
  | .buffered => [.taskInputs t.id]
  | .inputs => if t.failed then [.taskEnd t.id] else if t.unsent then [.taskInputs t.id] else [.taskReady t.id]
  | .ready => [.taskRun t.id]
  | .running => []
  | .outputs | .draining => [.taskEnd t.id]
  | .arriving => [.engineArrival t.id]

/-- The next task of a walk: the lowest triple not yet posted; with none left, its arrival. -/
def walkEvents (w : Walk) : List Instr :=
  let triple := fun (n : Nat) => n % w.e0 + 2 ^ 20 * (n / w.e0 % w.e1) + 2 ^ 40 * (n / w.e0 / w.e1)
  match findBy (fun n => !w.posted.contains (triple n)) (List.range (min (w.posted.length + 1) (w.e0 * w.e1 * w.e2))) with
  | some n => [.walkTaskPost w.core (n % w.e0) (n / w.e0 % w.e1) (n / w.e0 / w.e1)]
  | none => [.engineArrival w.id]

/-- What a group does next, its requests and its waits first. -/
def groupMoves (g : Group) : List Move :=
  (match g.request with
    | some ⟨_, _, .trap _, true⟩ => [.event (.trapEntry g.gid)]
    | _ => []) ++
  (if g.requests == [] then [] else [.event (.frameRequestServed g.gid), .event (.spillwaitExpiry g.gid)]) ++
  (if g.tlbinv = 0 then [] else [.event (.tlbinvCompletion g.gid)]) ++
  (if g.cmaint = 0 then [] else [.event (.cmaintCompletion g.gid)]) ++
  (g.jregs.map fun e => .event (.implicitRejoin g.gid e.1)) ++ [.word (.group g.gid)]

/-- The events of a team's spawn bins. -/
def binEvents (t : Team) : List Instr :=
  t.bins.zipIdx.flatMap fun (b, k) =>
    if b.recs = [] then [] else [.bintimerExpiry t.key k, .binLaunch t.key k]

/-- The events of a graph's nodes. -/
def graphEvents (k : Graph) : List Instr :=
  k.nodes.zipIdx.flatMap fun (n, i) =>
    match n.state with
    | .waiting | .queued => [.graphNodeReady k.key i]
    | .running =>
      (match n.body with | .copy _ _ _ => [.graphCopyNode k.key i] | _ => []) ++ [.graphNodeCompletion k.key i]
    | .completed | .failed => [.graphNodeCompletion k.key i]
    | .cancelled => []

/-- The event that serves a mailbox command by its OP (17 R380). -/
def mailEvent (healthy : Bool) (op : Nat) : Instr :=
  match op with
  | 1 => .create healthy
  | 2 => .release
  | 8 => .service
  | 16 => .suspend
  | 17 => .resume
  | 18 => .grow
  | 19 => .shrink
  | 20 => .sluiceOpen
  | 21 => .sluicePass
  | 22 => .sluiceClose
  | 23 => .sluiceAbort
  | 24 => .importKey
  | 25 => .importStream
  | _ => .mailboxBadop

/-- The events of the Trust Controller and the distributor. -/
def State.deviceEvents (s : State) : List Instr :=
  (match s.mail with
    | some (_, m) => [mailEvent s.trust.ok m.op.toNat] ++ (if m.op.toNat = 16 ∨ m.op.toNat = 19 then [.suspendTimeout] else [])
    | none => []) ++
  (if s.stopEnds.isSome then [.release] else []) ++
  ((s.changing.filter (·.2)).map fun e => .worldLatchChange e.1) ++
  ((s.pldrs.filter (fun e => e.2.invgo)).map fun e => .invctlCompletion e.1) ++
  ((s.pldrs.filter (fun e => e.2.lkended)).map fun e => .lockkeeperRestart e.1) ++
  ((distinct (s.launches.map (·.world))).map fun w => .teamPlacement w) ++
  (s.launches.map fun e => .headReserving e.world e.prio) ++
  ((s.grids.filter fun k => k.ended = k.total).map fun k => .gridCompletion k.key) ++
  s.graphs.flatMap graphEvents

/-- Everything pending, the passage of time last. -/
def State.agenda (s : State) : List Move :=
  s.blocks.flatMap blockMoves ++ s.groups.flatMap groupMoves ++
  (s.ops.flatMap opEvents ++ s.tasks.flatMap taskEvents ++ s.walks.flatMap walkEvents ++ s.teams.flatMap binEvents ++
    s.deviceEvents ++ [Instr.passageOfTime 64]).map .event

/-- The choice of one entry. -/
def State.take1 (s : State) : Move → Chosen
  | .event i => .run i { s with cur := .none }
  | .word (.group gid) => s.groupWord gid
  | .word (.block id) => s.rowWord id
  | .word .none => .did s
  | .invalidate w ia => .did (s.pfInvalidate w ia)

/-- A debug wipe that is in progress, which lets nothing else be performed (22 R471), and the integrity events of failed MACs
before anything else (20 R431), then the next entry of the schedule; where none is
left, the entry of the agenda whose turn it is. -/
def State.choose (s : State) : Chosen :=
  if s.trust.wiping then
    match s.moves with
    | [] | .event (.passageOfTime _) :: _ => .did s.endWipe
    | _ :: ms => .did { s with moves := ms }
  else if s.alarms ≠ [] then .did s.takeAlarms
  else match s.moves with
  | m :: ms => { s with moves := ms }.take1 m
  | [] =>
    let a := s.agenda
    { s with turn := s.turn + 1 }.take1 (a.getD (s.turn % a.length) (.event (.passageOfTime 64)))

/-! ## An instruction placed to run next -/

/-- The descriptor of the kernel that a placed word runs in. -/
def probeKernel : Kernel :=
  { entry := 0x1000#64, trapent := 0x2000#64, frame := 128, groups := 1, tiles := 8, scratch := 4096, bins := 1, queues := 4,
    qkind := 0#16, timer := 1024, attr := 0#16 }

/-- The words of a placed instruction: the second where the opcode takes two (02 R45). -/
def probeWords (x y : Word) : List Word := if 0x60 ≤ (x &&& 127#32).toNat then [x, y] else [x]

/-- A launched group of a world on core 0 that stands at the first of these words, in a clause of their class. -/
def State.placeGroup (s : State) (w cls : Nat) (ws : List Word) : State :=
  let key := s.ids
  let s := s.newGrid w (serviceLaunch 0x3000 0x4000) probeKernel 0 none none false
  match s.grid key with
  | none => s
  | some k =>
    let s := s.placeGang k 0 1
    match s.groups.getLast? with
    | none => s
    | some g =>
      let i : Issue := ⟨0x1000#64, cls, 15, 15, ws, 0, -1#64⟩
      { s with moves := .word (.group g.gid) :: s.moves }.modGroup g.gid fun g => { g with issue := some i }

/-- A block of polder 0 whose KERNEL command stands at a word. -/
def State.placeBlock (s : State) (x : Word) : State :=
  let c : Cmd := ⟨0, 0, false, 1, 0#64, 0#64, 0#32⟩
  let r : RowCtx := { newRow 0 0#32 [0xA7F80071#32, x] 0 with first := 1, stop := 2, pos := 1 }
  let b := newBlock s.ids 0 0 0 0 0 0 0 0 0 0 none none none 0#64 none
  { s with blocks := s.blocks ++ [{ b with cmds := [c], stage := .running, row := some r }],
           moves := .word (.block s.ids) :: s.moves, ids := s.ids + 1 }

/-- A table word placed where the next step fetches its word: in a clause of its class, of a polder in RUN, of world 60 for
the system class, of a microkernel for the row class. DESIGN CHOICE, log entry 3. -/
def State.placeWord (s : State) (nbits w : Nat) : State :=
  let x := BitVec.ofNat 32 (w % 2 ^ nbits)
  let y := BitVec.ofNat 32 (w % 2 ^ nbits / 2 ^ 32)
  let run := s.setPolder 0 { s.polder 0 with state := .run }
  match tableClass x y with
  | none => run.placeGroup 0 0 (probeWords x y)
  | some 7 => run.placeBlock x
  | some 6 => s.placeGroup 60 6 (probeWords x y)
  | some c => run.placeGroup 0 c (probeWords x y)

end Sys2Proof.Machine
end

