-- ==== Sys2Proof/Safety.lean ====
section
/-!
DEFINITION. Sys2Proof/Safety.lean: what every state of a run is to keep, and the terms in which the statements speak of a
step: the word being issued, what it leaves alone, and where a word that is done leads.
-/
namespace Sys2Proof.Machine

/-- The invariant of the machine: memory keeps its canonical form. -/
def Inv (s : State) : Prop := memWf s.mem = true

/-- A step keeps going: it is neither a fault nor a refusal. -/
def Goes (o : Host.Outcome State Fault Refusal) : Prop := ∃ t, o = .next t

/-- Group `g` stands in `s` at the word of its clause `i`, and its word is the one to run. -/
structure AtWord (s : State) (g : Group) (i : Issue) : Prop where
  cur    : s.cur = .group g.gid
  here   : s.group g.gid = some g
  clause : g.issue = some i

/-- A group that waits: the cycle at which its wait began stands (10 R265). -/
def Group.stays (g : Group) (s : State) : Group := { g with since := some (g.since.getD s.clock) }

/-- A word that needs no register still to be written by an operation in flight (02 R38). -/
abbrev Ready (s : State) (g : Group) (lanes vs ss : List Nat) : Prop := s.hazard g lanes vs ss = false

/-- The word's queue sources `qs` are all there: reading them in order pops the entries `es` and leaves `s'`
(01 R21, 08 R211). With no queue source nothing is asked and `s'` is `s`. -/
def Pops (s : State) (g : Group) (i : Issue) (scalar : Bool) (qs : List Nat) (s' : State) (es : List QEntry) : Prop :=
  ∀ k, takeQueues i scalar qs g.popped s g k = k s' es

/-- Where a word leads that is done in `s` (02 R37, R41): the scalar meter counts it and its group goes on. -/
def State.wordDone (s : State) (g : Group) (i : Issue) : State :=
  (s.meterScalar g i).modGroup g.gid fun h => h.retire i.len

/-- Where a word leads whose effect is `f` on its group. -/
def State.wordEffect (s : State) (g : Group) (i : Issue) (f : Group → Group) : State :=
  (s.modGroup g.gid f).wordDone g i

/-- What a word that touches only its group leaves alone, seen from the state `s` its queue sources left: every byte of
memory, every other group, and all else of the machine but the meters of its polder. -/
structure Elsewhere (s t : State) (g : Group) : Prop where
  bytes  : ∀ a, t.byte a = s.byte a
  others : ∀ k, k ≠ g.gid → t.group k = s.group k
  polder : ∀ w, ∃ m, t.polder w = { s.polder w with meters := m } ∧ (w ≠ g.world → t.polder w = s.polder w)
  rest   : t = { s with groups := t.groups, pldrs := t.pldrs }

/-- A lane as before but for where it stands. -/
def SameButPc (n m : Lane) : Prop := m = { n with pcv := m.pcv }

/-- What a write of a scalar register leaves alone in its group: every other S register, every C predicate, Q register,
flag and J register, the frames, and the registers, predicates, TID and SRS of every lane. -/
structure ScalarFrame (g h : Group) (d : Nat) (v : SReg) : Prop where
  written : ∀ r, h.sreg r = if r = d ∧ d ≠ 0 then v else g.sreg r
  status  : h.gstat = if d ≠ 0 ∧ v.poison = true then g.gstat ||| psnBit else g.gstat
  lanes   : ∀ l, SameButPc (g.lane l) (h.lane l)
  rest    : h = { g with sregs := h.sregs, gstat := h.gstat, lanes := h.lanes, issue := h.issue, popped := h.popped }

/-- What a write of lane registers leaves alone in its group: registers `ds` of the lanes `ls` hold what `f` gives them,
each other register of each lane what it held, and a poisoned result sets PSN (06 R134, R136). -/
structure LaneFrameOf (g h : Group) (ls ds : List Nat) (f : Nat → Nat → Reg) : Prop where
  written : ∀ l r, (h.lane l).vreg r = if ls.contains l && ds.contains r then f l r else (g.lane l).vreg r
  status  : h.gstat = if ls.any fun l => ds.any fun r => (f l r).poison then g.gstat ||| psnBit else g.gstat
  below   : ∀ l, (h.lane l).chain.drop 1 = (g.lane l).chain.drop 1 ∧ (h.lane l).fid = (g.lane l).fid
  lanes   : ∀ l, h.lane l = { g.lane l with pcv := (h.lane l).pcv, chain := (h.lane l).chain }
  rest    : h = { g with gstat := h.gstat, lanes := h.lanes, issue := h.issue, popped := h.popped }

/-- What a scalar word that writes `S[d]` does to its group and to the rest, from the state its queue sources left. -/
def ScalarWrites (s s' : State) (g g' : Group) (n : Instr) (d : BitVec 5) (v : SReg) : Prop :=
  ∃ u h, exec n s = .next u ∧ u.group g.gid = some h ∧ ScalarFrame g' h d.toNat v ∧ Elsewhere s' u g

/-- The integer conditions of 02 R52, codes 0 to 5. -/
def IntCond (c : Nat) (x y : Int) : Prop :=
  match c with
  | 0 => x = y
  | 1 => x ≠ y
  | 2 => x < y
  | 3 => x ≤ y
  | 4 => x > y
  | _ => x ≥ y

/-- What a write of C predicate `k` does to its group: that predicate, and where its lanes stand. -/
structure CFrame (g h : Group) (k : Nat) (b : Bool) : Prop where
  written : ∀ j, h.creg j = if j = k then b else g.creg j
  lanes   : ∀ l, SameButPc (g.lane l) (h.lane l)
  rest    : h = { g with cregs := h.cregs, lanes := h.lanes, issue := h.issue, popped := h.popped }

/-- The operation that a word leaves in flight (02 R37): its record is the last, its flag counts one more, and memory,
the other groups and the rest of its own group are as `s` had them. -/
structure Issued (s t : State) (g : Group) (flag : Option Nat) (kind : OpKind) (done : Bool) : Prop where
  op     : t.ops = s.ops ++ [⟨s.ids, g.gid, g.core, g.world, g.team, flag, kind, done, 0⟩]
  bytes  : ∀ a, t.byte a = s.byte a
  others : ∀ k, k ≠ g.gid → t.group k = s.group k
  polder : ∀ w, ∃ m, t.polder w = { s.polder w with meters := m } ∧ (w ≠ g.world → t.polder w = s.polder w)
  flags  : ∀ g', s.group g.gid = some g' → ∃ h, t.group g.gid = some h ∧
    (∀ k, h.flag k = if flag = some k then g'.flag k + 1 else g'.flag k) ∧
    (∀ l, SameButPc (g'.lane l) (h.lane l)) ∧
    h = { g' with flags := h.flags, lanes := h.lanes, issue := h.issue, popped := h.popped }
  rest   : t = { s with ops := t.ops, ids := s.ids + 1, groups := t.groups, pldrs := t.pldrs }

/-- What a lane word that writes registers `ds` of lanes `ls` does, from the state its queue sources left. -/
def LaneWrites (s s' : State) (g g' : Group) (n : Instr) (ls ds : List Nat) (f : Nat → Nat → Reg) : Prop :=
  ∃ u h, exec n s = .next u ∧ u.group g.gid = some h ∧ LaneFrameOf g' h ls ds f ∧ Elsewhere s' u g

/-- A lane word may run: its registers are there in the lanes it acts on (01 R17) and none is still to be written. -/
structure LaneReady (s : State) (g : Group) (i : Issue) (ls regs ss : List Nat) : Prop where
  word  : AtWord s g i
  ready : Ready s g ls regs ss
  bound : boundCond g ls regs = none

/-- The registers of a lane that a word reads, with the entries it popped. -/
def laneVal (g : Group) (es : List QEntry) (srcs : List VSrc) (l k : Nat) : Reg :=
  (vsrcVals (g.lane l) l srcs es).getD k ⟨0#32, false⟩

/-- The OR of the tags of a lane's sources (06 R136). -/
def laneTag' (g : Group) (es : List QEntry) (srcs : List VSrc) (l : Nat) : Bool :=
  (vsrcVals (g.lane l) l srcs es).any (·.poison)

/-- V[r] of a lane, and the 64-bit value of the pair from it. -/
def vAt (g : Group) (r : BitVec 7) (l : Nat) : Word := ((g.lane l).vreg r.toNat).val
def pairOf (g : Group) (r : BitVec 7) (l : Nat) : DWord :=
  ((g.lane l).vreg (r.toNat + 1)).val ++ ((g.lane l).vreg r.toNat).val
def tagAt (g : Group) (rs : List Nat) (l : Nat) : Bool := rs.any fun r => ((g.lane l).vreg r).poison

/-- `FTZ16` of a group. -/
abbrev ftzOf (g : Group) : Bool := g.gstat.getLsbD 5

/-- A binary operation on the two 16-bit halves of words. -/
def onHalves (op : Nat → Nat → Nat) (p q : Word) : Word :=
  BitVec.ofNat 16 (op (p.toNat / 2 ^ 16) (q.toNat / 2 ^ 16)) ++ BitVec.ofNat 16 (op (p.toNat % 2 ^ 16) (q.toNat % 2 ^ 16))

/-- The draw of element `k` of a lane in mode SR: its SRS advanced k + 1 times (04 R94, R95). -/
def laneDraw (g : Group) (l k : Nat) : Nat := (srAfter (g.lane l).srs (k + 1)).toNat

/-- What a rounding lane word does beside its writes: in mode SR (4) each contributing lane's SRS advances by its draws,
in the other modes it stays (04 R95). -/
def RoundWrites (s s' : State) (g g' : Group) (n : Instr) (ls ds : List Nat) (f : Nat → Nat → Reg) (mode draws : Nat) :
    Prop :=
  ∃ u h h', exec n s = .next u ∧ u.group g.gid = some h ∧ LaneFrameOf g' h' ls ds f ∧ Elsewhere s' u g ∧
    (∀ l, (h.lane l).srs = if mode = 4 ∧ ls.contains l = true then srAfter (g'.lane l).srs draws else (g'.lane l).srs) ∧
    (∀ l, h.lane l = { h'.lane l with srs := (h.lane l).srs }) ∧
    h = { h' with lanes := h.lanes }

/-- The rational that a finite number stands for. -/
def Num.value : Num → Option ℚ
  | .fin neg m e => some ((if neg = true then -1 else 1) * m * (2 : ℚ) ^ e)
  | _ => none

/-- What CONJ code `j` gives PD1 and PD2 of an active lane from its guard, the comparison and their old values (02 R53);
none where the lane is not written. -/
def conjEffect (j : Nat) (gv c o1 o2 : Bool) : Option (Bool × Bool) :=
  if j = 6 then some (gv && c, gv && !c)
  else if gv = false then none
  else some (match j with
    | 0 => (c, !c)
    | 1 => (o1 && c, o2 && c)
    | 2 => (o1 || c, o2 || c)
    | 3 => (o1 && !c, o2 && !c)
    | 4 => (o1 || !c, o2 || !c)
    | _ => (o1 || c, o2 && !c))

/-- What a compare does (02 R53, 06 R147): in each lane that holds a thread and is in the clause, PD1 and PD2 take what
CONJ gives them, PD2 last and P7 never; every other predicate and everything else stays. -/
def PredWrites (s' u : State) (g g' : Group) (i : Issue) (gd : BitVec 4) (j p1 p2 : Nat) (c : Nat → Bool) : Prop :=
  ∃ h, u.group g.gid = some h ∧ Elsewhere s' u g ∧
    (∀ l p, (g'.lane l).live = true → p < 8 → (h.lane l).pred p =
      match if i.lanes.getLsbD l then conjEffect j ((g.lane l).guard gd) (c l) ((g.lane l).pred p1) ((g.lane l).pred p2)
        else none with
      | some (x, y) => if p = 7 then true else if p = p2 then y else if p = p1 then x else (g.lane l).pred p
      | none => (g.lane l).pred p) ∧
    (∀ l, h.lane l = { g'.lane l with pcv := (h.lane l).pcv, preds := (h.lane l).preds }) ∧
    h = { g' with lanes := h.lanes, issue := h.issue, popped := h.popped }

/-- A[L] of 07 R163: the base, the lane's offset scaled, the displacement, modulo 2^64. -/
def laneAddress (g : Group) (sc : BitVec 2) (base : BitVec 5) (o : BitVec 7) (disp : BitVec 16) (l : Nat) : Nat :=
  ((g.sreg base.toNat).val + ((vAt g o l).signExtend 64 <<< sc.toNat) + disp.signExtend 64).toNat

/-- A memory word of lanes `ls` passes its checks (07 R169): its registers are there and unpoisoned where they must be, its
flag can count, and each lane's address resolves to the bytes that `ps` names, none of them in the frame window. -/
structure Reached (s s' : State) (g : Group) (i : Issue) (ls regs : List Nat) (sc : BitVec 2) (b : BitVec 5) (o : BitVec 7)
    (f : BitVec 1) (disp : BitVec 16) (legal : Nat → Bool) (host : Bool) (need width : Nat)
    (ps : List (Nat × Place × List Loc)) : Prop where
  word   : AtWord s g i
  ready  : Ready s g ls (o.toNat :: regs) [b.toNat]
  flag   : g.flagFree (i.flag f) = true
  checks : addrChecks g ls b o regs = none
  access : s.access g legal host need width (ls.map fun l => (l, laneAddress g sc b o disp l)) = (s', .ok ps)
  plain  : ∀ e ∈ ps, ∀ l c r k, e.2.1 ≠ .win l c r k

/-- What an aligned access of `width` bytes at an address reaches, read off the state alone: bytes of the scratchpad of the
group's own team on path 0x2 (07 R164), or in world 60 device memory at its physical address on path 0x0 (05 R120). -/
structure Direct (s : State) (g : Group) (width a : Nat) (ls : List Loc) : Prop where
  aligned : a % width = 0
  names   : (∃ t, s.team g.team = some t ∧ pathOf a = 2 ∧ bitsAt a 20 40 = 0 ∧ a % 2 ^ 20 < t.kernel.scratch ∧
      ls = (List.range width).map fun k => .scr false t.key (a % 2 ^ 20 + k)) ∨
    (g.world = 60 ∧ a < 2 ^ 56 ∧ s.physOk a = true ∧ hostWindow a = false ∧
      ls = (List.range width).map fun k => .mem (a + k))

/-- A memory word of lanes `ls` under conditions on the state and the operands alone: its registers are there and
unpoisoned where they must be, its flag can count, and each lane's address is one that `Direct` resolves, to the bytes
`loc` gives the lane. -/
structure Plain (s : State) (g : Group) (i : Issue) (ls regs : List Nat) (sc : BitVec 2) (b : BitVec 5) (o : BitVec 7)
    (f : BitVec 1) (disp : BitVec 16) (width : Nat) (loc : Nat → List Loc) : Prop where
  word   : AtWord s g i
  ready  : Ready s g ls (o.toNat :: regs) [b.toNat]
  flag   : g.flagFree (i.flag f) = true
  bound  : boundCond g ls (o.toNat :: regs) = none
  base   : (g.sreg b.toNat).poison = false
  offset : ∀ l ∈ ls, ((g.lane l).vreg o.toNat).poison = false
  direct : ∀ l ∈ ls, Direct s g width (laneAddress g sc b o disp l) (loc l)

/-- The last value a list of cells gives an address. -/
def lastAt (cells : List Host.Cell) (a : Nat) : Option Byte := (cells.reverse.find? fun c => c.1 == a).map Prod.snd

/-- The bytes of device memory that a list of accesses stores, those on the coherent path first (11 R273). -/
def stored (accs : List LaneAcc) : List Host.Cell := (storeCells cohByte accs).1 ++ (storeCells rawByte accs).1

/-- The bytes named are in no line whose codeword is wrong or bound to another key, in no atom of U state, under no
check-out, and of world `w` still (17 R369). -/
structure Sound (s : State) (w : Nat) (pas : List Nat) : Prop where
  lines : ∀ a ∈ pas, s.line (a / 128) = ⟨false, []⟩
  keyed : ∀ a ∈ pas, s.alien (a / 128) = false
  merged : ∀ a ∈ pas, s.uatom (a / 32) = none
  free  : s.held pas none = false
  owned : s.reaches w pas = true

/-- Each access names device bytes on the coherent path alone. -/
def Coherent (accs : List LaneAcc) : Prop := ∀ a ∈ accs, ∀ l ∈ a.locs, ∃ p, l = .mem p ∧ hostWindow p = false

/-- Each access names device bytes on the coherent path or scratchpad bytes of one team. -/
def Near (accs : List LaneAcc) : Prop :=
  ∀ a ∈ accs, (∀ l ∈ a.locs, ∃ p, l = .mem p ∧ hostWindow p = false) ∨ ∃ x t, ∀ l ∈ a.locs, ∃ o, l = .scr x t o

/-- The bytes that the locations of an access name, and whether a scratchpad word among them is poisoned. -/
def locBytes (s : State) (a : LaneAcc) : List Byte := a.locs.filterMap fun l => match l with
  | .mem p => some (s.byte p)
  | .scr _ t o => some (((s.team t).map fun u => mapGet 0#8 u.scratch o).getD 0#8)
  | _ => none
def locPoison (s : State) (a : LaneAcc) : Bool := a.locs.any fun l => match l with
  | .scr _ t o => ((s.team t).map fun u => mapGet false u.spoison (o / 4)).getD false
  | _ => false

/-- The bytes of a team's scratchpad that a list of accesses stores, in order. -/
def padStored (team : Nat) (accs : List LaneAcc) : List Host.Cell :=
  accs.flatMap fun a => (List.zip a.locs a.bytes).filterMap fun e => match e.1 with
    | .scr _ t o => if t = team then some (o, e.2) else none
    | _ => none

/-- A word that has taken its whole effect on a group, with its operation left to complete: the flag counts it, memory is
`mem`, the lanes' registers are as `f` says, and the other groups are as they were. -/
structure Performed (s t : State) (g : Group) (flag : Option Nat) (mem : Nat → Byte) (ls ds : List Nat)
    (f : Nat → Nat → Reg) : Prop where
  bytes  : ∀ a, t.byte a = mem a
  op     : ∃ o, t.ops = s.ops ++ [o] ∧ o.gid = g.gid ∧ o.flag = flag ∧ o.kind = .plain ∧ o.done = true
  others : ∀ k, k ≠ g.gid → t.group k = s.group k
  group  : ∃ h, t.group g.gid = some h ∧ g.lclock ≤ h.lclock ∧
    (∀ l r, (h.lane l).vreg r = if ls.contains l && ds.contains r then f l r else (g.lane l).vreg r) ∧
    (∀ l, h.lane l = { g.lane l with pcv := (h.lane l).pcv, chain := (h.lane l).chain }) ∧
    (∀ k, h.flag k = if flag = some k then g.flag k + 1 else g.flag k) ∧ h.sregs = g.sregs ∧ h.cregs = g.cregs ∧
    h.frames = g.frames ∧ h.qregs = g.qregs ∧ h.jregs = g.jregs

/-- The partial that a cluster's merge unit holds for word `k` of an atom (07 R178). -/
def State.partialAt (s : State) (cluster a k : Nat) : Option Partial :=
  ((s.uatom a).bind fun u => findBy (fun h => h.1 == cluster) u.holders).bind fun h =>
    (findBy (fun p => p.1 == k) h.2.2).map Prod.snd

/-- A group as before but for the given fields and its place in the clause. -/
structure GroupOnly (g h : Group) (tlbinv cmaint : Nat) (flags : List (Nat × Nat)) : Prop where
  lanes : ∀ l, SameButPc (g.lane l) (h.lane l)
  rest  : h = { g with tlbinv := tlbinv, cmaint := cmaint, flags := flags, lanes := h.lanes, issue := h.issue, popped := h.popped }

/-- Lanes `ls` leave the clause, each to `dest`; the rest go on to the next word, or, after the last, to the next clause;
with none left the clause ends (02 R41). -/
structure Leaves (g h : Group) (i : Issue) (ls : List Nat) (dest : Nat → DWord) : Prop where
  clause : h.issue = if i.lanes &&& ~~~ laneMask ls = 0#64 ∨ i.words.length ≤ i.idx + i.len then none
    else some { i with idx := i.idx + i.len, lanes := i.lanes &&& ~~~ laneMask ls }
  pcs    : ∀ l, (g.lane l).live = true → (h.lane l).pcv =
    if ls.contains l then dest l
    else if i.lanes.getLsbD l && decide (i.words.length ≤ i.idx + i.len) then i.after else (g.lane l).pcv

/-- A word that only sends lanes elsewhere: everything but PCV, the clause and the status `gstat` is as before. -/
def Branches (s t : State) (g : Group) (i : Issue) (ls : List Nat) (dest : Nat → DWord) (gstat : Word) : Prop :=
  ∃ h, t.group g.gid = some h ∧ Leaves g h i ls dest ∧ (∀ l, SameButPc (g.lane l) (h.lane l)) ∧ h.gstat = gstat ∧
    h = { g with gstat := h.gstat, lanes := h.lanes, issue := h.issue, popped := h.popped } ∧ Elsewhere s t g

/-- What a word of a whole group leaves of it: but for its clock, its wait and its place in the clause, the group is as
`g`. -/
structure GroupWord (g h : Group) : Prop where
  lanes : ∀ l, SameButPc (g.lane l) (h.lane l)
  clock : g.lclock ≤ h.lclock
  rest  : h = { g with lclock := h.lclock, waiting := .no, since := none, lanes := h.lanes, issue := h.issue, popped := h.popped }

/-- A team after words of its tiles change: the 16384 × `n` words of slot `k` on are what `f` gives them, the hidden state
of slot `k + j` is `st j`, and nothing else of it moves. -/
structure TileWrites (t u : Team) (k n : Nat) (f : Nat → Word) (st : Nat → TileState) : Prop where
  words  : ∀ x, mapGet none u.tiles x =
    if 16384 * k ≤ x ∧ x < 16384 * (k + n) then some (f (x - 16384 * k)) else mapGet none t.tiles x
  states : ∀ j, mapGet TileState.reset u.tstate j =
    if k ≤ j ∧ j < k + n then st (j - k) else mapGet TileState.reset t.tstate j
  rest   : u = { t with tiles := u.tiles, tstate := u.tstate }

/-- A tile instruction done: its team changes as `p` says, no other does, and its operation is left to complete. -/
def TileDone (s t : State) (g : Group) (flag : Option Nat) (p : Team → Prop) : Prop :=
  ∃ u, t.team g.team = some u ∧ p u ∧ (∀ k, k ≠ g.team → t.team k = s.team k) ∧
    Issued { s with teams := t.teams } t g flag .plain true

/-- Word `x` of a slot of a team, free where undefined (01 R13), and the 64-bit element `x` of a pair of slots. -/
def Team.tileWord (t : Team) (slot x : Nat) : Nat :=
  ((mapGet none t.tiles (16384 * slot + x)).getD (Config.undefTile t.key (16384 * slot + x))).toNat
def Team.tilePair (t : Team) (slot x : Nat) : Nat := t.tileWord slot (2 * x) + 2 ^ 32 * t.tileWord slot (2 * x + 1)

/-- What a pass leaves of a team whose columns of B begin at `shift` (09 R223, R226): in the F32 form each element takes
the sums of its products in steps of 16, k ascending; in the exact form, where its products are of finite elements, the
exact sum of the products modulo 2^64 in units of 2^-36. -/
structure Passed (m : MatrixOp) (shift : Nat) (t u : Team) : Prop where
  float  : m.exact = false → ∀ r < 128, ∀ c < 128, u.tileWord m.slot (128 * r + c) =
    floatCell (operandRow m.fmta m.depth m.acodes r) (operandRow m.fmtb m.depth m.bcodes (shift + c))
      (t.tileWord m.slot (128 * r + c)) % 2 ^ 32
  exact  : m.exact = true → ∀ r < 128, ∀ c < 128, ∀ x y : Nat → Int,
    (∀ k < m.depth, (((operandRow m.fmta m.depth m.acodes r)[k]?).bind Num.value) = some ((x k : ℚ) / 2 ^ 16) ∧
      (((operandRow m.fmtb m.depth m.bcodes (shift + c))[k]?).bind Num.value) = some ((y k : ℚ) / 2 ^ 16)) →
    (u.tilePair m.slot (128 * r + c) : Int) = ((t.tilePair m.slot (128 * r + c) : Int) +
      16 * ((List.range m.depth).map fun k => x k * y k).sum) % 2 ^ 64
  nv     : m.exact = true → ((u.tileState m.slot).nv = true ↔ (t.tileState m.slot).nv = true ∨
    ∃ r < 128, ∃ c < 128, ∃ k < m.depth, ((operandRow m.fmta m.depth m.acodes r)[k]?).bind Num.value = none ∨
      ((operandRow m.fmtb m.depth m.bcodes (shift + c))[k]?).bind Num.value = none)
  poison : ∀ j, (u.tileState j).poison = (t.tileState j).poison |||
    if m.slot ≤ j ∧ j < m.slot + (if m.exact = true then 2 else 1) then
      (if m.bpoison.getLsbD (shift / 128) = true then -1#128 else m.apoison) else 0#128
  others : ∀ x, x < 16384 * m.slot ∨ 16384 * (m.slot + if m.exact = true then 2 else 1) ≤ x →
    mapGet none u.tiles x = mapGet none t.tiles x
  rest   : u = { t with tiles := u.tiles, tstate := u.tstate }

/-- The bytes named are in no line whose codeword is wrong or bound to another key and in no atom of U state. -/
structure Clean (s : State) (pas : List Nat) : Prop where
  lines  : ∀ a ∈ pas, s.line (a / 128) = ⟨false, []⟩
  keyed  : ∀ a ∈ pas, s.alien (a / 128) = false
  merged : ∀ a ∈ pas, s.uatom (a / 32) = none

/-- Two teams agree but for scratchpad bytes: byte `p` of the second's is what `f` gives it. -/
structure PadWrites (t u : Team) (f : Nat → Byte) : Prop where
  bytes : ∀ p, mapGet 0#8 u.scratch p = f p
  rest  : u = { t with scratch := u.scratch, spoison := u.spoison, phase := u.phase }

/-- The 16 bytes of a sync word put at `o`, over what `f` gives. -/
def syncAt (o : Nat) (y : SyncWord) (f : Nat → Byte) (p : Nat) : Byte :=
  if o ≤ p ∧ p < o + 16 then (toBytes 16 y.toNat).getD (p - o) 0#8 else f p

/-- The word at an offset of a scratchpad and its poison. -/
def Team.wordAt (t : Team) (o : Nat) : Nat × Bool :=
  (ofBytes ((List.range 4).map fun k => mapGet 0#8 t.scratch (o + k)), mapGet false t.spoison (o / 4))

/-- The walk or task record that `S[a]` names passes the checks of 08 R215 and 09 R237, its bytes being `b` at offset `o`;
its operands are `os`. -/
structure RecordRead (s : State) (g : Group) (a e : BitVec 5) (one : Bool) (o : Nat) (b : List Byte) (os : List Operand) :
    Prop where
  record : s.ownRecord g (g.sreg a.toNat).val.toNat 64 64 (· == 2) = .ok (o, b.map fun x => (x, false))
  clean  : sPoison g 0 [a.toNat] = none ∧ sPoison g 2 [e.toNat] = none
  entry  : okTarget (g.sreg e.toNat).val = true
  ready  : s.recordReady g false o 64 = true ∧ ∀ k ∈ opndOffsets b, s.recordReady g false k 128 = true
  fields : walkBad b (((s.team g.team).map (·.kernel.scratch)).getD 0) one = none
  opnds  : s.readOpnds g b (((s.team g.team).map (·.kernel.scratch)).getD 0) (List.range 4) = .ok os

/-- Block `b` runs a KERNEL whose context is `r`, and a word of its clause is the one to run. -/
structure AtRow (s : State) (b : Block) (r : RowCtx) : Prop where
  cur  : s.cur = .block b.id
  here : s.block b.id = some b
  row  : b.row = some r
  more : r.pos < r.stop

/-- A row word that is done: the block's context is `r'`, and memory, every other block and all else but the meters of its
polder is as before. -/
structure RowDone (s t : State) (b : Block) (r' : RowCtx) : Prop where
  row    : t.block b.id = some { b with row := some r' }
  others : ∀ k, k ≠ b.id → t.block k = s.block k
  rest   : t = { s with blocks := t.blocks, pldrs := t.pldrs }

/-- A context after a word: it stands where `BLOOP` and the order of words lead (09 R251), X[n] and its tag are what `f`
gives, CY is `cy`, and the rest is as before. -/
structure RowStep (r r' : RowCtx) (f : Nat → BitVec 8192 × Bool) (cy : BitVec 8192) : Prop where
  xregs : ∀ n < 8, r'.xreg n = f n
  carry : r'.cy = cy
  rest  : r' = { r with x := r'.x, xpois := r'.xpois, cy := r'.cy, pos := r.advance.pos, loop := r.advance.loop }

/-- A row fault: the command ends its block, which is answered with STATUS 2 (09 R244, R252). -/
def RowFaults (s : State) (b : Block) (n : Instr) : Prop :=
  ∃ t k, exec n s = .next t ∧ t.block b.id = some { b with stage := .answered, status := 2, row := none, order := k }

/-- Bank-row `n` of the page as the command sees it: what it has written, else memory (13 R319, R321). -/
def State.rowValue (s : State) (r : RowCtx) (n : Nat) : BitVec 8192 × Bool :=
  match findBy (fun e => e.1 == n) r.rows with
  | some e => e.2
  | none => (BitVec.ofNat 8192 (ofBytes ((List.range 1024).map fun k => s.byte (r.page + 1024 * n + k))), false)

/-- Bank-row `n`, where the command has not written it, is in lines whose codeword is right and of their owner's key. -/
def State.rowClean (s : State) (r : RowCtx) (n : Nat) : Prop := ∀ k < 1024,
  s.line ((r.page + 1024 * n + k) / 128) = ⟨false, []⟩ ∧ s.alien ((r.page + 1024 * n + k) / 128) = false

/-- The number that bit position `j` of `w` rows from row `n` on spells, least significant row first. -/
def colOf (f : Nat → BitVec 8192) (n w j : Nat) : Nat :=
  ((List.range w).map fun k => if (f (n + k)).getLsbD j = true then 2 ^ k else 0).sum

/-- A block is at command `c`, whose operands stand at `x` and `y` (13 R312); no check-out bars its footprint, and none of
its lines is in U state, wrong or of another key. -/
structure AtCmd (s s1 : State) (b : Block) (c : Cmd) (x y : Nat) : Prop where
  here  : s.block b.id = some b
  cmd   : b.cmds[b.idx]? = some c
  runs  : b.stage = .running
  fields : c.fieldsOk = true
  plan  : s.planCmd b c = (s1, .ok (x, y))
  kept  : s1.block b.id = some b
  free  : s1.spansHeld ((c.spans x y).1 ++ (c.spans x y).2) b.id = false
  merged : ∀ u ∈ s1.uatoms, inSpans ((c.spans x y).1 ++ (c.spans x y).2) (u.atom / 4) = false
  lines : ∀ n, inSpans ((c.spans x y).1 ++ (c.spans x y).2) n = true → s1.line n = ⟨false, []⟩ ∧ s1.alien n = false

/-- A command that took effect: the next is at hand or the block is answered, with `v` its result (09 R243, R245); memory
is `m`. -/
def CmdDone (s t : State) (b : Block) (v : Nat) (m : Nat → Byte) : Prop :=
  (∀ a, t.byte a = m a) ∧ (∀ k, k ≠ b.id → t.block k = s.block k) ∧ ∃ time k, b.time ≤ time ∧ t.block b.id = some
    { b with idx := b.idx + 1, result := BitVec.ofNat 32 v, rpois := false, row := none, time := time, order := k,
             stage := if b.idx + 1 = b.cmds.length then .answered else .running }

/-- The number of `n` bytes of memory, least significant first. -/
def State.numAt (s : State) (a n : Nat) : Nat := ofBytes ((List.range n).map fun k => s.byte (a + k))

/-- Memory with `n` bytes from `a` replaced. -/
def overBytes (a n : Nat) (f : Nat → Byte) (m : Nat → Byte) (p : Nat) : Byte := if a ≤ p ∧ p < a + n then f (p - a) else m p

/-- No copy waits for its check-out, and no record for room (09 R234). -/
def State.noneWait (s : State) : Prop :=
  (∀ o ∈ s.ops, ∀ c, o.kind = .copy c → c.chk = 0 ∨ c.range ≠ none) ∧ (∀ e ∈ s.pldrs, e.2.waitrec = []) ∧ s.trust.pfwait = []

/-- Value `i` that rank `r` of `all` contributes. -/
def contributed (all : List RankData) (r i : Nat) : Nat × Bool :=
  match (all[r]?).bind fun d => d.data[i]? with
  | some v => (v.1.toNat, v.2)
  | none => (0, false)

/-- A group of a team as its launch starts it (01 R13 to R16, R23, 04 R94, 16 R358): `n` threads from lane 0 at `entry`,
each with its TID, V0 and the seed of its TID, zeros in every other register, one frame of the kernel's count, S1 the
team's argument. -/
structure Started (g : Group) (t : Team) (entry : DWord) (n : Nat) (tid : Nat → Word) (v0 : Nat → Reg) (clock : Nat) :
    Prop where
  place : g.core = t.core ∧ g.world = t.world ∧ g.team = t.key ∧ g.grid = t.grid ∧ g.lclock = clock
  lanes : ∀ l < n, (g.lane l).pcv = entry ∧ (g.lane l).tid = tid l ∧ (g.lane l).preds = 0#7 ∧
    (g.lane l).srs = srHash (tid l + BitVec.ofNat 32 (1024 * t.teamid)) ∧
    ∀ r, (g.lane l).vreg r = if r = 0 then v0 l else ⟨0#32, false⟩
  sregs : ∀ r, g.sreg r = if r = 1 then ⟨t.args, false⟩ else ⟨0#64, false⟩
  clear : g.cregs = 0#4 ∧ g.qregs = [] ∧ g.flags = [] ∧ g.jregs = [] ∧ g.issue = none ∧ g.waiting = .no ∧ g.swapped = false
  frame : ∃ f, g.frames = [⟨f, t.kernel.frame, 0#64, none, false, f, [], []⟩]

/-- What `LAUNCH` leaves of its group: its status `n` in `S[b]`, its clock raised (08 R216). -/
def LaunchStatus (t : State) (g : Group) (b : BitVec 5) (n : Nat) : Prop :=
  ∃ h, t.group g.gid = some h ∧ g.lclock ≤ h.lclock ∧
    ScalarFrame { g with lclock := h.lclock, since := none, launching := none } h b.toNat ⟨BitVec.ofNat 64 n, false⟩

/-- An access of an agent outside the device reaches the bytes `pas` (11 R293): a read answers them and a write replaces
them, every other byte staying. -/
def Serves (s s1 : State) (n : Instr) (pas : List Nat) (write : Option (List Byte)) : Prop :=
  s1.held pas none = false → Clean s1 pas → pas.Nodup →
  (write = none → ∃ t, exec n s = .next t ∧ (∀ p, t.byte p = s1.byte p) ∧
    t.outbox = s1.outbox ++ [.data (pas.map s1.byte) false]) ∧
  ∀ bs, write = some bs → bs.length = pas.length → ∃ t, exec n s = .next t ∧ t.outbox = s1.outbox ∧
    ∀ p, t.byte p = (lastAt (List.zip pas bs) p).getD (s1.byte p)

/-- An access refused: an unsupported request is answered, and no byte changes (18 R410, R484). -/
def Refuses (s s1 : State) (n : Instr) : Prop :=
  ∃ t, exec n s = .next t ∧ t = { s1 with outbox := t.outbox } ∧ t.outbox = s1.outbox ++ [.unsupportedRequest]

/-- A write to the slice map refused: SMSTAT's bit `b` is set and nothing else changes (17 R373). -/
def MapRefused (s t : State) (b : Nat) : Prop :=
  t = { s with trust := { s.trust with smstat := s.trust.smstat ||| BitVec.ofNat 4 (2 ^ b) } }

/-- The machine right after the debug wipe that ends in a mode: only the rollback counters and the life-cycle fuses keep
their values, and every byte of memory is lost (22 R471). -/
def Wiped (s t : State) (mode : Nat) : Prop :=
  t = { State.reset with trust := t.trust, cxl := s.cxl, throttled := s.throttled, clock := s.clock, hclock := s.hclock,
                         fresh := s.fresh, ids := s.ids, moves := s.moves, turn := s.turn, outbox := s.outbox } ∧
  t.trust = { Trust.reset with lcs := s.trust.lcs, fusetc := s.trust.fusetc, fusefw := s.trust.fusefw,
                               mode := BitVec.ofNat 2 mode, keys := false, drbg := false }

/-- The command that the mailbox serves next (17 R380): from world 60's where `own`, with an operation. -/
def Mail (s : State) (own : Bool) (m : Mailbox) (op : Nat) : Prop := s.mail = some (own, m) ∧ m.op.toNat = op

/-- The command served ends with a code and an LSTAT, and the next one in order follows (17 R380). -/
structure Served (s t : State) (own : Bool) (m : Mailbox) (code lstat : Nat) : Prop where
  box   : t.trust.mbox own = { m with go := false, code := BitVec.ofNat 8 code, lstat := BitVec.ofNat 8 lstat }
  other : t.trust.mbox (!own) = s.trust.mbox (!own)
  order : t.trust.order = s.trust.order.drop 1

/-- A command ends at once with a code, and nothing but the mailboxes changes. -/
def Ends (s : State) (n : Instr) (own : Bool) (m : Mailbox) (code : Nat) : Prop :=
  ∃ t, exec n s = .next t ∧ Served s t own m code 0 ∧
    t = { s with trust := { s.trust with mbox0 := t.trust.mbox0, mbox60 := t.trust.mbox60, order := t.trust.order } }

/-- Only polder `w`, and what an event sends, changes: the polder becomes `p`. -/
def PolderTo (s t : State) (w : Nat) (p : Polder) : Prop :=
  t = { s with pldrs := t.pldrs, outbox := t.outbox } ∧ t.polder w = p ∧ ∀ v, v ≠ w → t.polder v = s.polder v

/-- One answer sent. -/
def Sends (s t : State) (r : Reply) : Prop := t.outbox = s.outbox ++ [r]

/-- The release of a polder has begun (21 R462): its state says so, its saved teams, open sluice, import and communicators are
gone, and no check-out range of a grid of its own is left. What of its work runs on is the model's reading, log entry 65. -/
structure Releasing (s t : State) (w : Nat) (stop : Bool) : Prop where
  state  : (t.polder w).state = .releasing ∧ (t.polder w).byStop = stop ∧
    ((t.polder w).quar = true ↔ (s.polder w).state = .quarantined)
  polder : (t.polder w).saved = [] ∧ (t.polder w).sluice = none ∧ (t.polder w).importing = none ∧
    (t.polder w).stopping = none ∧ (t.polder w).shrink = none ∧ (t.polder w).susp = false
  gone   : (∀ c ∈ t.comms, c.world ≠ w) ∧ ∀ k ∈ t.grids, k.world = w → ∀ r ∈ t.ranges, r.grid ≠ k.key

/-- A polder is FREE again: its work is gone, its meters are sealed into its release record, its memory is zero, and the slice
map names it nowhere (21 R462, 22 R467). -/
structure Freed (s t : State) (w : Nat) : Prop where
  polder : t.polder w = Polder.reset
  owned  : (∀ p, mapGet 63#6 t.pcown p ≠ BitVec.ofNat 6 w) ∧ ∀ c < 48, mapGet 63#6 t.clown c ≠ BitVec.ofNat 6 w
  zeroed : ∀ a, s.owner a = w → t.byte a = 0#8
  gone   : (∀ g ∈ t.groups, g.world ≠ w) ∧ (∀ tm ∈ t.teams, tm.world ≠ w) ∧ (∀ o ∈ t.ops, o.world ≠ w) ∧
    (∀ k ∈ t.grids, k.world ≠ w) ∧ (∀ k ∈ t.graphs, k.world ≠ w) ∧ ∀ e ∈ t.launches, e.world ≠ w
  signed : mapGet [] t.trust.records w = s.releaseSigned w ++ s.trust.sign (s.releaseSigned w)

end Sys2Proof.Machine
end

