-- ==== Sys2Proof/Certificates/Slice0/Obligations.lean ====
section
/-!
DEFINITION. Sys2Proof/Certificates/Slice0/Obligations.lean: the statements for the provers.
-/
open Sys2Proof Sys2Proof.Machine

/-- `SADD` to `SMAX` complete with the values, the tag and the frame of 05 R113, for every form of their sources, and
`SSEL` with the chosen source and its tag alone (R117). The immediate forms of 05 R114 and the constants of R115. -/
def Obligations.ScalarArithmetic : Prop :=
  (∀ (s s' : State) (g g' : Group) (i : Issue) (y x t : BitVec 1) (c : BitVec 2) (b a d : BitVec 5) (es : List QEntry)
     (va vb : SReg),
     AtWord s g i → Ready s g [] [] (ssrcRegs [⟨x, a⟩, ⟨y, b⟩] ++ [d.toNat]) →
     Pops s g i true (ssrcQueues [⟨x, a⟩, ⟨y, b⟩]) s' es → s'.group g.gid = some g' →
     ssrcVals g [⟨x, a⟩, ⟨y, b⟩] es = [va, vb] →
     let out := fun n (r : DWord) => ScalarWrites s s' g g' n d ⟨r, va.poison || vb.poison⟩
     let p := va.val
     let q := vb.val
     out (.sadd y x b a d) (BitVec.ofNat 64 (p.toNat + q.toNat)) ∧
     out (.ssub y x b a d) (BitVec.ofInt 64 (p.toNat - q.toNat)) ∧
     out (.sand y x b a d) (p &&& q) ∧ out (.sor y x b a d) (p ||| q) ∧ out (.sxor y x b a d) (p ^^^ q) ∧
     out (.sshl y x b a d) (BitVec.ofNat 64 (p.toNat * 2 ^ (q.toNat % 64))) ∧
     out (.sshr y x b a d) (BitVec.ofNat 64 (p.toNat / 2 ^ (q.toNat % 64))) ∧
     out (.ssar y x b a d) (BitVec.ofInt 64 (p.toInt / 2 ^ (q.toNat % 64))) ∧
     out (.smul y x b a d) (BitVec.ofNat 64 (p.toNat * q.toNat)) ∧
     out (.smulh y x t b a d) (if t = 0#1 then BitVec.ofInt 64 (p.toInt * q.toInt / 2 ^ 64)
       else BitVec.ofNat 64 (p.toNat * q.toNat / 2 ^ 64)) ∧
     out (.smin y x t b a d) (if t = 0#1 then BitVec.ofInt 64 (min p.toInt q.toInt)
       else BitVec.ofNat 64 (min p.toNat q.toNat)) ∧
     out (.smax y x t b a d) (if t = 0#1 then BitVec.ofInt 64 (max p.toInt q.toInt)
       else BitVec.ofNat 64 (max p.toNat q.toNat)) ∧
     ScalarWrites s s' g g' (.ssel y x c b a d) d (if g.creg c.toNat = true then va else vb)) ∧
  (∀ (s : State) (g : Group) (i : Issue) (m : BitVec 12) (n : BitVec 6) (u : BitVec 20) (a d : BitVec 5),
     AtWord s g i → Ready s g [] [] [a.toNat, d.toNat] →
     let p := (g.sreg a.toNat).val
     let out := fun k (r : DWord) => ScalarWrites s s g g k d ⟨r, (g.sreg a.toNat).poison⟩
     let clear := fun k (r : DWord) => ScalarWrites s s g g k d ⟨r, false⟩
     out (.saddi m a d) (BitVec.ofInt 64 (p.toInt + m.toInt)) ∧
     out (.sandi m a d) (p &&& BitVec.ofInt 64 m.toInt) ∧
     out (.sori m a d) (p ||| BitVec.ofInt 64 m.toInt) ∧
     out (.sxori m a d) (p ^^^ BitVec.ofInt 64 m.toInt) ∧
     out (.sshli n a d) (BitVec.ofNat 64 (p.toNat * 2 ^ n.toNat)) ∧
     out (.sshri n a d) (BitVec.ofNat 64 (p.toNat / 2 ^ n.toNat)) ∧
     out (.ssari n a d) (BitVec.ofInt 64 (p.toInt / 2 ^ n.toNat)) ∧
     clear (.slui u d) (BitVec.ofInt 64 (u.toInt * 2 ^ 12)) ∧
     clear (.sapc u d) (BitVec.ofInt 64 (i.hdr.toInt + u.toInt * 2 ^ 12)))

/-- `SCMP` and `SCMPI` write one C predicate and nothing else (05 R116, 02 R52); a poisoned operand raises POISON_USE
after the pops (which index that record names, the first poisoned operand's register or queue number, is the model's choice,
log entry 17). `SMOVS` reads the uniform special values of 01 R23 with a clear tag (05 R118), and its write form
clears the sticky bits PSN, REGROUPED and UNIF that its source names, and changes no other bit of GSTAT (05 R119); a read
of GSTAT and the write form wait while an instruction before them may still set a sticky bit. -/
def Obligations.ScalarCompareAndSpecials : Prop :=
  (∀ (s s' : State) (g g' : Group) (i : Issue) (y x : BitVec 1) (t : BitVec 2) (c : BitVec 4) (b a : BitVec 5)
     (k : BitVec 2) (c3 : BitVec 3) (m : BitVec 12) (es : List QEntry) (va vb : SReg),
     AtWord s g i → Ready s g [] [] (ssrcRegs [⟨x, a⟩, ⟨y, b⟩] ++ [a.toNat]) →
     Pops s g i true (ssrcQueues [⟨x, a⟩, ⟨y, b⟩]) s' es → s'.group g.gid = some g' →
     ssrcVals g [⟨x, a⟩, ⟨y, b⟩] es = [va, vb] → WellFormed (.scmp y x t c b a k) → WellFormed (.scmpi c3 m a k) →
     (va.poison = false → vb.poison = false → ∃ u h r, exec (.scmp y x t c b a k) s = .next u ∧
       u.group g.gid = some h ∧ CFrame g' h k.toNat r ∧ Elsewhere s' u g ∧
       (r = true ↔ match t.toNat with
         | 0 => IntCond c.toNat va.val.toInt vb.val.toInt
         | 1 => IntCond c.toNat va.val.toNat vb.val.toNat
         | 2 => IntCond c.toNat (va.val.setWidth 32).toInt (vb.val.setWidth 32).toInt
         | _ => IntCond c.toNat (va.val.setWidth 32).toNat (vb.val.setWidth 32).toNat)) ∧
     (va.poison = true ∨ vb.poison = true → ∃ n, exec (.scmp y x t c b a k) s = .next (s'.raise g.gid i.len
       { cause := poisonUse, detail := 1, index := n }) ∧
       n = if va.poison = true then (if x = 1#1 then a.toNat % 4 else a.toNat)
         else if y = 1#1 then b.toNat % 4 else b.toNat) ∧
     ((g.sreg a.toNat).poison = false → ∃ u h r, exec (.scmpi c3 m a k) s = .next u ∧ u.group g.gid = some h ∧
       CFrame g h k.toNat r ∧ Elsewhere s u g ∧ (r = true ↔ IntCond c3.toNat (g.sreg a.toNat).val.toInt m.toInt)) ∧
     ((g.sreg a.toNat).poison = true → exec (.scmpi c3 m a k) s = .next (s.raise g.gid i.len
       { cause := poisonUse, detail := 1, index := a.toNat }))) ∧
  (∀ (s s' : State) (g g' : Group) (i : Issue) (n : BitVec 6) (x : BitVec 1) (a d : BitVec 5) (es : List QEntry)
     (va : SReg) (tm : Team) (k : Grid),
     AtWord s g i → Ready s g [] [] (ssrcRegs [⟨x, a⟩] ++ [d.toNat]) → s.team g.team = some tm → s.grid g.grid = some k →
     (n.toNat = 9 → s.stickyPending g = true → exec (.smovs n d) s = .next s) ∧
     (s.stickyPending g = true → exec (.smovsWrite x a) s = .next s) ∧
     (WellFormed (.smovs n d) → (n.toNat = 9 → s.stickyPending g = false) →
       ScalarWrites s s g g (.smovs n d) d ⟨match n.toNat with
       | 2 => BitVec.ofNat 64 g.slot
       | 3 => BitVec.ofNat 64 tm.teamid
       | 4 => BitVec.ofNat 64 (tm.teamid / max 1 k.gang)
       | 5 => k.gridid.setWidth 64
       | 6 => BitVec.ofNat 64 g.world
       | 7 => BitVec.ofNat 64 s.clock
       | 8 => BitVec.ofNat 64 g.lclock
       | _ => g.gstat.setWidth 64, false⟩) ∧
     (s.stickyPending g = false → Pops s g i true (ssrcQueues [⟨x, a⟩]) s' es → s'.group g.gid = some g' →
       ssrcVals g [⟨x, a⟩] es = [va] →
       (va.poison = false → ∃ u h, exec (.smovsWrite x a) s = .next u ∧ u.group g.gid = some h ∧ Elsewhere s' u g ∧
         (∀ j, h.gstat.getLsbD j =
           if j = 0 ∨ j = 2 ∨ j = 3 then g'.gstat.getLsbD j && !va.val.getLsbD j else g'.gstat.getLsbD j) ∧
         (∀ l, SameButPc (g'.lane l) (h.lane l)) ∧
         h = { g' with gstat := h.gstat, lanes := h.lanes, issue := h.issue, popped := h.popped }) ∧
       (va.poison = true → exec (.smovsWrite x a) s = .next (s'.raise g.gid i.len
         { cause := poisonUse, detail := 1, index := if x = 1#1 then a.toNat % 4 else a.toNat }))))

/-- `SPUSH` of a register, or of the head of a queue, onto a queue with room completes: it appends one entry with the
source's value, its tag and the group's clock, the group's earlier stores being performed (05 R123, R124); on a full
queue it waits with nothing popped, and with room, and stores still to be performed, it waits no longer stalled on a full
queue. A vector object as its source raises ILLEGAL_OP before an unbound, consumer-bound or queueless Q register
raises QUEUE_ORPHAN, and a vector object as its destination raises ILLEGAL_OP (02 R71). `MRD` completes with a count that
is no smaller than any returned before for the meter, and than the count when the launch began, and, where those are no
greater, no greater than the present count (which of them is free, log entry 12); in world 60 it writes zero (05 R125). -/
def Obligations.QueuePushAndMeters : Prop :=
  (∀ (s : State) (g : Group) (i : Issue) (x : BitVec 1) (a : BitVec 5) (q : BitVec 2), AtWord s g i →
     ((ssrcQueues [⟨x, a⟩]).any (s.vectorBound g) = true →
       exec (.spush x a q) s = .next (s.raise g.gid i.len (i.illegal detailOperand))) ∧
     ((ssrcQueues [⟨x, a⟩]).any (s.vectorBound g) = false →
       findBy (fun e => e.1 == q.toNat) g.qregs = none ∨
         (∃ b, findBy (fun e => e.1 == q.toNat) g.qregs = some (q.toNat, b) ∧
           (b.producer = false ∨ s.queue (s.gangOf g) b.obj = none)) →
       exec (.spush x a q) s = .next (s.raise g.gid i.len { cause := queueOrphan, index := q.toNat }))) ∧
  (∀ (s s' : State) (g g' : Group) (i : Issue) (x : BitVec 1) (a : BitVec 5) (q : BitVec 2) (es : List QEntry)
     (va : SReg) (b : QBind) (u v : Queue),
     AtWord s g i → findBy (fun e => e.1 == q.toNat) g.qregs = some (q.toNat, b) →
     s.queue (s.gangOf g) b.obj = some u → (ssrcQueues [⟨x, a⟩]).any (s.vectorBound g) = false → b.producer = true →
     let s0 := if g.spush.isSome = true then s.modGroup g.gid (fun h => { h with spush := none }) else s
     let pushed := fun (w : Queue) (c : Nat) (r : SReg) => if w.drained = true then w else { w with
       entries := w.entries ++ [⟨[r.val.setWidth 32, (r.val >>> 32).setWidth 32], r.poison, c⟩] }
     (u.vector = true → exec (.spush x a q) s = .next (s.raise g.gid i.len (i.illegal detailOperand))) ∧
     (u.vector = false → 64 ≤ u.entries.length →
       ∃ t h, exec (.spush x a q) s = .next t ∧ t.queues = s.queues ∧ t.group g.gid = some h ∧
         h = { g with spush := some i.idx, since := some (g.since.getD s.clock) }) ∧
     (u.vector = false → u.entries.length < 64 → s.performed g.gid Op.nearStore = false →
       exec (.spush x a q) s = .next s0) ∧
     (u.vector = false → u.entries.length < 64 → s.performed g.gid Op.nearStore = true →
       (Ready s0 g [] [] (ssrcRegs [⟨x, a⟩]) →
         Pops s0 g i true (ssrcQueues [⟨x, a⟩]) s' es → s'.group g.gid = some g' → ssrcVals g [⟨x, a⟩] es = [va] →
         s'.queue (s.gangOf g) b.obj = some v →
         ∃ t h, exec (.spush x a q) s = .next t ∧ (∀ p, t.byte p = s'.byte p) ∧ t.group g.gid = some h ∧
           (∀ l, SameButPc (g'.lane l) (h.lane l)) ∧
           h = { g' with spush := none, since := none, lanes := h.lanes, issue := h.issue, popped := h.popped } ∧
           t.queue (s.gangOf g) b.obj = some (pushed v g'.lclock va)) ∧
       (x = 0#1 → Ready s0 g [] [] [a.toNat] → ∃ t, exec (.spush x a q) s = .next t ∧
         (∀ p, t.byte p = s.byte p) ∧ t.queue (s.gangOf g) b.obj = some (pushed u g.lclock (g.sreg a.toNat))) ∧
       (∀ c w e es, x = 1#1 → g.popped = [] →
         findBy (fun e => e.1 == a.toNat % 4) g.qregs = some (a.toNat % 4, c) → c.producer = false →
         s.queue (s.gangOf g) c.obj = some w → w.entries = e :: es → ∃ t, exec (.spush x a q) s = .next t ∧
           (∀ p, t.byte p = s.byte p) ∧ (c.obj ≠ b.obj → t.queue (s.gangOf g) c.obj = some { w with entries := es }) ∧
           t.queue (s.gangOf g) b.obj = some (pushed (if c.obj = b.obj then { u with entries := es } else u)
             (max g.lclock e.clock) e.scalar)))) ∧
  (∀ (s : State) (g : Group) (i : Issue) (m d : BitVec 5), AtWord s g i → Ready s g [] [] [d.toNat] →
     (48 ≤ g.world → ScalarWrites s s g g (.mrd m d) d ⟨0#64, false⟩) ∧
     (g.world < 48 → ∃ t h n, exec (.mrd m d) s = .next t ∧ t.group g.gid = some h ∧
       ScalarFrame g h d.toNat ⟨BitVec.ofNat 64 n, false⟩ ∧ (∀ a, t.byte a = s.byte a) ∧
       mapGet 0 (s.polder g.world).shown m.toNat ≤ n ∧ (∀ k, s.grid g.grid = some k → mapGet 0 k.base m.toNat ≤ n) ∧
       (mapGet 0 (s.polder g.world).shown m.toNat ≤ mapGet 0 (s.polder g.world).meters m.toNat →
         (∀ k, s.grid g.grid = some k → mapGet 0 k.base m.toNat ≤ mapGet 0 (s.polder g.world).meters m.toNat) →
         n ≤ mapGet 0 (s.polder g.world).meters m.toNat) ∧ mapGet 0 (t.polder g.world).shown m.toNat = n))

/-- `SLD` and `SST` pass their checks and leave one access in flight, at the address of 05 R120; nothing of memory has
changed since the translation. A poisoned base raises POISON_USE. -/
def Obligations.ScalarAccess : Prop :=
  ∀ (s s' : State) (g : Group) (i : Issue) (w : BitVec 3) (m : BitVec 12) (a d : BitVec 5) (f : BitVec 1) (p : Place)
    (ls : List Loc),
    AtWord s g i → Ready s g [] [] [a.toNat, d.toNat] → g.flagFree (i.flag f) = true →
    let n := 2 ^ (w.toNat % 4)
    let adr := ((g.sreg a.toNat).val + m.signExtend 64).toNat
    ((g.sreg a.toNat).poison = true →
      exec (.sld w m a d f) s = .next (s.raise g.gid i.len
        { cause := poisonUse, detail := 0, index := a.toNat, addr := (g.sreg a.toNat).val.toNat }) ∧
      exec (.sst w m a d f) s = .next (s.raise g.gid i.len
        { cause := poisonUse, detail := 0, index := a.toNat, addr := (g.sreg a.toNat).val.toNat })) ∧
    ((g.sreg a.toNat).poison = false → s.access g (pathsLoad n) true 0 n [(64, adr)] = (s', .ok [(64, p, ls)]) →
      (∀ l c r b, p ≠ .win l c r b) → ∃ t, exec (.sld w m a d f) s = .next t ∧
        Issued s' t g (i.flag f) (.load d.toNat n (4 ≤ w.toNat) true [⟨64, 0, ls, [], false⟩]) false) ∧
    ((g.sreg a.toNat).poison = false → s.access g (pathsStore n) true 1 n [(64, adr)] = (s', .ok [(64, p, ls)]) →
      (∀ l c r b, p ≠ .win l c r b) → ls ≠ [] → ∃ t, exec (.sst w m a d f) s = .next t ∧
        Issued s' t g (i.flag f) (.store n [⟨64, 0, ls, toBytes n (g.sreg d.toNat).val.toNat,
          (g.sreg d.toNat).poison⟩]) false)

/-- The two-source integer words of 06 R139 write their result with the OR of the tags in each contributing lane, and
nothing else; on pairs `VADD.B64` and `VSUB.B64` write both registers. -/
def Obligations.LaneInteger : Prop :=
  ∀ (s : State) (g : Group) (i : Issue) (gd : BitVec 4) (b a d : BitVec 7),
    let ls := g.contributing i gd
    (LaneReady s g i ls [a.toNat, b.toNat, d.toNat] [] →
      let out := fun n (r : Word → Word → Word) => LaneWrites s s g g n ls [d.toNat] fun l _ =>
        ⟨r (vAt g a l) (vAt g b l), tagAt g [a.toNat, b.toNat] l⟩
      out (.vaddB32 gd b a d) (fun p q => BitVec.ofNat 32 (p.toNat + q.toNat)) ∧
      out (.vsubB32 gd b a d) (fun p q => BitVec.ofInt 32 (p.toNat - q.toNat)) ∧
      out (.vmulB32 gd b a d) (fun p q => BitVec.ofNat 32 (p.toNat * q.toNat)) ∧
      out (.vmulhS32 gd b a d) (fun p q => BitVec.ofInt 32 (p.toInt * q.toInt / 2 ^ 32)) ∧
      out (.vmulhN32 gd b a d) (fun p q => BitVec.ofNat 32 (p.toNat * q.toNat / 2 ^ 32)) ∧
      out (.vminS32 gd b a d) (fun p q => BitVec.ofInt 32 (min p.toInt q.toInt)) ∧
      out (.vmaxS32 gd b a d) (fun p q => BitVec.ofInt 32 (max p.toInt q.toInt)) ∧
      out (.vminN32 gd b a d) (fun p q => BitVec.ofNat 32 (min p.toNat q.toNat)) ∧
      out (.vmaxN32 gd b a d) (fun p q => BitVec.ofNat 32 (max p.toNat q.toNat)) ∧
      out (.vshlB32 gd b a d) (fun p q => BitVec.ofNat 32 (p.toNat * 2 ^ q.toNat)) ∧
      out (.vshrN32 gd b a d) (fun p q => BitVec.ofNat 32 (p.toNat / 2 ^ q.toNat)) ∧
      out (.vshrS32 gd b a d) (fun p q => BitVec.ofInt 32 (p.toInt / 2 ^ q.toNat))) ∧
    (LaneReady s g i ls ([a.toNat, a.toNat + 1, b.toNat, b.toNat + 1] ++ [d.toNat, d.toNat + 1]) [] →
      let out := fun n (r : DWord → DWord → DWord) => LaneWrites s s g g n ls [d.toNat, d.toNat + 1] fun l k =>
        ⟨(r (pairOf g a l) (pairOf g b l) >>> (32 * (k - d.toNat))).setWidth 32,
          tagAt g [a.toNat, a.toNat + 1, b.toNat, b.toNat + 1] l⟩
      out (.vaddB64 gd b a d) (fun p q => BitVec.ofNat 64 (p.toNat + q.toNat)) ∧
      out (.vsubB64 gd b a d) (fun p q => BitVec.ofInt 64 (p.toNat - q.toNat)))

/-- 06 R141: `VBFE` extracts the field at V[B][4:0] of length V[B][13:8], cut at bit 31, zero-extended or sign-extended
from its top bit; a field of no bits gives 0. 06 R143: `VLOP3` is the lookup of `lut` bit by bit, and all three
sources give their tags whatever `lut` is. -/
def Obligations.BitFieldsAndLogic : Prop :=
  (∀ (s : State) (g : Group) (i : Issue) (gd : BitVec 4) (b a d : BitVec 7),
     let ls := g.contributing i gd
     LaneReady s g i ls [a.toNat, b.toNat, d.toNat] [] →
     let pos := fun l => (vAt g b l).toNat % 32
     let w := fun l => min ((vAt g b l).toNat / 256 % 64) (32 - pos l)
     ∃ n z : Nat → Word,
       LaneWrites s s g g (.vbfeN32 gd b a d) ls [d.toNat] (fun l _ => ⟨n l, tagAt g [a.toNat, b.toNat] l⟩) ∧
       LaneWrites s s g g (.vbfeS32 gd b a d) ls [d.toNat] (fun l _ => ⟨z l, tagAt g [a.toNat, b.toNat] l⟩) ∧
       (∀ l k, k < 32 → (n l).getLsbD k = (decide (k < w l) && (vAt g a l).getLsbD (pos l + k))) ∧
       (∀ l k, k < 32 → (z l).getLsbD k =
         (decide (w l ≠ 0) && (vAt g a l).getLsbD (pos l + min k (w l - 1))))) ∧
  (∀ (s s' : State) (g g' : Group) (i : Issue) (gd : BitVec 4) (b a d c : BitVec 7) (lut : BitVec 8)
     (qc qb qa : BitVec 1) (es : List QEntry),
     let ls := g.contributing i gd
     let srcs := [vsrc qa a, vsrc qb b, vsrc qc c]
     LaneReady s g i ls (vsrcRegs srcs ++ [d.toNat]) [] → Pops s g i false (vsrcQueues srcs) s' es →
     s'.group g.gid = some g' →
     ∃ r : Nat → Word,
       LaneWrites s s' g g' (.vlop3B32 gd b a d lut qc qb qa c) ls [d.toNat] (fun l _ => ⟨r l, laneTag' g es srcs l⟩) ∧
       ∀ l k, k < 32 → (r l).getLsbD k = lut.getLsbD (4 * ((laneVal g es srcs l 0).val.getLsbD k).toNat +
         2 * ((laneVal g es srcs l 1).val.getLsbD k).toNat + ((laneVal g es srcs l 2).val.getLsbD k).toNat))

/-- 06 R145: `VSEL` writes V[A] where the guard is true and V[B] where it is false, in every active lane, with the tag of
the value chosen; other lanes are not written. -/
def Obligations.LaneSelect : Prop :=
  ∀ (s : State) (g : Group) (i : Issue) (gd : BitVec 4) (b a d : BitVec 7),
    let ls := maskLanes i.lanes
    LaneReady s g i ls [a.toNat, b.toNat, d.toNat] [] →
    LaneWrites s s g g (.vselB32 gd b a d) ls [d.toNat] fun l _ =>
      if (g.lane l).guard gd = true then (g.lane l).vreg a.toNat else (g.lane l).vreg b.toNat

/-- The unary words of 06 R140, the inserts, immediates and the multiply-add of R142, R144 and R146. A `VBFI` of LEN 33 to
63, of which the rule says nothing, reaches bit 31 as one of 32 does: the model's choice, log entry 56. -/
def Obligations.LaneMoves : Prop :=
  ∀ (s s' : State) (g g' : Group) (i : Issue) (gd : BitVec 4) (b a d c : BitVec 7) (len : BitVec 6) (pos : BitVec 5)
    (m : BitVec 16) (qc qb qa : BitVec 1) (es : List QEntry),
    let ls := g.contributing i gd
    let v := fun srcs l k => (laneVal g es srcs l k).val
    (LaneReady s g i ls [a.toNat, d.toNat] [] →
      ∃ n z y : Nat → Word,
        LaneWrites s s g g (.vmovB32 gd a d) ls [d.toNat] (fun l _ => (g.lane l).vreg a.toNat) ∧
        LaneWrites s s g g (.vbcntB32 gd a d) ls [d.toNat] (fun l _ => ⟨n l, tagAt g [a.toNat] l⟩) ∧
        LaneWrites s s g g (.vclzB32 gd a d) ls [d.toNat] (fun l _ => ⟨z l, tagAt g [a.toNat] l⟩) ∧
        LaneWrites s s g g (.vbrevB32 gd a d) ls [d.toNat] (fun l _ => ⟨y l, tagAt g [a.toNat] l⟩) ∧
        LaneWrites s s g g (.vmoviB32 gd a d m 1#2) ls [d.toNat] (fun l _ =>
          ⟨BitVec.ofNat 32 (m.toNat * 2 ^ 16 + (vAt g a l).toNat % 2 ^ 16), tagAt g [a.toNat] l⟩) ∧
        (∀ l, (n l).toNat = ((List.range 32).filter fun k => (vAt g a l).getLsbD k).length) ∧
        (∀ l, (z l).toNat = if vAt g a l = 0#32 then 32 else 31 - Nat.log2 (vAt g a l).toNat) ∧
        (∀ l k, k < 32 → (y l).getLsbD k = (vAt g a l).getLsbD (31 - k))) ∧
    (LaneReady s g i ls [d.toNat] [] →
      LaneWrites s s g g (.vmoviB32 gd a d m 0#2) ls [d.toNat] fun _ _ => ⟨BitVec.ofInt 32 m.toInt, false⟩) ∧
    (LaneReady s g i ls [d.toNat] [a.toNat % 32] →
      LaneWrites s s g g (.vmoviB32 gd a d m 2#2) ls [d.toNat] (fun _ _ =>
        ⟨(g.sreg (a.toNat % 32)).val.setWidth 32, (g.sreg (a.toNat % 32)).poison⟩) ∧
      LaneWrites s s g g (.vmoviB32 gd a d m 3#2) ls [d.toNat] fun _ _ =>
        ⟨((g.sreg (a.toNat % 32)).val >>> 32).setWidth 32, (g.sreg (a.toNat % 32)).poison⟩) ∧
    (let srcs := [vsrc qa a];
      LaneReady s g i ls (vsrcRegs srcs ++ [d.toNat]) [] → Pops s g i false (vsrcQueues srcs) s' es →
      s'.group g.gid = some g' →
      LaneWrites s s' g g' (.vaddiB32 gd a d m qa) ls [d.toNat] fun l _ =>
        ⟨BitVec.ofInt 32 ((v srcs l 0).toInt + m.toInt), laneTag' g es srcs l⟩) ∧
    (let srcs := [vsrc qa a, vsrc qb b];
      LaneReady s g i ls (vsrcRegs srcs ++ [d.toNat]) [] → Pops s g i false (vsrcQueues srcs) s' es →
      s'.group g.gid = some g' →
      ∃ r : Nat → Word,
        LaneWrites s s' g g' (.vbfiB32 gd b a d len pos qb qa) ls [d.toNat] (fun l _ => ⟨r l, laneTag' g es srcs l⟩) ∧
        ∀ l k, k < 32 → (r l).getLsbD k =
          if pos.toNat ≤ k ∧ k < pos.toNat + len.toNat then (v srcs l 1).getLsbD (k - pos.toNat)
          else (v srcs l 0).getLsbD k) ∧
    (let srcs := [vsrc qa a, vsrc qb b, vsrc qc c];
      LaneReady s g i ls (vsrcRegs srcs ++ [d.toNat]) [] → Pops s g i false (vsrcQueues srcs) s' es →
      s'.group g.gid = some g' →
      LaneWrites s s' g g' (.vmadB32 gd b a d qc qb qa c) ls [d.toNat] fun l _ =>
        ⟨BitVec.ofNat 32 ((v srcs l 0).toNat * (v srcs l 1).toNat + (v srcs l 2).toNat), laneTag' g es srcs l⟩)

/-- The floating-point lane words of 06 R148 to R151 write the correctly rounded result of 04 R91 (sum, difference,
product; round-to-nearest) of their elements, the lesser or greater of R149, the approximations of R103, and `VFMA`
the sum of the exact product and the addend rounded once in its mode, with the OR of the tags. `VCVT` writes each
element of its destination span as the conversion of the source span's element, rounded in its mode with the lane's
draws, with the OR of the tags in every register (06 R152 to R154). -/
def Obligations.LaneFloatAndConvert : Prop :=
  (∀ (s s' : State) (g g' : Group) (i : Issue) (gd : BitVec 4) (b a d c : BitVec 7) (qc qb qa ab ng st : BitVec 1)
     (rm : BitVec 3) (es : List QEntry),
     let ls := g.contributing i gd
     let z := ftzOf g
     (LaneReady s g i ls [a.toNat, d.toNat] [] →
       let un := fun n (op : Nat → Nat) => LaneWrites s s g g n ls [d.toNat] fun l _ =>
         ⟨BitVec.ofNat 32 (op (vAt g a l).toNat), tagAt g [a.toNat] l⟩
       un (.frcpF32 gd a d) frcp ∧ un (.frsqF32 gd a d) frsq ∧ un (.fex2F32 gd a d) fex2 ∧ un (.flg2F32 gd a d) flg2) ∧
     (LaneReady s g i ls [a.toNat, b.toNat, d.toNat] [] →
       let out := fun n (r : Word → Word → Word) => LaneWrites s s g g n ls [d.toNat] fun l _ =>
         ⟨r (vAt g a l) (vAt g b l), tagAt g [a.toNat, b.toNat] l⟩
       let single := fun n (op : Machine.Num → Machine.Num → Machine.Num) => out n fun p q =>
         BitVec.ofNat 32 (Machine.round f32 0 false false 0 (op (f32.decode p.toNat) (f32.decode q.toNat)))
       let halves := fun n f (op : Machine.Num → Machine.Num → Machine.Num) => out n (onHalves fun p q =>
         Machine.round f 0 false z 0 (op (f.read z p) (f.read z q)))
       single (.vfaddF32 gd b a d) (Machine.Num.add false) ∧ single (.vfsubF32 gd b a d) (fun x y => x.add false y.neg) ∧
       single (.vfmulF32 gd b a d) Machine.Num.mul ∧
       out (.vfminF32 gd b a d) (fun p q => BitVec.ofNat 32 (fext f32 false p.toNat q.toNat)) ∧
       out (.vfmaxF32 gd b a d) (fun p q => BitVec.ofNat 32 (fext f32 true p.toNat q.toNat)) ∧
       halves (.vfaddF16x2 gd b a d) f16 (Machine.Num.add false) ∧ halves (.vfmulF16x2 gd b a d) f16 Machine.Num.mul ∧
       halves (.vfaddBf16x2 gd b a d) bf16 (Machine.Num.add false) ∧ halves (.vfmulBf16x2 gd b a d) bf16 Machine.Num.mul) ∧
     (LaneReady s g i ls ([a.toNat, a.toNat + 1, b.toNat, b.toNat + 1] ++ [d.toNat, d.toNat + 1]) [] →
       let out := fun n (r : Nat → Nat → Nat) => LaneWrites s s g g n ls [d.toNat, d.toNat + 1] fun l k =>
         ⟨(BitVec.ofNat 64 (r (pairOf g a l).toNat (pairOf g b l).toNat) >>> (32 * (k - d.toNat))).setWidth 32,
           tagAt g [a.toNat, a.toNat + 1, b.toNat, b.toNat + 1] l⟩
       let double := fun n (op : Machine.Num → Machine.Num → Machine.Num) => out n fun p q =>
         Machine.round f64 0 false false 0 (op (f64.decode p) (f64.decode q))
       double (.vfaddF64 gd b a d) (Machine.Num.add false) ∧ double (.vfsubF64 gd b a d) (fun x y => x.add false y.neg) ∧
       double (.vfmulF64 gd b a d) Machine.Num.mul ∧ out (.vfminF64 gd b a d) (fext f64 false) ∧
       out (.vfmaxF64 gd b a d) (fext f64 true)) ∧
     (let srcs := [vsrc qa a, vsrc qb b, vsrc qc c];
       LaneReady s g i ls (vsrcRegs srcs ++ [d.toNat]) [] → Pops s g i false (vsrcQueues srcs) s' es →
       s'.group g.gid = some g' →
       let el := fun f (l draw p q r : Nat) => Machine.round f rm.toNat (st == 1#1) z (laneDraw g l draw)
         ((if ng = 1#1 then ((f.read z p).mul (f.read z q)).neg else (f.read z p).mul (f.read z q)).add
           (decide (rm.toNat = 3)) (if ab = 1#1 then (f.read z r).abs else f.read z r))
       let src := fun l k => (laneVal g es srcs l k).val.toNat
       let halves := fun n f => RoundWrites s s' g g' n ls [d.toNat] (fun l _ =>
         ⟨BitVec.ofNat 16 (el f l 1 (src l 0 / 2 ^ 16) (src l 1 / 2 ^ 16) (src l 2 / 2 ^ 16)) ++
           BitVec.ofNat 16 (el f l 0 (src l 0 % 2 ^ 16) (src l 1 % 2 ^ 16) (src l 2 % 2 ^ 16)),
           laneTag' g es srcs l⟩) rm.toNat 2
       RoundWrites s s' g g' (.vfmaF32 gd b a d qc qb qa ab ng st rm c) ls [d.toNat] (fun l _ =>
         ⟨BitVec.ofNat 32 (el f32 l 0 (src l 0) (src l 1) (src l 2)), laneTag' g es srcs l⟩) rm.toNat 1 ∧
       halves (.vfmaF16x2 gd b a d qc qb qa ab ng st rm c) f16 ∧
       halves (.vfmaBf16x2 gd b a d qc qb qa ab ng st rm c) bf16) ∧
     (LaneReady s g i ls ([a.toNat, a.toNat + 1, b.toNat, b.toNat + 1, c.toNat, c.toNat + 1] ++
         [d.toNat, d.toNat + 1]) [] →
       RoundWrites s s g g (.vfmaF64 gd b a d ab ng st rm c) ls [d.toNat, d.toNat + 1] (fun l k =>
         let x := (f64.decode (pairOf g a l).toNat).mul (f64.decode (pairOf g b l).toNat)
         let y := f64.decode (pairOf g c l).toNat
         let r := Machine.round f64 rm.toNat (st == 1#1) false (laneDraw g l 0)
           ((if ng = 1#1 then x.neg else x).add (decide (rm.toNat = 3)) (if ab = 1#1 then y.abs else y))
         ⟨(BitVec.ofNat 64 r >>> (32 * (k - d.toNat))).setWidth 32,
           tagAt g [a.toNat, a.toNat + 1, b.toNat, b.toNat + 1, c.toNat, c.toNat + 1] l⟩) rm.toNat 1)) ∧
  (∀ (s s' : State) (g g' : Group) (i : Issue) (gd : BitVec 4) (a d : BitVec 7) (dst src : BitVec 4) (qa sat : BitVec 1)
     (rm : BitVec 3) (es : List QEntry) (n sd ss : Nat),
     let ls := g.contributing i gd
     let srcs := if ss = 1 then [vsrc qa a] else (List.range ss).map fun k => VSrc.v (a.toNat + k)
     let ds := (List.range sd).map (d.toNat + ·)
     WellFormed (.vcvt gd a d dst src qa sat rm) → cvtShape dst.toNat src.toNat = some (n, sd, ss) →
     LaneReady s g i ls (vsrcRegs srcs ++ ds) [] → Pops s g i false (vsrcQueues srcs) s' es → s'.group g.gid = some g' →
     let elems := fun l => (List.range n).map fun k => convert dst.toNat src.toNat rm.toNat (sat == 1#1) (ftzOf g)
       (laneDraw g l k) (spanElem src.toNat ((vsrcVals (g.lane l) l srcs es).map (·.val)) k)
     RoundWrites s s' g g' (.vcvt gd a d dst src qa sat rm) ls ds (fun l r =>
       ⟨(spanPack dst.toNat sd (elems l)).getD (r - d.toNat) 0#32, laneTag' g es srcs l⟩) rm.toNat n)

/-- Round-to-nearest (04 R91) is nearest: where the result is finite, no finite code of the format lies closer to the
exact value than the one chosen. Every finite code of a format decodes to a value that rounds to the same code in
every mode (04 R85, R91): no rounding moves a value that is representable. -/
def Obligations.RoundToNearest : Prop :=
  (∀ f ∈ [f64, f32, f16, bf16, e4m3, e5m2, e3m2, e2m3, e2m1], ∀ (neg : Bool) (m : Nat) (e : Int) (c : Nat) (r v : ℚ),
     (f.decode (rne f (.fin neg m e))).value = some r → (f.decode c).value = some v →
     let x : ℚ := (if neg = true then -1 else 1) * m * (2 : ℚ) ^ e
     |r - x| ≤ |v - x|) ∧
  (∀ f ∈ [f64, f32, f16, bf16, e4m3, e5m2, e3m2, e2m3, e2m1], ∀ (mode draw c : Nat) (sat : Bool), c < 2 * f.signBit →
     c % f.signBit ≤ f.maxCode → Machine.round f mode sat false draw (f.decode c) = c)

/-- `VCMP` and `VFCMP` write the predicates of 02 R53 from the conditions of R52, under UNC in every active lane (06
R147); a poisoned operand in a lane they would write raises POISON_USE and writes none (R136). That the record's mask holds
the lanes that fail on any source is the model's choice, log entry 17. -/
def Obligations.LaneCompare : Prop :=
  ∀ (s s' : State) (g g' : Group) (i : Issue) (gd : BitVec 4) (b a : BitVec 7) (p2 p1 : BitVec 3) (qb qa : BitVec 1)
    (j t : BitVec 3) (c : BitVec 4) (es : List QEntry) (float : Bool),
    let n := if float = true then Instr.vfcmp gd b a p2 p1 qb qa j t c else .vcmp gd b a p2 p1 qb qa j t c
    let wide := if float = true then t.toNat = 1 else 2 ≤ t.toNat
    let srcs := if wide then [VSrc.v a.toNat, .v (a.toNat + 1), .v b.toNat, .v (b.toNat + 1)] else [vsrc qa a, vsrc qb b]
    let ls := if j.toNat = 6 then maskLanes i.lanes else g.contributing i gd
    LaneReady s g i ls (vsrcRegs srcs) [] → Pops s g i false (vsrcQueues srcs) s' es → s'.group g.gid = some g' →
    WellFormed n →
    let v := fun l k => (laneVal g es srcs l k).val
    let x := fun l => v l 0
    let y := fun l => v l 1
    let dx := fun l => (v l 1 ++ v l 0 : DWord)
    let dy := fun l => (v l 3 ++ v l 2 : DWord)
    let z := ftzOf g
    let cond := fun l =>
      if float = true then
        match t.toNat with
        | 0 => fcond c.toNat (f32.decode (x l).toNat) (f32.decode (y l).toNat) = true
        | 1 => fcond c.toNat (f64.decode (dx l).toNat) (f64.decode (dy l).toNat) = true
        | 2 => fcond c.toNat (f16.read z ((x l).toNat % 2 ^ 16)) (f16.read z ((y l).toNat % 2 ^ 16)) = true
        | _ => fcond c.toNat (bf16.read z ((x l).toNat % 2 ^ 16)) (bf16.read z ((y l).toNat % 2 ^ 16)) = true
      else
        match t.toNat with
        | 0 => IntCond c.toNat (x l).toInt (y l).toInt
        | 1 => IntCond c.toNat (x l).toNat (y l).toNat
        | 2 => IntCond c.toNat (dx l).toInt (dy l).toInt
        | _ => IntCond c.toNat (dx l).toNat (dy l).toNat
    let bad := ls.filter fun l => laneTag' g es srcs l
    (bad = [] → ∃ (u : State) (r : Nat → Bool), exec n s = .next u ∧
      PredWrites s' u g g' i gd j.toNat p1.toNat p2.toNat r ∧ ∀ l, ls.contains l = true → (r l = true ↔ cond l)) ∧
    (bad ≠ [] → ∃ k, exec n s = .next (s'.raise g.gid i.len
      { cause := poisonUse, detail := 1, mask := laneMask bad, index := k }))

/-- 06 R159: `MATCH` writes in each contributing lane the mask of contributing lanes whose V[A] is bitwise equal to its
own, low half first, with the OR of the tags of V[A] over all contributing lanes. -/
def Obligations.MatchMask : Prop :=
  ∀ (s : State) (g : Group) (i : Issue) (gd : BitVec 4) (a d : BitVec 7),
    let ls := g.contributing i gd
    LaneReady s g i ls [a.toNat, d.toNat, d.toNat + 1] [] →
    ∃ m : Nat → Mask,
      LaneWrites s s g g (.matchB32 gd a d) ls [d.toNat, d.toNat + 1] (fun l k =>
        ⟨(m l >>> (32 * (k - d.toNat))).setWidth 32, ls.any fun j => tagAt g [a.toNat] j⟩) ∧
      ∀ l j, ls.contains l = true → j < 64 → (m l).getLsbD j = (ls.contains j && vAt g a j == vAt g a l)

/-- The cross-lane words of 06 R155 to R158: a read of a source lane, ballots and their counts, scans and the tree sum; a
NaN result is the canonical one (04 R86). -/
def Obligations.CrossLane : Prop :=
  ∀ (s : State) (g : Group) (i : Issue) (gd : BitVec 4) (b a d : BitVec 7) (ln : BitVec 6) (m : BitVec 7) (p : BitVec 3),
    let ls := g.contributing i gd
    let far := fun k => if (g.lane k).live = true then (g.lane k).vreg a.toNat else ⟨0#32, false⟩
    let pick := fun l => if (vAt g b l).toNat ≤ 63 then (vAt g b l).toNat else l
    (LaneReady s g i ls [d.toNat, b.toNat] [] → s.peekHazard g a.toNat = false →
      peekBound g ls (ls.map pick) [d.toNat, b.toNat] a.toNat = none →
      LaneWrites s s g g (.shflB32 gd b a d) ls [d.toNat] fun l _ =>
        ⟨(far (pick l)).val, (far (pick l)).poison || tagAt g [b.toNat] l⟩) ∧
    (LaneReady s g i ls [d.toNat] [] → s.peekHazard g a.toNat = false →
      peekBound g ls (ls.map fun _ => ln.toNat) [d.toNat] a.toNat = none →
      LaneWrites s s g g (.bcastB32 gd ln a d) ls [d.toNat] fun _ _ => far ln.toNat) ∧
    (LaneReady s g i ls [d.toNat, d.toNat + 1] [] → ∃ k : Mask,
      LaneWrites s s g g (.ballot gd p d) ls [d.toNat, d.toNat + 1] (fun _ r =>
        ⟨(k >>> (32 * (r - d.toNat))).setWidth 32, false⟩) ∧
      ∀ j < 64, k.getLsbD j = (ls.contains j && (g.lane j).pred p.toNat)) ∧
    (LaneReady s g i ls [d.toNat] [] → WellFormed (.popc gd m p d) →
      LaneWrites s s g g (.popc gd m p d) ls [d.toNat] fun l _ =>
        ⟨BitVec.ofNat 32 ((ls.filter fun j => (g.lane j).pred p.toNat &&
          (if m.toNat = 0 then true else if m.toNat = 1 then decide (j < l) else decide (j ≤ l))).length), false⟩) ∧
    (LaneReady s g i ls [a.toNat, d.toNat] [] →
      let upto := fun l => ls.filter fun j => decide (j ≤ l)
      let leaves := (List.range 64).map fun j => if ls.contains j then some (vAt g a j).toNat else none
      LaneWrites s s g g (.scanAddB32 gd a d) ls [d.toNat] (fun l _ =>
        ⟨BitVec.ofNat 32 (((upto l).map fun j => (vAt g a j).toNat).sum), (upto l).any fun j => tagAt g [a.toNat] j⟩) ∧
      LaneWrites s s g g (.scanFaddF32 gd a d) ls [d.toNat] (fun l _ =>
        ⟨BitVec.ofNat 32 (canonF32 ((prefixSum add32 leaves 6 (l + 1) 0 none).getD 0)), (upto l).any fun j => tagAt g [a.toNat] j⟩) ∧
      LaneWrites s s g g (.vredFaddF32 gd a d) ls [d.toNat] (fun _ _ =>
        ⟨BitVec.ofNat 32 (canonF32 ((treeRoot add32 6 leaves).getD 0)), ls.any fun j => tagAt g [a.toNat] j⟩))

/-- `SRSEED` sets the draw state of its lanes from their seeds and writes no register, a poisoned seed raising
POISON_USE; `VMOVS` reads the special values, TID and LANEID by lane, GSTAT once no instruction before it may still set a
sticky bit (06 R160, R161, 01 R23). -/
def Obligations.LaneSpecials : Prop :=
  ∀ (s : State) (g : Group) (i : Issue) (gd : BitVec 4) (a d : BitVec 7) (n : BitVec 6),
    let ls := g.contributing i gd
    let bad := ls.filter fun l => tagAt g [a.toNat] l
    (LaneReady s g i ls [a.toNat] [] →
      (bad = [] → ∃ u h, exec (.srseed gd a) s = .next u ∧ u.group g.gid = some h ∧ Elsewhere s u g ∧
        (∀ l, (h.lane l).srs = if ls.contains l = true then srHash (vAt g a l) else (g.lane l).srs) ∧
        (∀ l, h.lane l = { g.lane l with pcv := (h.lane l).pcv, srs := (h.lane l).srs }) ∧
        h = { g with lanes := h.lanes, issue := h.issue, popped := h.popped }) ∧
      (bad ≠ [] → exec (.srseed gd a) s = .next (s.raise g.gid i.len
        { cause := poisonUse, detail := 1, mask := laneMask bad, index := a.toNat }))) ∧
    (n.toNat = 9 → s.stickyPending g = true → AtWord s g i → exec (.vmovs gd n d) s = .next s) ∧
    (LaneReady s g i ls [d.toNat] [] → (n.toNat = 9 → s.stickyPending g = false) →
      LaneWrites s s g g (.vmovs gd n d) ls [d.toNat] fun l _ => ⟨match n.toNat with
        | 0 => (g.lane l).tid
        | 1 => BitVec.ofNat 32 l
        | k => BitVec.ofNat 32 (s.special g k), false⟩)

/-- A lane load whose accesses resolve completes its issue: it leaves one access per contributing lane in flight, at the
address of 07 R163, and changes no byte and no register; a lane store likewise with the bytes of its registers (07 R169
to R171). It does so for every width where each lane's address is aligned and names its team's scratchpad, or in world 60
device memory. 07 R169: an access whose address is not a multiple of its width raises ADDR_ALIGN with the failing lanes and the lowest one's
address, once its path is legal; one on a path its instruction may not use raises ADDR_PATH; and so do the loads and stores,
which then do nothing else. -/
def Obligations.LaneAccessAndFaults : Prop :=
  (∀ (s s' : State) (g : Group) (i : Issue) (gd : BitVec 4) (sc : BitVec 2) (b : BitVec 5) (o d : BitVec 7) (f : BitVec 1)
     (ps : List (Nat × Place × List Loc)),
     let ls := g.contributing i gd
     let span := fun w => (List.range (if w ≤ 4 then 1 else w / 4)).map (d.toNat + ·)
     let ld := fun n w signed => Reached s s' g i ls (span w) sc b o f 0#16 (pathsLoad w) true 0 w ps →
       ∃ t, exec n s = .next t ∧ Issued s' t g (i.flag f)
         (.load d.toNat w signed false (ps.map fun e => ⟨e.1, (g.lane e.1).fid, e.2.2, [], false⟩)) (ps == [])
     let data := fun w l => ((span w).flatMap fun r => toBytes 4 ((g.lane l).vreg r).val.toNat).take w
     let st := fun n w => Reached s s' g i ls (span w) sc b o f 0#16 (pathsStore w) true 1 w ps →
       (∀ e ∈ ps, e.2.2 ≠ []) → ∃ t, exec n s = .next t ∧ Issued s' t g (i.flag f)
         (.store w (ps.map fun e => ⟨e.1, 0, e.2.2, data w e.1, tagAt g (span w) e.1⟩)) (ps == [])
     ld (.ldN8 gd sc b o d f) 1 false ∧ ld (.ldS8 gd sc b o d f) 1 true ∧ ld (.ldN16 gd sc b o d f) 2 false ∧
     ld (.ldS16 gd sc b o d f) 2 true ∧ ld (.ldB32 gd sc b o d f) 4 false ∧ ld (.ldB64 gd sc b o d f) 8 false ∧
     ld (.ldB128 gd sc b o d f) 16 false ∧ st (.stB8 gd sc b o d f) 1 ∧ st (.stB16 gd sc b o d f) 2 ∧
     st (.stB32 gd sc b o d f) 4 ∧ st (.stB64 gd sc b o d f) 8 ∧ st (.stB128 gd sc b o d f) 16) ∧
  (∀ (s : State) (g : Group) (i : Issue) (gd : BitVec 4) (sc : BitVec 2) (b : BitVec 5) (o d : BitVec 7) (f : BitVec 1)
     (loc : Nat → List Loc),
     let ls := g.contributing i gd
     let span := fun w => (List.range (if w ≤ 4 then 1 else w / 4)).map (d.toNat + ·)
     let data := fun w l => ((span w).flatMap fun r => toBytes 4 ((g.lane l).vreg r).val.toNat).take w
     let ld := fun n w signed => Plain s g i ls (span w) sc b o f 0#16 w loc → ∃ t, exec n s = .next t ∧
       Issued s t g (i.flag f)
         (.load d.toNat w signed false (ls.map fun l => ⟨l, (g.lane l).fid, loc l, [], false⟩)) (ls == [])
     let st := fun n w => Plain s g i ls (span w) sc b o f 0#16 w loc → ∃ t, exec n s = .next t ∧
       Issued s t g (i.flag f) (.store w (ls.map fun l => ⟨l, 0, loc l, data w l, tagAt g (span w) l⟩)) (ls == [])
     ld (.ldN8 gd sc b o d f) 1 false ∧ ld (.ldS8 gd sc b o d f) 1 true ∧ ld (.ldN16 gd sc b o d f) 2 false ∧
     ld (.ldS16 gd sc b o d f) 2 true ∧ ld (.ldB32 gd sc b o d f) 4 false ∧ ld (.ldB64 gd sc b o d f) 8 false ∧
     ld (.ldB128 gd sc b o d f) 16 false ∧ st (.stB8 gd sc b o d f) 1 ∧ st (.stB16 gd sc b o d f) 2 ∧
     st (.stB32 gd sc b o d f) 4 ∧ st (.stB64 gd sc b o d f) 8 ∧ st (.stB128 gd sc b o d f) 16) ∧
  (∀ (s : State) (g : Group) (legal : Nat → Bool) (host : Bool) (need width : Nat) (as : List (Nat × Nat)),
     let off := fun e : Nat × Nat => s.place g legal width e.2 = none
     let skew := as.filter fun e => decide (e.2 % width ≠ 0)
     (∀ l a r, as.filter (fun e => decide (off e)) = (l, a) :: r →
       s.access g legal host need width as = (s, .error
         { cause := addrPath, mask := laneMask ((as.filter fun e => decide (off e)).map Prod.fst), addr := a })) ∧
     (∀ l a r, (∀ e ∈ as, ¬ off e) → (∀ e ∈ as, pathOf e.2 ≠ 4) → skew = (l, a) :: r →
       s.access g legal host need width as = (s, .error
         { cause := addrAlign, mask := laneMask (skew.map Prod.fst), addr := a }))) ∧
  (∀ (s : State) (g : Group) (i : Issue) (gd : BitVec 4) (sc : BitVec 2) (b : BitVec 5) (o d : BitVec 7) (f : BitVec 1),
     let ls := g.contributing i gd
     let span := fun w => (List.range (if w ≤ 4 then 1 else w / 4)).map (d.toNat + ·)
     let as := ls.map fun l => (l, laneAddress g sc b o 0#16 l)
     let fails := fun n w (legal : Nat → Bool) =>
       let off := fun e : Nat × Nat => s.place g legal w e.2 = none
       let skew := as.filter fun e => decide (e.2 % w ≠ 0)
       AtWord s g i → Ready s g ls (o.toNat :: span w) [b.toNat] → g.flagFree (i.flag f) = true →
       addrChecks g ls b o (span w) = none →
       (∀ l a r, as.filter (fun e => decide (off e)) = (l, a) :: r → exec n s = .next (s.raise g.gid i.len
         { cause := addrPath, mask := laneMask ((as.filter fun e => decide (off e)).map Prod.fst), addr := a })) ∧
       (∀ l a r, (∀ e ∈ as, ¬ off e) → (∀ e ∈ as, pathOf e.2 ≠ 4) → skew = (l, a) :: r → exec n s = .next (s.raise g.gid
         i.len { cause := addrAlign, mask := laneMask (skew.map Prod.fst), addr := a }))
     let ld := fun n w => fails n w (pathsLoad w)
     let st := fun n w => fails n w (pathsStore w)
     ld (.ldN8 gd sc b o d f) 1 ∧ ld (.ldS8 gd sc b o d f) 1 ∧ ld (.ldN16 gd sc b o d f) 2 ∧ ld (.ldS16 gd sc b o d f) 2 ∧
     ld (.ldB32 gd sc b o d f) 4 ∧ ld (.ldB64 gd sc b o d f) 8 ∧ ld (.ldB128 gd sc b o d f) 16 ∧
     st (.stB8 gd sc b o d f) 1 ∧ st (.stB16 gd sc b o d f) 2 ∧ st (.stB32 gd sc b o d f) 4 ∧
     st (.stB64 gd sc b o d f) 8 ∧ st (.stB128 gd sc b o d f) 16)

/-- A load performed at its home (07 R170, R172, 11 R273) writes to the register of each lane's frame the bytes that
memory or the scratchpad holds, little-endian, extended as its width says, poisoned as the scratchpad words are, and
changes no byte and no other register, predicate or frame; a scalar load writes its S register alone. A store performed at its home (07 R171, R172, 11 R273) leaves in
memory and in the scratchpads exactly its bytes, the highest lane's where lanes overlap; every other byte reads as
before, and no register changes. -/
def Obligations.LoadAndStorePerformed : Prop :=
  (∀ (s : State) (id : Nat) (o : Op) (g : Group) (dst w : Nat) (signed scalar : Bool) (accs : List LaneAcc),
     s.op id = some o → s.group o.gid = some g → o.kind = .load dst w signed scalar accs → o.done = false →
     s.mayPerform o = true → Near accs → Sound s o.world (devBytes accs) →
     (∀ a ∈ devBytes accs, mapGet none s.l1 (copyKey g.core (a / 32)) = none) → (accs.map (·.lane)).Nodup →
     (∀ a ∈ accs, a.locs.length = w) → w = 1 ∨ w = 2 ∨ w = 4 ∨ w = 8 ∨ w = 16 →
     ∃ t h, exec (.loadPerformed id) s = .next t ∧ t.group o.gid = some h ∧ (∀ a, t.byte a = s.byte a) ∧
       (∀ k, k ≠ o.gid → t.group k = s.group k) ∧
       (∃ o', t.op id = some o' ∧ o'.done = true) ∧
       (scalar = true → (∀ l, h.lane l = g.lane l) ∧
         h = { g with lanes := h.lanes, sregs := h.sregs, gstat := h.gstat, lclock := h.lclock } ∧
         ∀ a, accs = [a] → ∀ r, h.sreg r = if r = dst ∧ r ≠ 0 then
         ⟨if signed = true then (BitVec.ofNat (8 * w) (ofBytes (locBytes s a))).signExtend 64
           else BitVec.ofNat 64 (ofBytes (locBytes s a)), locPoison s a⟩ else g.sreg r) ∧
       (scalar = false → ∀ a ∈ accs, (g.lane a.lane).chain.any (fun c => c.fid == a.fid) = true →
         ∀ k, k < (if w ≤ 4 then 1 else w / 4) → h.windowReg a.lane a.fid (dst + k) =
           ⟨if w < 4 then (if signed = true then (BitVec.ofNat (8 * w) (ofBytes (locBytes s a))).signExtend 32
               else BitVec.ofNat 32 (ofBytes (locBytes s a)))
             else BitVec.ofNat 32 (ofBytes (((locBytes s a).drop (4 * k)).take 4)), locPoison s a⟩) ∧
       (scalar = false →
         (∀ l fid r, (∀ a ∈ accs, a.lane = l → a.fid = fid → r < dst ∨ dst + (if w ≤ 4 then 1 else w / 4) ≤ r) →
           h.windowReg l fid r = g.windowReg l fid r) ∧
         (∀ l, h.lane l = { g.lane l with chain := (h.lane l).chain } ∧
           (h.lane l).chain.map (·.fid) = (g.lane l).chain.map (·.fid)) ∧
         h = { g with lanes := h.lanes, gstat := h.gstat, lclock := h.lclock })) ∧
  (∀ (s : State) (id : Nat) (o : Op) (w : Nat) (accs : List LaneAcc),
     s.op id = some o → o.kind = .store w accs → o.done = false → s.mayPerform o = true → Sound s o.world (devBytes accs) →
     ∃ t, exec (.storePerformed id) s = .next t ∧ (∀ a, t.byte a = (lastAt (stored accs) a).getD (s.byte a)) ∧
       (Near accs → ∀ k tm, s.team k = some tm → ∃ tm', t.team k = some tm' ∧
         ∀ p, mapGet 0#8 tm'.scratch p = (lastAt (padStored k accs) p).getD (mapGet 0#8 tm.scratch p)) ∧
       (∃ o', t.op id = some o' ∧ o'.done = true) ∧
       (∀ k, k ≠ o.gid → t.group k = s.group k) ∧
       (∀ g, s.group o.gid = some g → ∃ c, g.lclock ≤ c ∧ t.group o.gid = some { g with lclock := c }))

/-- `ATOM` (07 R176, R177): the lanes act one at a time in ascending order on the bytes at their homes; V[D] takes the
old values, memory the final ones, and every other byte reads as before. It completes so on path 0x0, and on a
word of the scratchpad that all its lanes name. The operations are those of the table. That it is performed as it executes,
and not later while its flag stands, is the model's choice, log entry 8; how it goes where its scratchpad words are several
(log entry 57) is not stated. -/
def Obligations.Atomics : Prop :=
  (∀ w m v e, (w = 32 ∨ w = 64) → m < 2 ^ w → v < 2 ^ w →
    atomOp 0 w m v e = (m + v) % 2 ^ w ∧ atomOp 1 w m v e = (if toSigned w v < toSigned w m then v else m) ∧
    atomOp 2 w m v e = (if toSigned w m < toSigned w v then v else m) ∧ atomOp 3 w m v e = min m v ∧
    atomOp 4 w m v e = max m v ∧ atomOp 5 w m v e = m &&& v ∧ atomOp 6 w m v e = m ||| v ∧
    atomOp 7 w m v e = m ^^^ v ∧ atomOp 8 w m v e = v ∧ atomOp 9 w m v e = (if m = e then v else m) ∧
    atomOp 10 w m v e = add32 m v) ∧
  (∀ (s s' : State) (g : Group) (i : Issue) (gd : BitVec 4) (sc : BitVec 2) (b : BitVec 5) (o d c : BitVec 7) (f : BitVec 1)
    (disp : BitVec 16) (x : BitVec 4) (w : Nat) (n : Instr) (ps : List (Nat × Place × List Loc)),
    (w = 4 ∧ n = .atomB32 gd sc b o d f disp x c) ∨ (w = 8 ∧ n = .atomB64 gd sc b o d f disp x c) →
    let ls := g.contributing i gd
    let span := fun r : BitVec 7 => (List.range (w / 4)).map (r.toNat + ·)
    let accs : List LaneAcc := ps.map fun e => ⟨e.1, 0, e.2.2, [], false⟩
    let run := atomRun x.toNat (8 * w) g c d (ps.map fun e => (e.1, e.2.2)) [] fun loc =>
      ofBytes (locBytes s' ⟨0, 0, loc, [], false⟩)
    Reached s s' g i ls (span d ++ span c) sc b o f disp pathsAtom false 1 w ps → walkCond g (8 ≤ x.toNat) = none →
    (∀ l ∈ ls, tagAt g (span c ++ if x = 9#4 then span d else []) l = false) →
    Coherent accs → Sound s' g.world (devBytes accs) → s'.group g.gid = some g → (∀ e ∈ ps, e.2.2.length = w) →
    g.passed = none → g.atoms = [] →
    s'.mayPerform ⟨s'.ids, g.gid, g.core, g.world, g.team, none, .store w accs, false, 0⟩ = true →
    ∃ t, exec n s = .next t ∧ Performed s' t g (i.flag f)
      (fun a => (lastAt (stored (finalAccs w run.2)) a).getD (s'.byte a)) (run.1.map Prod.fst) (span d) fun l r =>
        ⟨BitVec.ofNat 32 (((findBy (fun e => e.1 == l) run.1).map Prod.snd).getD 0 / 2 ^ (32 * (r - d.toNat))), false⟩) ∧
  ∀ (s : State) (g : Group) (i : Issue) (gd : BitVec 4) (sc : BitVec 2) (b : BitVec 5) (o d c : BitVec 7) (f : BitVec 1)
    (disp : BitVec 16) (x : BitVec 4) (w : Nat) (n : Instr) (loc : Nat → List Loc),
    (w = 4 ∧ n = .atomB32 gd sc b o d f disp x c) ∨ (w = 8 ∧ n = .atomB64 gd sc b o d f disp x c) →
    let ls := g.contributing i gd
    let span := fun r : BitVec 7 => (List.range (w / 4)).map (r.toNat + ·)
    let accs : List LaneAcc := ls.map fun l => ⟨l, 0, loc l, [], false⟩
    let run := atomRun x.toNat (8 * w) g c d (ls.map fun l => (l, loc l)) [] fun loc =>
      ofBytes (locBytes s ⟨0, 0, loc, [], false⟩)
    let old := fun l r => (⟨BitVec.ofNat 32 (((findBy (fun e => e.1 == l) run.1).map Prod.snd).getD 0 /
      2 ^ (32 * (r - d.toNat))), false⟩ : Reg)
    Plain s g i ls (span d ++ span c) sc b o f disp w loc → walkCond g (8 ≤ x.toNat) = none →
    (∀ l ∈ ls, tagAt g (span c ++ if x = 9#4 then span d else []) l = false) → g.passed = none → g.atoms = [] →
    s.mayPerform ⟨s.ids, g.gid, g.core, g.world, g.team, none, .store w accs, false, 0⟩ = true →
    (Coherent accs → Sound s g.world (devBytes accs) → ∃ t, exec n s = .next t ∧ Performed s t g (i.flag f)
      (fun a => (lastAt (stored (finalAccs w run.2)) a).getD (s.byte a)) ls (span d) old) ∧
    (∀ tm, s.team g.team = some tm → (∀ l ∈ ls, ∀ m ∈ ls, loc l = loc m) → (∀ a ∈ accs, ∀ l ∈ a.locs, l.path = 2) →
      (∀ a ∈ accs, locPoison s a = false) → ∃ t tm', exec n s = .next t ∧
        Performed s t g (i.flag f) s.byte ls (span d) old ∧ t.team g.team = some tm' ∧
        ∀ p, mapGet 0#8 tm'.scratch p =
          (lastAt (padStored g.team (finalAccs w run.2)) p).getD (mapGet 0#8 tm.scratch p))

/-- `UPD` (07 R178): each contributing lane's value joins, in ascending lane order, the partial that its cluster holds
for its word; no byte of memory and no register changes. `REL` stores at its time once every earlier write of its
group is performed, and its atom takes the group's writer field and the scope; `ACQ` loads, discards the core's
read-only and view copies and, at DEVICE, raises the group's clock past every write; `FENCE` does so for its path's
copies (07 R181 to R184, 11 R284). An acquire whose atom has no entry, or one of a writer of another team, widens to DEVICE
at least whatever it declares (R182). Each completes where its lanes' addresses are aligned and name the team's scratchpad
(but for `UPD`), or in world 60 device memory. That `UPD`, `REL` and `ACQ` are performed as they execute, and not later
while their flag stands, is the model's choice, log entry 8. -/
def Obligations.UpdateReleaseAcquire : Prop :=
  (∀ (s s' : State) (g : Group) (i : Issue) (gd : BitVec 4) (sc : BitVec 2) (b : BitVec 5) (o d : BitVec 7) (f : BitVec 1)
     (disp : BitVec 16) (x : BitVec 4) (ps : List (Nat × Place × List Loc)),
     let ls := g.contributing i gd
     let w := tagBytes x.toNat
     let span := (List.range (w / 4)).map (d.toNat + ·)
     let accs : List LaneAcc := ps.map fun e => ⟨e.1, 0, e.2.2, [], false⟩
     let cl := g.core / 4
     let val := fun l => ((g.lane l).vreg d.toNat).val.toNat +
       (if w = 8 then 2 ^ 32 * ((g.lane l).vreg (d.toNat + 1)).val.toNat else 0)
     Reached s s' g i ls span sc b o f disp pathsUpd false 1 w ps ∨
       (∃ loc, Plain s g i ls span sc b o f disp w loc ∧ s' = s ∧
         ps = ls.map fun l => (l, Place.va 0 (laneAddress g sc b o disp l), loc l)) →
     g.passed = none → walkCond g (x == 10#4) = none →
     (∀ l ∈ ls, tagAt g span l = false) → Coherent accs → s'.held (devBytes accs) none = false →
     s'.reaches g.world (devBytes accs) = true → s'.group g.gid = some g → (∀ e ∈ ps, e.2.2.length = w) →
     (∀ a ∈ devBytes accs, ∀ u, s'.uatom (a / 32) = some u → u.tag = x.toNat) →
     (s'.uatoms.map (·.atom)).Nodup → (s'.unitAtoms cl).length + ls.length ≤ 256 →
     s'.mayPerform ⟨s'.ids, g.gid, g.core, g.world, g.team, none, .store w accs, false, 0⟩ = true →
     ∃ t, exec (.upd gd sc b o d f disp x) s = .next t ∧
       Performed s' t g (i.flag f) s'.byte [] [] (fun _ _ => ⟨0#32, false⟩) ∧
       ∀ a k, t.partialAt cl a k = (ps.filter fun e => match e.2.2 with
         | .mem p :: _ => p / 32 == a && p % 32 / w == k
         | _ => false).foldl (fun acc e => some (contribute x.toNat (val e.1) acc)) (s'.partialAt cl a k)) ∧
  (∀ (s s' : State) (g : Group) (i : Issue) (gd : BitVec 4) (sc : BitVec 2) (b : BitVec 5) (o d : BitVec 7) (f : BitVec 1)
     (disp : BitVec 16) (x p : BitVec 4) (z : BitVec 2) (w : Nat) (ps : List (Nat × Place × List Loc)),
     let ls := g.contributing i gd
     let span := (List.range (w / 4)).map (d.toNat + ·)
     let data := fun l => (span.flatMap fun r => toBytes 4 ((g.lane l).vreg r).val.toNat).take w
     let out : List LaneAcc := ps.map fun e => ⟨e.1, 0, e.2.2, data e.1, tagAt g span e.1⟩
     let back : List LaneAcc := ps.map fun e => ⟨e.1, (g.lane e.1).fid, e.2.2, [], false⟩
     let plain := ∃ loc, Plain s g i ls span sc b o f disp w loc ∧ s' = s ∧ ps = ls.map fun l =>
       (l, if pathOf (laneAddress g sc b o disp l) = 2 then Place.scr false g.team (laneAddress g sc b o disp l % 2 ^ 20)
         else .va 0 (laneAddress g sc b o disp l), loc l)
     let rel := fun n => Reached s s' g i ls span sc b o f disp pathsAtom false 1 w ps ∨ plain → Near out →
       Sound s' g.world (devBytes out) → s'.group g.gid = some g → (∀ e ∈ ps, e.2.2.length = w) → g.passed = none →
       s'.performed g.gid releaseWaits = true →
       s'.mayPerform ⟨s'.ids, g.gid, g.core, g.world, g.team, none, .store w out, false, 0⟩ = true →
       ∃ t, exec n s = .next t ∧ Performed s' t g (i.flag f) (fun a => (lastAt (stored out) a).getD (s'.byte a))
           [] [] (fun _ _ => ⟨0#32, false⟩) ∧
         (∀ a, atomsOf (devBytes out) = [a] → (∃ v ∈ s'.vars, v.atom = a) ∨ s'.varShare g.world a ≠ 0 →
           ∃ v ∈ t.vars, v.atom = a ∧ v.writer = s'.writerOf g ∧ v.scope = BitVec.ofNat 2 x.toNat) ∧
         ∀ k tm, s'.team k = some tm → ∃ tm', t.team k = some tm' ∧
           ∀ p, mapGet 0#8 tm'.scratch p = (lastAt (padStored k out) p).getD (mapGet 0#8 tm.scratch p)
     let acq := fun n => Reached s s' g i ls span sc b o f disp pathsAtom false 0 w ps ∨ plain → Near back →
       Sound s' g.world (devBytes back) → s'.group g.gid = some g → (∀ e ∈ ps, e.2.2.length = w) → g.passed = none →
       (∀ a ∈ devBytes back, mapGet none s'.l1 (copyKey g.core (a / 32)) = none) →
       s'.mayPerform ⟨s'.ids, g.gid, g.core, g.world, g.team, none, .load d.toNat w false false back, false, 0⟩ = true →
       ∃ t, exec n s = .next t ∧ Performed s' t g (i.flag f) s'.byte (ps.map Prod.fst) span (fun l r =>
           ⟨BitVec.ofNat 32 (ofBytes (((back.filter fun a => a.lane == l).flatMap (locBytes s')).take w) /
             2 ^ (32 * (r - d.toNat))), back.any fun a => a.lane == l && locPoison s' a⟩) ∧
         (ls ≠ [] → (∀ e ∈ t.ro, e.1 / copySpan ≠ g.core) ∧ (∀ e ∈ t.views, e.1 / copySpan ≠ g.core) ∧
           (2 ≤ x.toNat → ∀ h, t.group g.gid = some h → ∀ e ∈ s'.stamps, e.2.1 ≤ h.lclock)) ∧
         (∀ a, atomsOf (devBytes back) = [a] →
           (∀ v ∈ s'.vars, v.atom = a → v.writer.toNat / 2 ^ 10 ≠ (s'.writerOf g).toNat / 2 ^ 10) →
           ∀ h, t.group g.gid = some h → ∀ e ∈ s'.stamps, e.2.1 ≤ h.lclock)
     (w = 4 → rel (.relB32 gd sc b o d f disp x) ∧ acq (.acqB32 gd sc b o d f disp x)) ∧
     (w = 8 → rel (.relB64 gd sc b o d f disp x) ∧ acq (.acqB64 gd sc b o d f disp x)) ∧
     (AtWord s g i → s.performed g.gid (fenceWaits p.toNat) = true →
       s.performed g.gid (hostFence z.toNat p.toNat) = true → ∃ t h, exec (.fence z p) s = .next t ∧
       t.group g.gid = some h ∧ (∀ a, t.byte a = s.byte a) ∧ (∀ k, k ≠ g.gid → t.group k = s.group k) ∧
       t.ro = (if p = 1#4 ∨ p = 15#4 then s.ro.filter (fun e => e.1 / copySpan != g.core) else s.ro) ∧
       t.views = (if p = 5#4 ∨ p = 15#4 then s.views.filter (fun e => e.1 / copySpan != g.core) else s.views) ∧
       (2 ≤ z.toNat → ∀ e ∈ s.stamps, e.2.1 ≤ h.lclock) ∧
       h = { g with lclock := h.lclock, lanes := h.lanes, issue := h.issue, popped := h.popped }))

/-- The tag-table words act one lane at a time in ascending order on the core's table and write each lane's result (07
R185 to R187); a key inserted by a launch is found by it at once with its slot, and a removed one answers its slot. -/
def Obligations.TagTable : Prop :=
  (∀ core grid (m : List (Nat × TagEntry)) (k v u : Word), v ≠ 0xFFFFFFFF#32 →
    (tagStep 1 core grid m k v).2 ≠ 0xFFFFFFFF#32 →
    (tagStep 0 core grid (tagStep 1 core grid m k v).1 k u).2 = v ∧
    (tagStep 2 core grid (tagStep 1 core grid m k v).1 k u).2 = v) ∧
  ∀ (s : State) (g : Group) (i : Issue) (gd : BitVec 4) (b a d : BitVec 7) (n : Instr) (op : Nat) (rb : BitVec 7)
    (srcs : List Nat),
    (n = .tlook gd a d ∧ op = 0 ∧ rb = 0#7 ∧ srcs = [a.toNat]) ∨
      (n = .tins gd b a d ∧ op = 1 ∧ rb = b ∧ srcs = [a.toNat, b.toNat]) ∨
      (n = .tinv gd a d ∧ op = 2 ∧ rb = 0#7 ∧ srcs = [a.toNat]) →
    let ls := g.contributing i gd
    let run := tagRun op g a rb ls s.tags
    LaneReady s g i ls (d.toNat :: srcs) [] → (∀ l ∈ ls, tagAt g srcs l = false) →
    (op = 1 → s.performed g.gid (fun o => o.storesOn 2 || o.storesOn 3) = true) →
    ∃ t h, exec n s = .next t ∧ t.tags = run.1 ∧ t.group g.gid = some h ∧ (∀ p, t.byte p = s.byte p) ∧
      (∀ k, k ≠ g.gid → t.group k = s.group k) ∧
      LaneFrameOf g h ls [d.toNat] fun l _ => ⟨((findBy (fun e => e.1 == l) run.2).map Prod.snd).getD 0#32, false⟩

/-- In world 60's control space `CLD` writes the register named in S[SD] with a clear tag, extended as its width says,
and `CST` writes the register's value, once the address is one of a unit and aligned (05 R126 to R128); neither
touches memory. A poisoned base, then poisoned data of `CST`, raises POISON_USE, then a bad unit ADDR_PATH, then a
misaligned address ADDR_ALIGN. That `CLD` and `CST` take effect as they execute is the model's choice, log entry 8. -/
def Obligations.ControlSpace : Prop :=
  ∀ (s : State) (g : Group) (i : Issue) (w : BitVec 3) (m : BitVec 12) (a d : BitVec 5) (f : BitVec 1),
    let adr := ((g.sreg a.toNat).val + m.signExtend 64).toNat
    let n := 2 ^ (w.toNat % 4)
    AtWord s g i → Ready s g [] [] [a.toNat, d.toNat] → g.flagFree (i.flag f) = true → WellFormed (.cld w m a d f) →
    ((g.sreg a.toNat).poison = true → ∀ k, k = Instr.cld w m a d f ∨ k = .cst w m a d f →
      exec k s = .next (s.raise g.gid i.len
        { cause := poisonUse, detail := 0, index := a.toNat, addr := (g.sreg a.toNat).val.toNat })) ∧
    ((g.sreg a.toNat).poison = false → (g.sreg d.toNat).poison = true →
      exec (.cst w m a d f) s = .next (s.raise g.gid i.len { cause := poisonUse, detail := 1, index := d.toNat })) ∧
    ((g.sreg a.toNat).poison = false → ctlOk adr = true → adr % n = 0 → ∃ t h, exec (.cld w m a d f) s = .next t ∧ t.group g.gid = some h ∧
      (∀ p, t.byte p = s.byte p) ∧ (∀ k, k ≠ g.gid → t.group k = s.group k) ∧ t.trust = s.trust ∧ t.phys = s.phys ∧
      t.ports = s.ports ∧ (∀ k, h.flag k = if i.flag f = some k then g.flag k + 1 else g.flag k) ∧
      ∀ r, h.sreg r = if r = d.toNat ∧ r ≠ 0 then
        ⟨if n = 8 then s.ctlRead (adr + 4) ++ s.ctlRead adr
          else if 4 ≤ w.toNat then (s.ctlRead adr).signExtend 64 else (s.ctlRead adr).setWidth 64, false⟩ else g.sreg r) ∧
    ((g.sreg a.toNat).poison = false → (g.sreg d.toNat).poison = false → ctlOk adr = true → adr % n = 0 → exec (.cst w m a d f) s = .next
      ((if n = 8 then (s.issueOp g (i.flag f) .plain true).ctlWrite64 adr (g.sreg d.toNat).val
        else (s.issueOp g (i.flag f) .plain true).ctlWrite adr ((g.sreg d.toNat).val.setWidth 32)).wordDone g i)) ∧
    ((g.sreg a.toNat).poison = false → ∀ k, k = Instr.cld w m a d f ∨ (k = .cst w m a d f ∧ (g.sreg d.toNat).poison = false) →
      (ctlOk adr = false → exec k s = .next (s.raise g.gid i.len { cause := addrPath, addr := adr })) ∧
      (ctlOk adr = true → adr % n ≠ 0 → exec k s = .next (s.raise g.gid i.len { cause := addrAlign, addr := adr })))

/-- `TLBINV` marks exactly the translations it names and counts one invalidation, `TLBSYNC` goes on when none is
outstanding and waits until then, and the completion leaves no entry that its group's invalidations named; a virtual
function's INVCTL does the same for its own world (05 R129, R130, 17 R391). `CMAINT` and `CMAINT.W` count one maintenance and, for CLEAN and
CLEANINV, change no byte and leave no line they name dirty but those under a range, in U state or outside installed
memory; an INV discards such a line of a world of 48 or more, so that it reads what it held before it became dirty, and
writes back a polder's (05 R131; that the machine keeps what a dirty line covers is the model's choice, log entry 35). A
poisoned operand raises POISON_USE. `CSYNC` goes on when none is outstanding; the completion clears the count (05 R131, R132). -/
def Obligations.Maintenance : Prop :=
  ((∀ (s : State) (g : Group) (i : Issue) (sf k : BitVec 2) (b a : BitVec 5), AtWord s g i →
     let w := (g.sreg b.toNat).val.toNat % 64
     (Ready s g [] [] [a.toNat, b.toNat] → (g.sreg a.toNat).poison = false → (g.sreg b.toNat).poison = false →
       WellFormed (.tlbinv sf k b a) → ∃ t h, exec (.tlbinv sf k b a) s = .next t ∧ t.group g.gid = some h ∧
         GroupOnly g h (g.tlbinv + 1) g.cmaint g.flags ∧ (∀ p, t.byte p = s.byte p) ∧
         t.tlb = s.tlb.map fun e => if (k = 2#2 ∨ (w < 48 ∧ (s.polder w).state ≠ .free)) ∧
             e.named k.toNat sf.toNat (g.sreg a.toNat).val.toNat w = true then
               { e with stale := true, marks := g.gid :: e.marks } else e) ∧
     (∀ pre r post, (if k = 2#2 then [] else if k = 1#2 then [b.toNat] else [a.toNat, b.toNat]) = pre ++ r :: post →
       Ready s g [] [] (pre ++ r :: post) → (∀ q ∈ pre, (g.sreg q).poison = false) → (g.sreg r).poison = true →
       exec (.tlbinv sf k b a) s = .next (s.raise g.gid i.len { cause := poisonUse, detail := 1, index := r })) ∧
     (g.tlbinv = 0 → ∃ t h, exec .tlbsync s = .next t ∧ t.group g.gid = some h ∧
       GroupOnly g h 0 g.cmaint g.flags ∧ Elsewhere s t g) ∧
     (g.tlbinv ≠ 0 → exec .tlbsync s = .next s)) ∧
   (∀ (s : State) (gid : Nat) (g : Group), s.group gid = some g → g.tlbinv ≠ 0 → s.staleInUse gid 0 = false →
     ∃ t, exec (.tlbinvCompletion gid) s = .next t ∧ t.group gid = some { g with tlbinv := 0 } ∧
       (∀ e, e ∈ t.tlb ↔ e ∈ s.tlb ∧ e.markedBy gid 0 = false) ∧ (∀ p, t.byte p = s.byte p)) ∧
   (∀ (s : State) (w : Nat), (s.polder w).invgo = false →
     (∃ t, exec (.invctlAddress w) s = .next t ∧ (t.polder w).invgo = true ∧ t.mem = s.mem ∧
       t.tlb = s.tlb.map fun e => if e.named 0 1 (s.polder w).invaddr.toNat w = true then
         { e with stale := true, marks := 0 :: e.marks } else e) ∧
     (∃ t, exec (.invctlWorld w) s = .next t ∧ (t.polder w).invgo = true ∧ t.mem = s.mem ∧
       t.tlb = s.tlb.map fun e => if e.world = w then { e with stale := true, marks := 0 :: e.marks } else e)) ∧
   (∀ (s : State) (w : Nat), (s.polder w).invgo = true → s.staleInUse 0 w = false →
     ∃ t, exec (.invctlCompletion w) s = .next t ∧ (t.polder w).invgo = false ∧ t.mem = s.mem ∧
       ∀ e, e ∈ t.tlb ↔ e ∈ s.tlb ∧ e.markedBy 0 w = false)) ∧
  ((∀ (s : State) (g : Group) (i : Issue) (o : BitVec 2) (b a : BitVec 5), AtWord s g i →
     let lo := (g.sreg a.toNat).val.toNat
     let n := (g.sreg b.toNat).val.toNat
     let discards := fun (t : State) (pick : Nat → Prop) => (s.dirty.map Prod.fst).Nodup →
       (∀ e ∈ s.dirty, ∀ c ∈ e.2.cells, c.1 / 128 = e.1) → (∀ p, s.dirtyLine (p / 128) = none → t.byte p = s.byte p) ∧
       ∀ ln e, s.dirtyLine ln = some e →
         (pick ln → s.lineSkipped ln = false → t.dirtyLine ln = none) ∧
         (pick ln → s.lineSkipped ln = false → 48 ≤ s.owner (ln * 128) →
           t.line ln = e.was ∧ ∀ p, p / 128 = ln → t.byte p = (lastAt e.cells p).getD 0#8) ∧
         (¬ pick ln ∨ s.lineSkipped ln = true ∨ s.owner (ln * 128) < 48 → ∀ p, p / 128 = ln → t.byte p = s.byte p)
     (Ready s g [] [] [a.toNat, b.toNat] → (∀ r, ((g.sreg a.toNat).poison = true ∧ r = a.toNat) ∨
         ((g.sreg a.toNat).poison = false ∧ (g.sreg b.toNat).poison = true ∧ r = b.toNat) →
       exec (.cmaint o b a) s = .next (s.raise g.gid i.len { cause := poisonUse, detail := 1, index := r }))) ∧
     (Ready s g [] [] [a.toNat] → (g.sreg a.toNat).poison = true →
       exec (.cmaintW o a) s = .next (s.raise g.gid i.len { cause := poisonUse, detail := 1, index := a.toNat })) ∧
     (Ready s g [] [] [a.toNat, b.toNat] → (g.sreg a.toNat).poison = false → (g.sreg b.toNat).poison = false →
       ∃ t h, exec (.cmaint o b a) s = .next t ∧ t.group g.gid = some h ∧
         GroupOnly g h g.tlbinv (g.cmaint + 1) g.flags ∧
         (o ≠ 2#2 → (∀ p, t.byte p = s.byte p) ∧ ∀ ln ∈ t.dirty.map Prod.fst, ln ∈ s.dirty.map Prod.fst ∧
           (n ≠ 0 → lo < (ln + 1) * 128 → ln * 128 < lo + n → s.lineSkipped ln = true)) ∧
         (o = 2#2 → discards t fun ln => n ≠ 0 ∧ lo < (ln + 1) * 128 ∧ ln * 128 < lo + n)) ∧
     (Ready s g [] [] [a.toNat] → (g.sreg a.toNat).poison = false →
       ∃ t h, exec (.cmaintW o a) s = .next t ∧ t.group g.gid = some h ∧
         GroupOnly g h g.tlbinv (g.cmaint + 1) g.flags ∧
         (o ≠ 2#2 → (∀ p, t.byte p = s.byte p) ∧ ∀ ln ∈ t.dirty.map Prod.fst, ln ∈ s.dirty.map Prod.fst ∧
           (s.inWays (lo % 64) ln = true → s.lineSkipped ln = true)) ∧
         (o = 2#2 → discards t fun ln => s.inWays (lo % 64) ln = true)) ∧
     (g.cmaint = 0 → ∃ t h, exec .csync s = .next t ∧ t.group g.gid = some h ∧ GroupOnly g h g.tlbinv 0 g.flags ∧
       Elsewhere s t g) ∧
     (g.cmaint ≠ 0 → exec .csync s = .next s)) ∧
   ∀ (s : State) (gid : Nat) (g : Group), s.group gid = some g →
     ∃ t, exec (.cmaintCompletion gid) s = .next t ∧ t.group gid = some { g with cmaint := 0 } ∧ t.mem = s.mem)

/-- `BR` sends each contributing lane to H + 4 OFF; `BRU` sends every lane in the clause where its C predicate says so,
sets UNIF where waiting lanes stand elsewhere, and under STRICT traps there; `BRX` sends each lane to the target in
its pair; `NOP` and `YIELD` do nothing (08 R193 to R195, R218). -/
def Obligations.Branching : Prop :=
  ∀ (s : State) (g : Group) (i : Issue) (gd : BitVec 4) (o : BitVec 21) (o' : BitVec 22) (n : BitVec 1) (c : BitVec 2)
    (a : BitVec 7), AtWord s g i →
    let ls := g.contributing i gd
    let uniform := ∀ l ∈ g.ready, i.lanes.getLsbD l = true
    let jump := fun k ls dest gstat => ∃ t, exec k s = .next t ∧ Branches s t g i ls dest gstat
    jump (.br o gd) ls (fun _ => i.hdr + 4#64 * o.signExtend 64) g.gstat ∧
    (g.gstat.getLsbD 4 = true → ¬ uniform →
      exec (.bru o' n c) s = .next (s.raise g.gid i.len { cause := uniformity })) ∧
    (g.gstat.getLsbD 4 = false ∨ uniform → ∀ st, (uniform → st = g.gstat) → (¬ uniform → st = g.gstat ||| 1#32) →
      jump (.bru o' n c) (if xor (g.cregs.getLsbD c.toNat) (n == 1#1) = true then maskLanes i.lanes else [])
        (fun _ => i.hdr + 4#64 * o'.signExtend 64) st) ∧
    (Ready s g ls [a.toNat, a.toNat + 1] [] → targetChecks g ls a = none →
      jump (.brx a gd) ls (fun l => pairOf g a l) g.gstat) ∧
    jump (.nop gd) [] (fun _ => 0#64) g.gstat ∧ jump .yield [] (fun _ => 0#64) g.gstat

/-- `CALL` and `CALLX` give each calling lane a frame of the declared count, zero-filled, that returns to the next
clause, and send it to its target, lanes with one target sharing a frame (08 R196); past the limits they raise
FRAME_DEPTH or FRAME_LIMIT. -/
def Obligations.Calls : Prop :=
  ∀ (s : State) (g : Group) (i : Issue) (dm a : BitVec 7) (gd : BitVec 4) (o : BitVec 32) (n : Instr)
    (dest : Nat → DWord), AtWord s g i →
    let ls := g.contributing i gd
    (n = .call dm gd o ∧ dest = fun _ => i.hdr + 4#64 * o.signExtend 64) ∨
      (n = .callx dm a gd ∧ (dest = fun l => pairOf g a l) ∧ Ready s g ls [a.toNat, a.toNat + 1] [] ∧
        targetChecks g ls a = none) →
    ls ≠ [] →
    let d := dm.toNat + 1
    let need := (d + 7) / 8 * (ls.map dest).dedup.length
    let p := s.poolOf g.core g.grid
    let deep := ls.filter fun l => decide ((g.lane l).depth = 255)
    (deep ≠ [] → exec n s = .next (s.raise g.gid i.len
      { cause := frameDepth, mask := laneMask deep, index := d, aux := need })) ∧
    (deep = [] → s.usable p < need + g.held' → exec n s = .next (s.raise g.gid i.len
      { cause := frameLimit, index := d, aux := need })) ∧
    (deep = [] → need + g.held' ≤ s.usable p → g.request = none → s.canServe p s.clock g.slot need = true →
      ∃ t h, exec n s = .next t ∧ t.group g.gid = some h ∧ Leaves g h i ls dest ∧ (∀ b, t.byte b = s.byte b) ∧
        (∀ k, k ≠ g.gid → t.group k = s.group k) ∧
        (∀ l, ls.contains l = true → (g.lane l).live = true → ∃ f ∈ h.frames, (h.lane l).chain = ⟨f.fid, []⟩ :: (g.lane l).chain ∧
          f.count = d ∧ f.ret = i.after ∧ f.trap = none ∧ f.spilled = false ∧
          ∀ m, ls.contains m = true → (g.lane m).live = true →
            ((h.lane m).fid = (h.lane l).fid ↔ dest m = dest l)) ∧
        (∀ l, ls.contains l = false → SameButPc (g.lane l) (h.lane l)) ∧ (∀ f ∈ g.frames, f ∈ h.frames)) ∧
    (deep = [] → need + g.held' ≤ s.usable p → g.request = none → s.canServe p s.clock g.slot need = false →
      ∃ t, exec n s = .next t ∧
        t.group g.gid = some ({ g with request := some ⟨s.clock, need, .call d, false⟩ }.stays s))

/-- `RET` from ordinary frames takes each lane to its frame's return address and drops the frame; `UNWIND` drops frames
down to the depth named and goes to the address named; `EXIT` ends its lanes (08 R197 to R199). -/
def Obligations.Returns : Prop :=
  ∀ (s : State) (g : Group) (i : Issue) (b a : BitVec 5) (gd : BitVec 4), AtWord s g i →
    let ls := g.contributing i gd
    let flat := ls.filter fun l => decide ((g.lane l).depth = 0)
    let u := (g.sreg a.toNat).val.toNat
    let short := ls.filter fun l => decide ((g.lane l).depth < u)
    (flat ≠ [] → g.trapFrames ls = [] →
      exec (.ret gd) s = .next (s.raise g.gid i.len { cause := frameDepth, mask := laneMask flat })) ∧
    (∀ f : Nat → Frame, flat = [] → g.trapFrames ls = [] → (∀ l ∈ ls, g.frame (g.lane l).fid = some (f l)) →
      ∃ t h, exec (.ret gd) s = .next t ∧ t.group g.gid = some h ∧ Leaves g h i ls (fun l => (f l).retOf l) ∧
        (∀ l, ls.contains l = true → (h.lane l).chain = (g.lane l).chain.drop 1) ∧
        (∀ l, ls.contains l = false → SameButPc (g.lane l) (h.lane l)) ∧ (∀ p, t.byte p = s.byte p)) ∧
    (ls ≠ [] → Ready s g [] [] [a.toNat, b.toNat] → (g.sreg a.toNat).poison = false → (g.sreg b.toNat).poison = false →
      (okTarget (g.sreg b.toNat).val = false → exec (.unwind b a gd) s = .next (s.raise g.gid i.len
        { cause := addrPath, addr := (g.sreg b.toNat).val.toNat })) ∧
      (okTarget (g.sreg b.toNat).val = true → short ≠ [] → exec (.unwind b a gd) s = .next (s.raise g.gid i.len
        { cause := frameDepth, mask := laneMask short })) ∧
      (okTarget (g.sreg b.toNat).val = true → short = [] → ∃ t h, exec (.unwind b a gd) s = .next t ∧
        t.group g.gid = some h ∧ Leaves g h i ls (fun _ => (g.sreg b.toNat).val) ∧ (∀ p, t.byte p = s.byte p) ∧
        (∀ l, ls.contains l = true → (h.lane l).chain = (g.lane l).chain.drop ((g.lane l).depth - u)) ∧
        (∀ l, ls.contains l = false → SameButPc (g.lane l) (h.lane l)))) ∧
    (∃ t, exec (.exit gd) s = .next t ∧ (∀ h, t.group g.gid = some h →
        (∀ l, ls.contains l = true → (h.lane l).live = false) ∧
        (∀ l, ls.contains l = false → SameButPc (g.lane l) (h.lane l))) ∧
      ((∃ l ∈ g.liveLanes, ls.contains l = false) → ∃ h, t.group g.gid = some h))

/-- 20 R439: `TRAP` where any guard is true raises USER, and where a frame can be had at once the lanes still in the
clause enter a trap frame of count 32 at TRAPENT, with the record in V0 to V15, zeros above, and every other lane and
register as it was, their predicates, TID and SRS among them; without one they wait with the trap in a frame request of 4
granules, and enter when it is served. That NESTED is set by a member whose current frame is a trap frame is the model's
choice, log entry 20. 20 R440: `RET` by all live members of one trap frame, and by no other lane, resumes each at its H from the
faulting word for REPLAY, from the word after it for SKIP, from word 0 where the record was HEADER or ASYNC, and past the
clause where no word is left; ACTION 2 or 3 raises RECORD; a `RET` by only some members raises SYNC_STATE. -/
def Obligations.TrapEntryAndReturn : Prop :=
  ((∀ (s : State) (g : Group) (i : Issue) (c : BitVec 7) (gd : BitVec 4), AtWord s g i →
     let ls := g.contributing i gd
     let tells := fun w : Nat → Word => w 0 = BitVec.ofNat 32 (0x12 + 2 ^ 16 * lowestLane (laneMask ls) +
         2 ^ 24 * (if g.inTrap i.lanes = true then 8 else 0)) ∧ w 1 = BitVec.ofNat 32 c.toNat ∧
       w 3 ++ w 2 = i.hdr + BitVec.ofNat 64 (4 + 4 * i.idx) ∧ w 7 ++ w 6 = laneMask ls ∧ w 15 = 1#32
     let point : TrapPoint := ⟨false, i.idx, i.idx + i.len, i.words.length, g.barDone⟩
     (ls = [] → ∃ t, exec (.trap c gd) s = .next t ∧ Branches s t g i [] (fun _ => 0#64) g.gstat) ∧
     (ls ≠ [] → s.trapent g ≠ 0#64 → (∀ l ∈ maskLanes i.lanes, (g.lane l).depth ≠ 255) →
       g.held' + 4 ≤ s.usable (s.poolOf g.core g.grid) →
       (s.canServe (s.poolOf g.core g.grid) s.clock g.slot 4 = true →
         ∃ t h f, exec (.trap c gd) s = .next t ∧ t.group g.gid = some h ∧ f ∈ h.frames ∧ f.count = 32 ∧ f.ret = i.hdr ∧
           f.trap = some point ∧
           (∀ l, (g.lane l).live = true → i.lanes.getLsbD l = true → (h.lane l).pcv = s.trapent g ∧
             (h.lane l).fid = f.fid ∧ (h.lane l).chain.drop 1 = (g.lane l).chain ∧ tells (fun k => ((h.lane l).vreg k).val) ∧
             (∀ r, (h.lane l).vreg r = if r < 16 then ⟨((h.lane l).vreg r).val, false⟩ else ⟨0#32, false⟩) ∧
             h.lane l = { g.lane l with pcv := s.trapent g, chain := (h.lane l).chain, resume := none, back := 0 }) ∧
           (∀ l, i.lanes.getLsbD l = false → h.lane l = g.lane l) ∧ h.sregs = g.sregs ∧ h.cregs = g.cregs ∧
           h.qregs = g.qregs ∧ h.flags = g.flags ∧ h.jregs = g.jregs ∧ h.gstat = g.gstat) ∧
       (s.canServe (s.poolOf g.core g.grid) s.clock g.slot 4 = false →
         ∃ t r, exec (.trap c gd) s = .next t ∧ tells r.record.word ∧ r.members = i.lanes ∧ r.hdr = i.hdr ∧ r.point = point ∧
           t.group g.gid = some { g.dropped with request := some ⟨s.clock, 4, .trap r, false⟩, latch := none }))) ∧
   (∀ (s : State) (gid age gr : Nat) (g : Group) (r : PendingTrap), s.group gid = some g →
     g.request = some ⟨age, gr, .trap r, true⟩ → ∃ t h f, exec (.trapEntry gid) s = .next t ∧ t.group gid = some h ∧
       h.request = none ∧ f ∈ h.frames ∧ f.count = 32 ∧ f.ret = r.hdr ∧ f.trap = some r.point ∧
       (∀ l, (g.lane l).live = true → r.members.getLsbD l = true → (h.lane l).pcv = s.trapent g ∧ (h.lane l).fid = f.fid ∧
         (h.lane l).chain.drop 1 = (g.lane l).chain ∧ (∀ k < 16, (h.lane l).vreg k = ⟨r.record.word k, false⟩) ∧
         h.lane l = { g.lane l with pcv := s.trapent g, chain := (h.lane l).chain, resume := none, back := 0 }) ∧
       ∀ l, r.members.getLsbD l = false → h.lane l = g.lane l)) ∧
  (∀ (s : State) (g : Group) (i : Issue) (gd : BitVec 4) (f : Frame) (p : Nat → TrapPoint) (l0 : Nat), AtWord s g i →
     let ls := g.contributing i gd
     let action := ((g.lane l0).vreg 15).val.toNat % 4
     let idx := fun l => if (p l).header = true then 0 else if action = 0 then (p l).idx else (p l).after
     let past := fun l => (p l).header = false ∧ (p l).words ≤ idx l
     ls.head? = some l0 → Ready s g ls [15] [] →
     (∀ l ∈ ls, (g.lane l).depth ≠ 0 ∧ (g.lane l).fid = f.fid ∧ f.pointOf l = some (p l)) →
     g.frame f.fid = some f → g.trapFrames ls = [f] →
     ((∀ l ∈ g.trapMembers f, l ∈ ls) → action < 2 →
       ∃ t h, exec (.ret gd) s = .next t ∧ t.group g.gid = some h ∧ (∀ b, t.byte b = s.byte b) ∧
         Leaves g h i ls (fun l => if past l then f.retOf l + BitVec.ofNat 64 (4 * ((p l).words + 1)) else f.retOf l) ∧
         (∀ l, ls.contains l = false → SameButPc (g.lane l) (h.lane l)) ∧
         ∀ l, ls.contains l = true → (h.lane l).chain = (g.lane l).chain.drop 1 ∧
           (h.lane l).resume = (if past l then none else some (idx l)) ∧ (h.lane l).back = if past l then 0 else f.fid) ∧
     ((∀ l ∈ g.trapMembers f, l ∈ ls) → 2 ≤ action →
       exec (.ret gd) s = .next (s.raise g.gid i.len { cause := recordCause, index := 60 })) ∧
     ((∃ l ∈ g.trapMembers f, l ∉ ls) → exec (.ret gd) s = .next (s.raise g.gid i.len { cause := syncState })))

/-- `SPAWN` adds one record for each contributing lane, with its payload and a new TID that no thread of the team holds,
to the bin of its entry, or the lowest free one (08 R200). `REGROUP`, once every launched group of the team waits at
it, places the threads by the low 16 bits of V[A] and then TID over the groups in GRPID order, 64 to a group, each
thread with its registers, predicates and SRS, at the next clause; until then it waits (08 R202, 01 R31). -/
def Obligations.SpawnAndRegroup : Prop :=
  (∀ (s : State) (g : Group) (i : Issue) (a : BitVec 5) (p : BitVec 7) (gd : BitVec 4) (tm : Team) (k : Nat), AtWord s g i →
     let ls := g.contributing i gd
     let e := (g.sreg a.toNat).val
     s.team g.team = some tm → ls ≠ [] → Ready s g ls [p.toNat] [a.toNat] → boundCond g ls [p.toNat] = none →
     (g.sreg a.toNat).poison = false → okTarget e = true → binFor tm.bins e = some k →
     ((tm.bins[k]?).map (·.recs.length)).getD 0 ≤ 64 → (s.heldTids tm.key).length + 64 < 2 ^ 32 - 1024 →
     ∃ t tm', exec (.spawn a p gd) s = .next t ∧ t.team g.team = some tm' ∧ (∀ b, t.byte b = s.byte b) ∧
       tm'.bins.length = tm.bins.length ∧ (∀ j, j ≠ k → tm'.bins[j]? = tm.bins[j]?) ∧
       ∀ b, tm.bins[k]? = some b → ∃ b' new, tm'.bins[k]? = some b' ∧ b'.key = some e ∧ b'.recs = b.recs ++ new ∧
         new.map (·.payload) = ls.map (fun l => (g.lane l).vreg p.toNat) ∧
         ∀ r ∈ new, 1024 ≤ r.tid.toNat ∧ r.tid.toNat ∉ s.heldTids tm.key) ∧
  (∀ (s : State) (g : Group) (i : Issue) (a : BitVec 7), AtWord s g i → g.isLaunched = true → g.parked = 0#64 →
     (∀ l ∈ g.liveLanes, i.lanes.getLsbD l = true) → Ready s g (maskLanes i.lanes) [a.toNat] [] →
     boundCond g (maskLanes i.lanes) [a.toNat] = none →
     let gs := (s.modGroup g.gid fun h => { h with waiting := .regroup }).launched g.team
     let slots := bySlot gs
     let ths := sortThreads gs a
     let idle := ∀ h ∈ gs, h.waiting = .regroup ∧ h.flags = [] ∧ h.swapped = false ∧ h.asyncs = [] ∧
       s.pendingV h.gid = [] ∧ s.pendingS h.gid = [] ∧ ∀ f ∈ h.frames, f.spilled = false
     ((∃ h ∈ gs, h.waiting ≠ .regroup) → ∃ t, exec (.regroup a) s = .next t ∧
       t.group g.gid = some ({ g with waiting := .regroup }.stays s)) ∧
     (idle → s.inUse (s.poolOf g.core g.grid) ≤ s.usable (s.poolOf g.core g.grid) → (gs.map (·.gid)).Nodup →
       (∀ x ∈ gs.flatMap fun h => h.liveLanes.map h.arrivalKey, ∀ y ∈ gs.flatMap fun h => h.liveLanes.map h.arrivalKey,
         x = y) →
       ths.Pairwise (fun x y => x.1.1 < y.1.1 ∨ (x.1.1 = y.1.1 ∧ x.1.2 ≤ y.1.2)) ∧
       ∃ t, exec (.regroup a) s = .next t ∧ (∀ b, t.byte b = s.byte b) ∧
         ∀ n key gid l old into, ths[n]? = some (key, gid, l) → old ∈ gs → old.gid = gid → slots[n / 64]? = some into →
           ∃ h, t.group into.gid = some h ∧ h.slot = into.slot ∧
             (h.lane (n % 64)).pcv = i.after ∧ (h.lane (n % 64)).tid = (old.lane l).tid ∧
             (h.lane (n % 64)).preds = (old.lane l).preds ∧ (h.lane (n % 64)).srs = (old.lane l).srs ∧
             (h.lane (n % 64)).chain.map (·.regs) = (old.lane l).chain.map (·.regs)))

/-- A barrier waits until every launched group of the team, or of the gang, has arrived at it with its earlier writes
performed; the last arrival lets all go on, each with the greatest clock among them (08 R203, R204). -/
def Obligations.Barriers : Prop :=
  ∀ (s : State) (g : Group) (i : Issue) (k : BitVec 4) (gang : Bool) (n : Instr), AtWord s g i →
    (s.groups.map (·.gid)).Nodup → n = (if gang = true then .barGang k else .barTeam k) → g.isLaunched = true →
    (∀ l ∈ g.ready, i.lanes.getLsbD l = true) → s.performed g.gid arriveWaits = true →
    let me := { g with lclock := max g.lclock (s.opTime g.gid arriveWaits), waiting := .barrier gang k.toNat false }
    let ps := s.parties gang g
    let others := ps.filter fun h => h.gid != g.gid
    (g.waiting = .barrier gang k.toNat true → ∃ t h, exec n s = .next t ∧ t.mem = s.mem ∧ t.group g.gid = some h ∧
      GroupWord g h) ∧
    (g.waiting ≠ .barrier gang k.toNat true → (∃ h ∈ others, h.waiting ≠ .barrier gang k.toNat false) →
      ∃ t, exec n s = .next t ∧ t.group g.gid = some (me.stays s) ∧ t.mem = s.mem) ∧
    (g.waiting ≠ .barrier gang k.toNat true → (∀ h ∈ others, h.waiting = .barrier gang k.toNat false) → ∃ t h, exec n s = .next t ∧ t.mem = s.mem ∧
      t.group g.gid = some h ∧ GroupWord g h ∧ (∀ p ∈ others, p.lclock ≤ h.lclock) ∧
      (∀ p ∈ others, s.group p.gid = some p → t.group p.gid = some { p with
        lclock := (me :: others).foldl (fun c x => max c x.lclock) 0, waiting := .barrier gang k.toNat true }))

/-- 08 R206: the phase of a sync word completes at the first operation after which ACNT ≥ ATGT, BRUN ≥ BTGT and OBS ≥ REG
all hold: GEN advances modulo 2^16, ACNT and OBS become 0, BRUN falls by BTGT; before that nothing of it moves,
whether the operation is an arrival, a raise or an observation. -/
def Obligations.PhaseCompletes : Prop :=
  ∀ (y : SyncWord) (n g : Nat),
    let after := fun z : SyncWord => if z.acnt ≥ z.atgt ∧ z.brun ≥ z.btgt ∧ z.obs ≥ z.reg then
      { z with gen := (z.gen + 1) % 2 ^ 16, acnt := 0, brun := z.brun - z.btgt, obs := 0 } else z
    y.arrive n = after { y with acnt := min (y.acnt + n) 0xFFFF } ∧
    y.raise n = after { y with brun := min (y.brun + n) (2 ^ 32 - 1) } ∧
    y.observe g = (if y.gen = (g + 1) % 2 ^ 16 ∧ y.obs < y.reg then after { y with obs := y.obs + 1 } else y)

/-- `ARRIVE` adds its count to an accepting sync word, or sets its C predicate and leaves a word with observers
outstanding as it is; `SWAIT` waits out its generation and then observes (08 R207, R208); each acts on the 16 bytes
its address names alone. `CWAIT` waits for its counter and completes as an acquire (R209). -/
def Obligations.SyncWords : Prop :=
  ∀ (s : State) (g : Group) (i : Issue) (c : BitVec 2) (b a : BitVec 5) (tk o : Nat) (tm : Team), AtWord s g i →
    Ready s g [] [] [a.toNat, b.toNat] → (g.sreg a.toNat).poison = false → (g.sreg b.toNat).poison = false →
    let adr := (g.sreg a.toNat).val.toNat
    let n := (g.sreg b.toNat).val.toNat % 65536
    (s.place g (fun p => p == 2 || p == 3) 16 adr = some (.scr (pathOf adr == 3) tk o) → adr % 16 = 0 →
      s.team tk = some tm → s.syncBusy g a = false →
      let bs := (List.range 16).map fun k => mapGet 0#8 tm.scratch (o + k)
      let y := SyncWord.ofNat (ofBytes bs)
      (∀ k < 16, mapGet false tm.spoison ((o + k) / 4) = false) →
      (s.performed g.gid arriveWaits = true → ∃ t h tm', exec (.arrive c b a) s = .next t ∧ t.mem = s.mem ∧
        t.group g.gid = some h ∧ t.team tk = some tm' ∧ g.lclock ≤ h.lclock ∧
        (∀ j, h.creg j = if j = c.toNat then decide (y.obs < y.reg) else g.creg j) ∧
        (∀ k < 16, mapGet 0#8 tm'.scratch (o + k) =
          (toBytes 16 (if y.obs < y.reg then y else y.arrive n).toNat).getD k 0#8) ∧
        ∀ k, (k < o ∨ o + 16 ≤ k) → mapGet 0#8 tm'.scratch k = mapGet 0#8 tm.scratch k) ∧
      (y.gen = n → exec (.swait b a) s = .next (s.noteWait g.gid)) ∧
      (y.gen ≠ n → ∃ t h tm', exec (.swait b a) s = .next t ∧ t.mem = s.mem ∧ t.group g.gid = some h ∧
        t.team tk = some tm' ∧ mapGet 0 tm.phase o ≤ h.lclock ∧ (∀ j, h.creg j = g.creg j) ∧
        (∀ k < 16, mapGet 0#8 tm'.scratch (o + k) = (toBytes 16 (y.observe n).toNat).getD k 0#8) ∧
        ∀ k, (k < o ∨ o + 16 ≤ k) → mapGet 0#8 tm'.scratch k = mapGet 0#8 tm.scratch k)) ∧
    (∀ (s' : State) (ps : List (Nat × Place × List Loc)),
      let accs : List LaneAcc := ps.map fun e => ⟨e.1, 0, e.2.2, [], false⟩
      let v := ofBytes (accs.flatMap (locBytes s'))
      s.access g (· == 0) false 0 8 [(64, adr)] = (s', .ok ps) → Coherent accs → Sound s' g.world (devBytes accs) →
      (∀ e ∈ ps, e.2.2.length = 8) → s'.group g.gid = some g →
      (∀ x ∈ devBytes accs, mapGet none s'.l1 (copyKey g.core (x / 32)) = none) →
      s'.mayPerform ⟨s'.ids, g.gid, g.core, g.world, g.team, none, .load 0 8 false true accs, false, 0⟩ = true →
      (v < (g.sreg b.toNat).val.toNat → ∃ t h, exec (.cwait b a) s = .next t ∧ t.group g.gid = some h ∧
        h.issue = g.issue ∧ ∀ p, t.byte p = s'.byte p) ∧
      ((g.sreg b.toNat).val.toNat ≤ v → ∃ t h, exec (.cwait b a) s = .next t ∧ t.group g.gid = some h ∧
        (∀ p, t.byte p = s'.byte p) ∧ (∀ e ∈ t.ro, e.1 / copySpan ≠ g.core) ∧ (∀ e ∈ t.views, e.1 / copySpan ≠ g.core) ∧
        (∀ e ∈ s'.stamps, e.2.1 ≤ h.lclock) ∧ GroupWord { g with waiting := .no } { h with waiting := .no }))

/-- Reads of a consumer-bound Q register (08 R211, 05 R124): an entry is popped from the head and raises the group's
clock to the producer's; an empty queue stalls while its producer lives and raises QUEUE_ORPHAN once it has closed or
faulted, the record naming the producer's. `QBIND` binds, refusing what R210 refuses, `QCLOSE` unbinds, and `REJOIN`
returns the lanes of a J register whose replies are in to the next clause (R210 to R214). -/
def Obligations.QueuesAndRejoin : Prop :=
  (∀ (s : State) (g : Group) (k : Nat) (b : QBind) (q : Queue) (scalar : Bool), s.group g.gid = some g →
    findBy (fun e => e.1 == k) g.qregs = some (k, b) → b.producer = false → s.queue (s.gangOf g) b.obj = some q →
    (scalar = true → q.vector = false) →
    (∀ e es, q.entries = e :: es → ∃ t h, s.pop g k scalar = .entry t e ∧
      t.queue (s.gangOf g) b.obj = some { q with entries := es } ∧ t.group g.gid = some h ∧
      h = { g with lclock := max g.lclock e.clock, popped := g.popped ++ [e] } ∧ t.mem = s.mem) ∧
    (q.entries = [] → q.live = true → s.pop g k scalar = .stall) ∧
    (q.entries = [] → q.producer = .closed → s.pop g k scalar = .orphan 0#32) ∧
    (∀ r, q.entries = [] → q.producer = .faulted r → s.pop g k scalar = .orphan r)) ∧
  ∀ (s : State) (g : Group) (i : Issue) (r : BitVec 1) (q j : BitVec 2) (o : BitVec 4), AtWord s g i →
    let t0 := s.closeQ g q.toNat
    (∃ t h, exec (.qclose q) s = .next t ∧ t.mem = s.mem ∧ t.group g.gid = some h ∧
      h.qregs = g.qregs.filter fun e => e.1 != q.toNat) ∧
    ((t0.queue (s.gangOf g) o.toNat = none ∨ ∃ u, t0.queue (s.gangOf g) o.toNat = some u ∧
        ((r = 0#1 ∧ u.consumer.isSome = true) ∨ (r = 1#1 ∧ (u.live = true ∨ u.vector = true)))) →
      exec (.qbind r q o) s = .next (s.raise g.gid i.len { cause := queueBind, index := o.toNat })) ∧
    (∀ u, t0.queue (s.gangOf g) o.toNat = some u → (r = 0#1 → u.consumer = none) →
      (r = 1#1 → u.live = false ∧ u.vector = false) →
      ∃ t h u', exec (.qbind r q o) s = .next t ∧ t.mem = s.mem ∧ t.group g.gid = some h ∧
        t.queue (s.gangOf g) o.toNat = some u' ∧ findBy (fun e => e.1 == q.toNat) h.qregs = some (q.toNat, ⟨o.toNat, r == 1#1⟩) ∧
        (if r = 0#1 then u' = { u with consumer := some g.gid, drained := false } else u' = { u with producer := .group g.gid })) ∧
    ((∃ b ∈ s.blocks, b.gid = g.gid ∧ b.parked = some j.toNat ∧ b.stage ≠ .delivered) →
      exec (.rejoin j) s = .next (s.noteWait g.gid)) ∧
    ((∀ b ∈ s.blocks, b.gid = g.gid → b.parked = some j.toNat → b.stage = .delivered) →
      ∃ t h, exec (.rejoin j) s = .next t ∧ t.mem = s.mem ∧ t.group g.gid = some h ∧ h.jreg j.toNat = 0#64 ∧
        ∀ l, (g.lane l).live = true → (g.jreg j.toNat).getLsbD l = true → (h.lane l).pcv = i.after) ∧
    (∀ (s : State) (g : Group) (k : Nat), s.group g.gid = some g → g.ready = [] → g.issue = none →
      (∀ b ∈ s.blocks, b.gid = g.gid → b.parked = some k → b.stage = .delivered) →
      ∃ t h, exec (.implicitRejoin g.gid k) s = .next t ∧ t.mem = s.mem ∧ t.group g.gid = some h ∧
        h.lanes = g.lanes ∧ h.jreg k = 0#64)

/-- `CLAUSE_ISSUE` (02 R34, R35, R37, R71, 10 R253): the lanes at the least PCV begin the clause whose header and words
are fetched there, at its first word; a header whose SIG is not 0xA, or whose N is 0, or whose SETA or SETB is 12 to
14, raises ILLEGAL_OP with detail HEADER, then CLASS 7 with detail CLASS, then CLASS 6 outside world 60 with detail
PRIV (R70); while a flag that WAIT names is not zero the clause does not begin. A clause that the second port pairs with
it stands at a higher PCV, for lanes that wait there (10 R255). -/
def Obligations.ClauseIssue : Prop :=
  ∀ (s s1 : State) (g : Group) (h : DWord) (lanes : List Nat) (w : Word), s.group g.gid = some g →
    s.mayIssue g = true → g.nextClause = (h, lanes) → lanes ≠ [] → g.asyncs = [] → g.second = none →
    (∀ l ∈ lanes, ∀ f, g.frame (g.lane l).fid = some f → f.spilled = false) →
    s.fetchWords g h.toNat 1 = (s1, .ok [w]) →
    let n := w.toNat
    let seta := n / 2 ^ 19 % 16
    let setb := n / 2 ^ 23 % 16
    let cls := n / 2 ^ 4 % 8
    let sound := n / 2 ^ 28 = 10 ∧ n % 16 ≠ 0 ∧ (seta ≤ 11 ∨ seta = 15) ∧ (setb ≤ 11 ∨ setb = 15)
    let bad := fun d => exec (.clauseIssue g.gid) s = .next (s1.raiseHeader g h lanes
      { cause := illegalOp, detail := d, index := 0xFFFFFFFF, aux := n })
    (¬ sound → bad 1) ∧ (sound → cls = 7 → bad 2) ∧ (sound → cls = 6 → g.world ≠ 60 → bad 3) ∧
    ∀ (s2 : State) (ws : List Word), sound → (cls < 6 ∨ (cls = 6 ∧ g.world = 60)) →
      s1.fetchWords g (h.toNat + 4) (n % 16) = (s2, .ok ws) → s2.group g.gid = some g →
      ((∃ k < 12, n.testBit (7 + k) = true ∧ g.flag k ≠ 0) →
        exec (.clauseIssue g.gid) s = .next (s2.noteWait g.gid)) ∧
      ((∀ k < 12, n.testBit (7 + k) = true → g.flag k = 0) → ∃ t b, exec (.clauseIssue g.gid) s = .next t ∧
        t.group g.gid = some b ∧ t.mem = s2.mem ∧ (∀ k, k ≠ g.gid → t.group k = s2.group k) ∧
        b.issue = some ⟨h, cls, seta, setb, ws, ((lanes.head?.bind fun l => (g.lane l).resume)).getD 0, laneMask lanes⟩ ∧
        (∀ l, (g.lane l).live = true → b.lane l =
          if lanes.contains l then { g.lane l with resume := none, back := 0 } else g.lane l) ∧
        b = { g with issue := b.issue, lanes := b.lanes, since := none, second := b.second } ∧
        ∀ p m, b.second = some (p, m) → 1 ≤ cls ∧ cls ≤ 4 ∧ h.toNat < p.toNat ∧
          ∀ l < 64, m.getLsbD l = true → l ∈ g.ready ∧ (g.lane l).pcv = p)

/-- An operation whose effect is in place completes: its record goes, its flag counts one less, its group's clock is at
least its time (02 R37, 11 R280); a frame request is served once its granules fit and no other request of its pool is
older (10 R263); a line that reads CORRECTED is rewritten with no change of value (20 R431). -/
def Obligations.Completions : Prop :=
  (∀ (s : State) (id : Nat) (o : Op) (g : Group), s.op id = some o → o.done = true →
    ((∃ d w sg sc as, o.kind = .load d w sg sc as) ∨ (∃ w as, o.kind = .store w as) ∨ o.kind = .plain) →
    s.group o.gid = some g → g.liveLanes ≠ [] →
    ∃ t h, exec (.longLatencyCompletion id) s = .next t ∧ t.op id = none ∧ t.mem = s.mem ∧ t.group o.gid = some h ∧
      (∀ k, k ≠ o.gid → t.group k = s.group k) ∧
      (∀ k, h.flag k = if o.flag = some k then g.flag k - 1 else g.flag k) ∧ h.lclock = max g.lclock o.time ∧
      h = { g with flags := h.flags, lclock := h.lclock, frames := h.frames, restores := h.restores, faults := h.faults,
                   gstat := h.gstat, tried := none }) ∧
  (∀ (s : State) (g : Group), s.group g.gid = some g →
    let p := s.poolOf g.core g.grid
    let ok := fun r : FrameReq => s.inUse p + r.granules ≤ s.usable p ∧
      ∀ w ∈ s.waiters p, r.age < w.1 ∨ (r.age = w.1 ∧ g.slot ≤ w.2.1)
    ((∀ r ∈ g.requests, ¬ ok r) → exec (.frameRequestServed g.gid) s = .next s) ∧
    (∀ r, ok r → (g.request = some r ∧ r.served = false) ∨
        ((∀ q, g.request = some q → q.served = true ∨ ¬ ok q) ∧ g.swapped = false ∧ ∃ l, g.restores = r :: l) →
      ∃ t h, exec (.frameRequestServed g.gid) s = .next t ∧ t.mem = s.mem ∧ t.group g.gid = some h ∧
        (∀ k, k ≠ g.gid → t.group k = s.group k) ∧ h.lanes = g.lanes ∧
        match r.use with
        | .call _ | .trap _ => h = { g with request := some { r with served := true } }
        | .restore fid => h.frames = updBy (fun f => f.fid == fid) (fun f => { f with spilled := false }) g.frames ∧
            ∀ q, q ∈ h.restores ↔ q ∈ g.restores ∧ q.use ≠ .restore fid
        | .swapIn n => h = { g with swapped := false, request := n.map fun n => ⟨r.age, n.1, .call n.2, false⟩ })) ∧
  (∀ (s : State) (ln : Nat), (s.line ln).read = ⟨.corrected, false⟩ → ∃ t, exec (.correctedLineRewrite ln) s = .next t ∧
    t.line ln = ⟨false, []⟩ ∧ (∀ k, k ≠ ln → t.line k = s.line k) ∧ ∀ a, t.byte a = s.byte a)

/-- `TZERO` makes its tile zero in the F32 form; `TLOAD` fills one, or for FMT 0 a pair in the exact form, with the
elements of the blocks its layout word names, a poisoned block poisoning its row; `DRAIN` leaves in flight the stores
of the tile's elements rounded to its format, with a scale for each block of 32 from FMT 4 on, poisoned row by row
(09 R228, R229). A granted pass that completes writes its tile, and for a pair its follower's too, lets its operation
go and leaves every byte of memory and every other team as it was (09 R223, R226, 12 R310). The model's choices among this:
`TZERO` and `TLOAD` are whole as they execute (log entry 8), a pass writes its tile at one point and a poisoned element of B
in a pair poisons the tile of its own columns (log entries 24 and 56). -/
def Obligations.MatrixTiles : Prop :=
  (∀ (s : State) (g : Group) (i : Issue) (tm : Team) (t : BitVec 6) (f : BitVec 1) (fmt : BitVec 4) (sl ss se : BitVec 5)
     (sck : BitVec 1) (rm : BitVec 3), AtWord s g i → s.team g.team = some tm → g.flagFree (i.flag f) = true →
     let y := layoutOf (g.layoutBits sl)
     (t.toNat < tm.kernel.tiles → s.tileBusy g [t.toNat] = false → ∃ u, exec (.tzero t f) s = .next u ∧
       TileDone s u g (i.flag f) fun v => TileWrites tm v t.toNat 1 (fun _ => 0#32) fun _ => ⟨.f, false, 0#128⟩) ∧
     (∀ src, fmt.toNat ≤ 3 → Ready s g [] [] (layoutRegs sl) → sPoison g 3 (layoutRegs sl) = none →
       layoutClean (g.layoutBits sl) = true →
       let n := if fmt = 0#4 then 2 else 1
       let bits := typeBits fmt.toNat
       let per := 128 / bits
       t.toNat + n ≤ tm.kernel.tiles → s.layoutPath g y 128 (128 / per) = none → s.layoutTeam g y = some src →
       s.tileBusy g ((List.range n).map (t.toNat + ·)) = false → s.blocksReady g (y.accs src.key 128 (128 / per)) = true →
       let block := fun e => s.readBlock src.key y (e / 128) (e % 128 / per)
       let code := fun e => bitsAt (block e).1 (bits * (e % per)) bits
       ∃ u, exec (.tload sl t f fmt) s = .next u ∧ TileDone s u g (i.flag f) fun v => ∃ rows : BitVec 128,
         (∀ r < 128, rows.getLsbD r = (List.range 128).any fun c => (block (128 * r + c)).2.any id) ∧
         TileWrites tm v t.toNat n (fun x =>
           if fmt = 0#4 then BitVec.ofNat 32 (code (x / 2) / 2 ^ (32 * (x % 2)))
           else BitVec.ofNat 32 (rne f32 ((fmtOf fmt.toNat).read (ftzOf g) (code x))))
           fun j => ⟨if fmt = 0#4 then (if j = 0 then .xl else .xh) else .f, false, rows⟩) ∧
     (∀ (s1 s2 : State) (cs ws : List (Nat × Place × List Loc)), 1 ≤ fmt.toNat → fmt.toNat ≤ 10 →
       let n := fmt.toNat
       let per := drainPerChunk n
       let width := if sck = 1#1 then 1 else 4
       let base := (g.sreg se.toNat).val.toNat
       let sbase := (g.sreg ss.toNat).val.toNat
       let chunks := (List.range (128 * (128 / per))).map fun k =>
         ((64 : Nat), addrAdd base (16 * (k / (128 / per) * y.s0 + k % (128 / per) * y.s1) % 2 ^ 64))
       let scales := if 4 ≤ n then (List.range 512).map fun k => ((64 : Nat), addrAdd sbase (width * k)) else []
       let regs := if 4 ≤ n then [se.toNat, ss.toNat] else [se.toNat]
       let st := tm.tileState t.toNat
       t.toNat < tm.kernel.tiles → Ready s g [] [] (regs ++ layoutRegs sl) → st.mode ≠ .xh →
       s.tileBusy g (if st.mode = .xl then [t.toNat, t.toNat + 1] else [t.toNat]) = false →
       sPoison g 0 regs = none → sPoison g 3 (layoutRegs sl) = none → layoutClean (g.layoutBits sl) = true →
       y.off = 0 → y.gang = false → y.core = 0 → base % 16 = 0 → (4 ≤ n → sbase % width = 0) →
       s.access g pathsDrain true 1 16 chunks = (s1, .ok cs) → s1.access g pathsDrain true 1 width scales = (s2, .ok ws) →
       (∀ e ∈ chunks.flatMap (fun e => [e.2, addrAdd e.2 15]) ++ scales.flatMap (fun e => [e.2, addrAdd e.2 (width - 1)]),
         s.place g pathsDrain 1 e ≠ none) →
       let block := fun k => drainBlock g n rm.toNat (sck == 1#1) (32 * k) (((tm.drainElems t.toNat).drop (32 * k)).take 32)
       let rows := st.poison ||| if st.mode = .xl then (tm.tileState (t.toNat + 1)).poison else 0#128
       ∃ (u : State) (accs : List LaneAcc), exec (.drain sl ss se t f sck rm fmt) s = .next u ∧
         Issued (s2.modGroup g.gid fun h => (h.drawn (List.range 64) rm.toNat 256).stick psnBit (rows != 0#128)) u g
           (i.flag f) (.store 16 accs) false ∧
         accs.length = cs.length + ws.length ∧
         (∀ k e, cs[k]? = some e → accs[k]? = some (LaneAcc.mk 64 0 (permuteLocs y.perm e.2.2)
           (toBytes 16 (packCodes (typeBits n) ((List.range per).map fun j =>
             (block ((k * per + j) / 32)).2.getD ((k * per + j) % 32) 0))) (rows.getLsbD (k * per / 128)))) ∧
         ∀ k e, ws[k]? = some e → accs[cs.length + k]? =
           some (LaneAcc.mk 64 0 e.2.2 (toBytes width (block k).1) (rows.getLsbD (k / 4))))) ∧
  (∀ (s : State) (id : Nat) (o : Op) (m : MatrixOp) (g h : Group) (tm fo : Team), s.op id = some o → o.kind = .matrix m →
     o.done = false → m.granted = true → o.team = m.team → s.group o.gid = some g → g ∈ s.groups → g.team = m.team →
     (m.exact = true → 4 ≤ m.fmta ∧ 4 ≤ m.fmtb) →
     g.liveLanes ≠ [] → s.team m.team = some tm → mapCanon none tm.tiles = true →
     (if m.pair = true then m.follower ≠ m.team ∧ s.team m.follower = some fo ∧ mapCanon none fo.tiles = true ∧ h ∈ s.groups ∧
       h.gid ≠ o.gid ∧ h.team = m.follower else m.follower = m.team) →
     ∃ t u, exec (.matrixPassCompletion id) s = .next t ∧ t.op id = none ∧ t.mem = s.mem ∧ t.team m.team = some u ∧
       Passed m 0 tm u ∧
       (m.pair = true → ∃ v, t.team m.follower = some v ∧ Passed m 128 fo v) ∧
       (∀ k, k ≠ m.team → k ≠ m.follower → t.team k = s.team k) ∧
       ∃ g', t.group o.gid = some g' ∧ ∀ k, g'.flag k = if o.flag = some k then g.flag k - 1 else g.flag k)

/-- `MMA` and `MMA.PAIR` take an entry of their cluster's matrix reservation table with the operands as they stand (09
R223 to R226): A from V registers, from its blocks, or from the latch that serves it, B from its blocks. A free array
is granted to the request that outranks every other that waits for it, one on a tile where an earlier pass of its group
is not done being left out, and a pair when both arrays are free and it ranks highest on both (12 R309). The model's
choices among this, log entry 24: the operands are taken as the word executes, an A that the latch serves is not looked at
again, and how a pair ranks; and log entry 56 for the poison of a pair's B. -/
def Obligations.MatrixIssue : Prop :=
  (∀ (s : State) (g : Group) (i : Issue) (pair : Bool) (asrc reuse : BitVec 1) (la lb : BitVec 5) (a : BitVec 7)
    (t : BitVec 6) (f : BitVec 1) (shape : BitVec 3) (x : BitVec 1) (fb fa : BitVec 4) (tm fo ta tb : Team) (n : Instr),
    AtWord s g i → n = (if pair = true then .mmaPair asrc reuse la lb a t f shape x fb fa
      else .mma asrc reuse la lb a t f shape x fb fa) → shape.toNat ≤ 3 →
    s.team g.team = some tm → (if pair = true then s.follower g else s.team g.team) = some fo →
    let depth := 32 * 2 ^ shape.toNat
    let latch := g.latched asrc a la fa shape
    let regs := asrc = 0#1 ∧ latch = none
    let blocks := asrc = 1#1 ∧ latch = none
    let ya := layoutOf (g.layoutBits la)
    let yb := layoutOf (g.layoutBits lb)
    let cols := if pair = true then 256 else 128
    let pa := mmaPerChunk fa.toNat
    let pb := mmaPerChunk fb.toNat
    let lay := (if blocks then layoutRegs la else []) ++ layoutRegs lb
    let span := if regs then regSpan a (mmaSpan shape.toNat fa.toNat) else []
    Ready s g g.liveLanes span lay → walkCond g (x == 0#1) = none → boundCond g g.liveLanes span = none →
    t.toNat + (if x = 1#1 then 2 else 1) ≤ min tm.kernel.tiles fo.kernel.tiles → sPoison g 3 lay = none →
    (blocks → layoutClean (g.layoutBits la) = true ∧ s.layoutPath g ya 128 (depth / pa) = none ∧
      s.layoutTeam g ya = some ta) →
    layoutClean (g.layoutBits lb) = true → s.layoutPath g yb cols (depth / pb) = none → s.layoutTeam g yb = some tb →
    g.flagFree (i.flag f) = true → s.mrtUsed (g.core / 4) < 32 →
    s.blocksReady g ((if blocks then ya.accs ta.key 128 (depth / pa) else []) ++ yb.accs tb.key cols (depth / pb)) = true →
    let elemA := fun r k => if asrc = 0#1 then g.regElem a.toNat fa.toNat depth r k
      else blockElemAt (typeBits fa.toNat) (s.readBlock ta.key ya r (k / pa)) (k % pa)
    let elemB := fun c k => blockElemAt (typeBits fb.toNat) (s.readBlock tb.key yb c (k / pb)) (k % pb)
    ∃ (u : State) (m : MatrixOp) (keep : Option Latch), exec n s = .next u ∧
      Issued (s.modGroup g.gid fun h => { h with latch := keep }) u g (i.flag f) (.matrix m) false ∧
      m = ⟨pair, g.team, fo.key, t.toNat, depth, x == 1#1, fa.toNat, fb.toNat, m.acodes, m.bcodes, m.apoison, m.bpoison,
        g.prio, s.clock, false⟩ ∧
      keep = (if reuse = 1#1 then some ⟨asrc, a, la, fa, shape, m.acodes, m.apoison⟩ else none) ∧
      (∀ h, latch = some h → m.acodes = h.codes ∧ m.apoison = h.poison) ∧
      (latch = none → ∀ r < 128, (∀ k < depth, mapGet 0 m.acodes (256 * r + k) = mmaCode fa.toNat (ftzOf g) (elemA r k).1) ∧
        m.apoison.getLsbD r = (List.range depth).any fun k => (elemA r k).2) ∧
      (∀ c < cols, ∀ k < depth, mapGet 0 m.bcodes (256 * c + k) = mmaCode fb.toNat (ftzOf g) (elemB c k).1) ∧
      ∀ h < 2, m.bpoison.getLsbD h = (List.range 128).any fun c => decide (128 * h + c < cols) &&
        (List.range depth).any fun k => (elemB (128 * h + c) k).2) ∧
  ∀ (s : State) (id : Nat) (o : Op) (m : MatrixOp), s.op id = some o → o.kind = .matrix m → o.done = false →
    m.granted = false →
    let waits := fun a (p : Op) (q : MatrixOp) => p ∈ s.ops ∧ p.id ≠ o.id ∧ p.kind = .matrix q ∧ p.done = false ∧
      q.granted = false ∧ a ∈ arraysOf p q ∧ s.inOrder (p, q) = true
    let granted := (∀ a ∈ arraysOf o m, s.arrayBusy a = false) ∧ s.inOrder (o, m) = true ∧
      ∀ a ∈ arraysOf o m, ∀ p q, waits a p q → s.outranks (o, m) (p, q) = true
    (granted → ∃ t, exec (.matrixGrant id) s = .next t ∧ t = { s with ops := t.ops } ∧
      t.op id = some { o with kind := .matrix { m with granted := true } } ∧ ∀ k, k ≠ id → t.op k = s.op k) ∧
    (¬ granted → exec (.matrixGrant id) s = .next s)

/-- `CPY.LD`, `CPY.GATH`, `CPY.ST` and `CPY.SCAT`, once their record and addresses pass the checks of 09 R233 and their
queue has room, leave the copy in flight with the record's fields as read, bound to its stream's queue where it has
one (R235); a check-out whose pages all have a translation is registered beside it, its range held line by line, where
nothing conflicts and no range table is full, and else waits unregistered, and one with NOWAIT that meets a conflict raises
CHECKOUT_CONFLICT in its place (R234). That a range is held as whole physical lines, and when a table is full, is the
model's choice, log entry 25. -/
def Obligations.CopyIssue : Prop :=
  ∀ (s : State) (g : Group) (i : Issue) (r w : BitVec 1) (k : BitVec 2) (c b a : BitVec 5) (f : BitVec 1) (n : Instr)
    (load indexed nowait stream checkin : Bool) (chk o : Nat) (bs : List (Byte × Bool)), AtWord s g i →
    ((n = .cpyLd r w k c b a f ∧ load = true ∧ indexed = false) ∨ (n = .cpyGath r w k c b a f ∧ load = true ∧ indexed = true) ∨
      (n = .cpySt k c b a f ∧ load = false ∧ indexed = false) ∨ (n = .cpyScat k c b a f ∧ load = false ∧ indexed = true)) →
    (if load = true then chk = k.toNat ∧ nowait = (w == 1#1) ∧ stream = (r == 1#1) ∧ checkin = false
      else chk = 0 ∧ nowait = false ∧ stream = false ∧ checkin = (k == 3#2)) →
    let mem := (g.sreg a.toNat).val
    let pad := (g.sreg b.toNat).val
    let adr := (g.sreg c.toNat).val.toNat
    let y := copyRec (bs.map Prod.fst)
    let obj := if stream = true then some pad.toNat else none
    let copy := newCopy load indexed y adr mem pad chk nowait obj checkin g.lclock none 0
    let s0 := if stream = true then s.modQueue (s.gangOf g) pad.toNat fun q => { q with producer := .stream s.ids } else s
    Ready s g [] [] [a.toNat, b.toNat, c.toNat] → sPoison g 0 [a.toNat, b.toNat, c.toNat] = none →
    s.ownRecord g adr 64 64 (fun p => p == 2 || p == 3) = .ok (o, bs) → s.recordReady g (pathOf adr == 3) o 64 = true →
    (∀ e ∈ bs, e.2 = false) →
    recordBad (bs.map Prod.fst) indexed (((s.team g.team).map (·.kernel.scratch)).getD 0) = none →
    (stream = true → pad.toNat < 16 ∧ ∃ q, s.queue (s.gangOf g) pad.toNat = some q ∧ q.live = false ∧ q.vector = true) →
    s.copyCond g.core g.team g.world y load indexed stream chk mem.toNat pad.toNat = none →
    s.sceUsed g.core load < 16 → g.flagFree (i.flag f) = true →
    (chk = 0 → ∃ t, exec n s = .next t ∧ Issued s0 t g (i.flag f) (.copy copy) false) ∧
    let op : Op := ⟨s.ids, g.gid, g.core, g.world, g.team, i.flag f, .copy copy, false, 0⟩
    let registers := fun x : State => x.lines = [] → x.uatoms = [] → (∀ l, x.alien l = false) →
      (∀ e ∈ x.ops, e.id < s.ids) → x.ids = s.ids → x.sceUsed g.core load < 16 →
      (∀ lo hi, x.copyExtent op copy = some (lo, hi) → x.extentMiss op copy lo hi = none) →
      ∃ t e d, exec n s = .next t ∧ t.op s.ids = some e ∧ e.kind = .copy d ∧ e.done = false ∧ e.flag = i.flag f ∧
        e.gid = g.gid ∧ d = { copy with range := d.range, snap := d.snap, clock := d.clock } ∧ (∀ p, t.byte p = x.byte p) ∧
        ∀ lo hi x1 ls, x.copyExtent op copy = some (lo, hi) → x.extentLines g.core g.world lo hi = (x1, ls) →
          if x1.conflicts (chk == 2) ls = true ∨ x1.rangesFull ls = true then d.range = none ∧ t.ranges = x.ranges
          else d.range = some (lo, hi) ∧ ∀ l ∈ ls, ∃ z ∈ t.ranges, z.lo = l.1 ∧ z.hi = l.2 ∧ z.excl = (chk == 2) ∧
            z.team = g.team ∧ z.op = s.ids
    (chk ≠ 0 → nowait = false → registers s) ∧
    (chk ≠ 0 → nowait = true → s.copyExtent op copy = none → registers s) ∧
    (chk ≠ 0 → nowait = true → ∀ lo hi s1 ls, s.copyExtent op copy = some (lo, hi) →
      s.extentLines g.core g.world lo hi = (s1, ls) → s1.conflicts (chk == 2) ls = false → registers s1) ∧
    (chk ≠ 0 → nowait = true → ∀ lo hi s1 ls, s.copyExtent op copy = some (lo, hi) →
      s.extentLines g.core g.world lo hi = (s1, ls) → s1.conflicts (chk == 2) ls = true →
      exec n s = .next (s1.raise g.gid i.len { cause := checkoutConflict, addr := lo }))

/-- The stream copy engine: copies of one queue start in order; an element of a load goes to scratchpad or into its
stream's next entry, one of a store to memory, every other byte staying; an entry is pushed when it is full or the
last; a completed copy raises BRUN by the bytes it moved and lets its flag fall, its counter taking its increment as
a coherent add (09 R231, R233, R235, 12 R295 to R298, R304 to R307). That elements move one by one in the order of the
record, a run of them within a line as one burst, is the model's choice, log entry 25. -/
def Obligations.CopyEngine : Prop :=
  (∀ (s : State) (id : Nat) (o : Op) (c : Copy), s.op id = some o → o.id = id → o.kind = .copy c → s.active o.world = true →
    let earlier := ∃ e ∈ s.ops, e.id < id ∧ e.core = o.core ∧ ∃ d, e.kind = .copy d ∧ d.load = c.load ∧ d.started = false
    (c.started = false → earlier → exec (.copyStart id) s = .next s) ∧
    (c.started = false → ¬ earlier → (c.chk = 0 ∨ c.range ≠ none) → ∃ t, exec (.copyStart id) s = .next t ∧
      t = { s with ops := t.ops } ∧ t.op id = some { o with kind := .copy { c with started := true } } ∧
      ∀ k, k ≠ id → t.op k = s.op k) ∧
    (∀ (a : Nat) (s1 : State) (locs : List Loc), c.started = true → c.held = none → c.doomed = none →
      c.next < c.layout.total → c.buffer.length < 256 →
      let d := s.readEntry o.team c c.next
      let s0 := s.modCopy id fun _ => d
      s0.elementAddr o d c.next = .ok a →
      s0.reach o.core o.world true (if c.load = true then 0 else 1) c.layout.esize (.va (pathOf a) (a % 2 ^ 56)) =
        (s1, .ok locs) → s1.op id = some { o with kind := .copy d } →
      let pas : List Nat := locs.flatMap fun l => l.bytes.map Prod.snd
      let tk := (s1.elementPad o d c.next).1
      let os : List Nat := (s1.elementPad o d c.next).2.2
      s1.barred o d pas = false → (∀ l ∈ locs, ∃ p, l = .mem p ∧ hostWindow p = false) → pathOf a = 0 →
      (c.load = true → c.snap = none → Clean s1 pas →
        (∀ p ∈ pas, mapGet none s1.l1 (copyKey o.core (p / 32)) = none) →
        ∃ t k, exec (.copyElementMove id) s = .next t ∧ (∀ p, t.byte p = s1.byte p) ∧ c.clock ≤ k ∧
          (∀ n, c.stream = some n → t.teams = s1.teams ∧ t.op id = some { o with kind := .copy { d with
            next := c.next + 1, moved := c.moved + 1, clock := k, buffer := c.buffer ++ pas.map fun p => (s1.byte p, false) } }) ∧
          (∀ tm, c.stream = none → s1.team tk = some tm → os.Nodup → os.length = pas.length →
            t.op id = some { o with kind := .copy { d with next := c.next + 1, moved := c.moved + 1, clock := k } } ∧
            ∃ u, t.team tk = some u ∧ (∀ j q p : Nat, os[j]? = some q → pas[j]? = some p → mapGet 0#8 u.scratch q = s1.byte p) ∧
              ∀ q, q ∉ os → mapGet 0#8 u.scratch q = mapGet 0#8 tm.scratch q)) ∧
      (c.load = false →
        let n := s1.burst o d a
        let e := c.layout.esize
        let accs : List LaneAcc := (List.range n).map fun j =>
          let bs := s1.scratchBytes (s1.elementPad o d (c.next + j)).1 (s1.elementPad o d (c.next + j)).2.2
          ⟨64, 0, (addrs (pas.headD 0 + j * e) e).map .mem, bs.map Prod.fst, bs.any Prod.snd⟩
        Clean s1 (devBytes accs) → (∀ p ∈ devBytes accs, hostWindow p = false) →
        ∃ t k, exec (.copyElementMove id) s = .next t ∧ c.clock ≤ k ∧ t.teams = s1.teams ∧
          (∀ p, t.byte p = (lastAt (stored accs) p).getD (s1.byte p)) ∧
          let read := (List.range n).foldl (fun x j => s1.readEntry o.team x (c.next + j)) d
          t.op id = some { o with kind := .copy { read with next := c.next + n, moved := c.moved + n, clock := k } })) ∧
    (∀ (tm : Team) (n : Nat) (q : Queue), s.team o.team = some tm → c.stream = some n → s.queue tm.gang n = some q →
      (c.buffer.length = 256 ∨ (c.layout.total ≤ c.next ∧ c.buffer ≠ [])) →
      (64 ≤ q.entries.length → exec (.streamEntryPush id) s = .next s) ∧
      (q.entries.length < 64 → ∃ t, exec (.streamEntryPush id) s = .next t ∧ t.mem = s.mem ∧
        t.op id = some { o with kind := .copy { c with buffer := [] } } ∧
        t.queue tm.gang n = some { q with
          entries := if q.drained = true then q.entries else q.entries ++ [streamEntry c.buffer c.clock]
          producer := if c.layout.total ≤ c.next then .closed else q.producer })) ∧
    (∀ (g : Group) (tm : Team), s.group o.gid = some g → g ∈ s.groups → g.team = o.team → g.liveLanes ≠ [] →
      s.team o.team = some tm → c.task = none → c.started = true → c.layout.total ≤ c.next → c.buffer = [] →
      c.held = none → c.checkin = false →
      let ended := fun t : State => ∃ h, t.op id = none ∧ t.group o.gid = some h ∧ c.clock ≤ h.lclock ∧ h.lanes = g.lanes ∧
        ∀ k, h.flag k = if o.flag = some k then g.flag k - 1 else g.flag k
      (c.layout.ctr = 0#64 → ∃ t u, exec (.copyCompletion id) s = .next t ∧ ended t ∧ t.mem = s.mem ∧
        t.team o.team = some u ∧
        ∀ p, mapGet 0#8 u.scratch p = match c.layout.sync with
          | none => mapGet 0#8 tm.scratch p
          | some n =>
            let (y, bad) := s.syncWord o.team n
            if n ≤ p ∧ p < n + 16 ∧ bad = false then
              (toBytes 16 (y.raise (c.layout.total * c.layout.esize)).toNat).getD (p - n) 0#8
            else mapGet 0#8 tm.scratch p) ∧
      ∀ s1 time, c.layout.ctr ≠ 0#64 → c.layout.sync = none → s1.group o.gid = some g → g ∈ s1.groups →
        (s.modCopy id fun d => { d with checkin := false, layout := { d.layout with sync := none } }).addCounter o.core
          o.world o.team c.clock c.layout.ctr.toNat c.layout.cinc.toNat = .done s1 time →
        ∃ t, exec (.copyCompletion id) s = .next t ∧ ended t ∧ t.mem = s1.mem)) ∧
  ∀ (s s1 : State) (core w team clock adr inc : Nat) (tr : Trans), s.xlate core w adr 1 false = (s1, .ok tr) →
    let pas := addrs tr.pa 8
    hostWindow tr.pa = false → s1.held pas none = false → Clean s1 pas →
    ∃ t time, s.addCounter core w team clock adr inc = .done t time ∧ ∀ p, t.byte p =
      if tr.pa ≤ p ∧ p < tr.pa + 8 then
        (toBytes 8 ((ofBytes (pas.map s1.byte) + inc) % 2 ^ 64)).getD (p - tr.pa) 0#8
      else s1.byte p

/-- A bank command whose operands pass their checks is left in flight; its completion changes the words of its
destination as 09 R239 and R240 say, every source word being read before any is written, raises BRUN of its sync word
by 4n (R238), and changes no other byte of the scratchpad or of memory; one of no words changes none. That all its words
change at one point is the model's choice, log entry 56. -/
def Obligations.BankCommands : Prop :=
  (∀ (s : State) (g : Group) (i : Issue) (y : BitVec 1) (t : BitVec 2) (c b a : BitVec 5) (f : BitVec 1) (tm : Team)
    (op : Nat) (n : Instr), AtWord s g i → s.team g.team = some tm →
    (op, n) ∈ [(0, Instr.bkAdd y t c b a f), (1, .bkScale y t c b a f), (2, .bkMax y t c b a f), (3, .bkExpsum y t c b a f),
      (4, .bkFill y t c b a f)] →
    let dst := (g.sreg a.toNat).val.toNat
    let src := (g.sreg b.toNat).val
    let ctl := (g.sreg c.toNat).val.toNat
    let k := ctl % 2 ^ 19
    let so := ctl / 2 ^ 32 % 2 ^ 20
    let own := fun x len => (pathOf x = 2 ∨ pathOf x = 3) ∧ (s.scratchTeam g.core g.team x).map (·.key) = some g.team ∧
      ∀ u, s.scratchTeam g.core g.team x = some u → x % 2 ^ 20 + len ≤ u.kernel.scratch
    Ready s g [] [] [a.toNat, b.toNat, c.toNat] → (∀ r ∈ [a.toNat, b.toNat, c.toNat], (g.sreg r).poison = false) →
    walkCond g (op == 1 || op == 3 || (op == 0 && t == 0#2)) = none → g.flagFree (i.flag f) = true →
    own dst (if op = 3 then 16 else 4 * k) → dst % (if op = 3 then 16 else 4) = 0 →
    (op = 0 ∨ op = 2 ∨ op = 3 → own src.toNat (4 * k) ∧ src.toNat % 4 = 0) →
    (op = 0 ∨ op = 2 → (src.toNat + 2 ^ 64 - dst) % 128 = 0) → (y = 1#1 → so + 16 ≤ tm.kernel.scratch ∧ so % 16 = 0) →
    ∃ u, exec n s = .next u ∧ Issued s u g (i.flag f)
      (.bank ⟨op, t.toNat, g.team, dst % 2 ^ 20, src, k, if y = 1#1 then some so else none⟩) false) ∧
  ∀ (s : State) (id : Nat) (o : Op) (k : BankCmd) (tm : Team) (g : Group), s.op id = some o → o.kind = .bank k →
    o.done = false → s.mayPerform o = true → s.team k.team = some tm → g ∈ s.groups → g.team = k.team →
    g.liveLanes ≠ [] → (s.groups.map (·.gid)).Nodup → (∀ h, s.group o.gid = some h → h.asyncs = []) → k.op ≤ 4 → k.dst % 4 = 0 →
    let src := k.src.toNat % 2 ^ 20
    let len := if k.n = 0 then 0 else if k.op = 3 then 12 else 4 * k.n
    let d := fun x => tm.wordAt (k.dst + 4 * x)
    let v := fun x => tm.wordAt (src + 4 * x)
    let sums := expsum (d 0).1 (d 1).1 ((List.range k.n).map fun x => (v x).1)
    let bad := ((List.range k.n).any fun x => (v x).2) || (d 0).2 || (d 1).2 || (d 2).2
    let new := fun x => match k.op with
      | 0 => (if k.ty = 0 then add32 (d x).1 (v x).1 else ((d x).1 + (v x).1) % 2 ^ 32, (d x).2 || (v x).2)
      | 1 => (mul32 (d x).1 (k.src.toNat % 2 ^ 32), (d x).2)
      | 2 => (if k.ty = 0 then fext f32 true (d x).1 (v x).1
          else if toSigned 32 (d x).1 < toSigned 32 (v x).1 then (v x).1 else (d x).1, (d x).2 || (v x).2)
      | 3 => (if x = 0 then sums.1 else if x = 1 then sums.2.1 else sums.2.2, bad)
      | _ => (k.src.toNat % 2 ^ 32, false)
    (∀ n, k.sync = some n → n % 16 = 0 ∧ (k.n = 0 ∨ n + 16 ≤ k.dst ∨ k.dst + len ≤ n)) →
    ∃ t u, exec (.bankCommandCompletion id) s = .next t ∧ t.mem = s.mem ∧ t.op id = none ∧ t.team k.team = some u ∧
      (∀ x < len / 4, mapGet false u.spoison ((k.dst + 4 * x) / 4) = (new x).2) ∧
      let data := fun p => if k.dst ≤ p ∧ p < k.dst + len then
        (toBytes 4 (new ((p - k.dst) / 4)).1).getD ((p - k.dst) % 4) 0#8 else mapGet 0#8 tm.scratch p
      PadWrites tm u (match k.sync with
        | none => data
        | some n => let (z, marked) := s.syncWord k.team n
          if marked = true then data else syncAt n (z.raise (4 * k.n)) data)

/-- `TASKP` posts a task and counts until its arrival, `WALK` posts a walk (08 R215, 09 R237). The stages of a tile task
(10 R269, R270, 12 R300 to R304): posted from a walk, entered, given the lowest free buffer, its input copies
started, ready, run by a group of 64 threads with its indices in S3 to S5 and its buffer in S6, its output copies
started, and ended with one arrival at its sync word, which is held while the word refuses it; a failed task makes
none. The model's choices among this: the order of the checks of `TASKP` and `WALK`, that poison of S[SC] goes to S3 to S5,
and which walk posts first (log entry 26); what an unused operand and a task without a buffer bound (log entry 62). -/
def Obligations.TasksAndWalks : Prop :=
  (∀ (s : State) (g : Group) (i : Issue) (c b a : BitVec 5) (f : BitVec 1) (o : Nat) (bs : List Byte)
     (os : List Operand), AtWord s g i →
     let e := (g.sreg b.toNat).val
     let adr := (g.sreg a.toNat).val.toNat
     let ix := (g.sreg c.toNat).val.toNat
     (RecordRead s g a b true o bs os → Ready s g [] [] [a.toNat, b.toNat, c.toNat] → g.flagFree (i.flag f) = true →
       s.tdtUsed g.core < 64 →
       (2 ^ 60 ≤ ix → exec (.taskp c b a f) s = .next (s.raise g.gid i.len { cause := recordCause, addr := adr })) ∧
       (ix < 2 ^ 60 → ∃ t k, exec (.taskp c b a f) s = .next t ∧ t.tasks = s.tasks ++ [k] ∧
         Issued { s.newId with tasks := t.tasks } t g (i.flag f) (.task s.ids) false ∧
         k = ⟨s.ids, g.core, g.team, g.gid, none, (g.sreg c.toNat).poison, some (s.ids + 1), adr, e,
           BitVec.ofNat 64 (field bs 48 8), ix % 2 ^ 20, ix / 2 ^ 20 % 2 ^ 20, ix / 2 ^ 40 % 2 ^ 20, os, field bs 12 4, .posted, 0, 0,
           g.lclock, none, false, 0⟩)) ∧
     (RecordRead s g a b false o bs os → Ready s g [] [] [a.toNat, b.toNat] → walkCond g true = none →
       (s.walkOf g.team ≠ none → exec (.walk b a) s = .next (s.noteWait g.gid)) ∧
       (s.walkOf g.team = none → ∃ t w, exec (.walk b a) s = .next t ∧ t.walks = s.walks ++ [w] ∧
         Branches { s.newId with walks := t.walks } t { g with since := none } i [] (fun _ => 0#64) g.gstat ∧
         w = ⟨s.ids, g.core, g.lclock, g.team, g.gid, adr, field bs 0 4, field bs 4 4, field bs 8 4, field bs 12 4, os, e,
           BitVec.ofNat 64 (field bs 48 8), [], false⟩))) ∧
  ((∀ (s : State) (core i j k : Nat) (w : Walk) (tm : Team),
     let n := i + 2 ^ 20 * j + 2 ^ 40 * k
     findBy (fun v => v.core == core && i < v.e0 && j < v.e1 && k < v.e2 && !v.posted.contains n) s.walks = some w →
     s.team w.team = some tm → s.active tm.world = true → s.tdtUsed core < 64 →
     ∃ t, exec (.walkTaskPost core i j k) s = .next t ∧
       t = { s with ids := s.ids + 1, tasks := t.tasks, walks := t.walks } ∧
       t.tasks = s.tasks ++ [⟨s.ids, core, w.team, w.gid, some w.id, false, none, w.recAddr, w.entry, w.arg, i, j, k, w.opnds,
         w.sync, .posted, 0, 0, w.clock, none, false, 0⟩] ∧
       { w with posted := n :: w.posted } ∈ t.walks) ∧
   ∀ (s : State) (id : Nat) (k : Task), s.task id = some k → k.id = id → s.active (s.taskWorld k) = true →
     let used := s.tasks.filter fun u => u.core == k.core && u.stage != .posted && u.stage != .arriving
     let peers := s.tasks.filter fun u => u.team == k.team && u.walk == k.walk && u.recAddr == k.recAddr &&
       u.id != id && u.stage != .posted && u.stage != .entered && u.stage != .arriving
     let becomes := fun (n : Instr) (k' : Task) => ∃ t, exec n s = .next t ∧ t = { s with tasks := t.tasks } ∧
       t.task id = some k' ∧ ∀ x, x ≠ id → t.task x = s.task x
     let starts := fun (n : Instr) (load : Bool) (stage : TaskStage) (first : Nat) =>
       let os := (k.opnds.zipIdx.drop first).filter fun e => if load = true then e.1.use % 2 == 1 else 2 ≤ e.1.use
       let copy := fun e : Operand × Nat => newCopy load e.1.indexed e.1.layout k.recAddr (e.1.memBase k.i k.j k.k)
         (BitVec.ofNat 64 (2 * 2 ^ 60 + e.1.lbase + k.buf * e.1.lstep)) 0 false none false k.clock (some id) e.2
       s.sceUsed k.core load + os.length ≤ 16 →
       (∀ e ∈ os, s.copyCond k.core k.team (s.taskWorld k) e.1.layout load e.1.indexed false 0
         (copy e).mbase.toNat (copy e).sbase.toNat = none) →
       ∃ t, exec n s = .next t ∧ t.task id = some { k with stage := stage, sent := k.opnds.length } ∧ t.mem = s.mem ∧ t.groups = s.groups ∧
         t.ops = s.ops ++ os.zipIdx.map fun e =>
           ⟨s.ids + e.2, k.gid, k.core, s.taskWorld k, k.team, none, .copy (copy e.1), false, 0⟩
     let (y, bad) := s.syncWord k.team k.sync
     let ends := fun (n : Instr) (arrive : Bool) => ∀ tm, s.team k.team = some tm →
       (∃ g ∈ s.groups, g.team = k.team ∧ g.liveLanes ≠ []) → (s.groups.map (·.gid)).Nodup →
       (∀ o h, k.op.bind s.op = some o → s.group o.gid = some h → h.asyncs = []) → ∃ t u, exec n s = .next t ∧ t.mem = s.mem ∧
         t.task id = none ∧ t.team k.team = some u ∧
         PadWrites tm u (if arrive = true ∧ bad = false then syncAt k.sync (y.arrive 1) (mapGet 0#8 tm.scratch)
           else mapGet 0#8 tm.scratch) ∧ ∀ o, k.op = some o → t.op o = none
     (k.stage = .posted → used.length < 64 → becomes (.taskEnter id) { k with stage := .entered }) ∧
     (∀ b, k.stage = .entered → b < bufferCount k.opnds → (∀ u ∈ peers, u.buf ≠ b) →
       (∀ x < b, ∃ u ∈ peers, u.buf = x) → becomes (.taskBuffer id) { k with stage := .buffered, buf := b }) ∧
     (k.stage = .buffered → s.taskFree k = true → starts (.taskInputs id) true .inputs 0) ∧
     (k.stage = .inputs → k.failed = false → k.sent < k.opnds.length → starts (.taskInputs id) true .inputs k.sent) ∧
     (k.stage = .inputs → k.opnds.length ≤ k.sent → s.taskBusy id = false → k.failed = false →
       becomes (.taskReady id) { k with stage := .ready, age := s.clock }) ∧
     (∀ tm slot, k.stage = .ready → s.team k.team = some tm → s.mayStart tm = true → s.freeSlot k.core = some slot →
       s.canServe (s.poolOf tm.core tm.grid) k.age 256 (granules tm.kernel.frame) = true →
       (s.heldTids tm.key).length + 64 < 2 ^ 32 - 1024 → (∀ h ∈ s.groups, h.gid < s.ids) →
       ∃ t g fid, exec (.taskRun id) s = .next t ∧ t.mem = s.mem ∧ t.group g.gid = some g ∧ s.group g.gid = none ∧
         t.task id = some { k with stage := .running, body := some g.gid } ∧ g.core = tm.core ∧ g.slot = slot ∧
         g.world = tm.world ∧ g.team = tm.key ∧ g.kind = .task id k.walk.isSome k.i k.j k.k ∧
         g.frames = [⟨fid, tm.kernel.frame, 0#64, none, false, fid, [], []⟩] ∧
         (∀ l < 64, (g.lane l).pcv = k.entry ∧ (g.lane l).tid.toNat ∉ s.heldTids tm.key ∧ (g.lane l).preds = 0#7 ∧
           (g.lane l).srs = srHash (BitVec.ofNat 32 (64 * (k.i + 2 ^ 20 * k.j + 2 ^ 40 * k.k) + l)) ∧
           ∀ r, (g.lane l).vreg r = ⟨0#32, false⟩) ∧
         ∀ r, g.sreg r = match r with
           | 1 => ⟨tm.args, false⟩
           | 2 => ⟨k.arg, false⟩
           | 3 => ⟨BitVec.ofNat 64 k.i, k.poison⟩
           | 4 => ⟨BitVec.ofNat 64 k.j, k.poison⟩
           | 5 => ⟨BitVec.ofNat 64 k.k, k.poison⟩
           | 6 => ⟨BitVec.ofNat 64 k.buf, false⟩
           | _ => ⟨0#64, false⟩) ∧
     (k.stage = .outputs → k.failed = false → (∀ o ∈ s.ops, some o.gid = k.body → o.done = true) →
       starts (.taskEnd id) false .draining 0) ∧
     (k.stage = .draining → k.failed = false → k.sent < k.opnds.length → starts (.taskEnd id) false .draining k.sent) ∧
     (k.stage = .draining → k.failed = false → k.opnds.length ≤ k.sent → s.taskBusy id = false → k.walk = none → y.refuses = false ∨ bad = true →
       ends (.taskEnd id) true) ∧
     (k.stage = .draining → k.failed = false → k.opnds.length ≤ k.sent → s.taskBusy id = false → k.walk = none → y.refuses = true → bad = false →
       becomes (.taskEnd id) { k with stage := .arriving }) ∧
     (k.stage = .draining → k.failed = false → k.opnds.length ≤ k.sent → s.taskBusy id = false → k.walk ≠ none →
       ∃ t, exec (.taskEnd id) s = .next t ∧ t.task id = none) ∧
     (k.failed = true → k.stage ≠ .running → k.stage ≠ .arriving → k.walk = none → ends (.taskEnd id) false) ∧
     (k.stage = .arriving → y.refuses = false ∨ bad = true → ends (.engineArrival id) true) ∧
     (k.stage = .arriving → y.refuses = true → bad = false → becomes (.engineArrival id) k))

/-- The words of a KERNEL (09 R249 to R252, 13 R322): loads and stores of bank-rows, bitwise rows, carry-save addition,
shifts, row bases, loops, and exact accumulation with one rounding; each writes its X register with the OR of its
sources' tags, and changes no byte of memory. `ADDN`, `SUBN` and `MULN` (09 R250): the vertical numbers at B[1] and
B[2] added, subtracted or multiplied into the rows at B[0], column by column, X7 of a sum or difference holding the
carries out; a width or a base that does not fit is a row fault. That a `DOT` takes its sources' tags and CY none is the model's
choice, log entry 27, and which tags the rows and registers of `ADDN`, `SUBN` and `MULN` take, log entry 56. -/
def Obligations.RowWords : Prop :=
  (∀ (s : State) (b : Block) (r : RowCtx) (i : BitVec 13) (n : BitVec 2) (d p q c : BitVec 3) (k : BitVec 2)
     (m : BitVec 10) (e : BitVec 1), AtRow s b r →
     let x := fun v : BitVec 3 => (r.xreg v.toNat).1
     let tag := fun v : BitVec 3 => (r.xreg v.toNat).2
     let done := fun (w : Instr) (r' : RowCtx) => ∃ t, exec w s = .next t ∧ RowDone s t b r'
     let sets := fun (w : Instr) v y cy => ∃ r', done w r' ∧
       RowStep r r' (fun j => if j = d.toNat then (v, y) else r.xreg j) cy
     let bits := fun w v y => sets w v y r.cy
     let row := (r.base n.toNat : Int) + i.toInt
     let base := if e = 1#1 then (i.toNat : Int) else (r.base n.toNat : Int) + i.toInt
     let width := if e = 1#1 then 16 else 32
     let fm := if e = 1#1 then bf16 else f32
     (0 ≤ row → row ≤ 2047 → s.rowClean r row.toNat →
       bits (.xld i n d) (s.rowValue r row.toNat).1 (s.rowValue r row.toNat).2) ∧
     (0 ≤ row → row ≤ 2047 → ∃ r', done (.xst i n p) r' ∧ r' = { r with rows := r'.rows, pos := r.advance.pos, loop := r.advance.loop } ∧
       ∀ j, findBy (fun z => z.1 == j) r'.rows = if j = row.toNat then some (j, r.xreg p.toNat)
         else findBy (fun z => z.1 == j) r.rows) ∧
     (row < 0 ∨ 2047 < row → RowFaults s b (.xld i n d) ∧ RowFaults s b (.xst i n p)) ∧
     bits (.band q p d) (x p &&& x q) (tag p || tag q) ∧ bits (.bor q p d) (x p ||| x q) (tag p || tag q) ∧
     bits (.bxor q p d) (x p ^^^ x q) (tag p || tag q) ∧ bits (.bnot p d) (~~~x p) (tag p) ∧
     bits (.bmaj c q p d) ((x p &&& x q) ||| (x p &&& x c) ||| (x q &&& x c)) (tag p || tag q || tag c) ∧
     bits (.bsel c q p d) ((x c &&& x p) ||| (~~~x c &&& x q)) (tag p || tag q || tag c) ∧
     bits (.bshl i p d) (x p <<< i.toNat) (tag p) ∧
     (k ≠ 3#2 →
       let cin := if k = 0#2 then r.cy else if k = 1#2 then 0#8192 else ~~~0#8192
       sets (.baddc k q p d) (x p ^^^ x q ^^^ cin) (tag p || tag q) ((x p &&& x q) ||| (x p &&& cin) ||| (x q &&& cin))) ∧
     (k = 3#2 → RowFaults s b (.baddc k q p d)) ∧
     (0 ≤ base → base ≤ 2047 → ∃ r', done (.rowstep i e n) r' ∧ r' = { r with bases := r'.bases, pos := r.advance.pos, loop := r.advance.loop } ∧
       ∀ j, r'.base j = if j = n.toNat then base.toNat else r.base j) ∧
     (base < 0 ∨ 2047 < base → RowFaults s b (.rowstep i e n)) ∧
     (let l := c.toNat
      let clean := l ≠ 0 ∧ i ≠ 0#13 ∧ r.first + l ≤ r.pos ∧ ∀ w ∈ (r.words.drop (r.pos - l)).take l, w.toNat % 128 ≠ 0x0E
      (clean → i = 1#13 → done (.bloop i c) r.advance) ∧
      (clean → i ≠ 1#13 → 1 ≤ r.first → done (.bloop i c) { r with pos := r.pos - l, loop := some (r.pos - l, r.pos, i.toNat - 1) }) ∧
      (¬ clean → RowFaults s b (.bloop i c))) ∧
     (m.toNat * width ≤ 8192 → ∃ r', done (.rowDot e m q p) r' ∧
       r' = { r with wacc := r'.wacc, wpois := r.wpois || tag p || tag q, pos := r.advance.pos, loop := r.advance.loop } ∧
       r'.wacc = (List.range m.toNat).foldl (fun w j =>
         w.add (fm.read (s.blockFtz b) ((x p).toNat / 2 ^ (width * j) % 2 ^ width))
           (fm.read (s.blockFtz b) ((x q).toNat / 2 ^ (width * j) % 2 ^ width))) r.wacc) ∧
     (8192 < m.toNat * width → RowFaults s b (.rowDot e m q p)) ∧
     (∃ v, bits (.rowAxpy q p d) v (tag p || tag q) ∧ ∀ j < 256, v.toNat / 2 ^ (32 * j) % 2 ^ 32 =
       axpyWord r.scal.toNat ((x p).toNat / 2 ^ (32 * j) % 2 ^ 32) ((x q).toNat / 2 ^ (32 * j) % 2 ^ 32) % 2 ^ 32) ∧
     ∃ r', done (.xreduce d) r' ∧ RowStep { r with wacc := Wacc.zero, wpois := false } r'
       (fun j => if j = d.toNat then (BitVec.ofNat 8192 r.wacc.round, r.wpois) else r.xreg j) r.cy) ∧
  (∀ (s : State) (b : Block) (r : RowCtx) (w : BitVec 13), AtRow s b r →
     let n := w.toNat
     let a := r.base 1
     let c := r.base 2
     let d := r.base 0
     let val := fun k => (s.rowValue r k).1
     let tags := fun k => (List.range k).any fun j => (s.rowValue r (a + j)).2 || (s.rowValue r (c + j)).2
     let clean := ∀ k < n, s.rowClean r (a + k) ∧ s.rowClean r (c + k)
     let A := colOf val a n
     let B := colOf val c n
     let rows := fun (r' : RowCtx) (m : Nat) (f : Nat → Nat) (tag : Nat → Bool) =>
       (∀ k < m, ∃ v, findBy (fun z => z.1 == d + k) r'.rows = some (d + k, (v, tag k)) ∧
         ∀ j < 8192, v.getLsbD j = (f j).testBit k) ∧
       ∀ k, k < d ∨ d + m ≤ k → findBy (fun z => z.1 == k) r'.rows = findBy (fun z => z.1 == k) r.rows
     let add := fun (i : Instr) (f : Nat → Nat) (carry : Nat → Bool) => clean → ∃ t r', exec i s = .next t ∧ RowDone s t b r' ∧
       ((d ≤ a ∨ a + n ≤ d) → (d ≤ c ∨ c + n ≤ d) → rows r' n f (fun k => tags (k + 1)) ∧ ∃ u v,
         (∀ j < 8192, u.getLsbD j = (f j).testBit (n - 1)) ∧ (∀ j < 8192, v.getLsbD j = carry j) ∧
         RowStep { r with rows := r'.rows } r'
           (fun j => if j = 6 then (u, tags n) else if j = 7 then (v, tags n) else r.xreg j) r.cy)
     let fits := 0 < n ∧ n ≤ 64 ∧ a + n ≤ 2048 ∧ c + n ≤ 2048 ∧ d + n ≤ 2048
     let fits2 := 0 < n ∧ n ≤ 32 ∧ a + n ≤ 2048 ∧ c + n ≤ 2048 ∧ d + 2 * n ≤ 2048
     (fits → add (.addn w) (fun j => (A j + B j) % 2 ^ n) fun j => decide (2 ^ n ≤ A j + B j)) ∧
     (fits → add (.subn w) (fun j => (A j + 2 ^ n - B j) % 2 ^ n) fun j => decide (B j ≤ A j)) ∧
     (¬ fits → RowFaults s b (.addn w) ∧ RowFaults s b (.subn w)) ∧
     (fits2 → clean → ∃ t r', exec (.muln w) s = .next t ∧ RowDone s t b r' ∧ rows r' (2 * n) (fun j => A j * B j) (fun _ => tags n) ∧
       RowStep { r with rows := r'.rows } r' (fun j => if 4 ≤ j then (0#8192, false) else r.xreg j) r.cy) ∧
     (¬ fits2 → RowFaults s b (.muln w)))

/-- A KERNEL (09 R248, R252, 13 R319, R321): its start reads its words and a zero context, each clause header leads to
its words or ends the block as a row fault, and its end puts the rows it wrote into its page, its result being the
low word of X[0]. The built-in commands (09 R243, 13 R315 to R317, R325): `DOT` and `REDUCE` round the exact sum once
into the result word, `AXPY`, `FILL`, `COPYROW` and `TRANSPOSE` write their destination and no other byte; each
passes on to the next command or answers its block. Which accesses need which permission, and the extent of a format other
than F32 and BF16, are the model's choices, log entry 28; that a preparation and a run are one step, log entry 27. -/
def Obligations.KernelsAndBuiltIns : Prop :=
  ((∀ (s s1 : State) (b : Block) (c : Cmd) (x y : Nat), AtCmd s s1 b c x y → c.op = 0 → b.row = none → 0 < c.n →
     ∃ t time, exec (.kernel b.id) s = .next t ∧ (∀ a, t.byte a = s1.byte a) ∧ b.read ≤ time ∧
       t.block b.id = some { b with row := some (newRow (x / 2 ^ 21 * 2 ^ 21) c.scal
         ((List.range c.n).map fun k => BitVec.ofNat 32 (s1.numAt (y + 4 * k) 4)) time) }) ∧
   ∀ (s : State) (b : Block) (c : Cmd) (r : RowCtx), s.block b.id = some b → b.cmds[b.idx]? = some c → b.stage = .running →
     c.op = 0 → b.row = some r → r.pos = r.stop →
     (∀ w, r.words[r.pos]? = some w →
       let v := w.toNat
       let stop := r.pos + 1 + v % 16
       let good := v / 2 ^ 28 = 10 ∧ v % 16 ≠ 0 ∧ v / 2 ^ 4 % 8 = 7 ∧ v / 2 ^ 7 % 2 ^ 12 = 0 ∧ v / 2 ^ 19 % 256 = 255 ∧
         stop ≤ r.words.length
       (good → ∃ t, exec (.kernel b.id) s = .next t ∧
         RowDone s t b { r with first := r.pos + 1, stop := stop, pos := r.pos + 1 }) ∧
       (¬ good → RowFaults s b (.kernel b.id))) ∧
     (r.words.length ≤ r.pos → s.noneWait → (r.rows.map Prod.fst).Nodup → (∀ e ∈ r.rows, e.1 < 2048 ∧ s.rowClean r e.1) →
       ∃ t n, exec (.kernel b.id) s = .next t ∧
         (∀ a, t.byte a = match findBy (fun e => r.page + 1024 * e.1 ≤ a && a < r.page + 1024 * e.1 + 1024) r.rows with
           | some e => (toBytes 1024 e.2.1.toNat).getD (a - r.page - 1024 * e.1) 0#8
           | none => s.byte a) ∧
         t.block b.id = some
           { b with idx := b.idx + 1, result := BitVec.ofNat 32 (r.xreg 0).1.toNat, rpois := (r.xreg 0).2, row := none,
                    time := max b.time r.time, order := n,
                    stage := if b.idx + 1 = b.cmds.length then .answered else .running })) ∧
  (∀ (s s1 : State) (b : Block) (c : Cmd) (x y : Nat), AtCmd s s1 b c x y →
     let n := c.n
     let e := c.esize
     let xs := fun j => s1.numAt (x + e * j) e
     let ys := fun j => s1.numAt (y + e * j) e
     let scal := c.scal.toNat
     let list := fun f => (List.range n).map f
     let done := fun (i : Instr) (v : Nat) (m : Nat → Byte) => ∃ t, exec i s = .next t ∧ CmdDone s1 t b v m
     (c.op = 1 → done (.dot b.id) (if n = 0 then (if (f32.decode scal).isNan = true then f32.nanCode else scal)
       else bankSum (s1.blockFtz b) c (list xs) (list ys)) s1.byte) ∧
     (c.op = 3 → done (.reduce b.id) (bankSum (s1.blockFtz b) c (list xs) (list fun _ => if c.fmt = 1 then 0x3F800000 else 0x3F80)) s1.byte) ∧
     (c.op = 2 → c.fmt = 1 → done (.axpy b.id) 0 (overBytes y (4 * n)
       (fun k => (toBytes 4 (axpyWord scal (xs (k / 4)) (ys (k / 4)))).getD (k % 4) 0#8) s1.byte)) ∧
     (c.op = 5 → done (.fill b.id) 0 (overBytes x (4 * n) (fun k => (toBytes 4 scal).getD (k % 4) 0#8) s1.byte)) ∧
     (c.op = 6 → done (.copyrow b.id) 0 (overBytes y (1024 * n) (fun k => s1.byte (x + k)) s1.byte)) ∧
     (c.op = 4 → 0 < n → n ≤ 8192 → c.scal.getLsbD 0 = true → ∃ f : Nat → Byte,
       done (.transpose b.id) 0 (overBytes x (e * n) f s1.byte) ∧ ∀ j < n, ∀ k < 8 * e,
         (f (e * j + k / 8)).getLsbD (k % 8) = (s1.byte (y + 1024 * k + j / 8)).getLsbD (j % 8)) ∧
     (c.op = 4 → 0 < n → n ≤ 8192 → c.scal.getLsbD 0 = false → ∃ f : Nat → Byte,
       done (.transpose b.id) 0 (overBytes y (8 * e * 1024) f s1.byte) ∧ ∀ j < 8192, ∀ k < 8 * e,
         (f (1024 * k + j / 8)).getLsbD (j % 8) = if j < n then (xs j).testBit k
           else (s1.byte (y + 1024 * k + j / 8)).getLsbD (j % 8)) ∧
     (c.op = 4 → n = 0 → done (.transpose b.id) 0 s1.byte))

/-- `MEMCALL` (09 R241, R242, R245, 13 R313, R327) reads the block of each contributing lane and sends it, answering at
once, without running a command, one that cannot be read, is poisoned or is malformed; its lanes park in J or go on.
A block begins at its row sequencer, an ATOMIC one once every command has passed its checks. A reply writes the
status word and the result to its lane's pair or its queue, in the order in which the blocks completed, raises BRUN by 64,
and the last of a `MEMCALL` completes it. When a block's bytes are read, and that its first translation routes it whatever its
page permits, are the model's choices, log entries 28 and 29. -/
def Obligations.BankCalls : Prop :=
  (∀ (s s1 : State) (g : Group) (i : Issue) (gd : BitVec 4) (q n : BitVec 1) (j : BitVec 2) (c b : BitVec 5) (a : BitVec 7)
    (f : BitVec 1) (place : Option (Nat × Nat)) (fs : List Fetched), AtWord s g i →
    let ls := g.contributing i gd
    let sa := (g.sreg b.toNat).val
    let ctr := (g.sreg c.toNat).val
    let park := n = 0#1 ∧ q = 0#1
    let qobj := if q = 1#1 then some (sa.toNat % 16) else none
    let as := ls.map fun l => (l, (pairOf g a l).toNat)
    Ready s g ls [a.toNat, a.toNat + 1] [b.toNat, c.toNat] → boundCond g ls [a.toNat, a.toNat + 1] = none →
    (∀ l ∈ ls, tagAt g [a.toNat, a.toNat + 1] l = false) → (g.sreg b.toNat).poison = false → (g.sreg c.toNat).poison = false →
    (∀ e ∈ as, pathOf e.2 = 0 ∧ bitsAt e.2 56 4 = 0 ∧ e.2 % 64 = 0 ∧
      (g.world = 60 → s.physOk (e.2 % 2 ^ 56) = true ∧ hostWindow (e.2 % 2 ^ 56) = false)) →
    (if q = 1#1 then place = none ∧ s.replyQueue (s.gangOf g) (sa.toNat % 16) = none else s.optSync g sa = .ok place) →
    ctr.toNat < 2 ^ 56 → ctr.toNat % 8 = 0 → g.flagFree (i.flag f) = true →
    ls ≠ [] → s.grabAll g as = .ok (s1, fs) → s1.group g.gid = some g → (∀ d ∈ s1.blocks, d.id < s1.ids) → (∀ o ∈ s1.ops, o.id < s1.ids) →
    ∃ (t : State) (h : Group) (new : List Block), exec (.memcall gd q n j c b a f) s = .next t ∧ t.group g.gid = some h ∧ t.blocks = s1.blocks ++ new ∧
      (∃ o, t.op s1.ids = some o ∧ o.kind = .memcall ls.length qobj ∧ o.flag = i.flag f ∧ o.gid = g.gid ∧ o.done = false) ∧
      (∀ k, h.flag k = if i.flag f = some k then g.flag k + 1 else g.flag k) ∧
      (park → h.jreg j.toNat = g.jreg j.toNat ||| laneMask ls ∧ ∀ l ∈ ls, (g.lane l).live = true → (h.lane l).pcv = i.after) ∧
      (∀ l, SameButPc (g.lane l) (h.lane l)) ∧ new.length = fs.length ∧
      (∀ (k : Nat) (d : Block) (l x : Nat) (r : Except (Nat × Nat × Nat) (List (Byte × Bool) × Nat)), new[k]? = some d → fs[k]? = some (l, x, r) → d.gid = g.gid ∧ d.op = s1.ids ∧ d.lane = l ∧ d.addr = x ∧
        d.fid = (g.lane l).fid ∧ d.dst = a.toNat ∧ d.parked = (if park then some j.toNat else none) ∧ d.qobj = qobj ∧
        d.sync = place ∧ d.ctr = ctr ∧ d.idx = 0 ∧
        match r with
        | .error _ => d.stage = .answered ∧ d.status = 1
        | .ok (bs, _) =>
          if bs.any Prod.snd = true then d.stage = .answered ∧ d.status = 3
          else if headerOk (bs.map Prod.fst) = false then d.stage = .answered ∧ d.status = 4
          else (d.stage = .sent ∧ d.cmds = cmdsOf (bs.map Prod.fst)) ∨ (d.stage = .answered ∧ d.status = 1)) ∧
      (s1.uatoms = [] → (∀ d ∈ new, d.stage = .sent) → t.mem = s1.mem)) ∧
  (∀ (s : State) (b : Block), s.block b.id = some b → b.stage = .sent →
    (∀ c s1 tr, b.rsq = unrouted → b.cmds.head? = some c → s.xlate b.core b.world (c.xa.toNat % 2 ^ 56) 3 false = (s1, .ok tr) →
      s1.block b.id = some b → ∃ t, exec (.bankCallBlock b.id) s = .next t ∧ t = { s1 with blocks := t.blocks } ∧
        t.block b.id = some { b with rsq := min (tr.pa / 2 ^ 30) 511 }) ∧
    (b.rsq ≠ unrouted → b.atomic = false → ∃ t, exec (.bankCallBlock b.id) s = .next t ∧ t = { s with blocks := t.blocks } ∧
      t.block b.id = some { b with stage := .running }) ∧
    (∀ s1 ps, b.rsq ≠ unrouted → b.atomic = true → s.checkAll b 0 b.cmds = (s1, .ok ps) → s1.block b.id = some b →
      ∃ t, exec (.bankCallBlock b.id) s = .next t ∧ t = { s1 with blocks := t.blocks } ∧
        t.block b.id = some { b with stage := .running, plans := ps }) ∧
    (∀ s1 k e, b.rsq ≠ unrouted → b.atomic = true → s.checkAll b 0 b.cmds = (s1, .error (k, e)) → s1.block b.id = some b →
      (e.1 = 0 → exec (.bankCallBlock b.id) s = .next s1) ∧ (e.1 ≠ 0 → ∃ t n, exec (.bankCallBlock b.id) s = .next t ∧
        t.block b.id = some { b with stage := .answered, status := e.1, idx := 0, row := none, order := n }))) ∧
  ∀ (s : State) (b : Block) (g : Group) (o : Op) (left : Nat) (tm : Team), s.block b.id = some b → b.stage = .answered →
    b.held = none → b.graph = none → b.ctr = 0#64 → s.active b.world = true → s.group b.gid = some g → g ∈ s.groups →
    g.liveLanes ≠ [] → g.team = b.team → s.team b.team = some tm → s.op b.op = some o → o.id = b.op → o.gid = b.gid →
    o.team = b.team → o.kind = .memcall left b.qobj →
    let word := BitVec.ofNat 32 (b.status + 256 * b.idx)
    let ends := fun t : State => t.block b.id = none ∧ t.mem = s.mem ∧ if left ≤ 1 then t.op b.op = none
      else ∃ o', t.op b.op = some o' ∧ o'.kind = .memcall (left - 1) b.qobj
    (b.qobj = none → (g.lane b.lane).chain.any (fun c => c.fid == b.fid) = true → ∃ t h u, exec (.bankCallReply b.id) s = .next t ∧
      ends t ∧ t.group b.gid = some h ∧ t.team b.team = some u ∧ b.time ≤ h.lclock ∧
      h.windowReg b.lane b.fid b.dst = ⟨word, b.rpois⟩ ∧ h.windowReg b.lane b.fid (b.dst + 1) = ⟨b.result, b.rpois⟩ ∧
      (∀ k, h.flag k = if left ≤ 1 ∧ o.flag = some k then g.flag k - 1 else g.flag k) ∧
      (∀ n, b.sync = some (b.team, n) → PadWrites tm u (let (y, bad) := s.syncWord b.team n
        if bad = true then mapGet 0#8 tm.scratch else syncAt n (y.raise 64) (mapGet 0#8 tm.scratch))) ∧
      (b.sync = none → u = tm)) ∧
    (∀ k q, b.qobj = some k → b.sync = none → s.queue tm.gang k = some q → q.drained = false → q.producer = .replies b.op →
      let first := ∀ c ∈ s.blocks, c.op = b.op → c.stage = .answered → b.order ≤ c.order
      (64 ≤ q.entries.length ∨ ¬ first → exec (.bankCallReply b.id) s = .next s) ∧
      (q.entries.length < 64 → first → ∃ t q', exec (.bankCallReply b.id) s = .next t ∧ ends t ∧ t.queue tm.gang k = some q' ∧
        q' = { q with entries := q.entries ++ [⟨[word, b.result], b.rpois, b.time⟩],
                      producer := if left ≤ 1 then .closed else q.producer }))

/-- A collective is issued with the next CSEQ of its communicator and left in flight. It completes once every rank's
contribution has come, RECV then holding what 09 R247 gives its rank, or ends with STATUS CSEQ MISMATCH, RECORD or
LINK (18 R404 to R408); elements of SEND may be read before the last contribution comes, each once. With STATUS it
writes its record's status bytes, RECV staying as written while that waits, and its flag falls. What an issue waits for by
the addresses that an earlier copy or block names, and that a buffer which cannot be translated ends it with RECORD, are
the model's choices, log entries 30 and 62. -/
def Obligations.Collectives : Prop :=
  (∀ (s s1 : State) (g : Group) (i : Issue) (a : BitVec 5) (f : BitVec 1) (kind : Nat) (n : Instr) (bs : List (Byte × Bool))
    (time : Nat), AtWord s g i →
    (kind, n) ∈ [(0, Instr.collAllred a f), (1, .collAllgath a f), (2, .collRedscat a f), (3, .collBcast a f),
      (4, .collAll2all a f)] →
    let adr := (g.sreg a.toNat).val.toNat
    let b := bs.map Prod.fst
    let h := BitVec.ofNat 32 (field b 0 4)
    let cm := s1.comm g.world h
    let c : Coll := ⟨kind, h, BitVec.ofNat 32 (field b 4 4), BitVec.ofNat 64 (field b 8 8), BitVec.ofNat 64 (field b 16 8),
      field b 24 8, BitVec.ofNat 64 (field b 32 8), BitVec.ofNat 64 (field b 40 8), adr, (cm.map (·.cseq)).getD 0, cm.isSome,
      false, false, false, none, (cm.map (·.size)).getD 1, [], none, false⟩
    Ready s g [] [] [a.toNat] → (g.sreg a.toNat).poison = false → adr < 2 ^ 56 → adr % 64 = 0 →
    s.performed g.gid (fun o => o.touches.1.any fun t => t.1 == 0 || t.1 == 6) = true →
    s.grab g.core g.world g.lclock adr 64 = .ok s1 bs time → (∀ e ∈ bs, e.2 = false) → collBad b = none →
    g.flagFree (i.flag f) = true → (cm = none ∨ s1.collUsed g.world h < 8) → s1.collPrior g c = false →
    ∃ t, exec n s = .next t ∧
      Issued ({ s1 with comms := t.comms }.modGroup g.gid fun g => g.raise time) t g (i.flag f) (.coll c) false ∧
      t.comm g.world h = cm.map fun c => { c with cseq := c.cseq + 1 }) ∧
  (∀ (s : State) (id : Nat) (o : Op) (c : Coll) (ranks : List RankData), s.op id = some o → o.id = id → o.kind = .coll c →
    c.finished = false → s.active o.world = true →
    let ends := fun (n : Instr) (s2 : State) (status : Nat) (w : List Nat) (f : Nat → Byte) => ∃ (s3 : State)
      (time : Nat), (∀ p, s3.byte p = f p) ∧ s3.op id = s2.op id ∧ o.time ≤ time ∧
      exec n s = .next (s3.endColl { o with time := time } c status w)
    let puts := fun (n : Instr) (c : Coll) (status : Nat) (w : List Nat) (f : Nat → Byte) => ∃ (s3 : State) (t1 t2 : Nat),
      (∀ p, s3.byte p = f p) ∧ o.time ≤ t1 ∧ t1 ≤ t2 ∧ exec n s = .next (s3.endColl { o with time := t1 } c status w) ∧
      s3.op id = some { o with kind := .coll { c with wrote := some status }, time := t2 }
    let run := Instr.collectiveCompletion id ranks
    (∀ status, c.wrote = some status → exec run s = .next (s.endColl o c
      (if c.known = true ∧ c.lost = true then 2 else status) [])) ∧ (c.wrote = none →
    (c.held = none → c.known = false ∨ (c.lost = false ∧ (c.bad = true ∨ 2 ^ 32 ≤ c.cseq)) → ends run s 3 [] s.byte) ∧
    (∀ s1 w, c.known = true → c.lost = true ∨ (c.held = none ∧ c.bad = false ∧ c.cseq < 2 ^ 32 ∧
        ∀ cm, s.comm o.world c.comm = some cm → c.overlaps cm.size = false ∧ s.routed o.world cm = false) →
      s.collBuffer o.world 1 c.recv (c.recvCount c.size) = (s1, .ok w) → s1.held w none = false → Clean s1 w → s1.uatoms = [] →
      s1.op id = some o → ∃ f, (∀ p, p ∉ w → f p = s1.byte p) ∧ puts run c 2 w f) ∧
    (∀ s1 w, c.known = true → let d := { c with lost := true }
      (s.modColl id fun c => { c with lost := true }).collBuffer o.world 1 c.recv (c.recvCount c.size) = (s1, .ok w) →
      s1.held w none = false → Clean s1 w → s1.uatoms = [] → s1.op id = some { o with kind := .coll d } →
      ∃ f, (∀ p, p ∉ w → f p = s1.byte p) ∧ puts (.collectiveLinkTimeout id) d 2 w f) ∧
    (∀ cm, c.held = none → c.lost = false → c.known = true → c.bad = false → c.cseq < 2 ^ 32 →
      s.comm o.world c.comm = some cm →
      (c.overlaps cm.size = true → ends run s 3 [] s.byte) ∧
      (∀ s1 s2 src dst all, c.overlaps cm.size = false → cm.rank < cm.size → s.routed o.world cm = true →
        s.collBuffer o.world 0 c.send (c.sendCount cm.size) = (s1, .ok src) →
        s1.collBuffer o.world 1 c.recv (c.recvCount cm.size) = (s2, .ok dst) → s2.held (src ++ dst) none = false →
        Clean s2 (src ++ dst) → s2.op id = some o → dst.Nodup → src.length = 4 * c.sendCount cm.size → dst.length = 4 * c.recvCount cm.size →
        let own : RankData := ⟨cm.rank, c.kind, c.spec, c.count, false, (List.range (c.sendCount cm.size)).map fun k =>
          match findBy (fun e => e.1 == k) c.read with
          | some e => (BitVec.ofNat 32 e.2.1, e.2.2)
          | none => (BitVec.ofNat 32 (ofBytes (((src.drop (4 * k)).take 4).map s2.byte)), false)⟩
        (gatherRanks cm.size cm.rank own ranks = none → ∃ t es, exec run s = .next t ∧ (∀ p, t.byte p = s2.byte p) ∧
          t.op id = some { o with kind := .coll { c with read := c.read ++ es } }) ∧ (gatherRanks cm.size cm.rank own ranks = some all →
        let differ := ∃ d ∈ all, d.kind ≠ c.kind ∨ d.spec ≠ c.spec ∨ d.count ≠ c.count
        let ty := c.spec.toNat % 16
        let op := c.spec.toNat / 16 % 16
        let reduced := fun j => reduceElem ty op ((List.range cm.size).map fun r => contributed all r j)
        let value := fun j => match c.kind with
          | 0 => reduced j
          | 1 => contributed all (j / c.count) (j % c.count)
          | 2 => reduced (cm.rank * c.count + j)
          | 3 => contributed all (c.spec.toNat / 2 ^ 8 % 2 ^ 16) j
          | _ => contributed all (j / c.count) (cm.rank * c.count + j % c.count)
        (differ → ends run s2 1 [] s2.byte) ∧
        (¬ differ → (∃ d ∈ all, d.bad = true) ∨ s2.streamLong c cm.size = true → ends run s2 3 [] s2.byte) ∧
        (¬ differ → (∀ d ∈ all, d.bad = false ∧ d.data.length = c.sendCount cm.size) → s2.streamLong c cm.size = false →
          c.kind ≤ 4 → puts run c 0 dst fun p => match dst.findIdx? (· == p) with
            | some k => (toBytes 4 (value (k / 4)).1).getD (k % 4) 0#8
            | none => s2.byte p)))))) ∧
  ∀ (s s1 : State) (o : Op) (c : Coll) (status : Nat) (w : List Nat) (tr : Trans),
    s.xlate deviceAgent o.world ((c.recAddr + 48) % 2 ^ 56) 1 false = (s1, .ok tr) → s1.held (addrs tr.pa 8 ++ w) none = false →
    hostWindow tr.pa = false → Clean s1 (addrs tr.pa 8) → c.ctr = 0#64 → (∀ h, s1.group o.gid = some h → h.asyncs = []) →
    let t := s.endColl o c status w
    t.op o.id = none ∧ ∀ p, t.byte p = if tr.pa ≤ p ∧ p < tr.pa + 8 then (toBytes 8 status).getD (p - tr.pa) 0#8 else s1.byte p

/-- `LAUNCH` (08 R216, 16 R353 to R356): a sound record of a grid adds the grid with the next GRIDID, one of a graph the
snapshot of its template, at the end of its priority's queue, with status 0; a record, descriptor or template that
R355 refuses leaves only its status. All that it reads, it reads once, at one logical time; while its queue holds 256
entries it waits with what it read. The distributor (16 R351, R357 to
R363, 10 R261): a placement puts a gang of the head grid on the least loaded cores that fit it, whole, its groups'
threads numbered from 0, each cluster of SERVICE commands being served by itself (23 R486); a head that has not fitted for
2^20 cycles reserves; a lock-keeper that ended starts again; a grid whose teams have all ended is gone with its tags. A bin
whose timer has passed is due, and a ready bin starts a group of its records. The model's choices among this: the order in
which a launch's structures are read and refused (log entry 36), that a restarted lock-keeper's descriptor is read again (log
entry 62), and when a head is seen to fit (log entry 60). -/
def Obligations.LaunchAndDistribution : Prop :=
  (∀ (s : State) (g : Group) (i : Issue) (b a : BitVec 5), AtWord s g i →
     let adr := (g.sreg a.toNat).val.toNat
     let w := g.world
     let clock := max g.lclock (s.opTime g.gid launchWaits)
     let accepted := fun (s2 : State) (r : LaunchRead) => ∃ t, exec (.launch b a) s = .next t ∧ LaunchStatus t g b 0 ∧
       t.mem = s2.mem ∧ match r with
       | .grid l k time => ∃ m, t.grids = s2.grids ++ [m] ∧ t.graphs = s2.graphs ∧
         t.launches = s2.launches ++ [⟨w, l.prio, false, m.key, s2.clock, false⟩] ∧
         (t.polder w).gridid = (s2.polder w).gridid + 1#32 ∧
         m = ⟨s2.ids, w, (s2.polder w).gridid, l.prio, l.attr.getLsbD 0 || k.attr.getLsbD 0,
           l.attr.getLsbD 1 || k.attr.getLsbD 1, k, l.gx, l.gy, l.gz, l.gang, l.args, l.ctr, l.cinc, l.poolcap, 0, 0,
           time, s2.launchCluster g, none, false, l.target, (s2.polder w).meters, time, false, none⟩
       | .graph l xs es time => t.grids = s2.grids ∧
         t.graphs = s2.graphs ++ [newGraph s2.ids w l xs es time (s2.launchCluster g)] ∧
         t.launches = s2.launches ++ [⟨w, l.prio, true, s2.ids, s2.clock, false⟩]
     (∀ r, g.launching = some r →
       (256 ≤ s.queued w r.prio → ∃ t, exec (.launch b a) s = .next t ∧ t.mem = s.mem ∧ t.launches = s.launches ∧
         t.group g.gid = some (g.stays s)) ∧
       (s.queued w r.prio < 256 → accepted s r)) ∧
     (g.launching = none → Ready s g [] [] [a.toNat, b.toNat] → (g.sreg a.toNat).poison = false → adr < 2 ^ 56 →
       (w = 60 → s.physOk adr = true) → adr % 64 = 0 →
       (s.performed g.gid launchWaits = false → exec (.launch b a) s = .next (s.noteWait g.gid)) ∧
       (s.performed g.gid launchWaits = true → s.active w = true → ∀ s1 x time,
         s.takeLaunch g.core w clock adr = (s1, .ok (x, time)) → s1.group g.gid = some g →
         (∀ n, x = .error n → ∃ t, exec (.launch b a) s = .next t ∧ LaunchStatus t g b n ∧ t.mem = s1.mem ∧
           t.launches = s1.launches ∧ t.grids = s1.grids ∧ t.graphs = s1.graphs) ∧
         ∀ r, x = .ok r → (s1.queued w r.prio < 256 → accepted s1 r) ∧
           (256 ≤ s1.queued w r.prio → ∃ t, exec (.launch b a) s = .next t ∧ t.mem = s1.mem ∧ t.launches = s1.launches ∧
             t.group g.gid = some ({ g with lclock := max g.lclock time, launching := some r }.stays s1))))) ∧
  (∀ (s s1 : State) (core w c a : Nat) (r : List Byte) (pas : List Nat), s.takeClean core w c a 64 = (s1, .ok (r, pas)) →
     let l := launchOf r
     let reads := fun (s2 : State) (more : List Nat) (f : Nat → Except Nat LaunchRead) => ∃ t time,
       s.takeLaunch core w c a = (t, .ok (f time, time)) ∧ t.mem = s2.mem ∧ c ≤ time ∧
       ∀ p ∈ pas ++ more, (s2.stamp (p / 32)).1 ≤ time
     (∀ s2 n more, launchKind r = 0 → s1.takeGrid core w c r = (s2, .ok (.error n, more)) → reads s2 more fun _ => .error n) ∧
     (∀ s2 l k more, launchKind r = 0 → s1.takeGrid core w c r = (s2, .ok (.ok (l, k), more)) →
       reads s2 more fun t => .ok (.grid l k t)) ∧
     (launchKind r = 1 → lowPath l.target.toNat 64 = false → reads s1 [] fun _ => .error 1) ∧
     (∀ s2 x more, launchKind r = 1 → lowPath l.target.toNat 64 = true →
       s1.takeGraph core w c l.target.toNat = (s2, .ok (x, more)) →
       reads s2 more fun t => match x with
         | none => .error 1
         | some (xs, es) => if launchStatus r none = 0 then .ok (.graph l xs es t) else .error (launchStatus r none))) ∧
  ((∀ (s : State) (w p : Nat) (e : LaunchEntry) (k : Grid) (base : Nat) (line : Option Nat) (pre post : List (Option Nat)),
     s.mayPlace w = true → p < 4 → launchLines w = pre ++ line :: post → (∀ m ∈ pre, ∀ q < 4, s.head w q m = none) →
     (∀ q, p < q → q < 4 → s.head w q line = none) → s.head w p line = some e → e.graph = false → s.grid e.key = some k →
     k.key = e.key →
     let n := min k.gang (k.total - k.next)
     s.bestPlace k n = some base → ∃ (t : State) (new : List Team), exec (.teamPlacement w) s = .next t ∧ t.mem = s.mem ∧
       t.teams = s.teams ++ new ∧ new.length = n ∧ t.grid k.key = some { k with next := k.next + n } ∧
       (∀ i x, new[i]? = some x → x.grid = k.key ∧ x.world = k.world ∧ x.core = base + i ∧ x.teamid = k.next + i ∧
         x.gang = s.ids ∧ x.kernel = k.kernel ∧ x.args = k.args ∧ x.scratch = [] ∧ x.tiles = [] ∧
         x.bins = List.replicate k.kernel.bins ⟨none, [], false⟩ ∧
         ∀ j < k.kernel.groups, ∃ g ∈ t.groups, g ∉ s.groups ∧ g.kind = .launched ∧
           Started g x k.kernel.entry 64 (fun l => BitVec.ofNat 32 (64 * j + l)) (fun _ => ⟨0#32, false⟩) k.launcher) ∧
       ∀ j < k.kernel.queues, 0 < n → (⟨s.ids, j, k.kernel.qkind.getLsbD j, [], .never, none, false⟩ : Queue) ∈ t.queues) ∧
   (∀ (s : State) (w p : Nat) (e : LaunchEntry) (line : Option Nat), line ∈ launchLines w → s.head w p line = some e →
     (∀ m ∈ launchLines w, m ≠ line → s.head w p m = none) → e.graph = false → s.grid e.key ≠ none →
     s.placeHead w p e = none →
     (s.clock < e.since + 2 ^ 20 → exec (.headReserving w p) s = .next s) ∧
     (e.since + 2 ^ 20 ≤ s.clock → ∃ t, exec (.headReserving w p) s = .next t ∧ t = { s with launches := t.launches } ∧
       t.launches = s.launches.map fun f => if f.key = e.key then { f with reserving := true } else f)) ∧
   (∀ (s s1 s2 : State) (w : Nat) (k : Kernel), (s.polder w).lkended = true → s.mayPlace w = true →
     s.keeperKernel w ((s.lowestCore w).getD 0) = (s1, some k) → s1.startKeeper w k = some s2 →
     (∀ g ∈ s1.grids, g.key < s1.ids) →
     ∃ t g, exec (.lockkeeperRestart w) s = .next t ∧ t.mem = s1.mem ∧ (t.polder w).lkended = false ∧ t.grid s1.ids = some g ∧
       g.world = w ∧ g.kernel = k ∧ g.prio = 3 ∧ g.keeper = true ∧ g.next = 1 ∧ g.args = (s1.polder w).lkargs ∧
       ∃ x ∈ t.teams, x.grid = s1.ids ∧ ∃ h ∈ t.groups,
         Started h x k.entry 64 (fun l => BitVec.ofNat 32 l) (fun _ => ⟨0#32, false⟩) 0) ∧
   (∀ (s s1 : State) (k : Grid) (time : Nat), s.grid k.key = some k → k.total ≤ k.ended → k.held = none →
     s.active k.world = true → s1.noneWait → k.cluster = none → (if k.ctr = 0#64 then s1 = s
       else s.addCounter (s.engineCore k.world) k.world 0 k.clock k.ctr.toNat k.cinc.toNat = .done s1 time) →
     ∃ t, exec (.gridCompletion k.key) s = .next t ∧ t.mem = s1.mem ∧ t.grid k.key = none ∧
       (∀ j, j ≠ k.key → t.grid j = s1.grid j) ∧ (∀ e, e ∈ t.tags ↔ e ∈ s1.tags ∧ e.2.grid ≠ k.key) ∧ t.groups = s1.groups) ∧
   ∀ (s : State) (t : Team) (n : Nat) (b : Bin), s.team t.key = some t → t.bins[n]? = some b → s.mayStart t = true →
     (∀ r, b.recs.head? = some r → r.posted + t.kernel.timer ≤ s.clock → ∃ u v, exec (.bintimerExpiry t.key n) s = .next u ∧
       u = { s with teams := u.teams } ∧ u.team t.key = some v ∧ v.bins[n]? = some { b with due := true } ∧
       ∀ j, j ≠ n → v.bins[j]? = t.bins[j]?) ∧
     (∀ age slot, b.ready t.kernel.timer = some age → s.freeSlot t.core = some slot → t.lowerBin n age = false →
       s.canServe (s.poolOf t.core t.grid) age 256 (granules t.kernel.frame) = true → (∀ g ∈ s.groups, g.gid < s.ids) →
       ∃ u v g, exec (.binLaunch t.key n) s = .next u ∧ u.mem = s.mem ∧ u.groups = s.groups ++ [g] ∧ g.slot = slot ∧
         g.kind = .spawned ∧ u.team t.key = some v ∧ (∀ j, j ≠ n → v.bins[j]? = t.bins[j]?) ∧
         v.bins[n]? = some ⟨if b.recs.drop 64 = [] then none else b.key, b.recs.drop 64, false⟩ ∧
         Started g t (b.key.getD 0#64) (min b.recs.length 64) (fun l => ((b.recs[l]?).map (·.tid)).getD 0#32)
           (fun l => ((b.recs[l]?).map (·.payload)).getD ⟨0#32, false⟩) (((s.grid t.grid).map (·.launcher)).getD 0)))

/-- Graphs (16 R365 to R368): the lowest node whose predecessors have completed takes its place at the end of its queue,
a grid to be placed, a copy, a bank call or a collective to start once it is the queue's head; a copy node moves 128 bytes at a time; a node that has done its work
completes or fails, and on a failure the nodes that depend on it are cancelled; a graph whose nodes have all ended is
gone. That a ready node passes a graph accepted after its own which is still held is the model's choice, log entry 63. -/
def Obligations.Graphs : Prop :=
  ∀ (s : State) (k : Graph) (j : Nat) (n : Node), s.graph k.key = some k → k.nodes[j]? = some n →
    let ready := s.graphHeld k = false ∧ s.mayPlace k.world = true ∧ n.state = .waiting ∧
      (∀ e ∈ k.edges, e.2 = j → ∃ x, k.nodes[e.1]? = some x ∧ x.state = .completed) ∧
      ∀ i < j, ∀ x, k.nodes[i]? = some x → x.state = .waiting → ∃ e ∈ k.edges, e.2 = i ∧
        ∀ y, k.nodes[e.1]? = some y → y.state ≠ .completed
    let at_ := fun (t : State) (f : Node) => ∃ k', t.graph k.key = some k' ∧ k'.nodes[j]? = some f ∧
      ∀ i, i ≠ j → k'.nodes[i]? = k.nodes[i]?
    let began := fun (st : NodeState) (key : Nat) => { n with state := st, key := key, clock := k.clock }
    let fresh := (∀ e ∈ s.launches, e.key ≠ s.ids) ∧ ∀ g ∈ s.graphs, ∀ x ∈ g.nodes, x.key ≠ s.ids
    let passes := fun e : LaunchEntry => e.graph = true ∧ k.key < e.key
    let headed := fun key => (ready ∧ fresh ∧ (∀ e, s.head k.world k.prio k.cluster = some e → passes e) ∧ key = s.ids) ∨
      (s.graphHeld k = false ∧ s.mayPlace k.world = true ∧ n.state = .queued ∧
        (s.head k.world k.prio k.cluster).map (·.key) = some n.key ∧ key = n.key)
    let completed := fun (t : State) (st : NodeState) => ∀ k', t.graph k.key = some k' → ∃ x, k'.nodes[j]? = some x ∧ x.state = st ∧
      ∀ e ∈ k'.edges, ∀ y, st = .failed → e.1 = j → k'.nodes[e.2]? = some y → y.state ≠ .waiting
    (ready → ∀ l d, n.body = .grid l d → ∃ t m, exec (.graphNodeReady k.key j) s = .next t ∧ t.mem = s.mem ∧
      at_ t (began .running s.ids) ∧ t.grids = s.grids ++ [m] ∧ m.key = s.ids ∧ m.kernel = d ∧ m.node = some (k.key, j) ∧ m.prio = l.prio ∧
      t.launches = s.launches ++ [⟨k.world, k.prio, false, s.ids, s.clock, false⟩]) ∧
    (ready → fresh → (∀ l d, n.body ≠ .grid l d) → ∀ e, s.head k.world k.prio k.cluster = some e → ¬ passes e →
      ∃ t, exec (.graphNodeReady k.key j) s = .next t ∧ t.mem = s.mem ∧ at_ t (began .queued s.ids) ∧
        t.launches = s.launches ++ [⟨k.world, k.prio, false, s.ids, s.clock, false⟩]) ∧
    (∀ key x y z, headed key → n.body = .copy x y z →
      ∃ t, exec (.graphNodeReady k.key j) s = .next t ∧ t.mem = s.mem ∧ at_ t (began .running key)) ∧
    (∀ key a bs bad, headed key → n.body = .bankcall a bs bad → (∀ b ∈ s.blocks, b.id ≠ key) →
      ∃ t b, exec (.graphNodeReady k.key j) s = .next t ∧ at_ t (began .running key) ∧ t.blocks = s.blocks ++ [b] ∧
        b.id = key ∧ b.graph = some (k.key, j) ∧ b.addr = a.toNat) ∧
    (∀ key kind a bs, headed key → n.body = .coll kind a bs → collBad bs = none →
      let h := BitVec.ofNat 32 (field bs 0 4)
      (s.comm k.world h = none ∨ s.collUsed k.world h < 8) → ∃ t o c, exec (.graphNodeReady k.key j) s = .next t ∧
        t.mem = s.mem ∧ at_ t (began .running key) ∧ t.ops = s.ops ++ [o] ∧ o.id = key ∧ o.kind = .coll c ∧ c.kind = kind ∧ c.comm = h ∧
        c.cseq = ((s.comm k.world h).map (·.cseq)).getD 0) ∧
    (∀ x y z s1 s2 ta tb, n.body = .copy x y z → n.state = .running → n.held = none → n.next < z → s.active k.world = true →
      s.xlate deviceAgent k.world ((x.toNat + n.next) % 2 ^ 56) 0 false = (s1, .ok ta) →
      s.xlate deviceAgent k.world ((y.toNat + n.next) % 2 ^ 56) 1 false = (s2, .ok tb) → ta.pa % 128 = 0 → tb.pa % 128 = 0 →
      s2.held (addrs ta.pa 128 ++ addrs tb.pa 128) none = false → hostWindow ta.pa = false → hostWindow tb.pa = false →
      Clean s2 (addrs ta.pa 128 ++ addrs tb.pa 128) → s2.graph k.key = some k →
      (∀ p ∈ addrs ta.pa 128, mapGet none s2.l1 (copyKey (s.engineCore k.world) (p / 32)) = none) →
      ∃ t c, exec (.graphCopyNode k.key j) s = .next t ∧ n.clock ≤ c ∧ at_ t { n with next := n.next + 128, clock := c } ∧
        ∀ p, t.byte p = if tb.pa ≤ p ∧ p < tb.pa + 128 then s2.byte (ta.pa + (p - tb.pa)) else s2.byte p) ∧
    (s.active k.world = true → n.state = .running →
      (∀ x y z, n.body = .copy x y z → z ≤ n.next → n.held = none → ∃ t, exec (.graphNodeCompletion k.key j) s = .next t ∧
        completed t (if n.bad = true then .failed else .completed)) ∧
      (∀ x y z b, n.body = .bankcall x y z → s.block n.key = some b → b.stage = .answered →
        ∃ t, exec (.graphNodeCompletion k.key j) s = .next t ∧ t.block n.key = none ∧
          completed t (if b.status ≠ 0 ∨ n.bad = true then .failed else .completed)) ∧
      (∀ x y z, n.body = .coll x y z → s.op n.key = none → ∃ t, exec (.graphNodeCompletion k.key j) s = .next t ∧
        completed t (if n.bad = true then .failed else .completed))) ∧
    (s.active k.world = true → k.nodes.all Node.over = true → k.held = none → k.ctr = 0#64 → k.cluster = none →
      ∃ t, exec (.graphNodeCompletion k.key j) s = .next t ∧ t.mem = s.mem ∧ t.graph k.key = none)

/-- The spillway acts for the oldest request of a pool once it has waited SPILLWAIT cycles: it spills the first candidate
frame of the youngest blocked group into the polder's spill area, or, with none, swaps out the youngest group that waits
at a header, which comes back by a request as old as its wait; with no room in the
spill area for the next and every group stuck the `CALL` raises SPILL_FULL, and where nothing is to be moved, or the move
waits, nothing changes (10 R264 to R268). A RETRY lets a held group or copy try again, an ABORT ends the group (20 R438,
R441). Where in the spill area a move goes and in what bytes is free, and what counts as a swapped-out group's size is the
model's choice, log entry 39; how ties of age stand, log entry 22. -/
def Obligations.Spillway : Prop :=
  (∀ (s : State) (g : Group) (age tie need : Nat), s.group g.gid = some g →
    let p := s.poolOf g.core g.grid
    let ben := findBy (fun h => h.slot == tie && s.poolOf h.core h.grid == p && h.requests.any fun r => r.age == age) s.groups
    let others := (s.poolGroups p).filter fun h => !((ben.map fun b => b.gid == h.gid).getD false)
    let frames := (youngest (others.filter fun h => h.blocked && !h.swapped)).flatMap fun h => h.spillable.map fun f => (h, f)
    let swaps := youngest (others.filter s.swappable)
    s.oldestWaiter p = some (age, tie, need) → s.active g.world = true → s.usable p < s.inUse p + need →
    (age + (s.polder g.world).spillwait.toNat ≤ s.clock ∨ ∀ h ∈ s.poolGroups p, h.blocked = true) →
    (∀ h f l s1, frames = (h, f) :: l → s.spillFits h.world (2048 * granules f.count) = true →
      s.spillOut h.world (2048 * granules f.count) = .moved s1 → s1.group h.gid = some h →
      let put := fun x : Group =>
        { x with frames := updBy (fun c => c.fid == f.fid) (fun c => { c with spilled := true }) x.frames }
      (s1.modGroup h.gid put).inUse p + need ≤ s1.usable p → ∃ t x, exec (.spillwaitExpiry g.gid) s = .next t ∧ t.mem = s1.mem ∧
        t.group h.gid = some x ∧ x = { put h with gstat := x.gstat } ∧
        x.gstat.getLsbD 1 = (put h).frames.any (·.spilled) ∧ ∀ k, k ≠ h.gid → t.group k = s1.group k) ∧
    (∀ h l s1, frames = [] → swaps = h :: l → s.spillFits h.world h.contextSize = true →
      s.spillOut h.world h.contextSize = .moved s1 → s1.group h.gid = some h →
      (s1.modGroup h.gid fun x => { x with swapped := true, request := none }).inUse p + need ≤ s1.usable p →
      ∃ t x, exec (.spillwaitExpiry g.gid) s = .next t ∧ t.mem = s1.mem ∧ t.group h.gid = some x ∧ x.swapped = true ∧
        x.lanes = h.lanes ∧ x.frames = h.frames ∧ x.sregs = h.sregs ∧ x.flags = h.flags ∧ x.waiting = h.waiting ∧
        x.issue = (if h.spush.isSome = true then h.issue else none) ∧
        (∃ back, x.request = some ⟨h.age.getD s.clock, h.held', .swapIn back, false⟩) ∧
        ∀ k, k ≠ h.gid → t.group k = s1.group k) ∧
    (frames = [] → swaps = [] → exec (.spillwaitExpiry g.gid) s = .next s) ∧
    let next := fun (w n : Nat) => (∃ h f l, frames = (h, f) :: l ∧ w = h.world ∧ n = 2048 * granules f.count) ∨
      (frames = [] ∧ ∃ h l, swaps = h :: l ∧ w = h.world ∧ n = h.contextSize)
    (∀ w n, next w n → s.spillFits w n = true → s.spillOut w n = .waits → exec (.spillwaitExpiry g.gid) s = .next s) ∧
    (∀ (w n d : Nat) (b : Group) (r : FrameReq), next w n → s.spillFits w n = false ∨ s.spillOut w n = .full →
      ben = some b → s.group b.gid = some b → b.request = some ⟨r.age, r.granules, .call d, r.served⟩ → b.issue ≠ none →
      (∀ h ∈ s.poolGroups p, s.stuck h = true) → exec (.spillwaitExpiry g.gid) s =
        .next ((s.modGroup b.gid fun x => { x with request := none }).raise b.gid ((b.issue.map Issue.len).getD 1)
          { cause := spillFull, index := d, aux := r.granules }))) ∧
  (∀ (s : State) (w : Nat) (q : BitVec 32) (g : Group) (r : PendingTrap),
    findBy (fun h => h.world == w && h.held == some q) s.groups = some g → s.group g.gid = some g → g.heldTrap = some r →
    (∃ t, exec (.fbrespRetry w q) s = .next t ∧ t = { s with groups := t.groups } ∧
      t.group g.gid = some { g with held := none, heldTrap := none } ∧ ∀ k, k ≠ g.gid → t.group k = s.group k) ∧
    ∃ t, exec (.fbrespAbort w q) s = .next t ∧
      (∀ h, t.group g.gid = some h → h.held = none ∧ h.qregs = [] ∧ ∀ l, (h.lane l).live = false) ∧
      ∀ u, t.team g.team = some u → u.error = true) ∧
  ∀ (s : State) (w : Nat) (q : BitVec 32) (o : Op) (c : Copy) (r : Record), (∀ g ∈ s.groups, g.held = none) →
    o ∈ s.ops → (s.ops.map (·.id)).Nodup → o.world = w → o.kind = .copy c → c.held = some r → r.seq = q →
    ∃ t, exec (.fbrespRetry w q) s = .next t ∧ t.op o.id = some { o with kind := .copy { c with held := none } } ∧
      t.mem = s.mem

/-- The agents outside the device: a host access through BAR2, BAR4, CXL.mem or the boot window reaches the bytes of its
own owner or is refused (18 R410, R484, 23 R473); the debug data register reaches a polder opened for debug (22
R469); each of the 64 harts reaches the bytes of its world or takes an access fault, a store-conditional storing only while
its reservation stands, and a load of poisoned bytes taking the fault (18 R412 to R414, 20 R434). When a reservation stands, and
what a hart's clock is, are the model's (log entry 49), and so is what counts as one requester (log entry 59). -/
def Obligations.OutsideAccesses : Prop :=
  (∀ (s s1 : State) (w : Nat) (a : HostAccess),
    let n := (a.write.map List.length).getD a.len
    let here := fun b => addrs (b + a.offset) n
    (∀ pas, s.bar2 w a.offset n (if a.write.isSome = true then 1 else 0) = (s1, some (some pas)) →
      Serves s s1 (.bar2Access w a) pas a.write) ∧
    (s.bar2 w a.offset n (if a.write.isSome = true then 1 else 0) = (s1, some none) → Refuses s s1 (.bar2Access w a)) ∧
    (s.bar2 w a.offset n (if a.write.isSome = true then 1 else 0) = (s1, none) → exec (.bar2Access w a) s = .next s) ∧
    (¬ (w < 48 ∧ (s.polder w).state = .run ∧ (s.polder w).ide = true ∧ (s.polder w).keys = true ∧ a.offset + n ≤ 2 ^ 39) →
      Refuses s s (.bar2Access w a)) ∧
    (s.trust.keys = true → (∀ p ∈ here 0, s.owner p = 61) → Serves s s (.bar4Access a) (here 0) a.write ∧
      (s.cxl = true → Serves s s (.cxlMemAccess a) (here 0) a.write)) ∧
    (s.trust.keys = false ∨ (∃ p ∈ here 0, s.owner p ≠ 61) → Refuses s s (.bar4Access a) ∧ Refuses s s (.cxlMemAccess a)) ∧
    (s.cxl = false → Refuses s s (.cxlMemAccess a)) ∧
    (let ok := (s.trust.boot = 0#4 ∨ s.trust.boot = 4#4) ∧ s.trust.mode = 0#2 ∧ a.offset + n ≤ 2 ^ 24
     (ok → Serves s s (.bootWindowAccess a) (here bootBase) a.write) ∧ (¬ ok → Refuses s s (.bootWindowAccess a)))) ∧
  (∀ (s s1 : State) (v : DWord) (pas : List Nat),
    let w := s.trust.dbgworld.toNat
    let ok := w < 48 ∧ (s.polder w).dbgopen.getLsbD 0 = true
    (∀ need, ok → s.ownBytes w (8 * s.trust.dbgia.toNat) 8 need = (s1, some (some pas)) → s1.trust = s.trust → s1.held pas none = false →
      Clean s1 pas → pas.Nodup → pas.length = 8 →
      (need = 0 → ∃ t, exec .dbgdataRead s = .next t ∧ (∀ p, t.byte p = s1.byte p) ∧
        t.trust = { s.trust with dbgdata := BitVec.ofNat 64 (ofBytes (pas.map s1.byte)), dbgerr := false } ∧
        t.outbox = s1.outbox ++ [.data (pas.map s1.byte) false]) ∧
      (need = 1 → ∃ t, exec (.dbgdataWrite v) s = .next t ∧ t.trust = { s.trust with dbgdata := v, dbgerr := false } ∧
        ∀ p, t.byte p = (lastAt (List.zip pas (toBytes 8 v.toNat)) p).getD (s1.byte p))) ∧
    (¬ ok → (∃ t, exec .dbgdataRead s = .next t ∧ t.mem = s.mem ∧ t.trust = { s.trust with dbgdata := 0#64, dbgerr := true }) ∧
      ∃ t, exec (.dbgdataWrite v) s = .next t ∧ t.mem = s.mem ∧ t.trust = { s.trust with dbgdata := v, dbgerr := true })) ∧
  ∀ (s : State) (h : Nat) (a : HartAccess) (v : DWord),
    (64 ≤ h → exec (.hartAccess h a) s = .next s ∧ ∀ m, exec (.hworldWrite ⟨h, m⟩ v) s = .next s) ∧ (h < 64 →
    let pas := addrs a.addr a.len
    let old := ofBytes (pas.map s.byte)
    let put := fun t x => ∀ p, t.byte p = (lastAt (List.zip pas (toBytes a.len x)) p).getD (s.byte p)
    let locked := 4 ≤ a.len ∧ a.addr % a.len = 0
    ((a.len = 1 ∨ a.len = 2 ∨ a.len = 4 ∨ a.len = 8) →
    (s.hartMay h pas = false → ∃ t, exec (.hartAccess h a) s = .next t ∧ t = { s with outbox := s.outbox ++ [.accessFault h] }) ∧
    (∀ s1 bs x, s.hartMay h pas = true → s.held pas none = false → s.uatoms = [] →
      s.cohRead (hartAgent h) (s.hartClock h) pas = (s1, bs, none, x) → (∃ e ∈ bs, e.2 = true) →
      a.op = .load ∨ a.op = .loadAcq → ∃ t, exec (.hartAccess h a) s = .next t ∧ (∀ p, t.byte p = s1.byte p) ∧
        t.outbox = s1.outbox ++ [.accessFault h]) ∧
    (s.hartMay h pas = true → s.held pas none = false → Clean s pas →
      (∀ p ∈ pas, mapGet none s.l1 (copyKey (hartAgent h) (p / 32)) = none) →
      (a.op = .load ∨ a.op = .loadAcq ∨ (locked ∧ ∃ x y, a.op = .lr x y) → ∃ t, exec (.hartAccess h a) s = .next t ∧ (∀ p, t.byte p = s.byte p) ∧
        t.outbox = s.outbox ++ [.data (pas.map s.byte) false]) ∧
      (a.op = .store ∨ a.op = .storeRel → ∃ t, exec (.hartAccess h a) s = .next t ∧ put t a.data.toNat ∧ t.outbox = s.outbox) ∧
      (∀ o x y, a.op = .amo o x y → locked → o.toNat ≤ 8 → ∃ t, exec (.hartAccess h a) s = .next t ∧
        put t (atomOp o.toNat (8 * a.len) old (a.data.toNat % 2 ^ (8 * a.len)) 0) ∧
        t.outbox = s.outbox ++ [.data (pas.map s.byte) false]) ∧
      ∀ x y, a.op = .sc x y → locked → ∃ t, exec (.hartAccess h a) s = .next t ∧ t.hres = mapDel s.hres h ∧
        if ∃ e ∈ s.hres, e.1 = h ∧ e.2.1 = pas ∧ s.writtenTo pas ≤ e.2.2 then
          put t a.data.toNat ∧ t.outbox = s.outbox ++ [.data (toBytes 8 0) false]
        else (∀ p, t.byte p = s.byte p) ∧ t.outbox = s.outbox ++ [.data (toBytes 8 1) false])) ∧
    (let w := v.toNat % 64
     (w < 48 ∨ w = 61 ∨ w = 63 → ∃ t, exec (.hworldWrite ⟨h, true⟩ v) s = .next t ∧ t.mem = s.mem ∧
       t.hartWorld h = w ∧ (w ≠ s.hartWorld h → ∀ e ∈ t.l1, e.1 / copySpan ≠ hartAgent h)) ∧
     (¬ (w < 48 ∨ w = 61 ∨ w = 63) → exec (.hworldWrite ⟨h, true⟩ v) s = .next s) ∧
     exec (.hworldWrite ⟨h, false⟩ v) s = .next s))

/-- Power, links, errors and time: a power-on reset or power-off keeps the rollback counters and the life-cycle fuses
alone (00 R3); a flit out of order or with a bad CRC changes nothing, one whose tag fails is counted; a port's
seventeenth replay fails it (18 R402, R403); an error in a stored word poisons it at its granule or is counted (20
R429 to R433); cycles pass for the clocks (11 R277); the arithmetic clock changes only timing (23 R483). The model's own: the polynomial of
a flit's CRC (log entry 31), how many flits a replay counts (log entry 50), which word an error strikes and the record of a
lost tag entry (log entry 51), and that cycles pass only by an event (log entry 53). -/
def Obligations.DeviceEvents : Prop :=
  (∀ (s : State) (n : Instr), n = .powerOnReset ∨ n = .powerOff → ∃ t, exec n s = .next t ∧
    t = { State.reset with trust := t.trust, fresh := s.fresh, ids := s.ids, moves := s.moves, turn := s.turn, outbox := s.outbox } ∧
    t.trust = { Trust.reset with lcs := s.trust.lcs, fusetc := s.trust.fusetc, fusefw := s.trust.fusefw }) ∧
  (∀ (s : State) (k : Nat) (bytes : List Byte),
    let p := s.port k
    let f := flitOf bytes
    let taken := p.stat = 2#2 ∧ bytes.length = 256 ∧ f.crc = crc32 (bytes.take 252) ∧ f.lseq = p.rxseq
    let bad := f.dst = s.devid ∧ f.ftype = 1#4 ∧ ∀ c ∈ s.comms, c.lists f = true → Config.flitTagOk c.key bytes = false
    let onward := (f.ack - p.acked).toNat < 512
    (¬ taken → exec (.flitReceive k bytes) s = .next s) ∧
    (taken → ∃ t q, exec (.flitReceive k bytes) s = .next t ∧ t.mem = s.mem ∧ t.port k = q ∧ q.rxseq = p.rxseq + 1#32 ∧
      q.stat = p.stat ∧ q.tagerr = (if bad then satInc32 p.tagerr else p.tagerr) ∧
      q.acked = (if onward then f.ack + 1#32 else p.acked) ∧ q.tries = if onward then 0 else p.tries) ∧
    (p.stat = 2#2 → p.tries < 16 → ∃ t n, exec (.flitReplay k) s = .next t ∧ t.mem = s.mem ∧ 1 ≤ n ∧ n ≤ 512 ∧
      t.port k = { p with replays := BitVec.ofNat 32 (min (p.replays.toNat + n) (2 ^ 32 - 1)), tries := p.tries + 1 }) ∧
    (p.stat = 2#2 → 16 ≤ p.tries → ∃ t, exec (.flitReplay k) s = .next t ∧ t.mem = s.mem ∧ (t.port k).stat = 3#2)) ∧
  (∀ (s : State) (c : Bool) (cycles : Nat), exec (.hostLinkTraining c) s = .next { s with cxl := c } ∧
    exec .thermalThrottle s = .next { s with throttled := true } ∧
    exec .readingBelowLimit s = .next { s with throttled := false } ∧
    ∃ t, exec (.passageOfTime cycles) s = .next t ∧ t.mem = s.mem ∧ t.clock = s.clock + cycles ∧
      ∀ k g, s.group k = some g → t.group k = some { g with
        lclock := g.lclock + (g.lcfrac + cycles) / 2048, lcfrac := (g.lcfrac + cycles) % 2048 }) ∧
  (∀ (s : State) (ln : Nat) (xs : List (Nat × Byte)), ∃ t, exec (.symbolsInError ln xs) s = .next t ∧ t.mem = s.mem ∧
    (t.line ln).marked = (s.line ln).marked ∧ (∀ k, k ≠ ln → t.line k = s.line k) ∧
    ∀ i, mapGet 0#8 (t.line ln).errs i = ((xs.filter fun e => e.1 == i && e.1 < 144).foldl (fun v e => v ^^^ e.2)
      (mapGet 0#8 (s.line ln).errs i))) ∧
  ∀ (s : State) (e : ChipError), ∃ t, exec (.onChipStorageError e) s = .next t ∧
    match e with
    | .singleBit w => t.mem = s.mem ∧ (w < 48 → (t.polder w).cecnt = satInc (s.polder w).cecnt)
    | .l1Word c l => t.mem = s.mem ∧ ∀ k x, mapGet none s.l1 k = some x →
        mapGet none t.l1 k = some { x with poison := x.poison || (decide (k / copySpan = c) && decide (k % copySpan / 4 = l)) }
    | .framePool gid l lv r => t.mem = s.mem ∧ ∀ g f, s.group gid = some g → (g.lane l).live = true →
        (g.lane l).chain[lv]? = some f → ((g.lane l).chain.map (·.fid)).Nodup → ∃ h, t.group gid = some h ∧
        h.windowReg l f.fid r = ⟨(mapGet ⟨0#32, false⟩ f.regs r).val, true⟩
    | .scratchWord k w => t.mem = s.mem ∧ ∀ tm, s.team k = some tm → w < tm.kernel.scratch / 4 → ∃ u, t.team k = some u ∧
        mapGet false u.spoison w = true ∧ u.scratch = tm.scratch
    | .tileRow k x r => t.mem = s.mem ∧ ∀ tm, s.team k = some tm → r < 128 → ∃ u, t.team k = some u ∧
        (u.tileState x).poison.getLsbD r = true ∧ u.tiles = tm.tiles
    | .groupControl gid => ∀ h, t.group gid = some h → ∀ l, (h.lane l).live = false
    | .tagEntry c k => c < 192 → k < 2048 → mapGet TagEntry.empty t.tags (c * 2048 + k) = TagEntry.empty
    | .mergePartial _ a => t.mem = s.mem ∧ ∀ u, s.uatom a = some u → ∃ v, t.uatom a = some v ∧ v = { u with bad := u.bad ++ [0] }
    | .deviceControl => ∀ w < 48, (t.polder w).state ≠ .run

/-- The slice map and a function's window: a write of CLOWN, PCOWN, WAYMASK or LSHARE takes effect or sets the one SMSTAT
bit that 17 R373 to R377 name, in their order, and a polder's window takes its configuration only before RUN (R390,
R391). Which bit of SMSTAT a write that more than one rule refuses sets is the model's reading (log entry 40). -/
def Obligations.SliceMap : Prop :=
  (∀ (s : State) (c : Nat) (v : Word), c < 48 →
    let old := (mapGet 63#6 s.clown c).toNat
    let w := v.toNat % 64
    let locked := s.lockedOwner old = true ∨ s.lockedOwner w = true
    let busy := mapGet false s.changing c = true
    let legal := w < 48 ∨ w = 60 ∨ w = 63
    let taken := old ≠ 63 ∧ w ≠ old ∧ w ≠ 63
    let service := mapGet false s.service c = true
    (service → ∃ t, exec (.clownWrite c v) s = .next t ∧ MapRefused s t 2) ∧
    (¬ service → locked → ∃ t, exec (.clownWrite c v) s = .next t ∧ MapRefused s t 0) ∧
    (¬ service → ¬ locked → busy → ∃ t, exec (.clownWrite c v) s = .next t ∧ MapRefused s t 1) ∧
    (¬ service → ¬ locked → ¬ busy → ¬ legal → ∃ t, exec (.clownWrite c v) s = .next t ∧ MapRefused s t 3) ∧
    (¬ service → ¬ locked → ¬ busy → legal → taken → ∃ t, exec (.clownWrite c v) s = .next t ∧ MapRefused s t 2) ∧
    (¬ service → ¬ locked → ¬ busy → legal → ¬ taken → ∃ t, exec (.clownWrite c v) s = .next t ∧
      t = { s with clown := t.clown, changing := t.changing } ∧
      (∀ k, mapGet 63#6 t.clown k = if k = c then BitVec.ofNat 6 w else mapGet 63#6 s.clown k) ∧
      ∀ k, mapGet false t.changing k = if k = c ∧ w ≠ old then true else mapGet false s.changing k)) ∧
  (∀ (s : State) (p : Nat) (v : Word), p < 512 →
    let old := (mapGet 63#6 s.pcown p).toNat
    let w := v.toNat % 64
    let locked := s.lockedOwner old = true ∨ s.lockedOwner w = true
    let legal := (w < 48 ∨ w = 60 ∨ w = 61 ∨ w = 63) ∧ (w = 63 ∨ (mapGet Phy.reset s.phys p).ready = true)
    let taken := old ≠ 63 ∧ w ≠ old ∧ w ≠ 63
    (old = 62 → ∃ t, exec (.pcownWrite p v) s = .next t ∧ MapRefused s t 2) ∧
    (old ≠ 62 → locked → ∃ t, exec (.pcownWrite p v) s = .next t ∧ MapRefused s t 0) ∧
    (old ≠ 62 → ¬ locked → ¬ legal → ∃ t, exec (.pcownWrite p v) s = .next t ∧ MapRefused s t 3) ∧
    (old ≠ 62 → ¬ locked → legal → taken → ∃ t, exec (.pcownWrite p v) s = .next t ∧ MapRefused s t 2) ∧
    (old ≠ 62 → ¬ locked → legal → ¬ taken → ∃ t, exec (.pcownWrite p v) s = .next t ∧
      (∀ k, mapGet 63#6 t.pcown k = if k = p then BitVec.ofNat 6 w else mapGet 63#6 s.pcown k) ∧
      ((∀ e ∈ s.dirty, ∀ x ∈ e.2.cells, x.1 / 128 = e.1) → ∀ a, a / 2 ^ 30 ≠ p → t.byte a = s.byte a) ∧
      ((∀ e ∈ s.dirty, e.1 / 2 ^ 23 ≠ p) → ∀ a, t.byte a = if old < 48 ∧ w ≠ old ∧ (s.polder old).state = .unlocked ∧ a / 2 ^ 30 = p then 0#8 else s.byte a))) ∧
  (∀ (s : State) (w d : Nat) (v : DWord), w < 64 → d < 2 →
    let few := w = 60 ∧ d = 0 ∧ v &&& 15#64 ≠ 15#64
    let shared := w ≠ 63 ∧ v &&& s.otherWays w d ≠ 0#64
    (s.lockedOwner w = true → ∃ t, exec (.waymaskWrite w d v) s = .next t ∧ MapRefused s t 0) ∧
    (s.lockedOwner w = false → few → ∃ t, exec (.waymaskWrite w d v) s = .next t ∧ MapRefused s t 3) ∧
    (s.lockedOwner w = false → ¬ few → shared → ∃ t, exec (.waymaskWrite w d v) s = .next t ∧ MapRefused s t 2) ∧
    (s.lockedOwner w = false → ¬ few → ¬ shared → ∃ t, exec (.waymaskWrite w d v) s = .next t ∧ t.mem = s.mem ∧
      ∀ k, mapGet 0#64 t.ways k = if k = 2 * w + d then v else mapGet 0#64 s.ways k)) ∧
  (∀ (s : State) (w k : Nat) (v : Word), w < 64 → k < 18 →
    (s.lockedOwner w = true → ∃ t, exec (.lshareWrite w k v) s = .next t ∧ MapRefused s t 0) ∧
    (s.lockedOwner w = false → ∃ t, exec (.lshareWrite w k v) s = .next t ∧ t = { s with lshare := t.lshare } ∧
      ∀ j, mapGet 0#8 t.lshare j = if j = 18 * w + k then v.setWidth 8 else mapGet 0#8 s.lshare j)) ∧
  ∀ (s : State) (w o : Nat) (v : DWord), w < 48 → s.trust.vfs = true →
    let put := fun (x : DWord) => ∃ t, exec (.registerWrite (.vf w o) v) s = .next t ∧ t = { s with pldrs := t.pldrs } ∧
      (∀ k, (t.polder w).readReg k = if k = o then x else (s.polder w).readReg k) ∧ ∀ u, u ≠ w → t.polder u = s.polder u
    let set := (s.polder w).state = .unlocked ∨ (s.polder w).state = .locked
    ((o = 0x8 ∨ o = 0x10 ∨ o = 0x18) → set → put v) ∧
    ((o = 0x20 ∨ o = 0x28) → set → put (v &&& ~~~65535#64)) ∧
    (o = 0x40 → (s.polder w).state ≠ .free → 1024#64 ≤ v → v ≤ 1048576#64 → put v) ∧
    ((o = 0x8 ∨ o = 0x10 ∨ o = 0x18 ∨ o = 0x20 ∨ o = 0x28 ∨ o = 0x30 ∨ o = 0x38) → ¬ set →
      exec (.registerWrite (.vf w o) v) s = .next s)

/-- Ports, memory interfaces and entropy: LCTL's EN, link training and its eighth failure (18 R401); PHYCTL, REPAIR, the
delays and the pattern run of an interface (23 R478, R479); the random generator's tests (17 R392). Debug requests
and boot: scan or memory test, asked for with DBGREQ's key or at the test access port, wipes the device (22 R470,
R471), everything else waiting while the wipe is in progress; BOOTCTL's GO verifies the image and starts the service kernel on core 0, whose end makes the device READY and
raises the rollback counters (23 R473 to R476). That the wipe ends with the schedule's entries is the model's (log entry
42), as are what a training or an interface's registers leave unsaid (log entries 40 and 50). -/
def Obligations.PortsInterfacesBoot : Prop :=
  ((∀ (s : State) (k : Nat) (v : Word), k < 18 →
     let p := s.port k
     (v.getLsbD 0 = false → ∃ t, exec (.lctlWrite k v) s = .next t ∧ t.mem = s.mem ∧ (t.port k).stat = 0#2 ∧
       (t.port k).en = false ∧ (t.port k).bad = 0 ∧ ∀ j, j ≠ k → t.port j = s.port j) ∧
     (v.getLsbD 0 = true → ∃ t, exec (.lctlWrite k v) s = .next t ∧ t = { s with ports := t.ports } ∧
       (∀ j, j ≠ k → t.port j = s.port j) ∧
       t.port k = { p with en := true, stat := if p.stat = 0#2 then 1#2 else p.stat })) ∧
   (∀ (s : State) (k : Nat) (ok : Bool) (peer : BitVec 12) (pp : BitVec 5),
     let p := s.port k
     (p.stat ≠ 1#2 → exec (.portTrainingEnd k ok peer pp) s = .next s) ∧
     (p.stat = 1#2 → ∃ t, exec (.portTrainingEnd k ok peer pp) s = .next t ∧ t = { s with ports := t.ports } ∧
       (∀ j, j ≠ k → t.port j = s.port j) ∧ t.port k =
         (if ok = true then { p with stat := 2#2, peer := peer, pport := pp, bad := 0, rxseq := 0#32, acked := 0#32, tries := 0 }
         else { p with stat := if 7 ≤ p.bad then 3#2 else 1#2, bad := p.bad + 1 })) ∧
     (p.stat = 2#2 → ∃ t, exec (.portDown k) s = .next t ∧ t.mem = s.mem ∧ t.port k = { p with stat := 0#2, tries := 0 } ∧
       ∀ j, j ≠ k → t.port j = s.port j) ∧
     (p.stat ≠ 2#2 → exec (.portDown k) s = .next s)) ∧
   (∀ (s : State) (p : Nat) (v : Word) (err : BitVec 36) (n : Instr), p < 512 →
     let y := s.phy p
     let takes := fun (z : Phy) => ∃ t, exec n s = .next t ∧ t = { s with phys := t.phys } ∧ t.phy p = z ∧
       ∀ q, q ≠ p → t.phy q = s.phy q
     let free := s.phyOwned p = false
     let rate : BitVec 4 := (v >>> 4).setWidth 4
     let okRate := rate ≤ 4#4 ∧ (rate = y.rate ∨ y.en = false ∨ y.train = true)
     (n = .phyctlWrite p v → free → okRate → takes { y with
       rate := rate, train := v.getLsbD 1, en := v.getLsbD 0, ready := v.getLsbD 0 && !v.getLsbD 1 && !y.unrep }) ∧
     (n = .phyctlWrite p v → ¬ (free ∧ okRate) → exec n s = .next s) ∧
     (n = .repairWrite p v → free → y.train = true →
       takes { y with repair := v, ready := y.en && !y.train && !({ y with repair := v } : Phy).unrep }) ∧
     (n = .patternRunWrite p → free → y.train = true →
       takes { y with patop := 1#2, run := if y.run = none ∧ y.en = true then some (1#2, y.repair) else y.run }) ∧
     (n = .patternRunRead p → free → y.train = true →
       takes { y with patop := 2#2, run := if y.run = none ∧ y.en = true then some (2#2, y.repair) else y.run }) ∧
     (n = .repairWrite p v ∨ n = .patternRunWrite p ∨ n = .patternRunRead p ∨ n = .rdlyallWrite p v ∨ n = .wdlyallWrite p v →
       ¬ (free ∧ y.train = true) → exec n s = .next s) ∧
     (∀ op rep, n = .patternRunCompletion p err → y.run = some (op, rep) → ∃ e, takes { y with run := none, paterr := e } ∧
       ∀ i < 36, e.getLsbD i =
         if i < 32 then
           (if (badLanes rep (i / 8)).head? = some (i % 8) then err.getLsbD (32 + i / 8) else err.getLsbD i)
         else err.getLsbD i && badLanes rep (i - 32) == []) ∧
     (n = .patternRunCompletion p err → y.run = none → exec n s = .next s) ∧
     (n = .rdlyallWrite p v → free → y.train = true → ∃ m, takes { y with rdly := m } ∧
       ∀ i, mapGet 32#6 m i = if i < 36 then v.setWidth 6 else mapGet 32#6 y.rdly i) ∧
     (n = .wdlyallWrite p v → free → y.train = true → ∃ m, takes { y with wdly := m } ∧
       ∀ i, mapGet 32#6 m i = if i < 36 then v.setWidth 6 else mapGet 32#6 y.wdly i)) ∧
   ∀ (s : State) (pass : Bool),
     let t0 := s.trust
     let failed := { t0 with
       fails := if t0.fails = 0xFFFF#16 then t0.fails else t0.fails + 1#16, ok := false, retest := true }
     exec .rngHealthFailure s = .next { s with trust := failed } ∧
     (t0.retest = false → exec (.rngStartupTest pass) s = .next s) ∧
     (t0.retest = true → pass = false → exec (.rngStartupTest pass) s = .next { s with trust := failed }) ∧
     (t0.retest = true → pass = true → ∃ t, exec (.rngStartupTest pass) s = .next t ∧ t = { s with trust := t.trust, fresh := t.fresh } ∧
       t.trust = if t0.keys = true ∨ t0.mode ≠ 0#2 then { t0 with ok := true, retest := false }
         else { t0 with ok := true, retest := false, keys := true, keydraw := s.fresh })) ∧
  ((∀ (s : State) (v : Word) (m : BitVec 2),
     let keyed := v.toNat / 65536 = 0x5CA7
     let free := s.trust.mode = 0#2 ∧ s.trust.wiping = false
     let begins := fun n (k : BitVec 2) => exec n s = .next { s with trust := { s.trust with wiping := true, wipeto := k } }
     (keyed → v.toNat % 4 = 1 → free → begins (.dbgreqScan v) 1#2) ∧
     (¬ (keyed ∧ v.toNat % 4 = 1 ∧ free) → exec (.dbgreqScan v) s = .next s) ∧
     (keyed → v.toNat % 4 = 2 → free → begins (.dbgreqMemoryTest v) 2#2) ∧
     (¬ (keyed ∧ v.toNat % 4 = 2 ∧ free) → exec (.dbgreqMemoryTest v) s = .next s) ∧
     (m = 1#2 ∨ m = 2#2 → free → begins (.testAccessPortEntry m) m) ∧
     (¬ ((m = 1#2 ∨ m = 2#2) ∧ free) → exec (.testAccessPortEntry m) s = .next s) ∧
     (s.trust.wiping = true → (s.moves = [] → ∃ t, step s = .next t ∧ Wiped s t s.trust.wipeto.toNat) ∧
       ∀ e ms, s.moves = e :: ms → (∀ k, e ≠ .event (.passageOfTime k)) → step s = .next { s with moves := ms })) ∧
   (∀ (s : State) (v : Word),
     let ok := v.getLsbD 0 = true ∧ s.trust.mode = 0#2 ∧ (s.trust.boot = 0#4 ∨ s.trust.boot = 4#4)
     let b := s.bytes bootBase (max 256 (min (2 ^ 24) s.trust.bootlen.toNat))
     let r := s.trust.imageReason b
     (¬ ok → exec (.bootctlGo v) s = .next s) ∧
     (ok → r ≠ 0 → exec (.bootctlGo v) s =
       .next { s with trust := { s.trust with boot := 4#4, reason := BitVec.ofNat 8 r } }) ∧
     (ok → r = 0 → ∃ t, exec (.bootctlGo v) s = .next t ∧ mapGet 63#6 t.latch 0 = 60#6 ∧
       t.trust = { s.trust with
         boot := 2#4, reason := 0#8, image := b,
         tcsvn := BitVec.ofNat 32 (field b 4 4), fwsvn := BitVec.ofNat 32 (field b 8 4) })) ∧
   ∀ (s : State),
     let done := s.trust.boot = 2#4 ∧ ∀ g ∈ s.groups, g.world ≠ 60
     (¬ done → exec .bootReady s = .next s) ∧
     (done → ∃ t, exec .bootReady s = .next t ∧ mapGet 63#6 t.latch 0 = 63#6 ∧ mapGet 63#6 t.clown 0 = 63#6 ∧
       t.trust = { s.trust with
         boot := 3#4, vfs := true,
         fusetc := if s.trust.fusetc < s.trust.tcsvn then s.trust.tcsvn else s.trust.fusetc,
         fusefw := if s.trust.fusefw < s.trust.fwsvn then s.trust.fwsvn else s.trust.fusefw }))

/-- A polder's life: CREATE draws its keys and makes it UNLOCKED (17 R382); RELEASE discards its work, seals its meters,
zeroes its memory and frees it (21 R462); SERVICE latches a free cluster to world 60 and queues the grid of a launch
record (23 R486); an operation that the mailbox does not have ends with BADOP (17 R380). That a command whose parameters stand
under an X range is served again is the model's (log entry 41), as is what runs on while a release waits (log entry 65) and
that the key sets are drawn as log entry 59 says. -/
def Obligations.PolderLife : Prop :=
  (∀ (s s1 : State) (own healthy : Bool) (m : Mailbox) (b : List Byte), Mail s own m 1 →
    let w := m.world.toNat
    let r := fun (o : Nat) => BitVec.ofNat 64 (field b o 8)
    let fresh := (s.polder w).state = .free ∨ (s.polder w).state = .creating
    let s0 := s.setPolder w { s.polder w with state := .creating }
    let ok := s1.configOk w = true ∧ field b 32 32 = 0 ∧ field b 0 8 % 4096 = 0 ∧ s1.owner (field b 0 8) = 61
    (¬ (w < 48 ∧ fresh) → Ends s (.create healthy) own m 1) ∧
    (w < 48 → fresh → s0.paramBytes own m.arg.toNat 64 = (s1, some b) → s1.trust = s.trust →
      (¬ ok → ∃ t, exec (.create healthy) s = .next t ∧ Served s t own m 2 0 ∧ t.pldrs = s1.pldrs ∧
        (t.polder w).state = .creating) ∧
      (ok → s.trust.ok = true → healthy = true → ∃ t d, exec (.create healthy) s = .next t ∧ Served s t own m 0 0 ∧
        t.polder w = { Polder.reset with
          state := .unlocked, s2root := r 0, s1root := r 8, lkdesc := r 16, lkargs := r 24,
          keys := true, keydraw := d, pid := Config.freeWord d } ∧
        (∀ a, s1.owner a = w → t.byte a = 0#8) ∧ (∀ c ∈ s1.clusters w, mapGet 63#6 t.latch c = BitVec.ofNat 6 w) ∧
        (∀ e ∈ t.trust.records, e.1 ≠ w) ∧ mapGet 0 t.rtimes w = 0) ∧
      (ok → ¬ (s.trust.ok = true ∧ healthy = true) → ∃ t, exec (.create healthy) s = .next t ∧ Served s t own m 3 0 ∧
        (t.polder w).state = .creating ∧ (t.polder w).rngbad = true ∧ t.mem = s1.mem))) ∧
  (∀ (s : State) (v : Nat), v < 48 → s.stopEnds = some v → ∃ t, exec .release s = .next t ∧ Freed s t v) ∧
  (∀ (s : State) (own : Bool) (m : Mailbox), Mail s own m 2 → s.stopEnds = none →
    let w := m.world.toNat
    let p := s.polder w
    (w < 48 → p.releasable = true → ∃ t, exec .release s = .next t ∧ Releasing s t w false ∧ t.trust.order = s.trust.order) ∧
    (w < 48 → p.state = .releasing → p.byStop = false → s.workEnded w = true → ∃ t, exec .release s = .next t ∧ Freed s t w ∧
      Served s t own m 0 0) ∧
    (w < 48 → p.state = .releasing → p.byStop = false → s.workEnded w = false → exec .release s = .next s) ∧
    (w < 48 → p.state = .creating → ∃ t, exec .release s = .next t ∧ (t.polder w).state = .free ∧ Served s t own m 0 0) ∧
    (48 ≤ w ∨ p.state = .free ∨ (p.state = .releasing ∧ p.byStop = true) → Ends s .release own m 1)) ∧
  (∀ (s s1 : State) (own : Bool) (m : Mailbox) (l : Launch) (k : Kernel) (pas : List Nat), Mail s own m 8 →
    let c := m.world.toNat
    let free := c < 48 ∧ mapGet 63#6 s.clown c = 63#6 ∧ mapGet false s.changing c = false
    (own = false → exec .service s = .next s) ∧
    (own = true → s.trust.boot ≠ 3#4 → Ends s .service own m 1) ∧
    (own = true → s.trust.boot = 3#4 → ¬ free → Ends s .service own m 2) ∧
    (∀ n, own = true → s.trust.boot = 3#4 → free →
      (s.giveCluster c 60).serviceRecord c m.arg.toNat = (s1, .ok (.error n, pas)) → s1.trust = s.trust →
      ∃ t, exec .service s = .next t ∧ Served s t own m 2 n ∧ mapGet 63#6 t.latch c = 63#6) ∧
    (own = true → s.trust.boot = 3#4 → free → (s.giveCluster c 60).serviceRecord c m.arg.toNat = (s1, .ok (.ok (l, k), pas)) →
      s1.trust = s.trust → s1.queued 60 l.prio < 256 → ∃ t, exec .service s = .next t ∧ Served s t own m 0 0 ∧
        t.latch = s1.latch ∧ mapGet false t.service c = true ∧
        t.launches = s1.launches ++ [⟨60, l.prio, false, s1.ids, s1.clock, false⟩] ∧
        ∃ x ∈ t.grids, x.key = s1.ids ∧ x.world = 60 ∧ x.kernel = k ∧ x.cluster = some c)) ∧
  ∀ (s : State) (own : Bool) (m : Mailbox), s.mail = some (own, m) →
    let op := m.op.toNat
    let known := op = 1 ∨ op = 2 ∨ (op = 8 ∧ own = true) ∨ (16 ≤ op ∧ op ≤ 25)
    (known → exec .mailboxBadop s = .next s) ∧ (¬ known → Ends s .mailboxBadop own m 4)

/-- TDISP (17 R378, R379): LOCK_INTERFACE_REQUEST takes UNLOCKED to LOCKED, START_INTERFACE_REQUEST takes LOCKED to RUN
(a polder that was imported waits suspended, 21 R461), STOP_INTERFACE_REQUEST begins the release, and an error takes
the interface to QUARANTINED; every other request is answered and changes nothing. What the firmware lock-keeper runs is the
model's (log entry 37), as is that a descriptor that cannot start one leaves it ended (log entry 62), when the release that a
STOP began ends (log entry 65), and what an answer holds (log entry 41). -/
def Obligations.TdispRequests : Prop :=
  ∀ (s : State) (w : Nat),
    let p := s.polder w
    let refused := fun (n : Instr) => ∃ t, exec n s = .next t ∧ PolderTo s t w p ∧ Sends s t (.tdisp w false [])
    let answered := fun (n : Instr) (b : List Byte) => ∃ t, exec n s = .next t ∧ PolderTo s t w p ∧ Sends s t (.tdisp w true b)
    let run := p.state = .locked ∨ p.state = .run
    answered (.getTdispVersion w) (Config.tdispAnswer 0 w) ∧
    answered (.getTdispCapabilities w) (Config.tdispAnswer 1 w) ∧
    (run → answered (.getDeviceInterfaceReport w) (Config.interfaceReport w)) ∧
    (¬ run → refused (.getDeviceInterfaceReport w)) ∧
    (p.state = .unlocked → answered (.getDeviceInterfaceState w) [0#8]) ∧
    (p.state = .locked → answered (.getDeviceInterfaceState w) [1#8]) ∧
    (p.state = .run → answered (.getDeviceInterfaceState w) [2#8]) ∧
    (p.state = .quarantined → answered (.getDeviceInterfaceState w) [3#8]) ∧
    (p.enabled = false → refused (.getDeviceInterfaceState w)) ∧
    (∃ t, exec (.tdispUnsupportedRequest w) s = .next t ∧ PolderTo s t w p ∧ Sends s t (.tdispUnsupported w)) ∧
    (p.state = .unlocked → ∃ t, exec (.lockInterfaceRequest w) s = .next t ∧ PolderTo s t w { p with state := .locked } ∧
      Sends s t (.tdisp w true (Config.tdispAnswer 2 w))) ∧
    (p.state ≠ .unlocked → refused (.lockInterfaceRequest w)) ∧
    (p.state = .locked → p.imported = true → ∃ t, exec (.startInterfaceRequest w) s = .next t ∧
      PolderTo s t w { p with state := .run, susp := true } ∧ Sends s t (.tdisp w true (Config.tdispAnswer 5 w))) ∧
    (p.state = .locked → p.imported = false → p.lkdesc = 0#64 → ∃ t, exec (.startInterfaceRequest w) s = .next t ∧
      (t.polder w).state = .run ∧ Sends s t (.tdisp w true (Config.tdispAnswer 5 w)) ∧ t.mem = s.mem ∧
      ((t.polder w).lkended = true ∨ ∃ k ∈ t.grids, k.world = w ∧ k.keeper = true)) ∧
    (∀ s1 k, p.state = .locked → p.imported = false → p.lkdesc ≠ 0#64 →
      let s0 := s.setPolder w { p with state := .run }
      s0.keeperKernel w (s0.engineCore w) = (s1, k) → (s1.polder w).state = .run → s1.outbox = s.outbox →
      ∃ t, exec (.startInterfaceRequest w) s = .next t ∧ (t.polder w).state = .run ∧
        Sends s t (.tdisp w true (Config.tdispAnswer 5 w)) ∧
        (k = none → (t.polder w).lkended = true) ∧
        ∀ kn, k = some kn → (t.polder w).lkended = true ∨ ∃ x ∈ t.grids, x.world = w ∧ x.keeper = true ∧ x.kernel = kn) ∧
    (p.state ≠ .locked → refused (.startInterfaceRequest w)) ∧
    (p.releasable = true → ∃ t, exec (.stopInterfaceRequest w) s = .next t ∧ Releasing s t w true ∧
      Sends s t (.tdisp w true (Config.tdispAnswer 6 w))) ∧
    (p.state = .free ∨ p.state = .creating ∨ p.state = .releasing → refused (.stopInterfaceRequest w)) ∧
    (p.state = .unlocked ∨ run → ∃ t, exec (.tdispErrorTransition w) s = .next t ∧
      PolderTo s t w { p with state := .quarantined } ∧ t.outbox = s.outbox) ∧
    (¬ (p.state = .unlocked ∨ run) → exec (.tdispErrorTransition w) s = .next s)

/-- The SPDM responder and its vendor requests: Busy while no nonce can be drawn (17 R393, R397); a meter block has the
next SEQ (22 R466); COMM_OPEN opens a communicator and COMM_CLOSE closes it (18 R404, R405); DEBUG_OPEN sets bits of
an UNLOCKED polder's opening mask in a secured session (22 R468); GET_RELEASE answers the kept record (22 R467). What a
digest covers, and what a signature covers beside the measurement, are the model's (log entry 43). -/
def Obligations.SpdmRequests : Prop :=
  (∀ (s : State) (q : SpdmReq),
    let spdm := Reply.spdm (Config.spdmAnswer s.fresh)
    let sends := fun (r : Reply) => exec (.spdmRequest q) s = .next { s with outbox := s.outbox ++ [r] }
    let fixed := q = .getVersion ∨ q = .getCapabilities ∨ q = .negotiateAlgorithms ∨ q = .getDigests ∨
      ∃ o n, q = .getCertificate o n
    (q = .getVersion → sends (.spdmVersion 1 3)) ∧
    (q = .getCapabilities → sends (.spdmCaps [.cert, .chal, .measSig, .keyEx, .encrypt, .mac, .chunk])) ∧
    (q = .negotiateAlgorithms → sends (.spdmAlgs [.ecdsaP384, .sha384, .ecdheP384, .aes256Gcm])) ∧
    (let chain := Config.rootCert ++ Config.deviceIdCert ++ Config.aliasCert (Config.sha384 s.trust.image) s.trust.fwsvn
     (q = .getDigests → sends (.spdmCert (toBytes 48 (Config.sha384 chain).toNat))) ∧
     ∀ o n, q = .getCertificate o n → sends (.spdmCert ((chain.drop o).take n))) ∧
    (¬ fixed → s.trust.ok = true ∨ (q ≠ .challenge ∧ q ≠ .keyExchange) → (∀ w go, q = .ideKm w go → w < 48) →
      ∃ t, exec (.spdmRequest q) s = .next t ∧ Sends s t spdm ∧
        t = { s with fresh := s.fresh + 1, pldrs := t.pldrs, outbox := t.outbox } ∧
        ∀ v, t.polder v = { s.polder v with ide := match q with
          | .ideKm w go => if v = w then go else (s.polder v).ide
          | _ => (s.polder v).ide }) ∧
    (s.trust.ok = false → q = .challenge ∨ q = .keyExchange →
      exec (.spdmRequest q) s = .next { s with outbox := s.outbox ++ [.spdmBusy] })) ∧
  (∀ (s : State) (i : Nat),
    (s.trust.ok = false → exec (.getMeasurements i) s = .next { s with outbox := s.outbox ++ [.spdmBusy] }) ∧
    (∀ b, s.trust.ok = true → s.digest i = some b →
      exec (.getMeasurements i) s = .next { s with outbox := s.outbox ++ [.measurement i (b ++ s.trust.sign b)] }) ∧
    ∀ w < 48, s.trust.ok = true → i = 64 + w → (s.polder w).metered = true →
      let b := toBytes 8 (s.polder w).pid.toNat ++ toBytes 8 ((s.polder w).measseq + 1#64).toNat ++ (s.polder w).meterBytes
      ∃ t, exec (.getMeasurements i) s = .next t ∧
        PolderTo s t w { s.polder w with measseq := (s.polder w).measseq + 1#64 } ∧
        Sends s t (.measurement i (b ++ s.trust.sign b))) ∧
  (∀ (s : State) (req : List Byte) (sec : Bool),
    let w := field req 1 1
    let p := s.polder w
    let h := BitVec.ofNat 32 (field req 4 4)
    let size := field req 8 2
    let rank := field req 10 2
    let key := BitVec.ofNat 256 (field req 12 32)
    let devs := (List.range size).map fun i => field req (44 + 2 * i) 2
    let opens := field req 0 1 = 1 ∧ w < 48 ∧ p.state = .run ∧ field req 2 2 = 0 ∧ s.comm w h = none ∧ 1 ≤ size ∧
      size ≤ 4096 ∧ rank < size ∧ 44 + 2 * size ≤ req.length ∧ (∀ d ∈ devs, d < 4096) ∧
      devs[rank]? = some s.devid.toNat ∧ s.comms.length < 64 ∧ ∀ c ∈ s.comms, c.key ≠ key
    let no := fun (n : Instr) => exec n s = .next { s with outbox := s.outbox ++ [.spdmInvalid] }
    let debug := sec = true ∧ field req 0 1 = 3 ∧ w < 48 ∧ p.state = .unlocked ∧ field req 4 4 ≤ 1
    (opens → exec (.commOpen req) s = .next { s with
      outbox := s.outbox ++ [.spdm []],
      comms := s.comms ++ [⟨w, h, size, rank, key, devs.map (BitVec.ofNat 12), 0⟩] }) ∧
    (¬ opens → no (.commOpen req)) ∧
    (field req 0 1 = 2 → (s.comm w h).isSome = true → ∃ t, exec (.commClose req) s = .next t ∧ Sends s t (.spdm []) ∧
      t.mem = s.mem ∧ t.comm w h = none ∧ ∀ v k, ¬ (v = w ∧ k = h) → t.comm v k = s.comm v k) ∧
    (¬ (field req 0 1 = 2 ∧ (s.comm w h).isSome = true) → no (.commClose req)) ∧
    (debug → ∃ t, exec (.debugOpen sec req) s = .next t ∧ Sends s t (.spdm []) ∧
      PolderTo s t w { p with dbgopen := p.dbgopen ||| BitVec.ofNat 32 (field req 4 4) }) ∧
    (¬ debug → no (.debugOpen sec req)) ∧
    (∀ r, field req 0 1 = 4 → field req 2 6 = 0 → findBy (fun e => e.1 == w) s.trust.records = some (w, r) →
      exec (.getRelease req) s = .next { s with outbox := s.outbox ++ [.spdm r] }) ∧
    (¬ (field req 0 1 = 4 ∧ field req 2 6 = 0) ∨ findBy (fun e => e.1 == w) s.trust.records = none → no (.getRelease req)))

/-- SUSPEND stops a polder's groups and saves its teams (21 R446 to R448), within 2^30 cycles or not at all; RESUME
places what was saved and lets the polder run again (R452); a cluster's latch changes once its groups have stopped
(17 R384); GROW and SHRINK give and take resources (21 R453). How an image is laid out and where it goes is the model's (log
entry 44), as are which bytes of one RESUME takes up (log entry 45) and what a group stopped is (log entry 47). -/
def Obligations.Preemption : Prop :=
  (∀ (s s1 : State) (own : Bool) (m : Mailbox) (k : Nat), Mail s own m 16 →
    let w := m.world.toNat
    let p := s.polder w
    let runs := w < 48 ∧ p.state = .run ∧ p.susp = false
    let all := fun (_ : Nat) => true
    (¬ runs → Ends s .suspend own m 1) ∧
    (runs → p.stopping = none → s.roomToSave w all = true → ∃ t, exec .suspend s = .next t ∧
      PolderTo s t w { p with stopping := some s.clock } ∧ t.outbox = s.outbox) ∧
    (runs → p.stopping = none → s.roomToSave w all = false → Ends s .suspend own m 2) ∧
    (runs → p.stopping = some k → s.allStopped w all = false → exec .suspend s = .next s) ∧
    (runs → p.stopping = some k → s.allStopped w all = true →
      s.saveCores w (s.heldCores w all) = some none → exec .suspend s = .next s) ∧
    (runs → p.stopping = some k → s.allStopped w all = true → s.saveCores w (s.heldCores w all) = none →
      ∃ t, exec .suspend s = .next t ∧ Served s t own m 2 0 ∧
        PolderTo { s with trust := t.trust } t w { p with stopping := none }) ∧
    (runs → p.stopping = some k → s.allStopped w all = true →
      s.saveCores w (s.heldCores w all) = some (some s1) → s1.trust = s.trust → ∃ t, exec .suspend s = .next t ∧
        Served s t own m 0 0 ∧ PolderTo { s1 with trust := t.trust } t w { s1.polder w with susp := true, stopping := none } ∧
        ∀ tm ∈ t.teams, tm.core < 192 → tm.world ≠ w) ∧
    (p.stopping = some k → s.clock < k + 2 ^ 30 → exec .suspendTimeout s = .next s) ∧
    (p.stopping = some k → k + 2 ^ 30 ≤ s.clock → ∃ t, exec .suspendTimeout s = .next t ∧ Served s t own m 5 0 ∧
      PolderTo { s with trust := t.trust } t w { p with stopping := none })) ∧
  (∀ (s : State) (own : Bool) (m : Mailbox), Mail s own m 17 →
    let w := m.world.toNat
    let p := s.polder w
    (¬ (w < 48 ∧ p.state = .run ∧ p.susp = true) → Ends s .resume own m 1) ∧
    (w < 48 → p.state = .run → p.susp = true → p.importing = none → p.saved = [] → ∃ t, exec .resume s = .next t ∧
      Served s t own m 0 0 ∧ PolderTo { s with trust := t.trust } t w { p with susp := false }) ∧
    (∀ s1, w < 48 → p.state = .run → p.susp = true → p.importing = none → p.saved ≠ [] →
      s.resumeNext w = some s1 → s1.trust.blocked = s.trust.blocked → exec .resume s = .next s1) ∧
    (w < 48 → p.state = .run → p.susp = true → p.importing = none → p.saved ≠ [] → s.resumeNext w = none →
      exec .resume s = .next s)) ∧
  (∀ (s : State) (c : Nat),
    let ready := mapGet false s.changing c = true ∧
      (∀ e ∈ s.pldrs, ∀ x, e.2.shrink = some x → x.2.1.testBit c = false) ∧
      (∀ o ∈ s.ops, o.core / 4 = c → o.gid = 0) ∧ s.mergeWaits c = false ∧ ∀ g ∈ s.groups, g.core / 4 = c → s.stopped g = true
    (¬ ready → exec (.worldLatchChange c) s = .next s) ∧
    (ready → ∃ t, exec (.worldLatchChange c) s = .next t ∧ mapGet false t.changing c = false ∧
      mapGet 63#6 t.latch c = mapGet 63#6 s.clown c ∧ t.trust = s.trust ∧ t.clown = s.clown ∧
      ∀ e ∈ t.l1, e.1 / copySpan / 4 ≠ c)) ∧
  (∀ (s s1 : State) (own : Bool) (m : Mailbox) (b : List Byte) (cm pm : Nat), Mail s own m 18 →
    let w := m.world.toNat
    let runs := w < 48 ∧ (s.polder w).state = .run
    let free := (∀ c < 48, cm.testBit c = true → mapGet 63#6 s1.clown c = 63#6 ∧ mapGet false s1.changing c = false) ∧
      ∀ p < 512, pm.testBit p = true → mapGet 63#6 s1.pcown p = 63#6 ∧ (s1.phy p).ready = true
    (¬ runs → Ends s .grow own m 1) ∧
    (runs → s.paramBytes own m.arg.toNat 72 = (s1, some b) → s1.trust = s.trust → listBlock b = some (cm, pm) →
      (¬ free → ∃ t, exec .grow s = .next t ∧ Served s t own m 2 0 ∧ t.clown = s1.clown ∧ t.pcown = s1.pcown) ∧
      (free → ∃ t, exec .grow s = .next t ∧ Served s t own m 0 0 ∧
        (∀ c, mapGet 63#6 t.clown c = if c < 48 ∧ cm.testBit c = true then BitVec.ofNat 6 w else mapGet 63#6 s1.clown c) ∧
        (∀ c, c < 48 → cm.testBit c = true → mapGet 63#6 t.latch c = BitVec.ofNat 6 w) ∧
        ∀ p, mapGet 63#6 t.pcown p = if p < 512 ∧ pm.testBit p = true then BitVec.ofNat 6 w else mapGet 63#6 s1.pcown p))) ∧
  ∀ (s s1 : State) (own : Bool) (m : Mailbox) (b : List Byte) (cm pm k : Nat), Mail s own m 19 →
    let w := m.world.toNat
    let p := s.polder w
    let runs := w < 48 ∧ p.state = .run
    let quiet := s.allStopped w cm.testBit = true ∧ s.busyOn pm = false ∧
      ∀ c < 48, cm.testBit c = true → s.mergeWaits c = false
    (¬ runs → Ends s .shrink own m 1) ∧
    (runs → p.shrink = none → s.paramBytes own m.arg.toNat 72 = (s1, some b) → s1.trust = s.trust → listBlock b = some (cm, pm) →
      s1.shrinkOk w cm pm = true → s1.roomToSave w cm.testBit = true → ∃ t, exec .shrink s = .next t ∧
        (t.polder w).shrink = some (s1.clock, cm, pm) ∧ t.mem = s1.mem ∧
        ∀ c, mapGet false t.changing c = if c < 48 ∧ cm.testBit c = true then true else mapGet false s1.changing c) ∧
    (runs → p.shrink = some (k, cm, pm) → ¬ quiet → exec .shrink s = .next s) ∧
    (runs → p.shrink = some (k, cm, pm) → quiet → s.saveCores w (s.heldCores w cm.testBit) = some (some s1) →
      s1.trust = s.trust → ∃ t, exec .shrink s = .next t ∧ Served s t own m 0 0 ∧ (t.polder w).shrink = none ∧
        (∀ c, mapGet 63#6 t.clown c = if c < 48 ∧ cm.testBit c = true then 63#6 else mapGet 63#6 s1.clown c) ∧
        ∀ p, mapGet 63#6 t.pcown p = if p < 512 ∧ pm.testBit p = true then 63#6 else mapGet 63#6 s1.pcown p) ∧
    (p.shrink = some (k, cm, pm) → k + 2 ^ 30 ≤ s.clock → ∃ t, exec .suspendTimeout s = .next t ∧ Served s t own m 5 0 ∧
      (t.polder w).shrink = none ∧ ∀ c, c < 48 → cm.testBit c = true → mapGet false t.changing c = false)

/-- A sluice opens over pseudo-channels, passes their dirty rows, and closes with a suspended polder's contents at their
destinations; an abort frees the destinations (21 R454 to R458); IMPORT_KEY draws a key pair and IMPORT takes a
stretch of a sealed stream (R459, R461). What a chunk and a statement hold where the spec leaves them free, and when a row is
dirty, are the model's (log entries 46 and 47), as is where a stream's trailer stands (log entry 62). -/
def Obligations.Sluices : Prop :=
  (∀ (s s1 s2 : State) (own : Bool) (m : Mailbox) (b l : List Byte) (ps : List (Nat × Nat)), Mail s own m 20 →
    let w := m.world.toNat
    let p := s.polder w
    let n := field b 4 2
    let sorted := fun (u : Sluice) (ps : List (Nat × Nat)) => List.zip u.pairs u.ords = orderBy (fun e => e.1.1) ps.zipIdx
    let shape := field b 0 1 ≤ 1 ∧ field b 1 3 = 0 ∧ field b 6 2 = 0 ∧ 1 ≤ n ∧ n ≤ 512 ∧ field b 8 8 % 4 = 0
    (¬ (w < 48 ∧ p.state = .run ∧ p.sluice = none) → Ends s .sluiceOpen own m 1) ∧
    (w < 48 → p.state = .run → p.sluice = none → s.paramBytes own m.arg.toNat 64 = (s1, some b) → s1.trust = s.trust →
      (¬ shape → ∃ t, exec .sluiceOpen s = .next t ∧ Served s t own m 2 0 ∧ t.pldrs = s1.pldrs) ∧
      (shape → field b 0 1 = 0 → s1.paramBytes own (field b 8 8) (4 * n) = (s2, some l) → s2.trust = s.trust →
        s2.pairsOf w false l n = some ps → ∃ t u, exec .sluiceOpen s = .next t ∧ Served s t own m 0 0 ∧
          (t.polder w).sluice = some u ∧ u.stream = false ∧ sorted u ps ∧ u.upto = 0 ∧ u.again = [] ∧ t.mem = s2.mem ∧
          ∀ e ∈ ps, mapGet 63#6 t.pcown e.2 = 62#6) ∧
      (∀ s3 pol, shape → field b 0 1 = 1 → field b 16 8 % 4096 = 0 →
        s1.paramBytes own (field b 8 8) (4 * n) = (s2, some l) → s2.pairsOf w true l n = some ps →
        s2.paramBytes own (field b 48 8) 1040 = (s3, some pol) → s3.trust = s.trust → s.trust.ok = true →
        let met := Config.statementOk s3.fresh (field b 32 8) (field b 40 8) = true ∧ policyMet pol s3.fresh (field b 40 8) = true
        (met → ∃ t u, exec .sluiceOpen s = .next t ∧ Served s t own m 0 0 ∧ (t.polder w).sluice = some u ∧
          u.stream = true ∧ sorted u ps ∧ u.policy = pol ∧ u.chunk = 0 ∧ t.pcown = s3.pcown) ∧
        (¬ met → ∃ t, exec .sluiceOpen s = .next t ∧ Served s t own m 6 0 ∧ t.pldrs = s3.pldrs)))) ∧
  (∀ (s : State) (own : Bool) (m : Mailbox) (u : Sluice) (op : Nat), Mail s own m op →
    let w := m.world.toNat
    let p := s.polder w
    let kept := fun (x : State) => x.trust.mbox0 = s.trust.mbox0 ∧ x.trust.mbox60 = s.trust.mbox60 ∧
      x.trust.order = s.trust.order ∧ x.trust.blocked = s.trust.blocked
    (op = 21 → ¬ (w < 48 ∧ p.state = .run ∧ p.sluice ≠ none) → Ends s .sluicePass own m 1) ∧
    (∀ s1 s2 v n i, op = 21 → w < 48 → p.state = .run → p.sluice = some u → s.pass w u = (s1, v, n, i, none) →
      (s1.setPolder w { s1.polder w with sluice := some v }).paramWrite v.own (v.block + 56) (toBytes 8 n) = s2 →
      s2.trust = s.trust → ∃ t, exec .sluicePass s = .next t ∧ Served s t own m 0 0 ∧ t = { s2 with trust := t.trust }) ∧
    (∀ s1 v n i ln, op = 21 → w < 48 → p.state = .run → p.sluice = some u → s.pass w u = (s1, v, n, i, some ln) →
      kept (s1.integrity (ln * 128)) → ∃ t, exec .sluicePass s = .next t ∧ Served s t own m 1 0) ∧
    (p.sluice = some u → u.stream = false → (∀ ln, (s.lineRead ln).bad = false) → ∃ s1 v n, s.pass w u = (s1, v, n, 0, none) ∧
      s1.mem = s.mem ∧ v = { u with again := [], upto := 2 ^ 20 * u.pairs.length } ∧
      (s.dirty = [] → n = u.again.length + (2 ^ 20 * u.pairs.length - u.upto))) ∧
    (∀ s1 v n i, p.sluice = some u → u.stream = true → s.pass w u = (s1, v, n, i, none) → s1.mem = s.mem ∧
      v.pairs = u.pairs ∧ v.chunk = u.chunk + i ∧ i ≤ u.ringsize ∧ (i = u.ringsize ∨ v.dirtyRows = 0)) ∧
    (op = 22 → ¬ (w < 48 ∧ p.state = .run ∧ p.susp = true ∧ p.sluice ≠ none) → Ends s .sluiceClose own m 1) ∧
    (op = 22 → w < 48 → p.state = .run → p.susp = true → p.sluice = some u → s.inFlight w = true → Ends s .sluiceClose own m 5) ∧
    (∀ s1 v n i ln, op = 22 → w < 48 → p.state = .run → p.susp = true → p.sluice = some u → s.inFlight w = false →
      (s.mergeAll ((s.uatoms.map (·.atom)).filter fun a => u.pairs.any fun e => e.1 == a * 32 / 2 ^ 30) 0 none).pass w u =
        (s1, v, n, i, some ln) → kept (s1.integrity (ln * 128)) →
      ∃ t, exec .sluiceClose s = .next t ∧ Served s t own m 1 0) ∧
    (∀ s1 s2 v n i, op = 22 → w < 48 → p.state = .run → p.susp = true → p.sluice = some u → s.inFlight w = false →
      (s.mergeAll ((s.uatoms.map (·.atom)).filter fun a => u.pairs.any fun e => e.1 == a * 32 / 2 ^ 30) 0 none).pass w u =
        (s1, v, n, i, none) →
      s1.paramWrite v.own (v.block + 56) (toBytes 8 n) = s2 → s2.trust = s.trust →
      let room := v.dirtyRows = 0 ∧ i < v.ringsize ∧ 2 ≤ v.chunk
      (v.own = false → s2.mem = s1.mem) ∧
      (v.stream = true → ¬ room → ∃ t, exec .sluiceClose s = .next t ∧ Served s t own m 5 0 ∧
        PolderTo { s2 with trust := t.trust } t w { s2.polder w with sluice := some v }) ∧
      (v.stream = true → room → ∃ t b, exec .sluiceClose s = .next t ∧ Served s t own m 0 0 ∧
        (t.polder w).sluice = none ∧ t.mem = s2.mem ∧ t.pcown = s2.pcown ∧ b.length = 1088 ∧ field b 0 4 = 3 ∧
        field b 8 8 = v.chunk % 2 ^ 64 ∧ t.outbox = s2.outbox ++
          (List.zip (addrs (2 ^ 39 + (v.ring + 1088 * i) % 2 ^ 39) 1088) b).map fun c => .hostWrite c.1 [c.2]) ∧
      (v.stream = false → memWf s2.mem = true → (∀ e ∈ s2.lines, e.2.read.kind ≠ .uncorrectable) →
        (v.pairs.map Prod.fst).Nodup → (v.pairs.map Prod.snd).Nodup → (∀ e ∈ v.pairs, ∀ f ∈ v.pairs, e.1 ≠ f.2) →
        ∃ t, exec .sluiceClose s = .next t ∧ Served s t own m 0 0 ∧ (t.polder w).sluice = none ∧
          (∀ e ∈ v.pairs, mapGet 63#6 t.pcown e.2 = BitVec.ofNat 6 w ∧ mapGet 63#6 t.pcown e.1 = 63#6) ∧
          ∀ a, (∀ e ∈ v.pairs, a / 2 ^ 30 = e.2 → t.byte a = s2.byte (e.1 * 2 ^ 30 + a % 2 ^ 30)) ∧
            (∀ e ∈ v.pairs, a / 2 ^ 30 = e.1 → t.byte a = 0#8) ∧
            ((∀ e ∈ v.pairs, a / 2 ^ 30 ≠ e.1 ∧ a / 2 ^ 30 ≠ e.2) → t.byte a = s2.byte a))) ∧
    (op = 23 → ¬ (w < 48 ∧ p.sluice ≠ none ∧ p.state ≠ .quarantined) → Ends s .sluiceAbort own m 1) ∧
    (op = 23 → w < 48 → p.state ≠ .quarantined → p.sluice = some u → ∃ t, exec .sluiceAbort s = .next t ∧
      Served s t own m 0 0 ∧ (t.polder w).sluice = none ∧ (u.stream = true → t.pcown = s.pcown ∧ t.mem = s.mem) ∧
      (u.stream = false → ∀ e ∈ u.pairs, mapGet 63#6 t.pcown e.2 = 63#6 ∧ ∀ a, a / 2 ^ 30 = e.2 → t.byte a = 0#8))) ∧
  ∀ (s : State) (own : Bool) (m : Mailbox) (op : Nat), Mail s own m op →
    let w := m.world.toNat
    let p := s.polder w
    (op = 24 → ¬ (w < 48 ∧ p.state = .unlocked) → Ends s .importKey own m 1) ∧
    (op = 24 → w < 48 → p.state = .unlocked → s.trust.ok = false → Ends s .importKey own m 3) ∧
    (op = 24 → w < 48 → p.state = .unlocked → s.trust.ok = true → own = false → ∃ t d, exec .importKey s = .next t ∧
      Served s t own m 0 0 ∧ t.mem = s.mem ∧ t.polder w = { p with importing := some ⟨d, 0, false, false, []⟩ } ∧
      let b := s.statement w
      t.outbox = s.outbox ++ (List.zip (addrs (2 ^ 39 + m.arg.toNat % 2 ^ 39) b.length) b).map fun c => .hostWrite c.1 [c.2]) ∧
    (op = 25 → ¬ (w < 48 ∧ p.state = .unlocked ∧ p.importing ≠ none) → Ends s .importStream own m 1) ∧
    (∀ i, op = 25 → w < 48 → p.state = .unlocked → p.importing = some i →
      (i.done = true → Ends s .importStream own m 1) ∧
      (i.done = false → i.failed = true → Ends s .importStream own m 7) ∧
      (i.done = false → i.failed = false → own = false → ∃ t j code, exec .importStream s = .next t ∧
        (code = 0 ∨ code = 2 ∨ code = 6 ∨ code = 7) ∧ Served s t own m code 0 ∧ (t.polder w).importing = some j ∧
        (t.polder w).imported = j.done))

/-- What the spec says stands at power-on reset: no polder, every cluster, latch and pseudo-channel with no owner, four
L2 ways of die 0 with world 60 and no other (17 R371 to R376), interfaces and ports down (23 R478, 18 R401), the
mailboxes idle, no fault buffer and SEQ 1 for the physical function (20 R485), mission mode (22 R470), the boot in
its first state (23 R473), and nothing running. The values the model chose (memory that nothing has written reads 0,
the fuses and the clock 0: log entries 4, 5 and 6) are no part of it. -/
def Obligations.ResetValues : Prop :=
  (∀ w, State.reset.polder w = Polder.reset ∧ (State.reset.polder w).state = .free) ∧
  (∀ k, mapGet 63#6 State.reset.clown k = 63#6 ∧ mapGet 63#6 State.reset.latch k = 63#6 ∧
    mapGet 63#6 State.reset.pcown k = 63#6 ∧ mapGet 0#8 State.reset.lshare k = 0#8) ∧
  (∀ w d, d < 2 → mapGet 0#64 State.reset.ways (2 * w + d) = if w = 60 ∧ d = 0 then 15#64 else 0#64) ∧
  (∀ p, (State.reset.phy p).ready = false ∧ (State.reset.phy p).en = false ∧ (State.reset.phy p).repair = 0#32 ∧
    ∀ i, mapGet 32#6 (State.reset.phy p).rdly i = 32#6 ∧ mapGet 32#6 (State.reset.phy p).wdly i = 32#6) ∧
  (∀ k, (State.reset.port k).stat = 0#2 ∧ (State.reset.port k).en = false) ∧
  (State.reset.trust.mbox0.go = false ∧ State.reset.trust.mbox60.go = false ∧ State.reset.trust.order = [] ∧
    State.reset.trust.pfbsize = 0#64 ∧ State.reset.trust.pfbhead = 0#64 ∧ State.reset.trust.pfseq = 1#32 ∧
    State.reset.trust.smstat = 0#4 ∧ State.reset.trust.mode = 0#2 ∧ State.reset.trust.boot = 0#4 ∧
    State.reset.trust.vfs = false) ∧
  State.reset.groups = [] ∧ State.reset.teams = [] ∧ State.reset.grids = [] ∧ State.reset.ops = [] ∧
  State.reset.blocks = [] ∧ State.reset.comms = [] ∧ State.reset.tlb = [] ∧ State.reset.l1 = []

/-- The invariant of memory holds at reset. That memory is a list of cells in one canonical form is the model's own way of
holding it. -/
def Obligations.InvariantAtReset : Prop :=
  Inv State.reset

/-- From every state whose memory is in canonical form (addresses strictly rising, no cell
equal to what an unlisted address reads as), a step that answers a next state leaves it so, whichever instruction or
event it runs. The form is the model's own. -/
def Obligations.EveryStepKeepsMemory : Prop :=
  ∀ s t : State, Inv s → step s = .next t → Inv t

/-- No bit of an encoding is dropped, and each word has one meaning (02 R43 to R46, R64 to R71): the words of a
well-formed instruction decode to it in its class, with every operand at every value; and what decodes is well formed
and encodes to the words it was read from. -/
def Obligations.DecodeEncode : Prop :=
  (∀ (i : Instr) (c : Nat), classOf i = some c → WellFormed i →
    (∃ w, encode i = [w] ∧ ∀ next, decode c w next = .ok i 1) ∨
    ∃ w v, encode i = [w, v] ∧ decode c w (some v) = .ok i 2 ∧ decode c w none = .illegal 4) ∧
  ∀ (i : Instr) (c n : Nat) (w : Word) (next : Option Word), decode c w next = .ok i n →
    classOf i = some c ∧ WellFormed i ∧ encode i = (w :: next.toList).take n

/-- Words of the spec's worked examples and tables, each written out from its fields, decode to the instructions they
stand for, one or more of every class (02 R43 to R46, R64 to R69, the worked words of 02 and 05 to 13). -/
def Obligations.DecodedWords : Prop :=
  decode 0 0x00013298#32 none = .ok (.slui 0x13#20 5#5) 1 ∧
  decode 0 0x1FF85290#32 none = .ok (.saddi 0xFFC#12 5#5 5#5) 1 ∧
  decode 0 0x00002319#32 none = .ok (.sapc 2#20 6#5) 1 ∧
  decode 1 0x20220481#32 none = .ok (.vaddB32 2#4 1#7 8#7 9#7) 1 ∧
  decode 1 0x70A10562#32 (some 6#32) = .ok (.vfmaF32 7#4 5#7 4#7 10#7 0#1 0#1 0#1 0#1 0#1 0#1 0#3 6#7) 2 ∧
  decode 1 0x712288E0#32 (some 0x402#32) = .ok (.vcmp 7#4 9#7 10#7 2#3 1#3 0#1 0#1 1#3 0#3 2#4) 2 ∧
  decode 2 0x00000302#32 none = .ok (.tzero 6#6 0#1) 1 ∧
  decode 2 0x90B00160#32 (some 0x344#32) = .ok (.mma 1#1 0#1 8#5 11#5 0#7 2#6 0#1 1#3 1#1 4#4 4#4) 2 ∧
  decode 3 0x7840420A#32 none = .ok (.ldB32 7#4 2#2 2#5 1#7 4#7 0#1) 1 ∧
  decode 3 0x7860428B#32 none = .ok (.ldB32 7#4 2#2 3#5 1#7 5#7 1#1) 1 ∧
  decode 3 0x788041E0#32 (some 0x40#32) = .ok (.atomB32 7#4 2#2 4#5 1#7 3#7 0#1 0#16 0#4 2#7) 2 ∧
  decode 4 0x000C4102#32 none = .ok (.cpyLd 0#1 0#1 0#2 6#5 4#5 2#5 0#1) 1 ∧
  decode 4 0x000C5212#32 none = .ok (.bkExpsum 0#1 0#2 6#5 5#5 4#5 0#1) 1 ∧
  decode 5 0xFFFF9B81#32 none = .ok (.br 0x1FFFF3#21 7#4) 1 ∧
  decode 5 0x0310038C#32 none = .ok (.swait 6#5 4#5) 1 ∧
  decode 6 0x4000F382#32 none = .ok (.cld 2#3 0#12 15#5 7#5 0#1) 1 ∧
  decode 7 0x0000458A#32 none = .ok (.baddc 0#2 2#3 1#3 3#3) 1 ∧
  decode 7 0x0040038E#32 none = .ok (.bloop 8#13 7#3) 1

/-- A step runs the decoded instruction: where the schedule's next entry is a group's word, that group runs, and the word
at its place in its clause decodes to `j`, the step is `exec j` with that entry taken and the group current (02 R41,
R45, R70); a word that does not decode, or a waiting instruction that does not stand first, raises ILLEGAL_OP; a
block's next row word and an event of the schedule run likewise, and a group between clauses issues its next one.
A debug wipe in progress (22 R471) and the events of failed MACs (20 R431) come before. That a schedule is part of the state
is the model's choice (log entry 2); that a group being stopped keeps a note of the word it tried is too (log entry 47). -/
def Obligations.StepRunsDecoded : Prop :=
  ∀ (s : State) (ms : List Move), s.trust.wiping = false → s.alarms = [] →
    (∀ gid g i, s.moves = .word (.group gid) :: ms → s.group gid = some g → g.held = none → g.swapped = false →
      g.issue = some i →
      (∀ j n, decode i.cls i.word (i.words[i.idx + 1]?) = .ok j n →
        (instrWaits j = false ∨ i.idx = 0 →
          step s = exec j { ({ s with moves := ms } : State).noteTry g i with cur := .group gid }) ∧
        (instrWaits j = true → i.idx ≠ 0 →
          step s = .next (({ s with moves := ms } : State).raise gid i.len (i.illegal detailOperand)))) ∧
      ∀ d, decode i.cls i.word (i.words[i.idx + 1]?) = .illegal d →
        step s = .next (({ s with moves := ms } : State).raise gid i.len (i.illegal d))) ∧
    (∀ gid g, s.moves = .word (.group gid) :: ms → s.group gid = some g → g.held = none → g.swapped = false →
      g.issue = none → step s = exec (.clauseIssue gid) { s with moves := ms, cur := .none }) ∧
    (∀ id b r j n, s.moves = .word (.block id) :: ms → s.block id = some b → b.row = some r → r.pos < r.stop →
      decode 7 (r.words.getD r.pos 0#32) none = .ok j n →
      step s = exec j { s with moves := ms, cur := .block id }) ∧
    (∀ j, s.moves = .event j :: ms → step s = exec j { s with moves := ms, cur := .none }) ∧
    ∀ g i, (s.stops g = false → s.noteTry g i = s) ∧
      (s.stops g = true → s.noteTry g i = s.modGroup g.gid fun g => { g with tried := some (i.hdr, i.idx) })
end

