-- ==== Sys2Proof/Laws/Map.lean ====
section
/-!
SUPPORT. Sys2Proof/Laws/Map.lean: reading sparse data after a change, and the canonical form kept.
-/
namespace Sys2Proof.Machine

variable {α : Type}

/-- Reading after an insertion. -/
@[simp] theorem mapGet_mapIns (d : α) (m : List (Nat × α)) (k : Nat) (v : α) (j : Nat) :
    mapGet d (mapIns m k v) j = if j = k then v else mapGet d m j := by
  induction m with
  | nil => simp [mapIns, mapGet]
  | cons e m ih =>
    obtain ⟨i, u⟩ := e
    simp only [mapIns]
    split
    · next h => subst h; simp only [mapGet]; split <;> simp_all
    · split
      · simp [mapGet]
      · simp only [mapGet, ih]; split <;> split <;> simp_all

/-- Reading after a deletion. -/
@[simp] theorem mapGet_mapDel (d : α) (m : List (Nat × α)) (k j : Nat) :
    mapGet d (mapDel m k) j = if j = k then d else mapGet d m j := by
  induction m with
  | nil => simp [mapDel, mapGet]
  | cons e m ih =>
    obtain ⟨i, u⟩ := e
    simp only [mapDel]
    split
    · next h => subst h; simp only [mapGet, ih]; split <;> simp_all
    · simp only [mapGet, ih]; split <;> split <;> simp_all

/-- Reading after a write. -/
@[simp] theorem mapGet_mapSet [DecidableEq α] (d : α) (m : List (Nat × α)) (k : Nat) (v : α) (j : Nat) :
    mapGet d (mapSet d m k v) j = if j = k then v else mapGet d m j := by
  unfold mapSet
  split
  · next h => subst h; simp
  · simp

/-- Reading after every entry of a test's keys is changed. -/
theorem mapGet_map (d : α) (m : List (Nat × α)) (p : Nat → Bool) (f : Nat → α → α) (j : Nat)
    (h : p j = true → f j d = d) :
    mapGet d (m.map fun e => if p e.1 then (e.1, f e.1 e.2) else e) j =
      if p j then f j (mapGet d m j) else mapGet d m j := by
  induction m with
  | nil => simp only [List.map_nil, mapGet]; split <;> simp_all
  | cons e m ih =>
    obtain ⟨i, u⟩ := e
    simp only [List.map_cons, mapGet]
    by_cases hp : p i <;> simp only [hp, ↓reduceIte, Bool.false_eq_true] <;>
      by_cases hj : j = i <;> simp_all [mapGet]

/-- A tighter lower bound is a bound. -/
theorem mapCanonFrom_mono [DecidableEq α] (d : α) (m : List (Nat × α)) {a b : Nat} (h : a ≤ b)
    (hm : mapCanonFrom d b m = true) : mapCanonFrom d a m = true := by
  cases m with
  | nil => rfl
  | cons e m =>
    obtain ⟨i, u⟩ := e
    simp only [mapCanonFrom, Bool.and_eq_true, decide_eq_true_eq] at *
    exact ⟨⟨by omega, hm.1.2⟩, hm.2⟩

/-- A deletion keeps the canonical form. -/
theorem mapDel_canonFrom [DecidableEq α] (d : α) (m : List (Nat × α)) (k a : Nat)
    (hm : mapCanonFrom d a m = true) : mapCanonFrom d a (mapDel m k) = true := by
  induction m generalizing a with
  | nil => rfl
  | cons e m ih =>
    obtain ⟨i, u⟩ := e
    simp only [mapCanonFrom, Bool.and_eq_true, decide_eq_true_eq] at hm
    simp only [mapDel]
    split
    · exact mapCanonFrom_mono d _ (by omega) (ih _ hm.2)
    · simp only [mapCanonFrom, Bool.and_eq_true, decide_eq_true_eq]
      exact ⟨hm.1, ih _ hm.2⟩

/-- An insertion of a value other than the unlisted one keeps the canonical form. -/
theorem mapIns_canonFrom [DecidableEq α] (d : α) (m : List (Nat × α)) (k a : Nat) (v : α) (hv : v ≠ d) (ha : a ≤ k)
    (hm : mapCanonFrom d a m = true) : mapCanonFrom d a (mapIns m k v) = true := by
  induction m generalizing a with
  | nil => simp [mapIns, mapCanonFrom, hv, ha]
  | cons e m ih =>
    obtain ⟨i, u⟩ := e
    simp only [mapCanonFrom, Bool.and_eq_true, decide_eq_true_eq] at hm
    simp only [mapIns]
    split
    · next h => subst h; simp only [mapCanonFrom, Bool.and_eq_true, decide_eq_true_eq]; exact ⟨⟨ha, hv⟩, hm.2⟩
    · split
      · simp only [mapCanonFrom, Bool.and_eq_true, decide_eq_true_eq]
        exact ⟨⟨ha, hv⟩, ⟨by omega, hm.1.2⟩, hm.2⟩
      · simp only [mapCanonFrom, Bool.and_eq_true, decide_eq_true_eq]
        exact ⟨hm.1, ih _ (by omega) hm.2⟩

/-- A write keeps the canonical form. -/
theorem mapSet_canon [DecidableEq α] (d : α) (m : List (Nat × α)) (k : Nat) (v : α)
    (hm : mapCanon d m = true) : mapCanon d (mapSet d m k v) = true := by
  unfold mapSet mapCanon at *
  split
  · exact mapDel_canonFrom d m k 0 hm
  · next h => exact mapIns_canonFrom d m k 0 v h (Nat.zero_le k) hm

/-- A selection of entries keeps the canonical form. -/
theorem filter_canonFrom [DecidableEq α] (d : α) (m : List (Nat × α)) (f : Nat × α → Bool) (a : Nat)
    (hm : mapCanonFrom d a m = true) : mapCanonFrom d a (m.filter f) = true := by
  induction m generalizing a with
  | nil => rfl
  | cons e m ih =>
    obtain ⟨i, u⟩ := e
    simp only [mapCanonFrom, Bool.and_eq_true, decide_eq_true_eq] at hm
    rw [List.filter_cons]
    split
    · simp only [mapCanonFrom, Bool.and_eq_true, decide_eq_true_eq]
      exact ⟨hm.1, ih _ hm.2⟩
    · exact mapCanonFrom_mono d _ (by omega) (ih _ hm.2)

theorem filter_canon [DecidableEq α] (d : α) (m : List (Nat × α)) (f : Nat × α → Bool)
    (hm : mapCanon d m = true) : mapCanon d (m.filter f) = true := filter_canonFrom d m f 0 hm

/-- The first entry a test picks, after the entries another test picks are changed. -/
theorem findBy_updBy (l : List α) (p q : α → Bool) (f : α → α)
    (h : ∀ a, q a = true → p (f a) = p a) :
    findBy p (updBy q f l) = (findBy p l).map fun a => if q a then f a else a := by
  induction l with
  | nil => rfl
  | cons a l ih =>
    simp only [updBy, findBy]
    by_cases hq : q a <;> simp only [hq, ↓reduceIte, Bool.false_eq_true]
    · rw [h a hq]
      by_cases hp : p a <;> simp [hp, hq, ih]
    · by_cases hp : p a <;> simp [hp, hq, ih]

/-- What is found passes the test. -/
theorem findBy_some {l : List α} {p : α → Bool} {a : α} (h : findBy p l = some a) : p a = true := by
  induction l with
  | nil => simp [findBy] at h
  | cons b l ih =>
    simp only [findBy] at h
    split at h
    · next hb => simp only [Option.some.injEq] at h; exact h ▸ hb
    · exact ih h

end Sys2Proof.Machine
end

