-- ==== Sys2Proof/Laws/State.lean ====
section
/-!
SUPPORT. Sys2Proof/Laws/State.lean: what each update of the machine and of a group leaves in each field.
-/
namespace Sys2Proof.Machine

/-! ## State.modGroup -/

@[simp] theorem State.modGroup_mem (s : State) (gid : Nat) (f : Group → Group) : (s.modGroup gid f).mem = s.mem := rfl
@[simp] theorem State.modGroup_lines (s : State) (gid : Nat) (f : Group → Group) : (s.modGroup gid f).lines = s.lines := rfl
@[simp] theorem State.modGroup_lkeys (s : State) (gid : Nat) (f : Group → Group) : (s.modGroup gid f).lkeys = s.lkeys := rfl
@[simp] theorem State.modGroup_pckeys (s : State) (gid : Nat) (f : Group → Group) : (s.modGroup gid f).pckeys = s.pckeys := rfl
@[simp] theorem State.modGroup_dirty (s : State) (gid : Nat) (f : Group → Group) : (s.modGroup gid f).dirty = s.dirty := rfl
@[simp] theorem State.modGroup_stamps (s : State) (gid : Nat) (f : Group → Group) : (s.modGroup gid f).stamps = s.stamps := rfl
@[simp] theorem State.modGroup_l1 (s : State) (gid : Nat) (f : Group → Group) : (s.modGroup gid f).l1 = s.l1 := rfl
@[simp] theorem State.modGroup_ro (s : State) (gid : Nat) (f : Group → Group) : (s.modGroup gid f).ro = s.ro := rfl
@[simp] theorem State.modGroup_views (s : State) (gid : Nat) (f : Group → Group) : (s.modGroup gid f).views = s.views := rfl
@[simp] theorem State.modGroup_uatoms (s : State) (gid : Nat) (f : Group → Group) : (s.modGroup gid f).uatoms = s.uatoms := rfl
@[simp] theorem State.modGroup_vars (s : State) (gid : Nat) (f : Group → Group) : (s.modGroup gid f).vars = s.vars := rfl
@[simp] theorem State.modGroup_ranges (s : State) (gid : Nat) (f : Group → Group) : (s.modGroup gid f).ranges = s.ranges := rfl
@[simp] theorem State.modGroup_tlb (s : State) (gid : Nat) (f : Group → Group) : (s.modGroup gid f).tlb = s.tlb := rfl
@[simp] theorem State.modGroup_teams (s : State) (gid : Nat) (f : Group → Group) : (s.modGroup gid f).teams = s.teams := rfl
@[simp] theorem State.modGroup_queues (s : State) (gid : Nat) (f : Group → Group) : (s.modGroup gid f).queues = s.queues := rfl
@[simp] theorem State.modGroup_ops (s : State) (gid : Nat) (f : Group → Group) : (s.modGroup gid f).ops = s.ops := rfl
@[simp] theorem State.modGroup_blocks (s : State) (gid : Nat) (f : Group → Group) : (s.modGroup gid f).blocks = s.blocks := rfl
@[simp] theorem State.modGroup_tasks (s : State) (gid : Nat) (f : Group → Group) : (s.modGroup gid f).tasks = s.tasks := rfl
@[simp] theorem State.modGroup_walks (s : State) (gid : Nat) (f : Group → Group) : (s.modGroup gid f).walks = s.walks := rfl
@[simp] theorem State.modGroup_tags (s : State) (gid : Nat) (f : Group → Group) : (s.modGroup gid f).tags = s.tags := rfl
@[simp] theorem State.modGroup_grids (s : State) (gid : Nat) (f : Group → Group) : (s.modGroup gid f).grids = s.grids := rfl
@[simp] theorem State.modGroup_graphs (s : State) (gid : Nat) (f : Group → Group) : (s.modGroup gid f).graphs = s.graphs := rfl
@[simp] theorem State.modGroup_launches (s : State) (gid : Nat) (f : Group → Group) : (s.modGroup gid f).launches = s.launches := rfl
@[simp] theorem State.modGroup_pldrs (s : State) (gid : Nat) (f : Group → Group) : (s.modGroup gid f).pldrs = s.pldrs := rfl
@[simp] theorem State.modGroup_trust (s : State) (gid : Nat) (f : Group → Group) : (s.modGroup gid f).trust = s.trust := rfl
@[simp] theorem State.modGroup_clown (s : State) (gid : Nat) (f : Group → Group) : (s.modGroup gid f).clown = s.clown := rfl
@[simp] theorem State.modGroup_latch (s : State) (gid : Nat) (f : Group → Group) : (s.modGroup gid f).latch = s.latch := rfl
@[simp] theorem State.modGroup_changing (s : State) (gid : Nat) (f : Group → Group) : (s.modGroup gid f).changing = s.changing := rfl
@[simp] theorem State.modGroup_service (s : State) (gid : Nat) (f : Group → Group) : (s.modGroup gid f).service = s.service := rfl
@[simp] theorem State.modGroup_pcown (s : State) (gid : Nat) (f : Group → Group) : (s.modGroup gid f).pcown = s.pcown := rfl
@[simp] theorem State.modGroup_ways (s : State) (gid : Nat) (f : Group → Group) : (s.modGroup gid f).ways = s.ways := rfl
@[simp] theorem State.modGroup_lshare (s : State) (gid : Nat) (f : Group → Group) : (s.modGroup gid f).lshare = s.lshare := rfl
@[simp] theorem State.modGroup_phys (s : State) (gid : Nat) (f : Group → Group) : (s.modGroup gid f).phys = s.phys := rfl
@[simp] theorem State.modGroup_ports (s : State) (gid : Nat) (f : Group → Group) : (s.modGroup gid f).ports = s.ports := rfl
@[simp] theorem State.modGroup_devid (s : State) (gid : Nat) (f : Group → Group) : (s.modGroup gid f).devid = s.devid := rfl
@[simp] theorem State.modGroup_routes (s : State) (gid : Nat) (f : Group → Group) : (s.modGroup gid f).routes = s.routes := rfl
@[simp] theorem State.modGroup_comms (s : State) (gid : Nat) (f : Group → Group) : (s.modGroup gid f).comms = s.comms := rfl
@[simp] theorem State.modGroup_hworld (s : State) (gid : Nat) (f : Group → Group) : (s.modGroup gid f).hworld = s.hworld := rfl
@[simp] theorem State.modGroup_hclock (s : State) (gid : Nat) (f : Group → Group) : (s.modGroup gid f).hclock = s.hclock := rfl
@[simp] theorem State.modGroup_hres (s : State) (gid : Nat) (f : Group → Group) : (s.modGroup gid f).hres = s.hres := rfl
@[simp] theorem State.modGroup_cvmarks (s : State) (gid : Nat) (f : Group → Group) : (s.modGroup gid f).cvmarks = s.cvmarks := rfl
@[simp] theorem State.modGroup_rtimes (s : State) (gid : Nat) (f : Group → Group) : (s.modGroup gid f).rtimes = s.rtimes := rfl
@[simp] theorem State.modGroup_alarms (s : State) (gid : Nat) (f : Group → Group) : (s.modGroup gid f).alarms = s.alarms := rfl
@[simp] theorem State.modGroup_cxl (s : State) (gid : Nat) (f : Group → Group) : (s.modGroup gid f).cxl = s.cxl := rfl
@[simp] theorem State.modGroup_throttled (s : State) (gid : Nat) (f : Group → Group) : (s.modGroup gid f).throttled = s.throttled := rfl
@[simp] theorem State.modGroup_clock (s : State) (gid : Nat) (f : Group → Group) : (s.modGroup gid f).clock = s.clock := rfl
@[simp] theorem State.modGroup_fresh (s : State) (gid : Nat) (f : Group → Group) : (s.modGroup gid f).fresh = s.fresh := rfl
@[simp] theorem State.modGroup_ids (s : State) (gid : Nat) (f : Group → Group) : (s.modGroup gid f).ids = s.ids := rfl
@[simp] theorem State.modGroup_cur (s : State) (gid : Nat) (f : Group → Group) : (s.modGroup gid f).cur = s.cur := rfl
@[simp] theorem State.modGroup_moves (s : State) (gid : Nat) (f : Group → Group) : (s.modGroup gid f).moves = s.moves := rfl
@[simp] theorem State.modGroup_turn (s : State) (gid : Nat) (f : Group → Group) : (s.modGroup gid f).turn = s.turn := rfl
@[simp] theorem State.modGroup_outbox (s : State) (gid : Nat) (f : Group → Group) : (s.modGroup gid f).outbox = s.outbox := rfl

/-! ## State.modTeam -/

@[simp] theorem State.modTeam_mem (s : State) (key : Nat) (f : Team → Team) : (s.modTeam key f).mem = s.mem := rfl
@[simp] theorem State.modTeam_lines (s : State) (key : Nat) (f : Team → Team) : (s.modTeam key f).lines = s.lines := rfl
@[simp] theorem State.modTeam_lkeys (s : State) (key : Nat) (f : Team → Team) : (s.modTeam key f).lkeys = s.lkeys := rfl
@[simp] theorem State.modTeam_pckeys (s : State) (key : Nat) (f : Team → Team) : (s.modTeam key f).pckeys = s.pckeys := rfl
@[simp] theorem State.modTeam_dirty (s : State) (key : Nat) (f : Team → Team) : (s.modTeam key f).dirty = s.dirty := rfl
@[simp] theorem State.modTeam_stamps (s : State) (key : Nat) (f : Team → Team) : (s.modTeam key f).stamps = s.stamps := rfl
@[simp] theorem State.modTeam_l1 (s : State) (key : Nat) (f : Team → Team) : (s.modTeam key f).l1 = s.l1 := rfl
@[simp] theorem State.modTeam_ro (s : State) (key : Nat) (f : Team → Team) : (s.modTeam key f).ro = s.ro := rfl
@[simp] theorem State.modTeam_views (s : State) (key : Nat) (f : Team → Team) : (s.modTeam key f).views = s.views := rfl
@[simp] theorem State.modTeam_uatoms (s : State) (key : Nat) (f : Team → Team) : (s.modTeam key f).uatoms = s.uatoms := rfl
@[simp] theorem State.modTeam_vars (s : State) (key : Nat) (f : Team → Team) : (s.modTeam key f).vars = s.vars := rfl
@[simp] theorem State.modTeam_ranges (s : State) (key : Nat) (f : Team → Team) : (s.modTeam key f).ranges = s.ranges := rfl
@[simp] theorem State.modTeam_tlb (s : State) (key : Nat) (f : Team → Team) : (s.modTeam key f).tlb = s.tlb := rfl
@[simp] theorem State.modTeam_groups (s : State) (key : Nat) (f : Team → Team) : (s.modTeam key f).groups = s.groups := rfl
@[simp] theorem State.modTeam_queues (s : State) (key : Nat) (f : Team → Team) : (s.modTeam key f).queues = s.queues := rfl
@[simp] theorem State.modTeam_ops (s : State) (key : Nat) (f : Team → Team) : (s.modTeam key f).ops = s.ops := rfl
@[simp] theorem State.modTeam_blocks (s : State) (key : Nat) (f : Team → Team) : (s.modTeam key f).blocks = s.blocks := rfl
@[simp] theorem State.modTeam_tasks (s : State) (key : Nat) (f : Team → Team) : (s.modTeam key f).tasks = s.tasks := rfl
@[simp] theorem State.modTeam_walks (s : State) (key : Nat) (f : Team → Team) : (s.modTeam key f).walks = s.walks := rfl
@[simp] theorem State.modTeam_tags (s : State) (key : Nat) (f : Team → Team) : (s.modTeam key f).tags = s.tags := rfl
@[simp] theorem State.modTeam_grids (s : State) (key : Nat) (f : Team → Team) : (s.modTeam key f).grids = s.grids := rfl
@[simp] theorem State.modTeam_graphs (s : State) (key : Nat) (f : Team → Team) : (s.modTeam key f).graphs = s.graphs := rfl
@[simp] theorem State.modTeam_launches (s : State) (key : Nat) (f : Team → Team) : (s.modTeam key f).launches = s.launches := rfl
@[simp] theorem State.modTeam_pldrs (s : State) (key : Nat) (f : Team → Team) : (s.modTeam key f).pldrs = s.pldrs := rfl
@[simp] theorem State.modTeam_trust (s : State) (key : Nat) (f : Team → Team) : (s.modTeam key f).trust = s.trust := rfl
@[simp] theorem State.modTeam_clown (s : State) (key : Nat) (f : Team → Team) : (s.modTeam key f).clown = s.clown := rfl
@[simp] theorem State.modTeam_latch (s : State) (key : Nat) (f : Team → Team) : (s.modTeam key f).latch = s.latch := rfl
@[simp] theorem State.modTeam_changing (s : State) (key : Nat) (f : Team → Team) : (s.modTeam key f).changing = s.changing := rfl
@[simp] theorem State.modTeam_service (s : State) (key : Nat) (f : Team → Team) : (s.modTeam key f).service = s.service := rfl
@[simp] theorem State.modTeam_pcown (s : State) (key : Nat) (f : Team → Team) : (s.modTeam key f).pcown = s.pcown := rfl
@[simp] theorem State.modTeam_ways (s : State) (key : Nat) (f : Team → Team) : (s.modTeam key f).ways = s.ways := rfl
@[simp] theorem State.modTeam_lshare (s : State) (key : Nat) (f : Team → Team) : (s.modTeam key f).lshare = s.lshare := rfl
@[simp] theorem State.modTeam_phys (s : State) (key : Nat) (f : Team → Team) : (s.modTeam key f).phys = s.phys := rfl
@[simp] theorem State.modTeam_ports (s : State) (key : Nat) (f : Team → Team) : (s.modTeam key f).ports = s.ports := rfl
@[simp] theorem State.modTeam_devid (s : State) (key : Nat) (f : Team → Team) : (s.modTeam key f).devid = s.devid := rfl
@[simp] theorem State.modTeam_routes (s : State) (key : Nat) (f : Team → Team) : (s.modTeam key f).routes = s.routes := rfl
@[simp] theorem State.modTeam_comms (s : State) (key : Nat) (f : Team → Team) : (s.modTeam key f).comms = s.comms := rfl
@[simp] theorem State.modTeam_hworld (s : State) (key : Nat) (f : Team → Team) : (s.modTeam key f).hworld = s.hworld := rfl
@[simp] theorem State.modTeam_hclock (s : State) (key : Nat) (f : Team → Team) : (s.modTeam key f).hclock = s.hclock := rfl
@[simp] theorem State.modTeam_hres (s : State) (key : Nat) (f : Team → Team) : (s.modTeam key f).hres = s.hres := rfl
@[simp] theorem State.modTeam_cvmarks (s : State) (key : Nat) (f : Team → Team) : (s.modTeam key f).cvmarks = s.cvmarks := rfl
@[simp] theorem State.modTeam_rtimes (s : State) (key : Nat) (f : Team → Team) : (s.modTeam key f).rtimes = s.rtimes := rfl
@[simp] theorem State.modTeam_alarms (s : State) (key : Nat) (f : Team → Team) : (s.modTeam key f).alarms = s.alarms := rfl
@[simp] theorem State.modTeam_cxl (s : State) (key : Nat) (f : Team → Team) : (s.modTeam key f).cxl = s.cxl := rfl
@[simp] theorem State.modTeam_throttled (s : State) (key : Nat) (f : Team → Team) : (s.modTeam key f).throttled = s.throttled := rfl
@[simp] theorem State.modTeam_clock (s : State) (key : Nat) (f : Team → Team) : (s.modTeam key f).clock = s.clock := rfl
@[simp] theorem State.modTeam_fresh (s : State) (key : Nat) (f : Team → Team) : (s.modTeam key f).fresh = s.fresh := rfl
@[simp] theorem State.modTeam_ids (s : State) (key : Nat) (f : Team → Team) : (s.modTeam key f).ids = s.ids := rfl
@[simp] theorem State.modTeam_cur (s : State) (key : Nat) (f : Team → Team) : (s.modTeam key f).cur = s.cur := rfl
@[simp] theorem State.modTeam_moves (s : State) (key : Nat) (f : Team → Team) : (s.modTeam key f).moves = s.moves := rfl
@[simp] theorem State.modTeam_turn (s : State) (key : Nat) (f : Team → Team) : (s.modTeam key f).turn = s.turn := rfl
@[simp] theorem State.modTeam_outbox (s : State) (key : Nat) (f : Team → Team) : (s.modTeam key f).outbox = s.outbox := rfl

/-! ## State.modGrid -/

@[simp] theorem State.modGrid_mem (s : State) (key : Nat) (f : Grid → Grid) : (s.modGrid key f).mem = s.mem := rfl
@[simp] theorem State.modGrid_lines (s : State) (key : Nat) (f : Grid → Grid) : (s.modGrid key f).lines = s.lines := rfl
@[simp] theorem State.modGrid_lkeys (s : State) (key : Nat) (f : Grid → Grid) : (s.modGrid key f).lkeys = s.lkeys := rfl
@[simp] theorem State.modGrid_pckeys (s : State) (key : Nat) (f : Grid → Grid) : (s.modGrid key f).pckeys = s.pckeys := rfl
@[simp] theorem State.modGrid_dirty (s : State) (key : Nat) (f : Grid → Grid) : (s.modGrid key f).dirty = s.dirty := rfl
@[simp] theorem State.modGrid_stamps (s : State) (key : Nat) (f : Grid → Grid) : (s.modGrid key f).stamps = s.stamps := rfl
@[simp] theorem State.modGrid_l1 (s : State) (key : Nat) (f : Grid → Grid) : (s.modGrid key f).l1 = s.l1 := rfl
@[simp] theorem State.modGrid_ro (s : State) (key : Nat) (f : Grid → Grid) : (s.modGrid key f).ro = s.ro := rfl
@[simp] theorem State.modGrid_views (s : State) (key : Nat) (f : Grid → Grid) : (s.modGrid key f).views = s.views := rfl
@[simp] theorem State.modGrid_uatoms (s : State) (key : Nat) (f : Grid → Grid) : (s.modGrid key f).uatoms = s.uatoms := rfl
@[simp] theorem State.modGrid_vars (s : State) (key : Nat) (f : Grid → Grid) : (s.modGrid key f).vars = s.vars := rfl
@[simp] theorem State.modGrid_ranges (s : State) (key : Nat) (f : Grid → Grid) : (s.modGrid key f).ranges = s.ranges := rfl
@[simp] theorem State.modGrid_tlb (s : State) (key : Nat) (f : Grid → Grid) : (s.modGrid key f).tlb = s.tlb := rfl
@[simp] theorem State.modGrid_groups (s : State) (key : Nat) (f : Grid → Grid) : (s.modGrid key f).groups = s.groups := rfl
@[simp] theorem State.modGrid_teams (s : State) (key : Nat) (f : Grid → Grid) : (s.modGrid key f).teams = s.teams := rfl
@[simp] theorem State.modGrid_queues (s : State) (key : Nat) (f : Grid → Grid) : (s.modGrid key f).queues = s.queues := rfl
@[simp] theorem State.modGrid_ops (s : State) (key : Nat) (f : Grid → Grid) : (s.modGrid key f).ops = s.ops := rfl
@[simp] theorem State.modGrid_blocks (s : State) (key : Nat) (f : Grid → Grid) : (s.modGrid key f).blocks = s.blocks := rfl
@[simp] theorem State.modGrid_tasks (s : State) (key : Nat) (f : Grid → Grid) : (s.modGrid key f).tasks = s.tasks := rfl
@[simp] theorem State.modGrid_walks (s : State) (key : Nat) (f : Grid → Grid) : (s.modGrid key f).walks = s.walks := rfl
@[simp] theorem State.modGrid_tags (s : State) (key : Nat) (f : Grid → Grid) : (s.modGrid key f).tags = s.tags := rfl
@[simp] theorem State.modGrid_graphs (s : State) (key : Nat) (f : Grid → Grid) : (s.modGrid key f).graphs = s.graphs := rfl
@[simp] theorem State.modGrid_launches (s : State) (key : Nat) (f : Grid → Grid) : (s.modGrid key f).launches = s.launches := rfl
@[simp] theorem State.modGrid_pldrs (s : State) (key : Nat) (f : Grid → Grid) : (s.modGrid key f).pldrs = s.pldrs := rfl
@[simp] theorem State.modGrid_trust (s : State) (key : Nat) (f : Grid → Grid) : (s.modGrid key f).trust = s.trust := rfl
@[simp] theorem State.modGrid_clown (s : State) (key : Nat) (f : Grid → Grid) : (s.modGrid key f).clown = s.clown := rfl
@[simp] theorem State.modGrid_latch (s : State) (key : Nat) (f : Grid → Grid) : (s.modGrid key f).latch = s.latch := rfl
@[simp] theorem State.modGrid_changing (s : State) (key : Nat) (f : Grid → Grid) : (s.modGrid key f).changing = s.changing := rfl
@[simp] theorem State.modGrid_service (s : State) (key : Nat) (f : Grid → Grid) : (s.modGrid key f).service = s.service := rfl
@[simp] theorem State.modGrid_pcown (s : State) (key : Nat) (f : Grid → Grid) : (s.modGrid key f).pcown = s.pcown := rfl
@[simp] theorem State.modGrid_ways (s : State) (key : Nat) (f : Grid → Grid) : (s.modGrid key f).ways = s.ways := rfl
@[simp] theorem State.modGrid_lshare (s : State) (key : Nat) (f : Grid → Grid) : (s.modGrid key f).lshare = s.lshare := rfl
@[simp] theorem State.modGrid_phys (s : State) (key : Nat) (f : Grid → Grid) : (s.modGrid key f).phys = s.phys := rfl
@[simp] theorem State.modGrid_ports (s : State) (key : Nat) (f : Grid → Grid) : (s.modGrid key f).ports = s.ports := rfl
@[simp] theorem State.modGrid_devid (s : State) (key : Nat) (f : Grid → Grid) : (s.modGrid key f).devid = s.devid := rfl
@[simp] theorem State.modGrid_routes (s : State) (key : Nat) (f : Grid → Grid) : (s.modGrid key f).routes = s.routes := rfl
@[simp] theorem State.modGrid_comms (s : State) (key : Nat) (f : Grid → Grid) : (s.modGrid key f).comms = s.comms := rfl
@[simp] theorem State.modGrid_hworld (s : State) (key : Nat) (f : Grid → Grid) : (s.modGrid key f).hworld = s.hworld := rfl
@[simp] theorem State.modGrid_hclock (s : State) (key : Nat) (f : Grid → Grid) : (s.modGrid key f).hclock = s.hclock := rfl
@[simp] theorem State.modGrid_hres (s : State) (key : Nat) (f : Grid → Grid) : (s.modGrid key f).hres = s.hres := rfl
@[simp] theorem State.modGrid_cvmarks (s : State) (key : Nat) (f : Grid → Grid) : (s.modGrid key f).cvmarks = s.cvmarks := rfl
@[simp] theorem State.modGrid_rtimes (s : State) (key : Nat) (f : Grid → Grid) : (s.modGrid key f).rtimes = s.rtimes := rfl
@[simp] theorem State.modGrid_alarms (s : State) (key : Nat) (f : Grid → Grid) : (s.modGrid key f).alarms = s.alarms := rfl
@[simp] theorem State.modGrid_cxl (s : State) (key : Nat) (f : Grid → Grid) : (s.modGrid key f).cxl = s.cxl := rfl
@[simp] theorem State.modGrid_throttled (s : State) (key : Nat) (f : Grid → Grid) : (s.modGrid key f).throttled = s.throttled := rfl
@[simp] theorem State.modGrid_clock (s : State) (key : Nat) (f : Grid → Grid) : (s.modGrid key f).clock = s.clock := rfl
@[simp] theorem State.modGrid_fresh (s : State) (key : Nat) (f : Grid → Grid) : (s.modGrid key f).fresh = s.fresh := rfl
@[simp] theorem State.modGrid_ids (s : State) (key : Nat) (f : Grid → Grid) : (s.modGrid key f).ids = s.ids := rfl
@[simp] theorem State.modGrid_cur (s : State) (key : Nat) (f : Grid → Grid) : (s.modGrid key f).cur = s.cur := rfl
@[simp] theorem State.modGrid_moves (s : State) (key : Nat) (f : Grid → Grid) : (s.modGrid key f).moves = s.moves := rfl
@[simp] theorem State.modGrid_turn (s : State) (key : Nat) (f : Grid → Grid) : (s.modGrid key f).turn = s.turn := rfl
@[simp] theorem State.modGrid_outbox (s : State) (key : Nat) (f : Grid → Grid) : (s.modGrid key f).outbox = s.outbox := rfl

/-! ## State.modOp -/

@[simp] theorem State.modOp_mem (s : State) (id : Nat) (f : Op → Op) : (s.modOp id f).mem = s.mem := rfl
@[simp] theorem State.modOp_lines (s : State) (id : Nat) (f : Op → Op) : (s.modOp id f).lines = s.lines := rfl
@[simp] theorem State.modOp_lkeys (s : State) (id : Nat) (f : Op → Op) : (s.modOp id f).lkeys = s.lkeys := rfl
@[simp] theorem State.modOp_pckeys (s : State) (id : Nat) (f : Op → Op) : (s.modOp id f).pckeys = s.pckeys := rfl
@[simp] theorem State.modOp_dirty (s : State) (id : Nat) (f : Op → Op) : (s.modOp id f).dirty = s.dirty := rfl
@[simp] theorem State.modOp_stamps (s : State) (id : Nat) (f : Op → Op) : (s.modOp id f).stamps = s.stamps := rfl
@[simp] theorem State.modOp_l1 (s : State) (id : Nat) (f : Op → Op) : (s.modOp id f).l1 = s.l1 := rfl
@[simp] theorem State.modOp_ro (s : State) (id : Nat) (f : Op → Op) : (s.modOp id f).ro = s.ro := rfl
@[simp] theorem State.modOp_views (s : State) (id : Nat) (f : Op → Op) : (s.modOp id f).views = s.views := rfl
@[simp] theorem State.modOp_uatoms (s : State) (id : Nat) (f : Op → Op) : (s.modOp id f).uatoms = s.uatoms := rfl
@[simp] theorem State.modOp_vars (s : State) (id : Nat) (f : Op → Op) : (s.modOp id f).vars = s.vars := rfl
@[simp] theorem State.modOp_ranges (s : State) (id : Nat) (f : Op → Op) : (s.modOp id f).ranges = s.ranges := rfl
@[simp] theorem State.modOp_tlb (s : State) (id : Nat) (f : Op → Op) : (s.modOp id f).tlb = s.tlb := rfl
@[simp] theorem State.modOp_groups (s : State) (id : Nat) (f : Op → Op) : (s.modOp id f).groups = s.groups := rfl
@[simp] theorem State.modOp_teams (s : State) (id : Nat) (f : Op → Op) : (s.modOp id f).teams = s.teams := rfl
@[simp] theorem State.modOp_queues (s : State) (id : Nat) (f : Op → Op) : (s.modOp id f).queues = s.queues := rfl
@[simp] theorem State.modOp_blocks (s : State) (id : Nat) (f : Op → Op) : (s.modOp id f).blocks = s.blocks := rfl
@[simp] theorem State.modOp_tasks (s : State) (id : Nat) (f : Op → Op) : (s.modOp id f).tasks = s.tasks := rfl
@[simp] theorem State.modOp_walks (s : State) (id : Nat) (f : Op → Op) : (s.modOp id f).walks = s.walks := rfl
@[simp] theorem State.modOp_tags (s : State) (id : Nat) (f : Op → Op) : (s.modOp id f).tags = s.tags := rfl
@[simp] theorem State.modOp_grids (s : State) (id : Nat) (f : Op → Op) : (s.modOp id f).grids = s.grids := rfl
@[simp] theorem State.modOp_graphs (s : State) (id : Nat) (f : Op → Op) : (s.modOp id f).graphs = s.graphs := rfl
@[simp] theorem State.modOp_launches (s : State) (id : Nat) (f : Op → Op) : (s.modOp id f).launches = s.launches := rfl
@[simp] theorem State.modOp_pldrs (s : State) (id : Nat) (f : Op → Op) : (s.modOp id f).pldrs = s.pldrs := rfl
@[simp] theorem State.modOp_trust (s : State) (id : Nat) (f : Op → Op) : (s.modOp id f).trust = s.trust := rfl
@[simp] theorem State.modOp_clown (s : State) (id : Nat) (f : Op → Op) : (s.modOp id f).clown = s.clown := rfl
@[simp] theorem State.modOp_latch (s : State) (id : Nat) (f : Op → Op) : (s.modOp id f).latch = s.latch := rfl
@[simp] theorem State.modOp_changing (s : State) (id : Nat) (f : Op → Op) : (s.modOp id f).changing = s.changing := rfl
@[simp] theorem State.modOp_service (s : State) (id : Nat) (f : Op → Op) : (s.modOp id f).service = s.service := rfl
@[simp] theorem State.modOp_pcown (s : State) (id : Nat) (f : Op → Op) : (s.modOp id f).pcown = s.pcown := rfl
@[simp] theorem State.modOp_ways (s : State) (id : Nat) (f : Op → Op) : (s.modOp id f).ways = s.ways := rfl
@[simp] theorem State.modOp_lshare (s : State) (id : Nat) (f : Op → Op) : (s.modOp id f).lshare = s.lshare := rfl
@[simp] theorem State.modOp_phys (s : State) (id : Nat) (f : Op → Op) : (s.modOp id f).phys = s.phys := rfl
@[simp] theorem State.modOp_ports (s : State) (id : Nat) (f : Op → Op) : (s.modOp id f).ports = s.ports := rfl
@[simp] theorem State.modOp_devid (s : State) (id : Nat) (f : Op → Op) : (s.modOp id f).devid = s.devid := rfl
@[simp] theorem State.modOp_routes (s : State) (id : Nat) (f : Op → Op) : (s.modOp id f).routes = s.routes := rfl
@[simp] theorem State.modOp_comms (s : State) (id : Nat) (f : Op → Op) : (s.modOp id f).comms = s.comms := rfl
@[simp] theorem State.modOp_hworld (s : State) (id : Nat) (f : Op → Op) : (s.modOp id f).hworld = s.hworld := rfl
@[simp] theorem State.modOp_hclock (s : State) (id : Nat) (f : Op → Op) : (s.modOp id f).hclock = s.hclock := rfl
@[simp] theorem State.modOp_hres (s : State) (id : Nat) (f : Op → Op) : (s.modOp id f).hres = s.hres := rfl
@[simp] theorem State.modOp_cvmarks (s : State) (id : Nat) (f : Op → Op) : (s.modOp id f).cvmarks = s.cvmarks := rfl
@[simp] theorem State.modOp_rtimes (s : State) (id : Nat) (f : Op → Op) : (s.modOp id f).rtimes = s.rtimes := rfl
@[simp] theorem State.modOp_alarms (s : State) (id : Nat) (f : Op → Op) : (s.modOp id f).alarms = s.alarms := rfl
@[simp] theorem State.modOp_cxl (s : State) (id : Nat) (f : Op → Op) : (s.modOp id f).cxl = s.cxl := rfl
@[simp] theorem State.modOp_throttled (s : State) (id : Nat) (f : Op → Op) : (s.modOp id f).throttled = s.throttled := rfl
@[simp] theorem State.modOp_clock (s : State) (id : Nat) (f : Op → Op) : (s.modOp id f).clock = s.clock := rfl
@[simp] theorem State.modOp_fresh (s : State) (id : Nat) (f : Op → Op) : (s.modOp id f).fresh = s.fresh := rfl
@[simp] theorem State.modOp_ids (s : State) (id : Nat) (f : Op → Op) : (s.modOp id f).ids = s.ids := rfl
@[simp] theorem State.modOp_cur (s : State) (id : Nat) (f : Op → Op) : (s.modOp id f).cur = s.cur := rfl
@[simp] theorem State.modOp_moves (s : State) (id : Nat) (f : Op → Op) : (s.modOp id f).moves = s.moves := rfl
@[simp] theorem State.modOp_turn (s : State) (id : Nat) (f : Op → Op) : (s.modOp id f).turn = s.turn := rfl
@[simp] theorem State.modOp_outbox (s : State) (id : Nat) (f : Op → Op) : (s.modOp id f).outbox = s.outbox := rfl

/-! ## State.modBlock -/

@[simp] theorem State.modBlock_mem (s : State) (id : Nat) (f : Block → Block) : (s.modBlock id f).mem = s.mem := rfl
@[simp] theorem State.modBlock_lines (s : State) (id : Nat) (f : Block → Block) : (s.modBlock id f).lines = s.lines := rfl
@[simp] theorem State.modBlock_lkeys (s : State) (id : Nat) (f : Block → Block) : (s.modBlock id f).lkeys = s.lkeys := rfl
@[simp] theorem State.modBlock_pckeys (s : State) (id : Nat) (f : Block → Block) : (s.modBlock id f).pckeys = s.pckeys := rfl
@[simp] theorem State.modBlock_dirty (s : State) (id : Nat) (f : Block → Block) : (s.modBlock id f).dirty = s.dirty := rfl
@[simp] theorem State.modBlock_stamps (s : State) (id : Nat) (f : Block → Block) : (s.modBlock id f).stamps = s.stamps := rfl
@[simp] theorem State.modBlock_l1 (s : State) (id : Nat) (f : Block → Block) : (s.modBlock id f).l1 = s.l1 := rfl
@[simp] theorem State.modBlock_ro (s : State) (id : Nat) (f : Block → Block) : (s.modBlock id f).ro = s.ro := rfl
@[simp] theorem State.modBlock_views (s : State) (id : Nat) (f : Block → Block) : (s.modBlock id f).views = s.views := rfl
@[simp] theorem State.modBlock_uatoms (s : State) (id : Nat) (f : Block → Block) : (s.modBlock id f).uatoms = s.uatoms := rfl
@[simp] theorem State.modBlock_vars (s : State) (id : Nat) (f : Block → Block) : (s.modBlock id f).vars = s.vars := rfl
@[simp] theorem State.modBlock_ranges (s : State) (id : Nat) (f : Block → Block) : (s.modBlock id f).ranges = s.ranges := rfl
@[simp] theorem State.modBlock_tlb (s : State) (id : Nat) (f : Block → Block) : (s.modBlock id f).tlb = s.tlb := rfl
@[simp] theorem State.modBlock_groups (s : State) (id : Nat) (f : Block → Block) : (s.modBlock id f).groups = s.groups := rfl
@[simp] theorem State.modBlock_teams (s : State) (id : Nat) (f : Block → Block) : (s.modBlock id f).teams = s.teams := rfl
@[simp] theorem State.modBlock_queues (s : State) (id : Nat) (f : Block → Block) : (s.modBlock id f).queues = s.queues := rfl
@[simp] theorem State.modBlock_ops (s : State) (id : Nat) (f : Block → Block) : (s.modBlock id f).ops = s.ops := rfl
@[simp] theorem State.modBlock_tasks (s : State) (id : Nat) (f : Block → Block) : (s.modBlock id f).tasks = s.tasks := rfl
@[simp] theorem State.modBlock_walks (s : State) (id : Nat) (f : Block → Block) : (s.modBlock id f).walks = s.walks := rfl
@[simp] theorem State.modBlock_tags (s : State) (id : Nat) (f : Block → Block) : (s.modBlock id f).tags = s.tags := rfl
@[simp] theorem State.modBlock_grids (s : State) (id : Nat) (f : Block → Block) : (s.modBlock id f).grids = s.grids := rfl
@[simp] theorem State.modBlock_graphs (s : State) (id : Nat) (f : Block → Block) : (s.modBlock id f).graphs = s.graphs := rfl
@[simp] theorem State.modBlock_launches (s : State) (id : Nat) (f : Block → Block) : (s.modBlock id f).launches = s.launches := rfl
@[simp] theorem State.modBlock_pldrs (s : State) (id : Nat) (f : Block → Block) : (s.modBlock id f).pldrs = s.pldrs := rfl
@[simp] theorem State.modBlock_trust (s : State) (id : Nat) (f : Block → Block) : (s.modBlock id f).trust = s.trust := rfl
@[simp] theorem State.modBlock_clown (s : State) (id : Nat) (f : Block → Block) : (s.modBlock id f).clown = s.clown := rfl
@[simp] theorem State.modBlock_latch (s : State) (id : Nat) (f : Block → Block) : (s.modBlock id f).latch = s.latch := rfl
@[simp] theorem State.modBlock_changing (s : State) (id : Nat) (f : Block → Block) : (s.modBlock id f).changing = s.changing := rfl
@[simp] theorem State.modBlock_service (s : State) (id : Nat) (f : Block → Block) : (s.modBlock id f).service = s.service := rfl
@[simp] theorem State.modBlock_pcown (s : State) (id : Nat) (f : Block → Block) : (s.modBlock id f).pcown = s.pcown := rfl
@[simp] theorem State.modBlock_ways (s : State) (id : Nat) (f : Block → Block) : (s.modBlock id f).ways = s.ways := rfl
@[simp] theorem State.modBlock_lshare (s : State) (id : Nat) (f : Block → Block) : (s.modBlock id f).lshare = s.lshare := rfl
@[simp] theorem State.modBlock_phys (s : State) (id : Nat) (f : Block → Block) : (s.modBlock id f).phys = s.phys := rfl
@[simp] theorem State.modBlock_ports (s : State) (id : Nat) (f : Block → Block) : (s.modBlock id f).ports = s.ports := rfl
@[simp] theorem State.modBlock_devid (s : State) (id : Nat) (f : Block → Block) : (s.modBlock id f).devid = s.devid := rfl
@[simp] theorem State.modBlock_routes (s : State) (id : Nat) (f : Block → Block) : (s.modBlock id f).routes = s.routes := rfl
@[simp] theorem State.modBlock_comms (s : State) (id : Nat) (f : Block → Block) : (s.modBlock id f).comms = s.comms := rfl
@[simp] theorem State.modBlock_hworld (s : State) (id : Nat) (f : Block → Block) : (s.modBlock id f).hworld = s.hworld := rfl
@[simp] theorem State.modBlock_hclock (s : State) (id : Nat) (f : Block → Block) : (s.modBlock id f).hclock = s.hclock := rfl
@[simp] theorem State.modBlock_hres (s : State) (id : Nat) (f : Block → Block) : (s.modBlock id f).hres = s.hres := rfl
@[simp] theorem State.modBlock_cvmarks (s : State) (id : Nat) (f : Block → Block) : (s.modBlock id f).cvmarks = s.cvmarks := rfl
@[simp] theorem State.modBlock_rtimes (s : State) (id : Nat) (f : Block → Block) : (s.modBlock id f).rtimes = s.rtimes := rfl
@[simp] theorem State.modBlock_alarms (s : State) (id : Nat) (f : Block → Block) : (s.modBlock id f).alarms = s.alarms := rfl
@[simp] theorem State.modBlock_cxl (s : State) (id : Nat) (f : Block → Block) : (s.modBlock id f).cxl = s.cxl := rfl
@[simp] theorem State.modBlock_throttled (s : State) (id : Nat) (f : Block → Block) : (s.modBlock id f).throttled = s.throttled := rfl
@[simp] theorem State.modBlock_clock (s : State) (id : Nat) (f : Block → Block) : (s.modBlock id f).clock = s.clock := rfl
@[simp] theorem State.modBlock_fresh (s : State) (id : Nat) (f : Block → Block) : (s.modBlock id f).fresh = s.fresh := rfl
@[simp] theorem State.modBlock_ids (s : State) (id : Nat) (f : Block → Block) : (s.modBlock id f).ids = s.ids := rfl
@[simp] theorem State.modBlock_cur (s : State) (id : Nat) (f : Block → Block) : (s.modBlock id f).cur = s.cur := rfl
@[simp] theorem State.modBlock_moves (s : State) (id : Nat) (f : Block → Block) : (s.modBlock id f).moves = s.moves := rfl
@[simp] theorem State.modBlock_turn (s : State) (id : Nat) (f : Block → Block) : (s.modBlock id f).turn = s.turn := rfl
@[simp] theorem State.modBlock_outbox (s : State) (id : Nat) (f : Block → Block) : (s.modBlock id f).outbox = s.outbox := rfl

/-! ## State.modTask -/

@[simp] theorem State.modTask_mem (s : State) (id : Nat) (f : Task → Task) : (s.modTask id f).mem = s.mem := rfl
@[simp] theorem State.modTask_lines (s : State) (id : Nat) (f : Task → Task) : (s.modTask id f).lines = s.lines := rfl
@[simp] theorem State.modTask_lkeys (s : State) (id : Nat) (f : Task → Task) : (s.modTask id f).lkeys = s.lkeys := rfl
@[simp] theorem State.modTask_pckeys (s : State) (id : Nat) (f : Task → Task) : (s.modTask id f).pckeys = s.pckeys := rfl
@[simp] theorem State.modTask_dirty (s : State) (id : Nat) (f : Task → Task) : (s.modTask id f).dirty = s.dirty := rfl
@[simp] theorem State.modTask_stamps (s : State) (id : Nat) (f : Task → Task) : (s.modTask id f).stamps = s.stamps := rfl
@[simp] theorem State.modTask_l1 (s : State) (id : Nat) (f : Task → Task) : (s.modTask id f).l1 = s.l1 := rfl
@[simp] theorem State.modTask_ro (s : State) (id : Nat) (f : Task → Task) : (s.modTask id f).ro = s.ro := rfl
@[simp] theorem State.modTask_views (s : State) (id : Nat) (f : Task → Task) : (s.modTask id f).views = s.views := rfl
@[simp] theorem State.modTask_uatoms (s : State) (id : Nat) (f : Task → Task) : (s.modTask id f).uatoms = s.uatoms := rfl
@[simp] theorem State.modTask_vars (s : State) (id : Nat) (f : Task → Task) : (s.modTask id f).vars = s.vars := rfl
@[simp] theorem State.modTask_ranges (s : State) (id : Nat) (f : Task → Task) : (s.modTask id f).ranges = s.ranges := rfl
@[simp] theorem State.modTask_tlb (s : State) (id : Nat) (f : Task → Task) : (s.modTask id f).tlb = s.tlb := rfl
@[simp] theorem State.modTask_groups (s : State) (id : Nat) (f : Task → Task) : (s.modTask id f).groups = s.groups := rfl
@[simp] theorem State.modTask_teams (s : State) (id : Nat) (f : Task → Task) : (s.modTask id f).teams = s.teams := rfl
@[simp] theorem State.modTask_queues (s : State) (id : Nat) (f : Task → Task) : (s.modTask id f).queues = s.queues := rfl
@[simp] theorem State.modTask_ops (s : State) (id : Nat) (f : Task → Task) : (s.modTask id f).ops = s.ops := rfl
@[simp] theorem State.modTask_blocks (s : State) (id : Nat) (f : Task → Task) : (s.modTask id f).blocks = s.blocks := rfl
@[simp] theorem State.modTask_walks (s : State) (id : Nat) (f : Task → Task) : (s.modTask id f).walks = s.walks := rfl
@[simp] theorem State.modTask_tags (s : State) (id : Nat) (f : Task → Task) : (s.modTask id f).tags = s.tags := rfl
@[simp] theorem State.modTask_grids (s : State) (id : Nat) (f : Task → Task) : (s.modTask id f).grids = s.grids := rfl
@[simp] theorem State.modTask_graphs (s : State) (id : Nat) (f : Task → Task) : (s.modTask id f).graphs = s.graphs := rfl
@[simp] theorem State.modTask_launches (s : State) (id : Nat) (f : Task → Task) : (s.modTask id f).launches = s.launches := rfl
@[simp] theorem State.modTask_pldrs (s : State) (id : Nat) (f : Task → Task) : (s.modTask id f).pldrs = s.pldrs := rfl
@[simp] theorem State.modTask_trust (s : State) (id : Nat) (f : Task → Task) : (s.modTask id f).trust = s.trust := rfl
@[simp] theorem State.modTask_clown (s : State) (id : Nat) (f : Task → Task) : (s.modTask id f).clown = s.clown := rfl
@[simp] theorem State.modTask_latch (s : State) (id : Nat) (f : Task → Task) : (s.modTask id f).latch = s.latch := rfl
@[simp] theorem State.modTask_changing (s : State) (id : Nat) (f : Task → Task) : (s.modTask id f).changing = s.changing := rfl
@[simp] theorem State.modTask_service (s : State) (id : Nat) (f : Task → Task) : (s.modTask id f).service = s.service := rfl
@[simp] theorem State.modTask_pcown (s : State) (id : Nat) (f : Task → Task) : (s.modTask id f).pcown = s.pcown := rfl
@[simp] theorem State.modTask_ways (s : State) (id : Nat) (f : Task → Task) : (s.modTask id f).ways = s.ways := rfl
@[simp] theorem State.modTask_lshare (s : State) (id : Nat) (f : Task → Task) : (s.modTask id f).lshare = s.lshare := rfl
@[simp] theorem State.modTask_phys (s : State) (id : Nat) (f : Task → Task) : (s.modTask id f).phys = s.phys := rfl
@[simp] theorem State.modTask_ports (s : State) (id : Nat) (f : Task → Task) : (s.modTask id f).ports = s.ports := rfl
@[simp] theorem State.modTask_devid (s : State) (id : Nat) (f : Task → Task) : (s.modTask id f).devid = s.devid := rfl
@[simp] theorem State.modTask_routes (s : State) (id : Nat) (f : Task → Task) : (s.modTask id f).routes = s.routes := rfl
@[simp] theorem State.modTask_comms (s : State) (id : Nat) (f : Task → Task) : (s.modTask id f).comms = s.comms := rfl
@[simp] theorem State.modTask_hworld (s : State) (id : Nat) (f : Task → Task) : (s.modTask id f).hworld = s.hworld := rfl
@[simp] theorem State.modTask_hclock (s : State) (id : Nat) (f : Task → Task) : (s.modTask id f).hclock = s.hclock := rfl
@[simp] theorem State.modTask_hres (s : State) (id : Nat) (f : Task → Task) : (s.modTask id f).hres = s.hres := rfl
@[simp] theorem State.modTask_cvmarks (s : State) (id : Nat) (f : Task → Task) : (s.modTask id f).cvmarks = s.cvmarks := rfl
@[simp] theorem State.modTask_rtimes (s : State) (id : Nat) (f : Task → Task) : (s.modTask id f).rtimes = s.rtimes := rfl
@[simp] theorem State.modTask_alarms (s : State) (id : Nat) (f : Task → Task) : (s.modTask id f).alarms = s.alarms := rfl
@[simp] theorem State.modTask_cxl (s : State) (id : Nat) (f : Task → Task) : (s.modTask id f).cxl = s.cxl := rfl
@[simp] theorem State.modTask_throttled (s : State) (id : Nat) (f : Task → Task) : (s.modTask id f).throttled = s.throttled := rfl
@[simp] theorem State.modTask_clock (s : State) (id : Nat) (f : Task → Task) : (s.modTask id f).clock = s.clock := rfl
@[simp] theorem State.modTask_fresh (s : State) (id : Nat) (f : Task → Task) : (s.modTask id f).fresh = s.fresh := rfl
@[simp] theorem State.modTask_ids (s : State) (id : Nat) (f : Task → Task) : (s.modTask id f).ids = s.ids := rfl
@[simp] theorem State.modTask_cur (s : State) (id : Nat) (f : Task → Task) : (s.modTask id f).cur = s.cur := rfl
@[simp] theorem State.modTask_moves (s : State) (id : Nat) (f : Task → Task) : (s.modTask id f).moves = s.moves := rfl
@[simp] theorem State.modTask_turn (s : State) (id : Nat) (f : Task → Task) : (s.modTask id f).turn = s.turn := rfl
@[simp] theorem State.modTask_outbox (s : State) (id : Nat) (f : Task → Task) : (s.modTask id f).outbox = s.outbox := rfl

/-! ## State.modGraph -/

@[simp] theorem State.modGraph_mem (s : State) (key : Nat) (f : Graph → Graph) : (s.modGraph key f).mem = s.mem := rfl
@[simp] theorem State.modGraph_lines (s : State) (key : Nat) (f : Graph → Graph) : (s.modGraph key f).lines = s.lines := rfl
@[simp] theorem State.modGraph_lkeys (s : State) (key : Nat) (f : Graph → Graph) : (s.modGraph key f).lkeys = s.lkeys := rfl
@[simp] theorem State.modGraph_pckeys (s : State) (key : Nat) (f : Graph → Graph) : (s.modGraph key f).pckeys = s.pckeys := rfl
@[simp] theorem State.modGraph_dirty (s : State) (key : Nat) (f : Graph → Graph) : (s.modGraph key f).dirty = s.dirty := rfl
@[simp] theorem State.modGraph_stamps (s : State) (key : Nat) (f : Graph → Graph) : (s.modGraph key f).stamps = s.stamps := rfl
@[simp] theorem State.modGraph_l1 (s : State) (key : Nat) (f : Graph → Graph) : (s.modGraph key f).l1 = s.l1 := rfl
@[simp] theorem State.modGraph_ro (s : State) (key : Nat) (f : Graph → Graph) : (s.modGraph key f).ro = s.ro := rfl
@[simp] theorem State.modGraph_views (s : State) (key : Nat) (f : Graph → Graph) : (s.modGraph key f).views = s.views := rfl
@[simp] theorem State.modGraph_uatoms (s : State) (key : Nat) (f : Graph → Graph) : (s.modGraph key f).uatoms = s.uatoms := rfl
@[simp] theorem State.modGraph_vars (s : State) (key : Nat) (f : Graph → Graph) : (s.modGraph key f).vars = s.vars := rfl
@[simp] theorem State.modGraph_ranges (s : State) (key : Nat) (f : Graph → Graph) : (s.modGraph key f).ranges = s.ranges := rfl
@[simp] theorem State.modGraph_tlb (s : State) (key : Nat) (f : Graph → Graph) : (s.modGraph key f).tlb = s.tlb := rfl
@[simp] theorem State.modGraph_groups (s : State) (key : Nat) (f : Graph → Graph) : (s.modGraph key f).groups = s.groups := rfl
@[simp] theorem State.modGraph_teams (s : State) (key : Nat) (f : Graph → Graph) : (s.modGraph key f).teams = s.teams := rfl
@[simp] theorem State.modGraph_queues (s : State) (key : Nat) (f : Graph → Graph) : (s.modGraph key f).queues = s.queues := rfl
@[simp] theorem State.modGraph_ops (s : State) (key : Nat) (f : Graph → Graph) : (s.modGraph key f).ops = s.ops := rfl
@[simp] theorem State.modGraph_blocks (s : State) (key : Nat) (f : Graph → Graph) : (s.modGraph key f).blocks = s.blocks := rfl
@[simp] theorem State.modGraph_tasks (s : State) (key : Nat) (f : Graph → Graph) : (s.modGraph key f).tasks = s.tasks := rfl
@[simp] theorem State.modGraph_walks (s : State) (key : Nat) (f : Graph → Graph) : (s.modGraph key f).walks = s.walks := rfl
@[simp] theorem State.modGraph_tags (s : State) (key : Nat) (f : Graph → Graph) : (s.modGraph key f).tags = s.tags := rfl
@[simp] theorem State.modGraph_grids (s : State) (key : Nat) (f : Graph → Graph) : (s.modGraph key f).grids = s.grids := rfl
@[simp] theorem State.modGraph_launches (s : State) (key : Nat) (f : Graph → Graph) : (s.modGraph key f).launches = s.launches := rfl
@[simp] theorem State.modGraph_pldrs (s : State) (key : Nat) (f : Graph → Graph) : (s.modGraph key f).pldrs = s.pldrs := rfl
@[simp] theorem State.modGraph_trust (s : State) (key : Nat) (f : Graph → Graph) : (s.modGraph key f).trust = s.trust := rfl
@[simp] theorem State.modGraph_clown (s : State) (key : Nat) (f : Graph → Graph) : (s.modGraph key f).clown = s.clown := rfl
@[simp] theorem State.modGraph_latch (s : State) (key : Nat) (f : Graph → Graph) : (s.modGraph key f).latch = s.latch := rfl
@[simp] theorem State.modGraph_changing (s : State) (key : Nat) (f : Graph → Graph) : (s.modGraph key f).changing = s.changing := rfl
@[simp] theorem State.modGraph_service (s : State) (key : Nat) (f : Graph → Graph) : (s.modGraph key f).service = s.service := rfl
@[simp] theorem State.modGraph_pcown (s : State) (key : Nat) (f : Graph → Graph) : (s.modGraph key f).pcown = s.pcown := rfl
@[simp] theorem State.modGraph_ways (s : State) (key : Nat) (f : Graph → Graph) : (s.modGraph key f).ways = s.ways := rfl
@[simp] theorem State.modGraph_lshare (s : State) (key : Nat) (f : Graph → Graph) : (s.modGraph key f).lshare = s.lshare := rfl
@[simp] theorem State.modGraph_phys (s : State) (key : Nat) (f : Graph → Graph) : (s.modGraph key f).phys = s.phys := rfl
@[simp] theorem State.modGraph_ports (s : State) (key : Nat) (f : Graph → Graph) : (s.modGraph key f).ports = s.ports := rfl
@[simp] theorem State.modGraph_devid (s : State) (key : Nat) (f : Graph → Graph) : (s.modGraph key f).devid = s.devid := rfl
@[simp] theorem State.modGraph_routes (s : State) (key : Nat) (f : Graph → Graph) : (s.modGraph key f).routes = s.routes := rfl
@[simp] theorem State.modGraph_comms (s : State) (key : Nat) (f : Graph → Graph) : (s.modGraph key f).comms = s.comms := rfl
@[simp] theorem State.modGraph_hworld (s : State) (key : Nat) (f : Graph → Graph) : (s.modGraph key f).hworld = s.hworld := rfl
@[simp] theorem State.modGraph_hclock (s : State) (key : Nat) (f : Graph → Graph) : (s.modGraph key f).hclock = s.hclock := rfl
@[simp] theorem State.modGraph_hres (s : State) (key : Nat) (f : Graph → Graph) : (s.modGraph key f).hres = s.hres := rfl
@[simp] theorem State.modGraph_cvmarks (s : State) (key : Nat) (f : Graph → Graph) : (s.modGraph key f).cvmarks = s.cvmarks := rfl
@[simp] theorem State.modGraph_rtimes (s : State) (key : Nat) (f : Graph → Graph) : (s.modGraph key f).rtimes = s.rtimes := rfl
@[simp] theorem State.modGraph_alarms (s : State) (key : Nat) (f : Graph → Graph) : (s.modGraph key f).alarms = s.alarms := rfl
@[simp] theorem State.modGraph_cxl (s : State) (key : Nat) (f : Graph → Graph) : (s.modGraph key f).cxl = s.cxl := rfl
@[simp] theorem State.modGraph_throttled (s : State) (key : Nat) (f : Graph → Graph) : (s.modGraph key f).throttled = s.throttled := rfl
@[simp] theorem State.modGraph_clock (s : State) (key : Nat) (f : Graph → Graph) : (s.modGraph key f).clock = s.clock := rfl
@[simp] theorem State.modGraph_fresh (s : State) (key : Nat) (f : Graph → Graph) : (s.modGraph key f).fresh = s.fresh := rfl
@[simp] theorem State.modGraph_ids (s : State) (key : Nat) (f : Graph → Graph) : (s.modGraph key f).ids = s.ids := rfl
@[simp] theorem State.modGraph_cur (s : State) (key : Nat) (f : Graph → Graph) : (s.modGraph key f).cur = s.cur := rfl
@[simp] theorem State.modGraph_moves (s : State) (key : Nat) (f : Graph → Graph) : (s.modGraph key f).moves = s.moves := rfl
@[simp] theorem State.modGraph_turn (s : State) (key : Nat) (f : Graph → Graph) : (s.modGraph key f).turn = s.turn := rfl
@[simp] theorem State.modGraph_outbox (s : State) (key : Nat) (f : Graph → Graph) : (s.modGraph key f).outbox = s.outbox := rfl

/-! ## State.modQueue -/

@[simp] theorem State.modQueue_mem (s : State) (gang obj : Nat) (f : Queue → Queue) : (s.modQueue gang obj f).mem = s.mem := rfl
@[simp] theorem State.modQueue_lines (s : State) (gang obj : Nat) (f : Queue → Queue) : (s.modQueue gang obj f).lines = s.lines := rfl
@[simp] theorem State.modQueue_lkeys (s : State) (gang obj : Nat) (f : Queue → Queue) : (s.modQueue gang obj f).lkeys = s.lkeys := rfl
@[simp] theorem State.modQueue_pckeys (s : State) (gang obj : Nat) (f : Queue → Queue) : (s.modQueue gang obj f).pckeys = s.pckeys := rfl
@[simp] theorem State.modQueue_dirty (s : State) (gang obj : Nat) (f : Queue → Queue) : (s.modQueue gang obj f).dirty = s.dirty := rfl
@[simp] theorem State.modQueue_stamps (s : State) (gang obj : Nat) (f : Queue → Queue) : (s.modQueue gang obj f).stamps = s.stamps := rfl
@[simp] theorem State.modQueue_l1 (s : State) (gang obj : Nat) (f : Queue → Queue) : (s.modQueue gang obj f).l1 = s.l1 := rfl
@[simp] theorem State.modQueue_ro (s : State) (gang obj : Nat) (f : Queue → Queue) : (s.modQueue gang obj f).ro = s.ro := rfl
@[simp] theorem State.modQueue_views (s : State) (gang obj : Nat) (f : Queue → Queue) : (s.modQueue gang obj f).views = s.views := rfl
@[simp] theorem State.modQueue_uatoms (s : State) (gang obj : Nat) (f : Queue → Queue) : (s.modQueue gang obj f).uatoms = s.uatoms := rfl
@[simp] theorem State.modQueue_vars (s : State) (gang obj : Nat) (f : Queue → Queue) : (s.modQueue gang obj f).vars = s.vars := rfl
@[simp] theorem State.modQueue_ranges (s : State) (gang obj : Nat) (f : Queue → Queue) : (s.modQueue gang obj f).ranges = s.ranges := rfl
@[simp] theorem State.modQueue_tlb (s : State) (gang obj : Nat) (f : Queue → Queue) : (s.modQueue gang obj f).tlb = s.tlb := rfl
@[simp] theorem State.modQueue_groups (s : State) (gang obj : Nat) (f : Queue → Queue) : (s.modQueue gang obj f).groups = s.groups := rfl
@[simp] theorem State.modQueue_teams (s : State) (gang obj : Nat) (f : Queue → Queue) : (s.modQueue gang obj f).teams = s.teams := rfl
@[simp] theorem State.modQueue_ops (s : State) (gang obj : Nat) (f : Queue → Queue) : (s.modQueue gang obj f).ops = s.ops := rfl
@[simp] theorem State.modQueue_blocks (s : State) (gang obj : Nat) (f : Queue → Queue) : (s.modQueue gang obj f).blocks = s.blocks := rfl
@[simp] theorem State.modQueue_tasks (s : State) (gang obj : Nat) (f : Queue → Queue) : (s.modQueue gang obj f).tasks = s.tasks := rfl
@[simp] theorem State.modQueue_walks (s : State) (gang obj : Nat) (f : Queue → Queue) : (s.modQueue gang obj f).walks = s.walks := rfl
@[simp] theorem State.modQueue_tags (s : State) (gang obj : Nat) (f : Queue → Queue) : (s.modQueue gang obj f).tags = s.tags := rfl
@[simp] theorem State.modQueue_grids (s : State) (gang obj : Nat) (f : Queue → Queue) : (s.modQueue gang obj f).grids = s.grids := rfl
@[simp] theorem State.modQueue_graphs (s : State) (gang obj : Nat) (f : Queue → Queue) : (s.modQueue gang obj f).graphs = s.graphs := rfl
@[simp] theorem State.modQueue_launches (s : State) (gang obj : Nat) (f : Queue → Queue) : (s.modQueue gang obj f).launches = s.launches := rfl
@[simp] theorem State.modQueue_pldrs (s : State) (gang obj : Nat) (f : Queue → Queue) : (s.modQueue gang obj f).pldrs = s.pldrs := rfl
@[simp] theorem State.modQueue_trust (s : State) (gang obj : Nat) (f : Queue → Queue) : (s.modQueue gang obj f).trust = s.trust := rfl
@[simp] theorem State.modQueue_clown (s : State) (gang obj : Nat) (f : Queue → Queue) : (s.modQueue gang obj f).clown = s.clown := rfl
@[simp] theorem State.modQueue_latch (s : State) (gang obj : Nat) (f : Queue → Queue) : (s.modQueue gang obj f).latch = s.latch := rfl
@[simp] theorem State.modQueue_changing (s : State) (gang obj : Nat) (f : Queue → Queue) : (s.modQueue gang obj f).changing = s.changing := rfl
@[simp] theorem State.modQueue_service (s : State) (gang obj : Nat) (f : Queue → Queue) : (s.modQueue gang obj f).service = s.service := rfl
@[simp] theorem State.modQueue_pcown (s : State) (gang obj : Nat) (f : Queue → Queue) : (s.modQueue gang obj f).pcown = s.pcown := rfl
@[simp] theorem State.modQueue_ways (s : State) (gang obj : Nat) (f : Queue → Queue) : (s.modQueue gang obj f).ways = s.ways := rfl
@[simp] theorem State.modQueue_lshare (s : State) (gang obj : Nat) (f : Queue → Queue) : (s.modQueue gang obj f).lshare = s.lshare := rfl
@[simp] theorem State.modQueue_phys (s : State) (gang obj : Nat) (f : Queue → Queue) : (s.modQueue gang obj f).phys = s.phys := rfl
@[simp] theorem State.modQueue_ports (s : State) (gang obj : Nat) (f : Queue → Queue) : (s.modQueue gang obj f).ports = s.ports := rfl
@[simp] theorem State.modQueue_devid (s : State) (gang obj : Nat) (f : Queue → Queue) : (s.modQueue gang obj f).devid = s.devid := rfl
@[simp] theorem State.modQueue_routes (s : State) (gang obj : Nat) (f : Queue → Queue) : (s.modQueue gang obj f).routes = s.routes := rfl
@[simp] theorem State.modQueue_comms (s : State) (gang obj : Nat) (f : Queue → Queue) : (s.modQueue gang obj f).comms = s.comms := rfl
@[simp] theorem State.modQueue_hworld (s : State) (gang obj : Nat) (f : Queue → Queue) : (s.modQueue gang obj f).hworld = s.hworld := rfl
@[simp] theorem State.modQueue_hclock (s : State) (gang obj : Nat) (f : Queue → Queue) : (s.modQueue gang obj f).hclock = s.hclock := rfl
@[simp] theorem State.modQueue_hres (s : State) (gang obj : Nat) (f : Queue → Queue) : (s.modQueue gang obj f).hres = s.hres := rfl
@[simp] theorem State.modQueue_cvmarks (s : State) (gang obj : Nat) (f : Queue → Queue) : (s.modQueue gang obj f).cvmarks = s.cvmarks := rfl
@[simp] theorem State.modQueue_rtimes (s : State) (gang obj : Nat) (f : Queue → Queue) : (s.modQueue gang obj f).rtimes = s.rtimes := rfl
@[simp] theorem State.modQueue_alarms (s : State) (gang obj : Nat) (f : Queue → Queue) : (s.modQueue gang obj f).alarms = s.alarms := rfl
@[simp] theorem State.modQueue_cxl (s : State) (gang obj : Nat) (f : Queue → Queue) : (s.modQueue gang obj f).cxl = s.cxl := rfl
@[simp] theorem State.modQueue_throttled (s : State) (gang obj : Nat) (f : Queue → Queue) : (s.modQueue gang obj f).throttled = s.throttled := rfl
@[simp] theorem State.modQueue_clock (s : State) (gang obj : Nat) (f : Queue → Queue) : (s.modQueue gang obj f).clock = s.clock := rfl
@[simp] theorem State.modQueue_fresh (s : State) (gang obj : Nat) (f : Queue → Queue) : (s.modQueue gang obj f).fresh = s.fresh := rfl
@[simp] theorem State.modQueue_ids (s : State) (gang obj : Nat) (f : Queue → Queue) : (s.modQueue gang obj f).ids = s.ids := rfl
@[simp] theorem State.modQueue_cur (s : State) (gang obj : Nat) (f : Queue → Queue) : (s.modQueue gang obj f).cur = s.cur := rfl
@[simp] theorem State.modQueue_moves (s : State) (gang obj : Nat) (f : Queue → Queue) : (s.modQueue gang obj f).moves = s.moves := rfl
@[simp] theorem State.modQueue_turn (s : State) (gang obj : Nat) (f : Queue → Queue) : (s.modQueue gang obj f).turn = s.turn := rfl
@[simp] theorem State.modQueue_outbox (s : State) (gang obj : Nat) (f : Queue → Queue) : (s.modQueue gang obj f).outbox = s.outbox := rfl

/-! ## State.newId -/

@[simp] theorem State.newId_mem (s : State) : (s.newId).mem = s.mem := rfl
@[simp] theorem State.newId_lines (s : State) : (s.newId).lines = s.lines := rfl
@[simp] theorem State.newId_lkeys (s : State) : (s.newId).lkeys = s.lkeys := rfl
@[simp] theorem State.newId_pckeys (s : State) : (s.newId).pckeys = s.pckeys := rfl
@[simp] theorem State.newId_dirty (s : State) : (s.newId).dirty = s.dirty := rfl
@[simp] theorem State.newId_stamps (s : State) : (s.newId).stamps = s.stamps := rfl
@[simp] theorem State.newId_l1 (s : State) : (s.newId).l1 = s.l1 := rfl
@[simp] theorem State.newId_ro (s : State) : (s.newId).ro = s.ro := rfl
@[simp] theorem State.newId_views (s : State) : (s.newId).views = s.views := rfl
@[simp] theorem State.newId_uatoms (s : State) : (s.newId).uatoms = s.uatoms := rfl
@[simp] theorem State.newId_vars (s : State) : (s.newId).vars = s.vars := rfl
@[simp] theorem State.newId_ranges (s : State) : (s.newId).ranges = s.ranges := rfl
@[simp] theorem State.newId_tlb (s : State) : (s.newId).tlb = s.tlb := rfl
@[simp] theorem State.newId_groups (s : State) : (s.newId).groups = s.groups := rfl
@[simp] theorem State.newId_teams (s : State) : (s.newId).teams = s.teams := rfl
@[simp] theorem State.newId_queues (s : State) : (s.newId).queues = s.queues := rfl
@[simp] theorem State.newId_ops (s : State) : (s.newId).ops = s.ops := rfl
@[simp] theorem State.newId_blocks (s : State) : (s.newId).blocks = s.blocks := rfl
@[simp] theorem State.newId_tasks (s : State) : (s.newId).tasks = s.tasks := rfl
@[simp] theorem State.newId_walks (s : State) : (s.newId).walks = s.walks := rfl
@[simp] theorem State.newId_tags (s : State) : (s.newId).tags = s.tags := rfl
@[simp] theorem State.newId_grids (s : State) : (s.newId).grids = s.grids := rfl
@[simp] theorem State.newId_graphs (s : State) : (s.newId).graphs = s.graphs := rfl
@[simp] theorem State.newId_launches (s : State) : (s.newId).launches = s.launches := rfl
@[simp] theorem State.newId_pldrs (s : State) : (s.newId).pldrs = s.pldrs := rfl
@[simp] theorem State.newId_trust (s : State) : (s.newId).trust = s.trust := rfl
@[simp] theorem State.newId_clown (s : State) : (s.newId).clown = s.clown := rfl
@[simp] theorem State.newId_latch (s : State) : (s.newId).latch = s.latch := rfl
@[simp] theorem State.newId_changing (s : State) : (s.newId).changing = s.changing := rfl
@[simp] theorem State.newId_service (s : State) : (s.newId).service = s.service := rfl
@[simp] theorem State.newId_pcown (s : State) : (s.newId).pcown = s.pcown := rfl
@[simp] theorem State.newId_ways (s : State) : (s.newId).ways = s.ways := rfl
@[simp] theorem State.newId_lshare (s : State) : (s.newId).lshare = s.lshare := rfl
@[simp] theorem State.newId_phys (s : State) : (s.newId).phys = s.phys := rfl
@[simp] theorem State.newId_ports (s : State) : (s.newId).ports = s.ports := rfl
@[simp] theorem State.newId_devid (s : State) : (s.newId).devid = s.devid := rfl
@[simp] theorem State.newId_routes (s : State) : (s.newId).routes = s.routes := rfl
@[simp] theorem State.newId_comms (s : State) : (s.newId).comms = s.comms := rfl
@[simp] theorem State.newId_hworld (s : State) : (s.newId).hworld = s.hworld := rfl
@[simp] theorem State.newId_hclock (s : State) : (s.newId).hclock = s.hclock := rfl
@[simp] theorem State.newId_hres (s : State) : (s.newId).hres = s.hres := rfl
@[simp] theorem State.newId_cvmarks (s : State) : (s.newId).cvmarks = s.cvmarks := rfl
@[simp] theorem State.newId_rtimes (s : State) : (s.newId).rtimes = s.rtimes := rfl
@[simp] theorem State.newId_alarms (s : State) : (s.newId).alarms = s.alarms := rfl
@[simp] theorem State.newId_cxl (s : State) : (s.newId).cxl = s.cxl := rfl
@[simp] theorem State.newId_throttled (s : State) : (s.newId).throttled = s.throttled := rfl
@[simp] theorem State.newId_clock (s : State) : (s.newId).clock = s.clock := rfl
@[simp] theorem State.newId_fresh (s : State) : (s.newId).fresh = s.fresh := rfl
@[simp] theorem State.newId_cur (s : State) : (s.newId).cur = s.cur := rfl
@[simp] theorem State.newId_moves (s : State) : (s.newId).moves = s.moves := rfl
@[simp] theorem State.newId_turn (s : State) : (s.newId).turn = s.turn := rfl
@[simp] theorem State.newId_outbox (s : State) : (s.newId).outbox = s.outbox := rfl

/-! ## State.draw -/

@[simp] theorem State.draw_mem (s : State) : (s.draw).mem = s.mem := rfl
@[simp] theorem State.draw_lines (s : State) : (s.draw).lines = s.lines := rfl
@[simp] theorem State.draw_lkeys (s : State) : (s.draw).lkeys = s.lkeys := rfl
@[simp] theorem State.draw_pckeys (s : State) : (s.draw).pckeys = s.pckeys := rfl
@[simp] theorem State.draw_dirty (s : State) : (s.draw).dirty = s.dirty := rfl
@[simp] theorem State.draw_stamps (s : State) : (s.draw).stamps = s.stamps := rfl
@[simp] theorem State.draw_l1 (s : State) : (s.draw).l1 = s.l1 := rfl
@[simp] theorem State.draw_ro (s : State) : (s.draw).ro = s.ro := rfl
@[simp] theorem State.draw_views (s : State) : (s.draw).views = s.views := rfl
@[simp] theorem State.draw_uatoms (s : State) : (s.draw).uatoms = s.uatoms := rfl
@[simp] theorem State.draw_vars (s : State) : (s.draw).vars = s.vars := rfl
@[simp] theorem State.draw_ranges (s : State) : (s.draw).ranges = s.ranges := rfl
@[simp] theorem State.draw_tlb (s : State) : (s.draw).tlb = s.tlb := rfl
@[simp] theorem State.draw_groups (s : State) : (s.draw).groups = s.groups := rfl
@[simp] theorem State.draw_teams (s : State) : (s.draw).teams = s.teams := rfl
@[simp] theorem State.draw_queues (s : State) : (s.draw).queues = s.queues := rfl
@[simp] theorem State.draw_ops (s : State) : (s.draw).ops = s.ops := rfl
@[simp] theorem State.draw_blocks (s : State) : (s.draw).blocks = s.blocks := rfl
@[simp] theorem State.draw_tasks (s : State) : (s.draw).tasks = s.tasks := rfl
@[simp] theorem State.draw_walks (s : State) : (s.draw).walks = s.walks := rfl
@[simp] theorem State.draw_tags (s : State) : (s.draw).tags = s.tags := rfl
@[simp] theorem State.draw_grids (s : State) : (s.draw).grids = s.grids := rfl
@[simp] theorem State.draw_graphs (s : State) : (s.draw).graphs = s.graphs := rfl
@[simp] theorem State.draw_launches (s : State) : (s.draw).launches = s.launches := rfl
@[simp] theorem State.draw_pldrs (s : State) : (s.draw).pldrs = s.pldrs := rfl
@[simp] theorem State.draw_trust (s : State) : (s.draw).trust = s.trust := rfl
@[simp] theorem State.draw_clown (s : State) : (s.draw).clown = s.clown := rfl
@[simp] theorem State.draw_latch (s : State) : (s.draw).latch = s.latch := rfl
@[simp] theorem State.draw_changing (s : State) : (s.draw).changing = s.changing := rfl
@[simp] theorem State.draw_service (s : State) : (s.draw).service = s.service := rfl
@[simp] theorem State.draw_pcown (s : State) : (s.draw).pcown = s.pcown := rfl
@[simp] theorem State.draw_ways (s : State) : (s.draw).ways = s.ways := rfl
@[simp] theorem State.draw_lshare (s : State) : (s.draw).lshare = s.lshare := rfl
@[simp] theorem State.draw_phys (s : State) : (s.draw).phys = s.phys := rfl
@[simp] theorem State.draw_ports (s : State) : (s.draw).ports = s.ports := rfl
@[simp] theorem State.draw_devid (s : State) : (s.draw).devid = s.devid := rfl
@[simp] theorem State.draw_routes (s : State) : (s.draw).routes = s.routes := rfl
@[simp] theorem State.draw_comms (s : State) : (s.draw).comms = s.comms := rfl
@[simp] theorem State.draw_hworld (s : State) : (s.draw).hworld = s.hworld := rfl
@[simp] theorem State.draw_hclock (s : State) : (s.draw).hclock = s.hclock := rfl
@[simp] theorem State.draw_hres (s : State) : (s.draw).hres = s.hres := rfl
@[simp] theorem State.draw_cvmarks (s : State) : (s.draw).cvmarks = s.cvmarks := rfl
@[simp] theorem State.draw_rtimes (s : State) : (s.draw).rtimes = s.rtimes := rfl
@[simp] theorem State.draw_alarms (s : State) : (s.draw).alarms = s.alarms := rfl
@[simp] theorem State.draw_cxl (s : State) : (s.draw).cxl = s.cxl := rfl
@[simp] theorem State.draw_throttled (s : State) : (s.draw).throttled = s.throttled := rfl
@[simp] theorem State.draw_clock (s : State) : (s.draw).clock = s.clock := rfl
@[simp] theorem State.draw_ids (s : State) : (s.draw).ids = s.ids := rfl
@[simp] theorem State.draw_cur (s : State) : (s.draw).cur = s.cur := rfl
@[simp] theorem State.draw_moves (s : State) : (s.draw).moves = s.moves := rfl
@[simp] theorem State.draw_turn (s : State) : (s.draw).turn = s.turn := rfl
@[simp] theorem State.draw_outbox (s : State) : (s.draw).outbox = s.outbox := rfl

/-! ## State.setPolder -/

@[simp] theorem State.setPolder_mem (s : State) (w : Nat) (p : Polder) : (s.setPolder w p).mem = s.mem := rfl
@[simp] theorem State.setPolder_lines (s : State) (w : Nat) (p : Polder) : (s.setPolder w p).lines = s.lines := rfl
@[simp] theorem State.setPolder_lkeys (s : State) (w : Nat) (p : Polder) : (s.setPolder w p).lkeys = s.lkeys := rfl
@[simp] theorem State.setPolder_pckeys (s : State) (w : Nat) (p : Polder) : (s.setPolder w p).pckeys = s.pckeys := rfl
@[simp] theorem State.setPolder_dirty (s : State) (w : Nat) (p : Polder) : (s.setPolder w p).dirty = s.dirty := rfl
@[simp] theorem State.setPolder_stamps (s : State) (w : Nat) (p : Polder) : (s.setPolder w p).stamps = s.stamps := rfl
@[simp] theorem State.setPolder_l1 (s : State) (w : Nat) (p : Polder) : (s.setPolder w p).l1 = s.l1 := rfl
@[simp] theorem State.setPolder_ro (s : State) (w : Nat) (p : Polder) : (s.setPolder w p).ro = s.ro := rfl
@[simp] theorem State.setPolder_views (s : State) (w : Nat) (p : Polder) : (s.setPolder w p).views = s.views := rfl
@[simp] theorem State.setPolder_uatoms (s : State) (w : Nat) (p : Polder) : (s.setPolder w p).uatoms = s.uatoms := rfl
@[simp] theorem State.setPolder_vars (s : State) (w : Nat) (p : Polder) : (s.setPolder w p).vars = s.vars := rfl
@[simp] theorem State.setPolder_ranges (s : State) (w : Nat) (p : Polder) : (s.setPolder w p).ranges = s.ranges := rfl
@[simp] theorem State.setPolder_tlb (s : State) (w : Nat) (p : Polder) : (s.setPolder w p).tlb = s.tlb := rfl
@[simp] theorem State.setPolder_groups (s : State) (w : Nat) (p : Polder) : (s.setPolder w p).groups = s.groups := rfl
@[simp] theorem State.setPolder_teams (s : State) (w : Nat) (p : Polder) : (s.setPolder w p).teams = s.teams := rfl
@[simp] theorem State.setPolder_queues (s : State) (w : Nat) (p : Polder) : (s.setPolder w p).queues = s.queues := rfl
@[simp] theorem State.setPolder_ops (s : State) (w : Nat) (p : Polder) : (s.setPolder w p).ops = s.ops := rfl
@[simp] theorem State.setPolder_blocks (s : State) (w : Nat) (p : Polder) : (s.setPolder w p).blocks = s.blocks := rfl
@[simp] theorem State.setPolder_tasks (s : State) (w : Nat) (p : Polder) : (s.setPolder w p).tasks = s.tasks := rfl
@[simp] theorem State.setPolder_walks (s : State) (w : Nat) (p : Polder) : (s.setPolder w p).walks = s.walks := rfl
@[simp] theorem State.setPolder_tags (s : State) (w : Nat) (p : Polder) : (s.setPolder w p).tags = s.tags := rfl
@[simp] theorem State.setPolder_grids (s : State) (w : Nat) (p : Polder) : (s.setPolder w p).grids = s.grids := rfl
@[simp] theorem State.setPolder_graphs (s : State) (w : Nat) (p : Polder) : (s.setPolder w p).graphs = s.graphs := rfl
@[simp] theorem State.setPolder_launches (s : State) (w : Nat) (p : Polder) : (s.setPolder w p).launches = s.launches := rfl
@[simp] theorem State.setPolder_trust (s : State) (w : Nat) (p : Polder) : (s.setPolder w p).trust = s.trust := rfl
@[simp] theorem State.setPolder_clown (s : State) (w : Nat) (p : Polder) : (s.setPolder w p).clown = s.clown := rfl
@[simp] theorem State.setPolder_latch (s : State) (w : Nat) (p : Polder) : (s.setPolder w p).latch = s.latch := rfl
@[simp] theorem State.setPolder_changing (s : State) (w : Nat) (p : Polder) : (s.setPolder w p).changing = s.changing := rfl
@[simp] theorem State.setPolder_service (s : State) (w : Nat) (p : Polder) : (s.setPolder w p).service = s.service := rfl
@[simp] theorem State.setPolder_pcown (s : State) (w : Nat) (p : Polder) : (s.setPolder w p).pcown = s.pcown := rfl
@[simp] theorem State.setPolder_ways (s : State) (w : Nat) (p : Polder) : (s.setPolder w p).ways = s.ways := rfl
@[simp] theorem State.setPolder_lshare (s : State) (w : Nat) (p : Polder) : (s.setPolder w p).lshare = s.lshare := rfl
@[simp] theorem State.setPolder_phys (s : State) (w : Nat) (p : Polder) : (s.setPolder w p).phys = s.phys := rfl
@[simp] theorem State.setPolder_ports (s : State) (w : Nat) (p : Polder) : (s.setPolder w p).ports = s.ports := rfl
@[simp] theorem State.setPolder_devid (s : State) (w : Nat) (p : Polder) : (s.setPolder w p).devid = s.devid := rfl
@[simp] theorem State.setPolder_routes (s : State) (w : Nat) (p : Polder) : (s.setPolder w p).routes = s.routes := rfl
@[simp] theorem State.setPolder_comms (s : State) (w : Nat) (p : Polder) : (s.setPolder w p).comms = s.comms := rfl
@[simp] theorem State.setPolder_hworld (s : State) (w : Nat) (p : Polder) : (s.setPolder w p).hworld = s.hworld := rfl
@[simp] theorem State.setPolder_hclock (s : State) (w : Nat) (p : Polder) : (s.setPolder w p).hclock = s.hclock := rfl
@[simp] theorem State.setPolder_hres (s : State) (w : Nat) (p : Polder) : (s.setPolder w p).hres = s.hres := rfl
@[simp] theorem State.setPolder_cvmarks (s : State) (w : Nat) (p : Polder) : (s.setPolder w p).cvmarks = s.cvmarks := rfl
@[simp] theorem State.setPolder_rtimes (s : State) (w : Nat) (p : Polder) : (s.setPolder w p).rtimes = s.rtimes := rfl
@[simp] theorem State.setPolder_alarms (s : State) (w : Nat) (p : Polder) : (s.setPolder w p).alarms = s.alarms := rfl
@[simp] theorem State.setPolder_cxl (s : State) (w : Nat) (p : Polder) : (s.setPolder w p).cxl = s.cxl := rfl
@[simp] theorem State.setPolder_throttled (s : State) (w : Nat) (p : Polder) : (s.setPolder w p).throttled = s.throttled := rfl
@[simp] theorem State.setPolder_clock (s : State) (w : Nat) (p : Polder) : (s.setPolder w p).clock = s.clock := rfl
@[simp] theorem State.setPolder_fresh (s : State) (w : Nat) (p : Polder) : (s.setPolder w p).fresh = s.fresh := rfl
@[simp] theorem State.setPolder_ids (s : State) (w : Nat) (p : Polder) : (s.setPolder w p).ids = s.ids := rfl
@[simp] theorem State.setPolder_cur (s : State) (w : Nat) (p : Polder) : (s.setPolder w p).cur = s.cur := rfl
@[simp] theorem State.setPolder_moves (s : State) (w : Nat) (p : Polder) : (s.setPolder w p).moves = s.moves := rfl
@[simp] theorem State.setPolder_turn (s : State) (w : Nat) (p : Polder) : (s.setPolder w p).turn = s.turn := rfl
@[simp] theorem State.setPolder_outbox (s : State) (w : Nat) (p : Polder) : (s.setPolder w p).outbox = s.outbox := rfl

/-! ## State.setLine -/

@[simp] theorem State.setLine_mem (s : State) (ln : Nat) (l : LineState) : (s.setLine ln l).mem = s.mem := rfl
@[simp] theorem State.setLine_lkeys (s : State) (ln : Nat) (l : LineState) : (s.setLine ln l).lkeys = s.lkeys := rfl
@[simp] theorem State.setLine_pckeys (s : State) (ln : Nat) (l : LineState) : (s.setLine ln l).pckeys = s.pckeys := rfl
@[simp] theorem State.setLine_dirty (s : State) (ln : Nat) (l : LineState) : (s.setLine ln l).dirty = s.dirty := rfl
@[simp] theorem State.setLine_stamps (s : State) (ln : Nat) (l : LineState) : (s.setLine ln l).stamps = s.stamps := rfl
@[simp] theorem State.setLine_l1 (s : State) (ln : Nat) (l : LineState) : (s.setLine ln l).l1 = s.l1 := rfl
@[simp] theorem State.setLine_ro (s : State) (ln : Nat) (l : LineState) : (s.setLine ln l).ro = s.ro := rfl
@[simp] theorem State.setLine_views (s : State) (ln : Nat) (l : LineState) : (s.setLine ln l).views = s.views := rfl
@[simp] theorem State.setLine_uatoms (s : State) (ln : Nat) (l : LineState) : (s.setLine ln l).uatoms = s.uatoms := rfl
@[simp] theorem State.setLine_vars (s : State) (ln : Nat) (l : LineState) : (s.setLine ln l).vars = s.vars := rfl
@[simp] theorem State.setLine_ranges (s : State) (ln : Nat) (l : LineState) : (s.setLine ln l).ranges = s.ranges := rfl
@[simp] theorem State.setLine_tlb (s : State) (ln : Nat) (l : LineState) : (s.setLine ln l).tlb = s.tlb := rfl
@[simp] theorem State.setLine_groups (s : State) (ln : Nat) (l : LineState) : (s.setLine ln l).groups = s.groups := rfl
@[simp] theorem State.setLine_teams (s : State) (ln : Nat) (l : LineState) : (s.setLine ln l).teams = s.teams := rfl
@[simp] theorem State.setLine_queues (s : State) (ln : Nat) (l : LineState) : (s.setLine ln l).queues = s.queues := rfl
@[simp] theorem State.setLine_ops (s : State) (ln : Nat) (l : LineState) : (s.setLine ln l).ops = s.ops := rfl
@[simp] theorem State.setLine_blocks (s : State) (ln : Nat) (l : LineState) : (s.setLine ln l).blocks = s.blocks := rfl
@[simp] theorem State.setLine_tasks (s : State) (ln : Nat) (l : LineState) : (s.setLine ln l).tasks = s.tasks := rfl
@[simp] theorem State.setLine_walks (s : State) (ln : Nat) (l : LineState) : (s.setLine ln l).walks = s.walks := rfl
@[simp] theorem State.setLine_tags (s : State) (ln : Nat) (l : LineState) : (s.setLine ln l).tags = s.tags := rfl
@[simp] theorem State.setLine_grids (s : State) (ln : Nat) (l : LineState) : (s.setLine ln l).grids = s.grids := rfl
@[simp] theorem State.setLine_graphs (s : State) (ln : Nat) (l : LineState) : (s.setLine ln l).graphs = s.graphs := rfl
@[simp] theorem State.setLine_launches (s : State) (ln : Nat) (l : LineState) : (s.setLine ln l).launches = s.launches := rfl
@[simp] theorem State.setLine_pldrs (s : State) (ln : Nat) (l : LineState) : (s.setLine ln l).pldrs = s.pldrs := rfl
@[simp] theorem State.setLine_trust (s : State) (ln : Nat) (l : LineState) : (s.setLine ln l).trust = s.trust := rfl
@[simp] theorem State.setLine_clown (s : State) (ln : Nat) (l : LineState) : (s.setLine ln l).clown = s.clown := rfl
@[simp] theorem State.setLine_latch (s : State) (ln : Nat) (l : LineState) : (s.setLine ln l).latch = s.latch := rfl
@[simp] theorem State.setLine_changing (s : State) (ln : Nat) (l : LineState) : (s.setLine ln l).changing = s.changing := rfl
@[simp] theorem State.setLine_service (s : State) (ln : Nat) (l : LineState) : (s.setLine ln l).service = s.service := rfl
@[simp] theorem State.setLine_pcown (s : State) (ln : Nat) (l : LineState) : (s.setLine ln l).pcown = s.pcown := rfl
@[simp] theorem State.setLine_ways (s : State) (ln : Nat) (l : LineState) : (s.setLine ln l).ways = s.ways := rfl
@[simp] theorem State.setLine_lshare (s : State) (ln : Nat) (l : LineState) : (s.setLine ln l).lshare = s.lshare := rfl
@[simp] theorem State.setLine_phys (s : State) (ln : Nat) (l : LineState) : (s.setLine ln l).phys = s.phys := rfl
@[simp] theorem State.setLine_ports (s : State) (ln : Nat) (l : LineState) : (s.setLine ln l).ports = s.ports := rfl
@[simp] theorem State.setLine_devid (s : State) (ln : Nat) (l : LineState) : (s.setLine ln l).devid = s.devid := rfl
@[simp] theorem State.setLine_routes (s : State) (ln : Nat) (l : LineState) : (s.setLine ln l).routes = s.routes := rfl
@[simp] theorem State.setLine_comms (s : State) (ln : Nat) (l : LineState) : (s.setLine ln l).comms = s.comms := rfl
@[simp] theorem State.setLine_hworld (s : State) (ln : Nat) (l : LineState) : (s.setLine ln l).hworld = s.hworld := rfl
@[simp] theorem State.setLine_hclock (s : State) (ln : Nat) (l : LineState) : (s.setLine ln l).hclock = s.hclock := rfl
@[simp] theorem State.setLine_hres (s : State) (ln : Nat) (l : LineState) : (s.setLine ln l).hres = s.hres := rfl
@[simp] theorem State.setLine_cvmarks (s : State) (ln : Nat) (l : LineState) : (s.setLine ln l).cvmarks = s.cvmarks := rfl
@[simp] theorem State.setLine_rtimes (s : State) (ln : Nat) (l : LineState) : (s.setLine ln l).rtimes = s.rtimes := rfl
@[simp] theorem State.setLine_alarms (s : State) (ln : Nat) (l : LineState) : (s.setLine ln l).alarms = s.alarms := rfl
@[simp] theorem State.setLine_cxl (s : State) (ln : Nat) (l : LineState) : (s.setLine ln l).cxl = s.cxl := rfl
@[simp] theorem State.setLine_throttled (s : State) (ln : Nat) (l : LineState) : (s.setLine ln l).throttled = s.throttled := rfl
@[simp] theorem State.setLine_clock (s : State) (ln : Nat) (l : LineState) : (s.setLine ln l).clock = s.clock := rfl
@[simp] theorem State.setLine_fresh (s : State) (ln : Nat) (l : LineState) : (s.setLine ln l).fresh = s.fresh := rfl
@[simp] theorem State.setLine_ids (s : State) (ln : Nat) (l : LineState) : (s.setLine ln l).ids = s.ids := rfl
@[simp] theorem State.setLine_cur (s : State) (ln : Nat) (l : LineState) : (s.setLine ln l).cur = s.cur := rfl
@[simp] theorem State.setLine_moves (s : State) (ln : Nat) (l : LineState) : (s.setLine ln l).moves = s.moves := rfl
@[simp] theorem State.setLine_turn (s : State) (ln : Nat) (l : LineState) : (s.setLine ln l).turn = s.turn := rfl
@[simp] theorem State.setLine_outbox (s : State) (ln : Nat) (l : LineState) : (s.setLine ln l).outbox = s.outbox := rfl

/-! ## State.setStamp -/

@[simp] theorem State.setStamp_mem (s : State) (atom : Nat) (t : Nat × Nat) : (s.setStamp atom t).mem = s.mem := rfl
@[simp] theorem State.setStamp_lines (s : State) (atom : Nat) (t : Nat × Nat) : (s.setStamp atom t).lines = s.lines := rfl
@[simp] theorem State.setStamp_lkeys (s : State) (atom : Nat) (t : Nat × Nat) : (s.setStamp atom t).lkeys = s.lkeys := rfl
@[simp] theorem State.setStamp_pckeys (s : State) (atom : Nat) (t : Nat × Nat) : (s.setStamp atom t).pckeys = s.pckeys := rfl
@[simp] theorem State.setStamp_dirty (s : State) (atom : Nat) (t : Nat × Nat) : (s.setStamp atom t).dirty = s.dirty := rfl
@[simp] theorem State.setStamp_l1 (s : State) (atom : Nat) (t : Nat × Nat) : (s.setStamp atom t).l1 = s.l1 := rfl
@[simp] theorem State.setStamp_ro (s : State) (atom : Nat) (t : Nat × Nat) : (s.setStamp atom t).ro = s.ro := rfl
@[simp] theorem State.setStamp_views (s : State) (atom : Nat) (t : Nat × Nat) : (s.setStamp atom t).views = s.views := rfl
@[simp] theorem State.setStamp_uatoms (s : State) (atom : Nat) (t : Nat × Nat) : (s.setStamp atom t).uatoms = s.uatoms := rfl
@[simp] theorem State.setStamp_vars (s : State) (atom : Nat) (t : Nat × Nat) : (s.setStamp atom t).vars = s.vars := rfl
@[simp] theorem State.setStamp_ranges (s : State) (atom : Nat) (t : Nat × Nat) : (s.setStamp atom t).ranges = s.ranges := rfl
@[simp] theorem State.setStamp_tlb (s : State) (atom : Nat) (t : Nat × Nat) : (s.setStamp atom t).tlb = s.tlb := rfl
@[simp] theorem State.setStamp_groups (s : State) (atom : Nat) (t : Nat × Nat) : (s.setStamp atom t).groups = s.groups := rfl
@[simp] theorem State.setStamp_teams (s : State) (atom : Nat) (t : Nat × Nat) : (s.setStamp atom t).teams = s.teams := rfl
@[simp] theorem State.setStamp_queues (s : State) (atom : Nat) (t : Nat × Nat) : (s.setStamp atom t).queues = s.queues := rfl
@[simp] theorem State.setStamp_ops (s : State) (atom : Nat) (t : Nat × Nat) : (s.setStamp atom t).ops = s.ops := rfl
@[simp] theorem State.setStamp_blocks (s : State) (atom : Nat) (t : Nat × Nat) : (s.setStamp atom t).blocks = s.blocks := rfl
@[simp] theorem State.setStamp_tasks (s : State) (atom : Nat) (t : Nat × Nat) : (s.setStamp atom t).tasks = s.tasks := rfl
@[simp] theorem State.setStamp_walks (s : State) (atom : Nat) (t : Nat × Nat) : (s.setStamp atom t).walks = s.walks := rfl
@[simp] theorem State.setStamp_tags (s : State) (atom : Nat) (t : Nat × Nat) : (s.setStamp atom t).tags = s.tags := rfl
@[simp] theorem State.setStamp_grids (s : State) (atom : Nat) (t : Nat × Nat) : (s.setStamp atom t).grids = s.grids := rfl
@[simp] theorem State.setStamp_graphs (s : State) (atom : Nat) (t : Nat × Nat) : (s.setStamp atom t).graphs = s.graphs := rfl
@[simp] theorem State.setStamp_launches (s : State) (atom : Nat) (t : Nat × Nat) : (s.setStamp atom t).launches = s.launches := rfl
@[simp] theorem State.setStamp_pldrs (s : State) (atom : Nat) (t : Nat × Nat) : (s.setStamp atom t).pldrs = s.pldrs := rfl
@[simp] theorem State.setStamp_trust (s : State) (atom : Nat) (t : Nat × Nat) : (s.setStamp atom t).trust = s.trust := rfl
@[simp] theorem State.setStamp_clown (s : State) (atom : Nat) (t : Nat × Nat) : (s.setStamp atom t).clown = s.clown := rfl
@[simp] theorem State.setStamp_latch (s : State) (atom : Nat) (t : Nat × Nat) : (s.setStamp atom t).latch = s.latch := rfl
@[simp] theorem State.setStamp_changing (s : State) (atom : Nat) (t : Nat × Nat) : (s.setStamp atom t).changing = s.changing := rfl
@[simp] theorem State.setStamp_service (s : State) (atom : Nat) (t : Nat × Nat) : (s.setStamp atom t).service = s.service := rfl
@[simp] theorem State.setStamp_pcown (s : State) (atom : Nat) (t : Nat × Nat) : (s.setStamp atom t).pcown = s.pcown := rfl
@[simp] theorem State.setStamp_ways (s : State) (atom : Nat) (t : Nat × Nat) : (s.setStamp atom t).ways = s.ways := rfl
@[simp] theorem State.setStamp_lshare (s : State) (atom : Nat) (t : Nat × Nat) : (s.setStamp atom t).lshare = s.lshare := rfl
@[simp] theorem State.setStamp_phys (s : State) (atom : Nat) (t : Nat × Nat) : (s.setStamp atom t).phys = s.phys := rfl
@[simp] theorem State.setStamp_ports (s : State) (atom : Nat) (t : Nat × Nat) : (s.setStamp atom t).ports = s.ports := rfl
@[simp] theorem State.setStamp_devid (s : State) (atom : Nat) (t : Nat × Nat) : (s.setStamp atom t).devid = s.devid := rfl
@[simp] theorem State.setStamp_routes (s : State) (atom : Nat) (t : Nat × Nat) : (s.setStamp atom t).routes = s.routes := rfl
@[simp] theorem State.setStamp_comms (s : State) (atom : Nat) (t : Nat × Nat) : (s.setStamp atom t).comms = s.comms := rfl
@[simp] theorem State.setStamp_hworld (s : State) (atom : Nat) (t : Nat × Nat) : (s.setStamp atom t).hworld = s.hworld := rfl
@[simp] theorem State.setStamp_hclock (s : State) (atom : Nat) (t : Nat × Nat) : (s.setStamp atom t).hclock = s.hclock := rfl
@[simp] theorem State.setStamp_hres (s : State) (atom : Nat) (t : Nat × Nat) : (s.setStamp atom t).hres = s.hres := rfl
@[simp] theorem State.setStamp_cvmarks (s : State) (atom : Nat) (t : Nat × Nat) : (s.setStamp atom t).cvmarks = s.cvmarks := rfl
@[simp] theorem State.setStamp_rtimes (s : State) (atom : Nat) (t : Nat × Nat) : (s.setStamp atom t).rtimes = s.rtimes := rfl
@[simp] theorem State.setStamp_alarms (s : State) (atom : Nat) (t : Nat × Nat) : (s.setStamp atom t).alarms = s.alarms := rfl
@[simp] theorem State.setStamp_cxl (s : State) (atom : Nat) (t : Nat × Nat) : (s.setStamp atom t).cxl = s.cxl := rfl
@[simp] theorem State.setStamp_throttled (s : State) (atom : Nat) (t : Nat × Nat) : (s.setStamp atom t).throttled = s.throttled := rfl
@[simp] theorem State.setStamp_clock (s : State) (atom : Nat) (t : Nat × Nat) : (s.setStamp atom t).clock = s.clock := rfl
@[simp] theorem State.setStamp_fresh (s : State) (atom : Nat) (t : Nat × Nat) : (s.setStamp atom t).fresh = s.fresh := rfl
@[simp] theorem State.setStamp_ids (s : State) (atom : Nat) (t : Nat × Nat) : (s.setStamp atom t).ids = s.ids := rfl
@[simp] theorem State.setStamp_cur (s : State) (atom : Nat) (t : Nat × Nat) : (s.setStamp atom t).cur = s.cur := rfl
@[simp] theorem State.setStamp_moves (s : State) (atom : Nat) (t : Nat × Nat) : (s.setStamp atom t).moves = s.moves := rfl
@[simp] theorem State.setStamp_turn (s : State) (atom : Nat) (t : Nat × Nat) : (s.setStamp atom t).turn = s.turn := rfl
@[simp] theorem State.setStamp_outbox (s : State) (atom : Nat) (t : Nat × Nat) : (s.setStamp atom t).outbox = s.outbox := rfl

/-! ## State.meter -/

@[simp] theorem State.meter_mem (s : State) (w m n : Nat) : (s.meter w m n).mem = s.mem := by
  unfold State.meter; split <;> rfl
@[simp] theorem State.meter_lines (s : State) (w m n : Nat) : (s.meter w m n).lines = s.lines := by
  unfold State.meter; split <;> rfl
@[simp] theorem State.meter_lkeys (s : State) (w m n : Nat) : (s.meter w m n).lkeys = s.lkeys := by
  unfold State.meter; split <;> rfl
@[simp] theorem State.meter_pckeys (s : State) (w m n : Nat) : (s.meter w m n).pckeys = s.pckeys := by
  unfold State.meter; split <;> rfl
@[simp] theorem State.meter_dirty (s : State) (w m n : Nat) : (s.meter w m n).dirty = s.dirty := by
  unfold State.meter; split <;> rfl
@[simp] theorem State.meter_stamps (s : State) (w m n : Nat) : (s.meter w m n).stamps = s.stamps := by
  unfold State.meter; split <;> rfl
@[simp] theorem State.meter_l1 (s : State) (w m n : Nat) : (s.meter w m n).l1 = s.l1 := by
  unfold State.meter; split <;> rfl
@[simp] theorem State.meter_ro (s : State) (w m n : Nat) : (s.meter w m n).ro = s.ro := by
  unfold State.meter; split <;> rfl
@[simp] theorem State.meter_views (s : State) (w m n : Nat) : (s.meter w m n).views = s.views := by
  unfold State.meter; split <;> rfl
@[simp] theorem State.meter_uatoms (s : State) (w m n : Nat) : (s.meter w m n).uatoms = s.uatoms := by
  unfold State.meter; split <;> rfl
@[simp] theorem State.meter_vars (s : State) (w m n : Nat) : (s.meter w m n).vars = s.vars := by
  unfold State.meter; split <;> rfl
@[simp] theorem State.meter_ranges (s : State) (w m n : Nat) : (s.meter w m n).ranges = s.ranges := by
  unfold State.meter; split <;> rfl
@[simp] theorem State.meter_tlb (s : State) (w m n : Nat) : (s.meter w m n).tlb = s.tlb := by
  unfold State.meter; split <;> rfl
@[simp] theorem State.meter_groups (s : State) (w m n : Nat) : (s.meter w m n).groups = s.groups := by
  unfold State.meter; split <;> rfl
@[simp] theorem State.meter_teams (s : State) (w m n : Nat) : (s.meter w m n).teams = s.teams := by
  unfold State.meter; split <;> rfl
@[simp] theorem State.meter_queues (s : State) (w m n : Nat) : (s.meter w m n).queues = s.queues := by
  unfold State.meter; split <;> rfl
@[simp] theorem State.meter_ops (s : State) (w m n : Nat) : (s.meter w m n).ops = s.ops := by
  unfold State.meter; split <;> rfl
@[simp] theorem State.meter_blocks (s : State) (w m n : Nat) : (s.meter w m n).blocks = s.blocks := by
  unfold State.meter; split <;> rfl
@[simp] theorem State.meter_tasks (s : State) (w m n : Nat) : (s.meter w m n).tasks = s.tasks := by
  unfold State.meter; split <;> rfl
@[simp] theorem State.meter_walks (s : State) (w m n : Nat) : (s.meter w m n).walks = s.walks := by
  unfold State.meter; split <;> rfl
@[simp] theorem State.meter_tags (s : State) (w m n : Nat) : (s.meter w m n).tags = s.tags := by
  unfold State.meter; split <;> rfl
@[simp] theorem State.meter_grids (s : State) (w m n : Nat) : (s.meter w m n).grids = s.grids := by
  unfold State.meter; split <;> rfl
@[simp] theorem State.meter_graphs (s : State) (w m n : Nat) : (s.meter w m n).graphs = s.graphs := by
  unfold State.meter; split <;> rfl
@[simp] theorem State.meter_launches (s : State) (w m n : Nat) : (s.meter w m n).launches = s.launches := by
  unfold State.meter; split <;> rfl
@[simp] theorem State.meter_trust (s : State) (w m n : Nat) : (s.meter w m n).trust = s.trust := by
  unfold State.meter; split <;> rfl
@[simp] theorem State.meter_clown (s : State) (w m n : Nat) : (s.meter w m n).clown = s.clown := by
  unfold State.meter; split <;> rfl
@[simp] theorem State.meter_latch (s : State) (w m n : Nat) : (s.meter w m n).latch = s.latch := by
  unfold State.meter; split <;> rfl
@[simp] theorem State.meter_changing (s : State) (w m n : Nat) : (s.meter w m n).changing = s.changing := by
  unfold State.meter; split <;> rfl
@[simp] theorem State.meter_service (s : State) (w m n : Nat) : (s.meter w m n).service = s.service := by
  unfold State.meter; split <;> rfl
@[simp] theorem State.meter_pcown (s : State) (w m n : Nat) : (s.meter w m n).pcown = s.pcown := by
  unfold State.meter; split <;> rfl
@[simp] theorem State.meter_ways (s : State) (w m n : Nat) : (s.meter w m n).ways = s.ways := by
  unfold State.meter; split <;> rfl
@[simp] theorem State.meter_lshare (s : State) (w m n : Nat) : (s.meter w m n).lshare = s.lshare := by
  unfold State.meter; split <;> rfl
@[simp] theorem State.meter_phys (s : State) (w m n : Nat) : (s.meter w m n).phys = s.phys := by
  unfold State.meter; split <;> rfl
@[simp] theorem State.meter_ports (s : State) (w m n : Nat) : (s.meter w m n).ports = s.ports := by
  unfold State.meter; split <;> rfl
@[simp] theorem State.meter_devid (s : State) (w m n : Nat) : (s.meter w m n).devid = s.devid := by
  unfold State.meter; split <;> rfl
@[simp] theorem State.meter_routes (s : State) (w m n : Nat) : (s.meter w m n).routes = s.routes := by
  unfold State.meter; split <;> rfl
@[simp] theorem State.meter_comms (s : State) (w m n : Nat) : (s.meter w m n).comms = s.comms := by
  unfold State.meter; split <;> rfl
@[simp] theorem State.meter_hworld (s : State) (w m n : Nat) : (s.meter w m n).hworld = s.hworld := by
  unfold State.meter; split <;> rfl
@[simp] theorem State.meter_hclock (s : State) (w m n : Nat) : (s.meter w m n).hclock = s.hclock := by
  unfold State.meter; split <;> rfl
@[simp] theorem State.meter_hres (s : State) (w m n : Nat) : (s.meter w m n).hres = s.hres := by
  unfold State.meter; split <;> rfl
@[simp] theorem State.meter_cvmarks (s : State) (w m n : Nat) : (s.meter w m n).cvmarks = s.cvmarks := by
  unfold State.meter; split <;> rfl
@[simp] theorem State.meter_rtimes (s : State) (w m n : Nat) : (s.meter w m n).rtimes = s.rtimes := by
  unfold State.meter; split <;> rfl
@[simp] theorem State.meter_alarms (s : State) (w m n : Nat) : (s.meter w m n).alarms = s.alarms := by
  unfold State.meter; split <;> rfl
@[simp] theorem State.meter_cxl (s : State) (w m n : Nat) : (s.meter w m n).cxl = s.cxl := by
  unfold State.meter; split <;> rfl
@[simp] theorem State.meter_throttled (s : State) (w m n : Nat) : (s.meter w m n).throttled = s.throttled := by
  unfold State.meter; split <;> rfl
@[simp] theorem State.meter_clock (s : State) (w m n : Nat) : (s.meter w m n).clock = s.clock := by
  unfold State.meter; split <;> rfl
@[simp] theorem State.meter_fresh (s : State) (w m n : Nat) : (s.meter w m n).fresh = s.fresh := by
  unfold State.meter; split <;> rfl
@[simp] theorem State.meter_ids (s : State) (w m n : Nat) : (s.meter w m n).ids = s.ids := by
  unfold State.meter; split <;> rfl
@[simp] theorem State.meter_cur (s : State) (w m n : Nat) : (s.meter w m n).cur = s.cur := by
  unfold State.meter; split <;> rfl
@[simp] theorem State.meter_moves (s : State) (w m n : Nat) : (s.meter w m n).moves = s.moves := by
  unfold State.meter; split <;> rfl
@[simp] theorem State.meter_turn (s : State) (w m n : Nat) : (s.meter w m n).turn = s.turn := by
  unfold State.meter; split <;> rfl
@[simp] theorem State.meter_outbox (s : State) (w m n : Nat) : (s.meter w m n).outbox = s.outbox := by
  unfold State.meter; split <;> rfl

/-! ## Group.setS -/

@[simp] theorem Group.setS_gid (g : Group) (n : Nat) (v : SReg) : (g.setS n v).gid = g.gid := by
  unfold Group.setS; split <;> rfl
@[simp] theorem Group.setS_core (g : Group) (n : Nat) (v : SReg) : (g.setS n v).core = g.core := by
  unfold Group.setS; split <;> rfl
@[simp] theorem Group.setS_slot (g : Group) (n : Nat) (v : SReg) : (g.setS n v).slot = g.slot := by
  unfold Group.setS; split <;> rfl
@[simp] theorem Group.setS_world (g : Group) (n : Nat) (v : SReg) : (g.setS n v).world = g.world := by
  unfold Group.setS; split <;> rfl
@[simp] theorem Group.setS_team (g : Group) (n : Nat) (v : SReg) : (g.setS n v).team = g.team := by
  unfold Group.setS; split <;> rfl
@[simp] theorem Group.setS_grid (g : Group) (n : Nat) (v : SReg) : (g.setS n v).grid = g.grid := by
  unfold Group.setS; split <;> rfl
@[simp] theorem Group.setS_kind (g : Group) (n : Nat) (v : SReg) : (g.setS n v).kind = g.kind := by
  unfold Group.setS; split <;> rfl
@[simp] theorem Group.setS_lanes (g : Group) (n : Nat) (v : SReg) : (g.setS n v).lanes = g.lanes := by
  unfold Group.setS; split <;> rfl
@[simp] theorem Group.setS_cregs (g : Group) (n : Nat) (v : SReg) : (g.setS n v).cregs = g.cregs := by
  unfold Group.setS; split <;> rfl
@[simp] theorem Group.setS_qregs (g : Group) (n : Nat) (v : SReg) : (g.setS n v).qregs = g.qregs := by
  unfold Group.setS; split <;> rfl
@[simp] theorem Group.setS_flags (g : Group) (n : Nat) (v : SReg) : (g.setS n v).flags = g.flags := by
  unfold Group.setS; split <;> rfl
@[simp] theorem Group.setS_jregs (g : Group) (n : Nat) (v : SReg) : (g.setS n v).jregs = g.jregs := by
  unfold Group.setS; split <;> rfl
@[simp] theorem Group.setS_lclock (g : Group) (n : Nat) (v : SReg) : (g.setS n v).lclock = g.lclock := by
  unfold Group.setS; split <;> rfl
@[simp] theorem Group.setS_lcfrac (g : Group) (n : Nat) (v : SReg) : (g.setS n v).lcfrac = g.lcfrac := by
  unfold Group.setS; split <;> rfl
@[simp] theorem Group.setS_latch (g : Group) (n : Nat) (v : SReg) : (g.setS n v).latch = g.latch := by
  unfold Group.setS; split <;> rfl
@[simp] theorem Group.setS_frames (g : Group) (n : Nat) (v : SReg) : (g.setS n v).frames = g.frames := by
  unfold Group.setS; split <;> rfl
@[simp] theorem Group.setS_issue (g : Group) (n : Nat) (v : SReg) : (g.setS n v).issue = g.issue := by
  unfold Group.setS; split <;> rfl
@[simp] theorem Group.setS_waiting (g : Group) (n : Nat) (v : SReg) : (g.setS n v).waiting = g.waiting := by
  unfold Group.setS; split <;> rfl
@[simp] theorem Group.setS_request (g : Group) (n : Nat) (v : SReg) : (g.setS n v).request = g.request := by
  unfold Group.setS; split <;> rfl
@[simp] theorem Group.setS_held (g : Group) (n : Nat) (v : SReg) : (g.setS n v).held = g.held := by
  unfold Group.setS; split <;> rfl
@[simp] theorem Group.setS_heldTrap (g : Group) (n : Nat) (v : SReg) : (g.setS n v).heldTrap = g.heldTrap := by
  unfold Group.setS; split <;> rfl
@[simp] theorem Group.setS_asyncs (g : Group) (n : Nat) (v : SReg) : (g.setS n v).asyncs = g.asyncs := by
  unfold Group.setS; split <;> rfl
@[simp] theorem Group.setS_spush (g : Group) (n : Nat) (v : SReg) : (g.setS n v).spush = g.spush := by
  unfold Group.setS; split <;> rfl
@[simp] theorem Group.setS_popped (g : Group) (n : Nat) (v : SReg) : (g.setS n v).popped = g.popped := by
  unfold Group.setS; split <;> rfl
@[simp] theorem Group.setS_swapped (g : Group) (n : Nat) (v : SReg) : (g.setS n v).swapped = g.swapped := by
  unfold Group.setS; split <;> rfl
@[simp] theorem Group.setS_tlbinv (g : Group) (n : Nat) (v : SReg) : (g.setS n v).tlbinv = g.tlbinv := by
  unfold Group.setS; split <;> rfl
@[simp] theorem Group.setS_cmaint (g : Group) (n : Nat) (v : SReg) : (g.setS n v).cmaint = g.cmaint := by
  unfold Group.setS; split <;> rfl
@[simp] theorem Group.setS_restores (g : Group) (n : Nat) (v : SReg) : (g.setS n v).restores = g.restores := by
  unfold Group.setS; split <;> rfl
@[simp] theorem Group.setS_since (g : Group) (n : Nat) (v : SReg) : (g.setS n v).since = g.since := by
  unfold Group.setS; split <;> rfl
@[simp] theorem Group.setS_faults (g : Group) (n : Nat) (v : SReg) : (g.setS n v).faults = g.faults := by
  unfold Group.setS; split <;> rfl
@[simp] theorem Group.setS_lapsed (g : Group) (n : Nat) (v : SReg) : (g.setS n v).lapsed = g.lapsed := by
  unfold Group.setS; split <;> rfl
@[simp] theorem Group.setS_second (g : Group) (n : Nat) (v : SReg) : (g.setS n v).second = g.second := by
  unfold Group.setS; split <;> rfl
@[simp] theorem Group.setS_passed (g : Group) (n : Nat) (v : SReg) : (g.setS n v).passed = g.passed := by
  unfold Group.setS; split <;> rfl
@[simp] theorem Group.setS_atoms (g : Group) (n : Nat) (v : SReg) : (g.setS n v).atoms = g.atoms := by
  unfold Group.setS; split <;> rfl
@[simp] theorem Group.setS_launching (g : Group) (n : Nat) (v : SReg) : (g.setS n v).launching = g.launching := by
  unfold Group.setS; split <;> rfl
@[simp] theorem Group.setS_tried (g : Group) (n : Nat) (v : SReg) : (g.setS n v).tried = g.tried := by
  unfold Group.setS; split <;> rfl

/-! ## Group.setC -/

@[simp] theorem Group.setC_gid (g : Group) (k : Nat) (b : Bool) : (g.setC k b).gid = g.gid := rfl
@[simp] theorem Group.setC_core (g : Group) (k : Nat) (b : Bool) : (g.setC k b).core = g.core := rfl
@[simp] theorem Group.setC_slot (g : Group) (k : Nat) (b : Bool) : (g.setC k b).slot = g.slot := rfl
@[simp] theorem Group.setC_world (g : Group) (k : Nat) (b : Bool) : (g.setC k b).world = g.world := rfl
@[simp] theorem Group.setC_team (g : Group) (k : Nat) (b : Bool) : (g.setC k b).team = g.team := rfl
@[simp] theorem Group.setC_grid (g : Group) (k : Nat) (b : Bool) : (g.setC k b).grid = g.grid := rfl
@[simp] theorem Group.setC_kind (g : Group) (k : Nat) (b : Bool) : (g.setC k b).kind = g.kind := rfl
@[simp] theorem Group.setC_lanes (g : Group) (k : Nat) (b : Bool) : (g.setC k b).lanes = g.lanes := rfl
@[simp] theorem Group.setC_sregs (g : Group) (k : Nat) (b : Bool) : (g.setC k b).sregs = g.sregs := rfl
@[simp] theorem Group.setC_qregs (g : Group) (k : Nat) (b : Bool) : (g.setC k b).qregs = g.qregs := rfl
@[simp] theorem Group.setC_flags (g : Group) (k : Nat) (b : Bool) : (g.setC k b).flags = g.flags := rfl
@[simp] theorem Group.setC_jregs (g : Group) (k : Nat) (b : Bool) : (g.setC k b).jregs = g.jregs := rfl
@[simp] theorem Group.setC_lclock (g : Group) (k : Nat) (b : Bool) : (g.setC k b).lclock = g.lclock := rfl
@[simp] theorem Group.setC_lcfrac (g : Group) (k : Nat) (b : Bool) : (g.setC k b).lcfrac = g.lcfrac := rfl
@[simp] theorem Group.setC_gstat (g : Group) (k : Nat) (b : Bool) : (g.setC k b).gstat = g.gstat := rfl
@[simp] theorem Group.setC_latch (g : Group) (k : Nat) (b : Bool) : (g.setC k b).latch = g.latch := rfl
@[simp] theorem Group.setC_frames (g : Group) (k : Nat) (b : Bool) : (g.setC k b).frames = g.frames := rfl
@[simp] theorem Group.setC_issue (g : Group) (k : Nat) (b : Bool) : (g.setC k b).issue = g.issue := rfl
@[simp] theorem Group.setC_waiting (g : Group) (k : Nat) (b : Bool) : (g.setC k b).waiting = g.waiting := rfl
@[simp] theorem Group.setC_request (g : Group) (k : Nat) (b : Bool) : (g.setC k b).request = g.request := rfl
@[simp] theorem Group.setC_held (g : Group) (k : Nat) (b : Bool) : (g.setC k b).held = g.held := rfl
@[simp] theorem Group.setC_heldTrap (g : Group) (k : Nat) (b : Bool) : (g.setC k b).heldTrap = g.heldTrap := rfl
@[simp] theorem Group.setC_asyncs (g : Group) (k : Nat) (b : Bool) : (g.setC k b).asyncs = g.asyncs := rfl
@[simp] theorem Group.setC_spush (g : Group) (k : Nat) (b : Bool) : (g.setC k b).spush = g.spush := rfl
@[simp] theorem Group.setC_popped (g : Group) (k : Nat) (b : Bool) : (g.setC k b).popped = g.popped := rfl
@[simp] theorem Group.setC_swapped (g : Group) (k : Nat) (b : Bool) : (g.setC k b).swapped = g.swapped := rfl
@[simp] theorem Group.setC_tlbinv (g : Group) (k : Nat) (b : Bool) : (g.setC k b).tlbinv = g.tlbinv := rfl
@[simp] theorem Group.setC_cmaint (g : Group) (k : Nat) (b : Bool) : (g.setC k b).cmaint = g.cmaint := rfl
@[simp] theorem Group.setC_restores (g : Group) (k : Nat) (b : Bool) : (g.setC k b).restores = g.restores := rfl
@[simp] theorem Group.setC_since (g : Group) (k : Nat) (b : Bool) : (g.setC k b).since = g.since := rfl
@[simp] theorem Group.setC_faults (g : Group) (k : Nat) (b : Bool) : (g.setC k b).faults = g.faults := rfl
@[simp] theorem Group.setC_lapsed (g : Group) (k : Nat) (b : Bool) : (g.setC k b).lapsed = g.lapsed := rfl
@[simp] theorem Group.setC_second (g : Group) (k : Nat) (b : Bool) : (g.setC k b).second = g.second := rfl
@[simp] theorem Group.setC_passed (g : Group) (k : Nat) (b : Bool) : (g.setC k b).passed = g.passed := rfl
@[simp] theorem Group.setC_atoms (g : Group) (k : Nat) (b : Bool) : (g.setC k b).atoms = g.atoms := rfl
@[simp] theorem Group.setC_launching (g : Group) (k : Nat) (b : Bool) : (g.setC k b).launching = g.launching := rfl
@[simp] theorem Group.setC_tried (g : Group) (k : Nat) (b : Bool) : (g.setC k b).tried = g.tried := rfl

/-! ## Group.stick -/

@[simp] theorem Group.stick_gid (g : Group) (w : Word) (c : Bool) : (g.stick w c).gid = g.gid := rfl
@[simp] theorem Group.stick_core (g : Group) (w : Word) (c : Bool) : (g.stick w c).core = g.core := rfl
@[simp] theorem Group.stick_slot (g : Group) (w : Word) (c : Bool) : (g.stick w c).slot = g.slot := rfl
@[simp] theorem Group.stick_world (g : Group) (w : Word) (c : Bool) : (g.stick w c).world = g.world := rfl
@[simp] theorem Group.stick_team (g : Group) (w : Word) (c : Bool) : (g.stick w c).team = g.team := rfl
@[simp] theorem Group.stick_grid (g : Group) (w : Word) (c : Bool) : (g.stick w c).grid = g.grid := rfl
@[simp] theorem Group.stick_kind (g : Group) (w : Word) (c : Bool) : (g.stick w c).kind = g.kind := rfl
@[simp] theorem Group.stick_lanes (g : Group) (w : Word) (c : Bool) : (g.stick w c).lanes = g.lanes := rfl
@[simp] theorem Group.stick_sregs (g : Group) (w : Word) (c : Bool) : (g.stick w c).sregs = g.sregs := rfl
@[simp] theorem Group.stick_cregs (g : Group) (w : Word) (c : Bool) : (g.stick w c).cregs = g.cregs := rfl
@[simp] theorem Group.stick_qregs (g : Group) (w : Word) (c : Bool) : (g.stick w c).qregs = g.qregs := rfl
@[simp] theorem Group.stick_flags (g : Group) (w : Word) (c : Bool) : (g.stick w c).flags = g.flags := rfl
@[simp] theorem Group.stick_jregs (g : Group) (w : Word) (c : Bool) : (g.stick w c).jregs = g.jregs := rfl
@[simp] theorem Group.stick_lclock (g : Group) (w : Word) (c : Bool) : (g.stick w c).lclock = g.lclock := rfl
@[simp] theorem Group.stick_lcfrac (g : Group) (w : Word) (c : Bool) : (g.stick w c).lcfrac = g.lcfrac := rfl
@[simp] theorem Group.stick_latch (g : Group) (w : Word) (c : Bool) : (g.stick w c).latch = g.latch := rfl
@[simp] theorem Group.stick_frames (g : Group) (w : Word) (c : Bool) : (g.stick w c).frames = g.frames := rfl
@[simp] theorem Group.stick_issue (g : Group) (w : Word) (c : Bool) : (g.stick w c).issue = g.issue := rfl
@[simp] theorem Group.stick_waiting (g : Group) (w : Word) (c : Bool) : (g.stick w c).waiting = g.waiting := rfl
@[simp] theorem Group.stick_request (g : Group) (w : Word) (c : Bool) : (g.stick w c).request = g.request := rfl
@[simp] theorem Group.stick_held (g : Group) (w : Word) (c : Bool) : (g.stick w c).held = g.held := rfl
@[simp] theorem Group.stick_heldTrap (g : Group) (w : Word) (c : Bool) : (g.stick w c).heldTrap = g.heldTrap := rfl
@[simp] theorem Group.stick_asyncs (g : Group) (w : Word) (c : Bool) : (g.stick w c).asyncs = g.asyncs := rfl
@[simp] theorem Group.stick_spush (g : Group) (w : Word) (c : Bool) : (g.stick w c).spush = g.spush := rfl
@[simp] theorem Group.stick_popped (g : Group) (w : Word) (c : Bool) : (g.stick w c).popped = g.popped := rfl
@[simp] theorem Group.stick_swapped (g : Group) (w : Word) (c : Bool) : (g.stick w c).swapped = g.swapped := rfl
@[simp] theorem Group.stick_tlbinv (g : Group) (w : Word) (c : Bool) : (g.stick w c).tlbinv = g.tlbinv := rfl
@[simp] theorem Group.stick_cmaint (g : Group) (w : Word) (c : Bool) : (g.stick w c).cmaint = g.cmaint := rfl
@[simp] theorem Group.stick_restores (g : Group) (w : Word) (c : Bool) : (g.stick w c).restores = g.restores := rfl
@[simp] theorem Group.stick_since (g : Group) (w : Word) (c : Bool) : (g.stick w c).since = g.since := rfl
@[simp] theorem Group.stick_faults (g : Group) (w : Word) (c : Bool) : (g.stick w c).faults = g.faults := rfl
@[simp] theorem Group.stick_lapsed (g : Group) (w : Word) (c : Bool) : (g.stick w c).lapsed = g.lapsed := rfl
@[simp] theorem Group.stick_second (g : Group) (w : Word) (c : Bool) : (g.stick w c).second = g.second := rfl
@[simp] theorem Group.stick_passed (g : Group) (w : Word) (c : Bool) : (g.stick w c).passed = g.passed := rfl
@[simp] theorem Group.stick_atoms (g : Group) (w : Word) (c : Bool) : (g.stick w c).atoms = g.atoms := rfl
@[simp] theorem Group.stick_launching (g : Group) (w : Word) (c : Bool) : (g.stick w c).launching = g.launching := rfl
@[simp] theorem Group.stick_tried (g : Group) (w : Word) (c : Bool) : (g.stick w c).tried = g.tried := rfl

/-! ## Group.mapLanes -/

@[simp] theorem Group.mapLanes_gid (g : Group) (p : Nat → Bool) (f : Nat → Lane → Lane) : (g.mapLanes p f).gid = g.gid := rfl
@[simp] theorem Group.mapLanes_core (g : Group) (p : Nat → Bool) (f : Nat → Lane → Lane) : (g.mapLanes p f).core = g.core := rfl
@[simp] theorem Group.mapLanes_slot (g : Group) (p : Nat → Bool) (f : Nat → Lane → Lane) : (g.mapLanes p f).slot = g.slot := rfl
@[simp] theorem Group.mapLanes_world (g : Group) (p : Nat → Bool) (f : Nat → Lane → Lane) : (g.mapLanes p f).world = g.world := rfl
@[simp] theorem Group.mapLanes_team (g : Group) (p : Nat → Bool) (f : Nat → Lane → Lane) : (g.mapLanes p f).team = g.team := rfl
@[simp] theorem Group.mapLanes_grid (g : Group) (p : Nat → Bool) (f : Nat → Lane → Lane) : (g.mapLanes p f).grid = g.grid := rfl
@[simp] theorem Group.mapLanes_kind (g : Group) (p : Nat → Bool) (f : Nat → Lane → Lane) : (g.mapLanes p f).kind = g.kind := rfl
@[simp] theorem Group.mapLanes_sregs (g : Group) (p : Nat → Bool) (f : Nat → Lane → Lane) : (g.mapLanes p f).sregs = g.sregs := rfl
@[simp] theorem Group.mapLanes_cregs (g : Group) (p : Nat → Bool) (f : Nat → Lane → Lane) : (g.mapLanes p f).cregs = g.cregs := rfl
@[simp] theorem Group.mapLanes_qregs (g : Group) (p : Nat → Bool) (f : Nat → Lane → Lane) : (g.mapLanes p f).qregs = g.qregs := rfl
@[simp] theorem Group.mapLanes_flags (g : Group) (p : Nat → Bool) (f : Nat → Lane → Lane) : (g.mapLanes p f).flags = g.flags := rfl
@[simp] theorem Group.mapLanes_jregs (g : Group) (p : Nat → Bool) (f : Nat → Lane → Lane) : (g.mapLanes p f).jregs = g.jregs := rfl
@[simp] theorem Group.mapLanes_lclock (g : Group) (p : Nat → Bool) (f : Nat → Lane → Lane) : (g.mapLanes p f).lclock = g.lclock := rfl
@[simp] theorem Group.mapLanes_lcfrac (g : Group) (p : Nat → Bool) (f : Nat → Lane → Lane) : (g.mapLanes p f).lcfrac = g.lcfrac := rfl
@[simp] theorem Group.mapLanes_gstat (g : Group) (p : Nat → Bool) (f : Nat → Lane → Lane) : (g.mapLanes p f).gstat = g.gstat := rfl
@[simp] theorem Group.mapLanes_latch (g : Group) (p : Nat → Bool) (f : Nat → Lane → Lane) : (g.mapLanes p f).latch = g.latch := rfl
@[simp] theorem Group.mapLanes_frames (g : Group) (p : Nat → Bool) (f : Nat → Lane → Lane) : (g.mapLanes p f).frames = g.frames := rfl
@[simp] theorem Group.mapLanes_issue (g : Group) (p : Nat → Bool) (f : Nat → Lane → Lane) : (g.mapLanes p f).issue = g.issue := rfl
@[simp] theorem Group.mapLanes_waiting (g : Group) (p : Nat → Bool) (f : Nat → Lane → Lane) : (g.mapLanes p f).waiting = g.waiting := rfl
@[simp] theorem Group.mapLanes_request (g : Group) (p : Nat → Bool) (f : Nat → Lane → Lane) : (g.mapLanes p f).request = g.request := rfl
@[simp] theorem Group.mapLanes_held (g : Group) (p : Nat → Bool) (f : Nat → Lane → Lane) : (g.mapLanes p f).held = g.held := rfl
@[simp] theorem Group.mapLanes_heldTrap (g : Group) (p : Nat → Bool) (f : Nat → Lane → Lane) : (g.mapLanes p f).heldTrap = g.heldTrap := rfl
@[simp] theorem Group.mapLanes_asyncs (g : Group) (p : Nat → Bool) (f : Nat → Lane → Lane) : (g.mapLanes p f).asyncs = g.asyncs := rfl
@[simp] theorem Group.mapLanes_spush (g : Group) (p : Nat → Bool) (f : Nat → Lane → Lane) : (g.mapLanes p f).spush = g.spush := rfl
@[simp] theorem Group.mapLanes_popped (g : Group) (p : Nat → Bool) (f : Nat → Lane → Lane) : (g.mapLanes p f).popped = g.popped := rfl
@[simp] theorem Group.mapLanes_swapped (g : Group) (p : Nat → Bool) (f : Nat → Lane → Lane) : (g.mapLanes p f).swapped = g.swapped := rfl
@[simp] theorem Group.mapLanes_tlbinv (g : Group) (p : Nat → Bool) (f : Nat → Lane → Lane) : (g.mapLanes p f).tlbinv = g.tlbinv := rfl
@[simp] theorem Group.mapLanes_cmaint (g : Group) (p : Nat → Bool) (f : Nat → Lane → Lane) : (g.mapLanes p f).cmaint = g.cmaint := rfl
@[simp] theorem Group.mapLanes_restores (g : Group) (p : Nat → Bool) (f : Nat → Lane → Lane) : (g.mapLanes p f).restores = g.restores := rfl
@[simp] theorem Group.mapLanes_since (g : Group) (p : Nat → Bool) (f : Nat → Lane → Lane) : (g.mapLanes p f).since = g.since := rfl
@[simp] theorem Group.mapLanes_faults (g : Group) (p : Nat → Bool) (f : Nat → Lane → Lane) : (g.mapLanes p f).faults = g.faults := rfl
@[simp] theorem Group.mapLanes_lapsed (g : Group) (p : Nat → Bool) (f : Nat → Lane → Lane) : (g.mapLanes p f).lapsed = g.lapsed := rfl
@[simp] theorem Group.mapLanes_second (g : Group) (p : Nat → Bool) (f : Nat → Lane → Lane) : (g.mapLanes p f).second = g.second := rfl
@[simp] theorem Group.mapLanes_passed (g : Group) (p : Nat → Bool) (f : Nat → Lane → Lane) : (g.mapLanes p f).passed = g.passed := rfl
@[simp] theorem Group.mapLanes_atoms (g : Group) (p : Nat → Bool) (f : Nat → Lane → Lane) : (g.mapLanes p f).atoms = g.atoms := rfl
@[simp] theorem Group.mapLanes_launching (g : Group) (p : Nat → Bool) (f : Nat → Lane → Lane) : (g.mapLanes p f).launching = g.launching := rfl
@[simp] theorem Group.mapLanes_tried (g : Group) (p : Nat → Bool) (f : Nat → Lane → Lane) : (g.mapLanes p f).tried = g.tried := rfl

/-! ## Group.writeV -/

@[simp] theorem Group.writeV_gid (g : Group) (ws : Writes) : (g.writeV ws).gid = g.gid := rfl
@[simp] theorem Group.writeV_core (g : Group) (ws : Writes) : (g.writeV ws).core = g.core := rfl
@[simp] theorem Group.writeV_slot (g : Group) (ws : Writes) : (g.writeV ws).slot = g.slot := rfl
@[simp] theorem Group.writeV_world (g : Group) (ws : Writes) : (g.writeV ws).world = g.world := rfl
@[simp] theorem Group.writeV_team (g : Group) (ws : Writes) : (g.writeV ws).team = g.team := rfl
@[simp] theorem Group.writeV_grid (g : Group) (ws : Writes) : (g.writeV ws).grid = g.grid := rfl
@[simp] theorem Group.writeV_kind (g : Group) (ws : Writes) : (g.writeV ws).kind = g.kind := rfl
@[simp] theorem Group.writeV_sregs (g : Group) (ws : Writes) : (g.writeV ws).sregs = g.sregs := rfl
@[simp] theorem Group.writeV_cregs (g : Group) (ws : Writes) : (g.writeV ws).cregs = g.cregs := rfl
@[simp] theorem Group.writeV_qregs (g : Group) (ws : Writes) : (g.writeV ws).qregs = g.qregs := rfl
@[simp] theorem Group.writeV_flags (g : Group) (ws : Writes) : (g.writeV ws).flags = g.flags := rfl
@[simp] theorem Group.writeV_jregs (g : Group) (ws : Writes) : (g.writeV ws).jregs = g.jregs := rfl
@[simp] theorem Group.writeV_lclock (g : Group) (ws : Writes) : (g.writeV ws).lclock = g.lclock := rfl
@[simp] theorem Group.writeV_lcfrac (g : Group) (ws : Writes) : (g.writeV ws).lcfrac = g.lcfrac := rfl
@[simp] theorem Group.writeV_latch (g : Group) (ws : Writes) : (g.writeV ws).latch = g.latch := rfl
@[simp] theorem Group.writeV_frames (g : Group) (ws : Writes) : (g.writeV ws).frames = g.frames := rfl
@[simp] theorem Group.writeV_issue (g : Group) (ws : Writes) : (g.writeV ws).issue = g.issue := rfl
@[simp] theorem Group.writeV_waiting (g : Group) (ws : Writes) : (g.writeV ws).waiting = g.waiting := rfl
@[simp] theorem Group.writeV_request (g : Group) (ws : Writes) : (g.writeV ws).request = g.request := rfl
@[simp] theorem Group.writeV_held (g : Group) (ws : Writes) : (g.writeV ws).held = g.held := rfl
@[simp] theorem Group.writeV_heldTrap (g : Group) (ws : Writes) : (g.writeV ws).heldTrap = g.heldTrap := rfl
@[simp] theorem Group.writeV_asyncs (g : Group) (ws : Writes) : (g.writeV ws).asyncs = g.asyncs := rfl
@[simp] theorem Group.writeV_spush (g : Group) (ws : Writes) : (g.writeV ws).spush = g.spush := rfl
@[simp] theorem Group.writeV_popped (g : Group) (ws : Writes) : (g.writeV ws).popped = g.popped := rfl
@[simp] theorem Group.writeV_swapped (g : Group) (ws : Writes) : (g.writeV ws).swapped = g.swapped := rfl
@[simp] theorem Group.writeV_tlbinv (g : Group) (ws : Writes) : (g.writeV ws).tlbinv = g.tlbinv := rfl
@[simp] theorem Group.writeV_cmaint (g : Group) (ws : Writes) : (g.writeV ws).cmaint = g.cmaint := rfl
@[simp] theorem Group.writeV_restores (g : Group) (ws : Writes) : (g.writeV ws).restores = g.restores := rfl
@[simp] theorem Group.writeV_since (g : Group) (ws : Writes) : (g.writeV ws).since = g.since := rfl
@[simp] theorem Group.writeV_faults (g : Group) (ws : Writes) : (g.writeV ws).faults = g.faults := rfl
@[simp] theorem Group.writeV_lapsed (g : Group) (ws : Writes) : (g.writeV ws).lapsed = g.lapsed := rfl
@[simp] theorem Group.writeV_second (g : Group) (ws : Writes) : (g.writeV ws).second = g.second := rfl
@[simp] theorem Group.writeV_passed (g : Group) (ws : Writes) : (g.writeV ws).passed = g.passed := rfl
@[simp] theorem Group.writeV_atoms (g : Group) (ws : Writes) : (g.writeV ws).atoms = g.atoms := rfl
@[simp] theorem Group.writeV_launching (g : Group) (ws : Writes) : (g.writeV ws).launching = g.launching := rfl
@[simp] theorem Group.writeV_tried (g : Group) (ws : Writes) : (g.writeV ws).tried = g.tried := rfl

/-! ## Group.raise -/

@[simp] theorem Group.raise_gid (g : Group) (t : Nat) : (g.raise t).gid = g.gid := rfl
@[simp] theorem Group.raise_core (g : Group) (t : Nat) : (g.raise t).core = g.core := rfl
@[simp] theorem Group.raise_slot (g : Group) (t : Nat) : (g.raise t).slot = g.slot := rfl
@[simp] theorem Group.raise_world (g : Group) (t : Nat) : (g.raise t).world = g.world := rfl
@[simp] theorem Group.raise_team (g : Group) (t : Nat) : (g.raise t).team = g.team := rfl
@[simp] theorem Group.raise_grid (g : Group) (t : Nat) : (g.raise t).grid = g.grid := rfl
@[simp] theorem Group.raise_kind (g : Group) (t : Nat) : (g.raise t).kind = g.kind := rfl
@[simp] theorem Group.raise_lanes (g : Group) (t : Nat) : (g.raise t).lanes = g.lanes := rfl
@[simp] theorem Group.raise_sregs (g : Group) (t : Nat) : (g.raise t).sregs = g.sregs := rfl
@[simp] theorem Group.raise_cregs (g : Group) (t : Nat) : (g.raise t).cregs = g.cregs := rfl
@[simp] theorem Group.raise_qregs (g : Group) (t : Nat) : (g.raise t).qregs = g.qregs := rfl
@[simp] theorem Group.raise_flags (g : Group) (t : Nat) : (g.raise t).flags = g.flags := rfl
@[simp] theorem Group.raise_jregs (g : Group) (t : Nat) : (g.raise t).jregs = g.jregs := rfl
@[simp] theorem Group.raise_lcfrac (g : Group) (t : Nat) : (g.raise t).lcfrac = g.lcfrac := rfl
@[simp] theorem Group.raise_gstat (g : Group) (t : Nat) : (g.raise t).gstat = g.gstat := rfl
@[simp] theorem Group.raise_latch (g : Group) (t : Nat) : (g.raise t).latch = g.latch := rfl
@[simp] theorem Group.raise_frames (g : Group) (t : Nat) : (g.raise t).frames = g.frames := rfl
@[simp] theorem Group.raise_issue (g : Group) (t : Nat) : (g.raise t).issue = g.issue := rfl
@[simp] theorem Group.raise_waiting (g : Group) (t : Nat) : (g.raise t).waiting = g.waiting := rfl
@[simp] theorem Group.raise_request (g : Group) (t : Nat) : (g.raise t).request = g.request := rfl
@[simp] theorem Group.raise_held (g : Group) (t : Nat) : (g.raise t).held = g.held := rfl
@[simp] theorem Group.raise_heldTrap (g : Group) (t : Nat) : (g.raise t).heldTrap = g.heldTrap := rfl
@[simp] theorem Group.raise_asyncs (g : Group) (t : Nat) : (g.raise t).asyncs = g.asyncs := rfl
@[simp] theorem Group.raise_spush (g : Group) (t : Nat) : (g.raise t).spush = g.spush := rfl
@[simp] theorem Group.raise_popped (g : Group) (t : Nat) : (g.raise t).popped = g.popped := rfl
@[simp] theorem Group.raise_swapped (g : Group) (t : Nat) : (g.raise t).swapped = g.swapped := rfl
@[simp] theorem Group.raise_tlbinv (g : Group) (t : Nat) : (g.raise t).tlbinv = g.tlbinv := rfl
@[simp] theorem Group.raise_cmaint (g : Group) (t : Nat) : (g.raise t).cmaint = g.cmaint := rfl
@[simp] theorem Group.raise_restores (g : Group) (t : Nat) : (g.raise t).restores = g.restores := rfl
@[simp] theorem Group.raise_since (g : Group) (t : Nat) : (g.raise t).since = g.since := rfl
@[simp] theorem Group.raise_faults (g : Group) (t : Nat) : (g.raise t).faults = g.faults := rfl
@[simp] theorem Group.raise_lapsed (g : Group) (t : Nat) : (g.raise t).lapsed = g.lapsed := rfl
@[simp] theorem Group.raise_second (g : Group) (t : Nat) : (g.raise t).second = g.second := rfl
@[simp] theorem Group.raise_passed (g : Group) (t : Nat) : (g.raise t).passed = g.passed := rfl
@[simp] theorem Group.raise_atoms (g : Group) (t : Nat) : (g.raise t).atoms = g.atoms := rfl
@[simp] theorem Group.raise_launching (g : Group) (t : Nat) : (g.raise t).launching = g.launching := rfl
@[simp] theorem Group.raise_tried (g : Group) (t : Nat) : (g.raise t).tried = g.tried := rfl

/-! ## Group.countFlag -/

@[simp] theorem Group.countFlag_gid (g : Group) (k : Option Nat) : (g.countFlag k).gid = g.gid := by
  cases k <;> rfl
@[simp] theorem Group.countFlag_core (g : Group) (k : Option Nat) : (g.countFlag k).core = g.core := by
  cases k <;> rfl
@[simp] theorem Group.countFlag_slot (g : Group) (k : Option Nat) : (g.countFlag k).slot = g.slot := by
  cases k <;> rfl
@[simp] theorem Group.countFlag_world (g : Group) (k : Option Nat) : (g.countFlag k).world = g.world := by
  cases k <;> rfl
@[simp] theorem Group.countFlag_team (g : Group) (k : Option Nat) : (g.countFlag k).team = g.team := by
  cases k <;> rfl
@[simp] theorem Group.countFlag_grid (g : Group) (k : Option Nat) : (g.countFlag k).grid = g.grid := by
  cases k <;> rfl
@[simp] theorem Group.countFlag_kind (g : Group) (k : Option Nat) : (g.countFlag k).kind = g.kind := by
  cases k <;> rfl
@[simp] theorem Group.countFlag_lanes (g : Group) (k : Option Nat) : (g.countFlag k).lanes = g.lanes := by
  cases k <;> rfl
@[simp] theorem Group.countFlag_sregs (g : Group) (k : Option Nat) : (g.countFlag k).sregs = g.sregs := by
  cases k <;> rfl
@[simp] theorem Group.countFlag_cregs (g : Group) (k : Option Nat) : (g.countFlag k).cregs = g.cregs := by
  cases k <;> rfl
@[simp] theorem Group.countFlag_qregs (g : Group) (k : Option Nat) : (g.countFlag k).qregs = g.qregs := by
  cases k <;> rfl
@[simp] theorem Group.countFlag_jregs (g : Group) (k : Option Nat) : (g.countFlag k).jregs = g.jregs := by
  cases k <;> rfl
@[simp] theorem Group.countFlag_lclock (g : Group) (k : Option Nat) : (g.countFlag k).lclock = g.lclock := by
  cases k <;> rfl
@[simp] theorem Group.countFlag_lcfrac (g : Group) (k : Option Nat) : (g.countFlag k).lcfrac = g.lcfrac := by
  cases k <;> rfl
@[simp] theorem Group.countFlag_gstat (g : Group) (k : Option Nat) : (g.countFlag k).gstat = g.gstat := by
  cases k <;> rfl
@[simp] theorem Group.countFlag_latch (g : Group) (k : Option Nat) : (g.countFlag k).latch = g.latch := by
  cases k <;> rfl
@[simp] theorem Group.countFlag_frames (g : Group) (k : Option Nat) : (g.countFlag k).frames = g.frames := by
  cases k <;> rfl
@[simp] theorem Group.countFlag_issue (g : Group) (k : Option Nat) : (g.countFlag k).issue = g.issue := by
  cases k <;> rfl
@[simp] theorem Group.countFlag_waiting (g : Group) (k : Option Nat) : (g.countFlag k).waiting = g.waiting := by
  cases k <;> rfl
@[simp] theorem Group.countFlag_request (g : Group) (k : Option Nat) : (g.countFlag k).request = g.request := by
  cases k <;> rfl
@[simp] theorem Group.countFlag_held (g : Group) (k : Option Nat) : (g.countFlag k).held = g.held := by
  cases k <;> rfl
@[simp] theorem Group.countFlag_heldTrap (g : Group) (k : Option Nat) : (g.countFlag k).heldTrap = g.heldTrap := by
  cases k <;> rfl
@[simp] theorem Group.countFlag_asyncs (g : Group) (k : Option Nat) : (g.countFlag k).asyncs = g.asyncs := by
  cases k <;> rfl
@[simp] theorem Group.countFlag_spush (g : Group) (k : Option Nat) : (g.countFlag k).spush = g.spush := by
  cases k <;> rfl
@[simp] theorem Group.countFlag_popped (g : Group) (k : Option Nat) : (g.countFlag k).popped = g.popped := by
  cases k <;> rfl
@[simp] theorem Group.countFlag_swapped (g : Group) (k : Option Nat) : (g.countFlag k).swapped = g.swapped := by
  cases k <;> rfl
@[simp] theorem Group.countFlag_tlbinv (g : Group) (k : Option Nat) : (g.countFlag k).tlbinv = g.tlbinv := by
  cases k <;> rfl
@[simp] theorem Group.countFlag_cmaint (g : Group) (k : Option Nat) : (g.countFlag k).cmaint = g.cmaint := by
  cases k <;> rfl
@[simp] theorem Group.countFlag_restores (g : Group) (k : Option Nat) : (g.countFlag k).restores = g.restores := by
  cases k <;> rfl
@[simp] theorem Group.countFlag_since (g : Group) (k : Option Nat) : (g.countFlag k).since = g.since := by
  cases k <;> rfl
@[simp] theorem Group.countFlag_faults (g : Group) (k : Option Nat) : (g.countFlag k).faults = g.faults := by
  cases k <;> rfl
@[simp] theorem Group.countFlag_lapsed (g : Group) (k : Option Nat) : (g.countFlag k).lapsed = g.lapsed := by
  cases k <;> rfl
@[simp] theorem Group.countFlag_second (g : Group) (k : Option Nat) : (g.countFlag k).second = g.second := by
  cases k <;> rfl
@[simp] theorem Group.countFlag_passed (g : Group) (k : Option Nat) : (g.countFlag k).passed = g.passed := by
  cases k <;> rfl
@[simp] theorem Group.countFlag_atoms (g : Group) (k : Option Nat) : (g.countFlag k).atoms = g.atoms := by
  cases k <;> rfl
@[simp] theorem Group.countFlag_launching (g : Group) (k : Option Nat) : (g.countFlag k).launching = g.launching := by
  cases k <;> rfl
@[simp] theorem Group.countFlag_tried (g : Group) (k : Option Nat) : (g.countFlag k).tried = g.tried := by
  cases k <;> rfl

/-! ## Group.dropFlag -/

@[simp] theorem Group.dropFlag_gid (g : Group) (k : Option Nat) : (g.dropFlag k).gid = g.gid := by
  cases k <;> rfl
@[simp] theorem Group.dropFlag_core (g : Group) (k : Option Nat) : (g.dropFlag k).core = g.core := by
  cases k <;> rfl
@[simp] theorem Group.dropFlag_slot (g : Group) (k : Option Nat) : (g.dropFlag k).slot = g.slot := by
  cases k <;> rfl
@[simp] theorem Group.dropFlag_world (g : Group) (k : Option Nat) : (g.dropFlag k).world = g.world := by
  cases k <;> rfl
@[simp] theorem Group.dropFlag_team (g : Group) (k : Option Nat) : (g.dropFlag k).team = g.team := by
  cases k <;> rfl
@[simp] theorem Group.dropFlag_grid (g : Group) (k : Option Nat) : (g.dropFlag k).grid = g.grid := by
  cases k <;> rfl
@[simp] theorem Group.dropFlag_kind (g : Group) (k : Option Nat) : (g.dropFlag k).kind = g.kind := by
  cases k <;> rfl
@[simp] theorem Group.dropFlag_lanes (g : Group) (k : Option Nat) : (g.dropFlag k).lanes = g.lanes := by
  cases k <;> rfl
@[simp] theorem Group.dropFlag_sregs (g : Group) (k : Option Nat) : (g.dropFlag k).sregs = g.sregs := by
  cases k <;> rfl
@[simp] theorem Group.dropFlag_cregs (g : Group) (k : Option Nat) : (g.dropFlag k).cregs = g.cregs := by
  cases k <;> rfl
@[simp] theorem Group.dropFlag_qregs (g : Group) (k : Option Nat) : (g.dropFlag k).qregs = g.qregs := by
  cases k <;> rfl
@[simp] theorem Group.dropFlag_jregs (g : Group) (k : Option Nat) : (g.dropFlag k).jregs = g.jregs := by
  cases k <;> rfl
@[simp] theorem Group.dropFlag_lclock (g : Group) (k : Option Nat) : (g.dropFlag k).lclock = g.lclock := by
  cases k <;> rfl
@[simp] theorem Group.dropFlag_lcfrac (g : Group) (k : Option Nat) : (g.dropFlag k).lcfrac = g.lcfrac := by
  cases k <;> rfl
@[simp] theorem Group.dropFlag_gstat (g : Group) (k : Option Nat) : (g.dropFlag k).gstat = g.gstat := by
  cases k <;> rfl
@[simp] theorem Group.dropFlag_latch (g : Group) (k : Option Nat) : (g.dropFlag k).latch = g.latch := by
  cases k <;> rfl
@[simp] theorem Group.dropFlag_frames (g : Group) (k : Option Nat) : (g.dropFlag k).frames = g.frames := by
  cases k <;> rfl
@[simp] theorem Group.dropFlag_issue (g : Group) (k : Option Nat) : (g.dropFlag k).issue = g.issue := by
  cases k <;> rfl
@[simp] theorem Group.dropFlag_waiting (g : Group) (k : Option Nat) : (g.dropFlag k).waiting = g.waiting := by
  cases k <;> rfl
@[simp] theorem Group.dropFlag_request (g : Group) (k : Option Nat) : (g.dropFlag k).request = g.request := by
  cases k <;> rfl
@[simp] theorem Group.dropFlag_held (g : Group) (k : Option Nat) : (g.dropFlag k).held = g.held := by
  cases k <;> rfl
@[simp] theorem Group.dropFlag_heldTrap (g : Group) (k : Option Nat) : (g.dropFlag k).heldTrap = g.heldTrap := by
  cases k <;> rfl
@[simp] theorem Group.dropFlag_asyncs (g : Group) (k : Option Nat) : (g.dropFlag k).asyncs = g.asyncs := by
  cases k <;> rfl
@[simp] theorem Group.dropFlag_spush (g : Group) (k : Option Nat) : (g.dropFlag k).spush = g.spush := by
  cases k <;> rfl
@[simp] theorem Group.dropFlag_popped (g : Group) (k : Option Nat) : (g.dropFlag k).popped = g.popped := by
  cases k <;> rfl
@[simp] theorem Group.dropFlag_swapped (g : Group) (k : Option Nat) : (g.dropFlag k).swapped = g.swapped := by
  cases k <;> rfl
@[simp] theorem Group.dropFlag_tlbinv (g : Group) (k : Option Nat) : (g.dropFlag k).tlbinv = g.tlbinv := by
  cases k <;> rfl
@[simp] theorem Group.dropFlag_cmaint (g : Group) (k : Option Nat) : (g.dropFlag k).cmaint = g.cmaint := by
  cases k <;> rfl
@[simp] theorem Group.dropFlag_restores (g : Group) (k : Option Nat) : (g.dropFlag k).restores = g.restores := by
  cases k <;> rfl
@[simp] theorem Group.dropFlag_since (g : Group) (k : Option Nat) : (g.dropFlag k).since = g.since := by
  cases k <;> rfl
@[simp] theorem Group.dropFlag_faults (g : Group) (k : Option Nat) : (g.dropFlag k).faults = g.faults := by
  cases k <;> rfl
@[simp] theorem Group.dropFlag_lapsed (g : Group) (k : Option Nat) : (g.dropFlag k).lapsed = g.lapsed := by
  cases k <;> rfl
@[simp] theorem Group.dropFlag_second (g : Group) (k : Option Nat) : (g.dropFlag k).second = g.second := by
  cases k <;> rfl
@[simp] theorem Group.dropFlag_passed (g : Group) (k : Option Nat) : (g.dropFlag k).passed = g.passed := by
  cases k <;> rfl
@[simp] theorem Group.dropFlag_atoms (g : Group) (k : Option Nat) : (g.dropFlag k).atoms = g.atoms := by
  cases k <;> rfl
@[simp] theorem Group.dropFlag_launching (g : Group) (k : Option Nat) : (g.dropFlag k).launching = g.launching := by
  cases k <;> rfl
@[simp] theorem Group.dropFlag_tried (g : Group) (k : Option Nat) : (g.dropFlag k).tried = g.tried := by
  cases k <;> rfl

/-! ## Group.retire -/

@[simp] theorem Group.retire_gid (g : Group) (n : Nat) : (g.retire n).gid = g.gid := by
  unfold Group.retire; split <;> (try split) <;> (try split) <;> rfl
@[simp] theorem Group.retire_core (g : Group) (n : Nat) : (g.retire n).core = g.core := by
  unfold Group.retire; split <;> (try split) <;> (try split) <;> rfl
@[simp] theorem Group.retire_slot (g : Group) (n : Nat) : (g.retire n).slot = g.slot := by
  unfold Group.retire; split <;> (try split) <;> (try split) <;> rfl
@[simp] theorem Group.retire_world (g : Group) (n : Nat) : (g.retire n).world = g.world := by
  unfold Group.retire; split <;> (try split) <;> (try split) <;> rfl
@[simp] theorem Group.retire_team (g : Group) (n : Nat) : (g.retire n).team = g.team := by
  unfold Group.retire; split <;> (try split) <;> (try split) <;> rfl
@[simp] theorem Group.retire_grid (g : Group) (n : Nat) : (g.retire n).grid = g.grid := by
  unfold Group.retire; split <;> (try split) <;> (try split) <;> rfl
@[simp] theorem Group.retire_kind (g : Group) (n : Nat) : (g.retire n).kind = g.kind := by
  unfold Group.retire; split <;> (try split) <;> (try split) <;> rfl
@[simp] theorem Group.retire_sregs (g : Group) (n : Nat) : (g.retire n).sregs = g.sregs := by
  unfold Group.retire; split <;> (try split) <;> (try split) <;> rfl
@[simp] theorem Group.retire_cregs (g : Group) (n : Nat) : (g.retire n).cregs = g.cregs := by
  unfold Group.retire; split <;> (try split) <;> (try split) <;> rfl
@[simp] theorem Group.retire_qregs (g : Group) (n : Nat) : (g.retire n).qregs = g.qregs := by
  unfold Group.retire; split <;> (try split) <;> (try split) <;> rfl
@[simp] theorem Group.retire_flags (g : Group) (n : Nat) : (g.retire n).flags = g.flags := by
  unfold Group.retire; split <;> (try split) <;> (try split) <;> rfl
@[simp] theorem Group.retire_jregs (g : Group) (n : Nat) : (g.retire n).jregs = g.jregs := by
  unfold Group.retire; split <;> (try split) <;> (try split) <;> rfl
@[simp] theorem Group.retire_lclock (g : Group) (n : Nat) : (g.retire n).lclock = g.lclock := by
  unfold Group.retire; split <;> (try split) <;> (try split) <;> rfl
@[simp] theorem Group.retire_lcfrac (g : Group) (n : Nat) : (g.retire n).lcfrac = g.lcfrac := by
  unfold Group.retire; split <;> (try split) <;> (try split) <;> rfl
@[simp] theorem Group.retire_gstat (g : Group) (n : Nat) : (g.retire n).gstat = g.gstat := by
  unfold Group.retire; split <;> (try split) <;> (try split) <;> rfl
@[simp] theorem Group.retire_latch (g : Group) (n : Nat) : (g.retire n).latch = g.latch := by
  unfold Group.retire; split <;> (try split) <;> (try split) <;> rfl
@[simp] theorem Group.retire_frames (g : Group) (n : Nat) : (g.retire n).frames = g.frames := by
  unfold Group.retire; split <;> (try split) <;> (try split) <;> rfl
@[simp] theorem Group.retire_waiting (g : Group) (n : Nat) : (g.retire n).waiting = g.waiting := by
  unfold Group.retire; split <;> (try split) <;> (try split) <;> rfl
@[simp] theorem Group.retire_request (g : Group) (n : Nat) : (g.retire n).request = g.request := by
  unfold Group.retire; split <;> (try split) <;> (try split) <;> rfl
@[simp] theorem Group.retire_held (g : Group) (n : Nat) : (g.retire n).held = g.held := by
  unfold Group.retire; split <;> (try split) <;> (try split) <;> rfl
@[simp] theorem Group.retire_heldTrap (g : Group) (n : Nat) : (g.retire n).heldTrap = g.heldTrap := by
  unfold Group.retire; split <;> (try split) <;> (try split) <;> rfl
@[simp] theorem Group.retire_asyncs (g : Group) (n : Nat) : (g.retire n).asyncs = g.asyncs := by
  unfold Group.retire; split <;> (try split) <;> (try split) <;> rfl
@[simp] theorem Group.retire_spush (g : Group) (n : Nat) : (g.retire n).spush = g.spush := by
  unfold Group.retire; split <;> (try split) <;> (try split) <;> rfl
@[simp] theorem Group.retire_swapped (g : Group) (n : Nat) : (g.retire n).swapped = g.swapped := by
  unfold Group.retire; split <;> (try split) <;> (try split) <;> rfl
@[simp] theorem Group.retire_tlbinv (g : Group) (n : Nat) : (g.retire n).tlbinv = g.tlbinv := by
  unfold Group.retire; split <;> (try split) <;> (try split) <;> rfl
@[simp] theorem Group.retire_cmaint (g : Group) (n : Nat) : (g.retire n).cmaint = g.cmaint := by
  unfold Group.retire; split <;> (try split) <;> (try split) <;> rfl
@[simp] theorem Group.retire_restores (g : Group) (n : Nat) : (g.retire n).restores = g.restores := by
  unfold Group.retire; split <;> (try split) <;> (try split) <;> rfl
@[simp] theorem Group.retire_since (g : Group) (n : Nat) : (g.retire n).since = g.since := by
  unfold Group.retire; split <;> (try split) <;> (try split) <;> rfl
@[simp] theorem Group.retire_faults (g : Group) (n : Nat) : (g.retire n).faults = g.faults := by
  unfold Group.retire; split <;> (try split) <;> (try split) <;> rfl
@[simp] theorem Group.retire_lapsed (g : Group) (n : Nat) : (g.retire n).lapsed = g.lapsed := by
  unfold Group.retire; split <;> (try split) <;> (try split) <;> rfl
@[simp] theorem Group.retire_second (g : Group) (n : Nat) : (g.retire n).second = g.second := by
  unfold Group.retire; split <;> (try split) <;> (try split) <;> rfl
@[simp] theorem Group.retire_passed (g : Group) (n : Nat) : (g.retire n).passed = g.passed := by
  unfold Group.retire; split <;> (try split) <;> (try split) <;> rfl
@[simp] theorem Group.retire_atoms (g : Group) (n : Nat) : (g.retire n).atoms = g.atoms := by
  unfold Group.retire; split <;> (try split) <;> (try split) <;> rfl
@[simp] theorem Group.retire_launching (g : Group) (n : Nat) : (g.retire n).launching = g.launching := by
  unfold Group.retire; split <;> (try split) <;> (try split) <;> rfl
@[simp] theorem Group.retire_tried (g : Group) (n : Nat) : (g.retire n).tried = g.tried := by
  unfold Group.retire; split <;> (try split) <;> (try split) <;> rfl

end Sys2Proof.Machine
end

