-- ==== Sys2Proof/Laws/Mem.lean ====
section
/-!
SUPPORT. Sys2Proof/Laws/Mem.lean: every operation on memory keeps its canonical form: stores of bytes and cells, writes of
lines at their homes, merges, agents' writes, discarded lines, zeroed and moved pseudo-channels; and what a write at the home
leaves alone.
-/
namespace Sys2Proof.Machine

/-! ## Bytes -/

/-- A store of one byte keeps the canonical form. -/
theorem memWf_mapSet {m : List Host.Cell} (h : memWf m = true) (a : Nat) (b : Byte) : memWf (mapSet 0#8 m a b) = true :=
  mapSet_canon 0#8 m a b h

/-- A store of bytes keeps the canonical form. -/
theorem memWf_putBytes {m : List Host.Cell} (h : memWf m = true) (a : Nat) (l : List Byte) :
    memWf (putBytes m a l) = true := by
  induction l generalizing m a with
  | nil => exact h
  | cons b l ih => exact ih (memWf_mapSet h a b) (a + 1)

/-- A store of cells keeps the canonical form. -/
theorem memWf_putCells {m : List Host.Cell} (h : memWf m = true) (l : List Host.Cell) :
    memWf (putCells m l) = true := by
  induction l generalizing m with
  | nil => exact h
  | cons e l ih => exact ih (memWf_mapSet h e.1 e.2)

/-- A selection of bytes keeps the canonical form. -/
theorem memWf_filter {m : List Host.Cell} (h : memWf m = true) (f : Host.Cell → Bool) : memWf (m.filter f) = true :=
  filter_canon 0#8 m f h

/-! ## States with one memory -/

/-- Equal memories keep the invariant. -/
theorem Inv_of_mem {s t : State} (h : Inv s) (e : t.mem = s.mem) : Inv t := by unfold Inv at *; rwa [e]

/-- A fold of steps that each keep the invariant keeps it. -/
theorem Inv_foldl {α : Type} (l : List α) (f : State → α → State) (hf : ∀ s a, Inv s → Inv (f s a)) {s : State} (h : Inv s) :
    Inv (l.foldl f s) := by
  induction l generalizing s with
  | nil => exact h
  | cons a l ih => exact ih (hf s a h)

/-- A fold of steps that each keep memory keeps it. -/
theorem mem_foldl {α : Type} (l : List α) (f : State → α → State) (hf : ∀ s a, (f s a).mem = s.mem) (s : State) :
    (l.foldl f s).mem = s.mem := by
  induction l generalizing s with
  | nil => rfl
  | cons a l ih => rw [List.foldl_cons, ih, hf]

@[simp] theorem State.mem_setPolder (s : State) (w : Nat) (p : Polder) : (s.setPolder w p).mem = s.mem := rfl
@[simp] theorem State.mem_draw (s : State) : s.draw.mem = s.mem := rfl
@[simp] theorem State.mem_setLine (s : State) (ln : Nat) (l : LineState) : (s.setLine ln l).mem = s.mem := rfl
@[simp] theorem State.mem_setStamp (s : State) (a : Nat) (t : Nat × Nat) : (s.setStamp a t).mem = s.mem := rfl
@[simp] theorem State.mem_noteWriter (s : State) (l : List Nat) (w : BitVec 16) (c : Option (BitVec 2)) :
    (s.noteWriter l w c).mem = s.mem := rfl
@[simp] theorem State.mem_meter (s : State) (w m n : Nat) : (s.meter w m n).mem = s.mem := by
  unfold State.meter; split <;> rfl
@[simp] theorem State.mem_soil (s : State) (ln : Nat) : (s.soil ln).mem = s.mem := by
  unfold State.soil
  split
  · rfl
  · split <;> rfl
@[simp] theorem State.mem_touchRows (s : State) (lns : List Nat) : (s.touchRows lns).mem = s.mem := rfl
@[simp] theorem State.mem_alarm (s : State) (ln : Nat) : (s.alarm ln).mem = s.mem := rfl
@[simp] theorem State.mem_meterLines (s : State) (m : Nat) (lns : List Nat) : (s.meterLines m lns).mem = s.mem :=
  mem_foldl lns (fun s ln => s.meter (s.owner (ln * 128)) m 128) (fun _ _ => State.mem_meter _ _ _ _) s
@[simp] theorem State.mem_encipher (s : State) (ln : Nat) : (s.encipher ln).mem = s.mem := by
  unfold State.encipher; dsimp only; split <;> rfl
@[simp] theorem State.mem_mergeNoted (s : State) (u : UAtom) (t : Nat) (unit : Option Nat) :
    (s.mergeNoted u t unit).mem = s.mem := by
  unfold State.mergeNoted; simp
@[simp] theorem State.mem_rekey (s : State) (p w : Nat) : (s.rekey p w).mem = s.mem := by
  unfold State.rekey; split <;> rfl
@[simp] theorem State.mem_hostRead (s : State) (pas : List Nat) : (s.hostRead pas).1.mem = s.mem := rfl
@[simp] theorem State.mem_countLine (s : State) (ln : Nat) (k : LineKind) : (s.countLine ln k).mem = s.mem := by
  unfold State.countLine
  dsimp only
  split
  · split <;> rfl
  · rfl
@[simp] theorem State.mem_stampAll (s : State) (l : List Nat) (t : Nat) : (s.stampAll l t).mem = s.mem :=
  mem_foldl l (fun u a => u.setStamp a (t, t)) (fun _ _ => rfl) s

/-! ## Writes at the home -/

/-- A read at the home changes no byte. -/
@[simp] theorem State.mem_homeRead (s : State) (pas : List Nat) : (s.homeRead pas).1.mem = s.mem := by
  unfold State.homeRead
  dsimp only
  refine mem_foldl _ _ (fun t a => ?_) s
  split
  · rfl
  · simp

/-- The write of a line keeps the invariant. -/
theorem Inv_writeLine {s : State} (h : Inv s) (ln : Nat) (cells : List Host.Cell) (p : Bool) :
    Inv (s.writeLine ln cells p) := by
  have hs : memWf (s.soil ln).mem = true := by rw [State.mem_soil]; exact h
  unfold State.writeLine
  dsimp only
  split
  · unfold Inv; rw [State.mem_encipher, State.mem_setLine]; exact memWf_putCells hs cells
  · split
    · exact hs
    · split
      · unfold Inv; rw [State.mem_countLine]; exact hs
      · unfold Inv; rw [State.mem_encipher, State.mem_setLine]
        exact memWf_putCells (by rw [State.mem_countLine]; exact hs) cells

/-- A write at the homes keeps the invariant. -/
theorem Inv_homeWrite {s : State} (h : Inv s) (cells : List Host.Cell) (p : List Nat) : Inv (s.homeWrite cells p) :=
  Inv_foldl _ _ (fun _ _ hs => Inv_writeLine hs _ _ _) h

/-- A merge keeps the invariant. -/
theorem Inv_mergeAtom {s : State} (h : Inv s) (a c : Nat) (u : Option Nat) : Inv (s.mergeAtom a c u) := by
  unfold State.mergeAtom
  split
  · exact h
  · dsimp only
    have step : ∀ (t : State) (b : Bool) (u : UAtom) (k : Nat) (c : Option Nat), Inv t → Inv (if b then t.mergeNoted u k c else t) := by
      intro t b u k c ht
      split
      · exact Inv_of_mem ht (State.mem_mergeNoted t u k c)
      · exact ht
    refine step _ _ _ _ _ ?_
    split
    · unfold Inv; rw [State.mem_encipher, State.mem_setLine, State.mem_countLine]; exact h
    · exact Inv_homeWrite (s := { s with uatoms := dropBy (fun v => v.atom == a) s.uatoms }) h _ _

/-- An atom evicted keeps the invariant. -/
theorem Inv_evictAtom {s : State} (h : Inv s) (a c k : Nat) : Inv (s.evictAtom a c k) := by
  unfold State.evictAtom
  split
  · exact h
  · dsimp only
    split
    · exact Inv_mergeAtom h _ _ _
    · exact Inv_of_mem h (State.mem_mergeNoted _ _ _ _)

/-- Merges keep the invariant. -/
theorem Inv_mergeAll {s : State} (h : Inv s) (l : List Nat) (c : Nat) (u : Option Nat) : Inv (s.mergeAll l c u) :=
  Inv_foldl _ _ (fun _ _ hs => Inv_mergeAtom hs _ _ _) h

/-- A read at the home keeps the invariant. -/
theorem Inv_readHome {s : State} (h : Inv s) (c : Nat) (u : Option Nat) (pas : List Nat) : Inv (s.readHome c u pas).1 :=
  Inv_of_mem (Inv_mergeAll h (atomsOf pas) c u) (State.mem_homeRead _ _)

/-- An agent's read keeps the invariant. -/
theorem Inv_agentRead {s : State} (h : Inv s) (pas : List Nat) : Inv (s.agentRead pas).1 := Inv_readHome h 0 none pas

/-- A write at the home keeps the invariant. -/
theorem Inv_writeHome {s : State} (h : Inv s) (after c : Nat) (u : Option Nat) (cells : List Host.Cell) (p : List Nat)
    (w : BitVec 16) (sc : Option (BitVec 2)) : Inv (s.writeHome after c u cells p w sc) := by
  unfold State.writeHome
  dsimp only
  refine Inv_of_mem (s := State.homeWrite _ cells p) (Inv_homeWrite ?_ cells p) (State.mem_noteWriter _ _ _ _)
  exact Inv_foldl _ (fun t a => t.setStamp a (max ((t.stamp a).2 + 1) after, max ((t.stamp a).2 + 1) after))
    (fun _ _ hs => hs) (Inv_mergeAll h _ _ _)

/-- An agent's write keeps the invariant. -/
theorem Inv_agentWrite {s : State} (h : Inv s) (cells : List Host.Cell) (p : List Nat) : Inv (s.agentWrite cells p) :=
  Inv_of_mem (Inv_writeHome h 0 0 none cells p externalWriter (some 3#2)) (State.mem_touchRows _ _)

/-! ## What an access at the home leaves alone -/

/-- Only memory and what stands beside it has changed: the bytes, the lines, their keys and dirty copies, the times, the
update-only atoms, the sync variables, the polders' counters and dirty rows, and the alarms. -/
def MemoryOnly (s t : State) : Prop :=
  t = { s with mem := t.mem, lines := t.lines, lkeys := t.lkeys, dirty := t.dirty, stamps := t.stamps,
               uatoms := t.uatoms, vars := t.vars, pldrs := t.pldrs, alarms := t.alarms }

theorem MemoryOnly.refl (s : State) : MemoryOnly s s := rfl
theorem MemoryOnly.trans {s t u : State} (h : MemoryOnly s t) (k : MemoryOnly t u) : MemoryOnly s u := by
  unfold MemoryOnly at *
  refine k.trans ?_
  rw [h]
theorem MemoryOnly.foldl {α : Type} (l : List α) (f : State → α → State) (hf : ∀ s a, MemoryOnly s (f s a)) (s : State) :
    MemoryOnly s (l.foldl f s) := by
  induction l generalizing s with
  | nil => rfl
  | cons a l ih => exact (hf s a).trans (ih _)

theorem memoryOnly_countLine (s : State) (ln : Nat) (k : LineKind) : MemoryOnly s (s.countLine ln k) := by
  unfold State.countLine
  dsimp only
  split
  · split <;> rfl
  · rfl
theorem memoryOnly_meter (s : State) (w m n : Nat) : MemoryOnly s (s.meter w m n) := by
  unfold State.meter; split <;> rfl
theorem memoryOnly_soil (s : State) (ln : Nat) : MemoryOnly s (s.soil ln) := by
  unfold State.soil
  split
  · rfl
  · split <;> rfl
theorem memoryOnly_setLine (s : State) (ln : Nat) (l : LineState) : MemoryOnly s (s.setLine ln l) := rfl
theorem memoryOnly_putLine (s : State) (cells : List Host.Cell) (ln : Nat) (l : LineState) :
    MemoryOnly s ({ s with mem := putCells s.mem cells }.setLine ln l) := rfl
theorem memoryOnly_encipher (s : State) (ln : Nat) : MemoryOnly s (s.encipher ln) := by
  unfold State.encipher; dsimp only; split <;> rfl
theorem memoryOnly_mergeNoted (s : State) (u : UAtom) (t : Nat) (unit : Option Nat) : MemoryOnly s (s.mergeNoted u t unit) :=
  (memoryOnly_meter s _ _ _).trans rfl
theorem memoryOnly_writeLine (s : State) (ln : Nat) (cells : List Host.Cell) (p : Bool) :
    MemoryOnly s (s.writeLine ln cells p) := by
  refine (memoryOnly_soil s ln).trans ?_
  unfold State.writeLine
  dsimp only
  split
  · exact (memoryOnly_putLine _ _ _ _).trans (memoryOnly_encipher _ ln)
  · split
    · rfl
    · split
      · exact memoryOnly_countLine _ _ _
      · exact (memoryOnly_countLine _ _ _).trans ((memoryOnly_putLine _ _ _ _).trans (memoryOnly_encipher _ ln))
theorem memoryOnly_homeWrite (s : State) (cells : List Host.Cell) (p : List Nat) : MemoryOnly s (s.homeWrite cells p) :=
  MemoryOnly.foldl _ _ (fun _ _ => memoryOnly_writeLine _ _ _ _) s
theorem memoryOnly_mergeAtom (s : State) (a c : Nat) (u : Option Nat) : MemoryOnly s (s.mergeAtom a c u) := by
  unfold State.mergeAtom
  split
  · rfl
  · dsimp only
    have h : MemoryOnly s { s with uatoms := dropBy (fun v => v.atom == a) s.uatoms } := rfl
    have step : ∀ (t : State) (b : Bool) (u : UAtom) (k : Nat) (c : Option Nat), MemoryOnly t (if b then t.mergeNoted u k c else t) := by
      intro t b u k c
      split
      · exact memoryOnly_mergeNoted _ _ _ _
      · rfl
    refine h.trans (MemoryOnly.trans ?_ (step _ _ _ _ _))
    split
    · exact (memoryOnly_countLine _ _ _).trans ((memoryOnly_setLine _ _ _).trans (memoryOnly_encipher _ _))
    · exact memoryOnly_homeWrite _ _ _
/-- A write at the home changes memory and what stands beside it, and nothing else of the machine. -/
theorem memoryOnly_writeHome (s : State) (after c : Nat) (u : Option Nat) (cells : List Host.Cell) (p : List Nat)
    (w : BitVec 16) (sc : Option (BitVec 2)) : MemoryOnly s (s.writeHome after c u cells p w sc) := by
  unfold State.writeHome
  dsimp only
  refine MemoryOnly.trans (MemoryOnly.foldl (atomsOf (cells.map Prod.fst)) (fun t a => t.mergeAtom a c u)
    (fun _ _ => memoryOnly_mergeAtom _ _ _ _) s) ?_
  refine (MemoryOnly.foldl (atomsOf (cells.map Prod.fst)) (fun t a => t.setStamp a (max ((t.stamp a).2 + 1) after, max ((t.stamp a).2 + 1) after))
    (fun _ _ => rfl) _).trans ?_
  exact (memoryOnly_homeWrite _ cells p).trans rfl
/-- So does an agent's. -/
theorem memoryOnly_agentWrite (s : State) (cells : List Host.Cell) (p : List Nat) : MemoryOnly s (s.agentWrite cells p) :=
  (memoryOnly_writeHome s 0 0 none cells p externalWriter (some 3#2)).trans rfl

/-! ## Lines discarded and pseudo-channels zeroed -/

/-- A dirty line discarded keeps the invariant. -/
theorem Inv_discardLine {s : State} (h : Inv s) (ln : Nat) : Inv (s.discardLine ln) := by
  unfold State.discardLine
  split
  · exact h
  · exact memWf_putCells (memWf_putBytes h _ _) _

/-- A pseudo-channel zeroed keeps the invariant. -/
theorem Inv_zeroChannel {s : State} (h : Inv s) (p : Nat) : Inv (s.zeroChannel p) := memWf_filter h _

/-- A pseudo-channel zeroed reads as zero, and no other byte changes. -/
theorem State.byte_zeroChannel (s : State) (p a : Nat) :
    (s.zeroChannel p).byte a = if a / 2 ^ 30 = p then 0#8 else s.byte a := by
  unfold State.byte State.zeroChannel
  dsimp only
  induction s.mem with
  | nil => simp [mapGet]
  | cons e m ih =>
    obtain ⟨i, u⟩ := e
    rw [List.filter_cons]
    by_cases hi : i / 2 ^ 30 = p <;> by_cases ha : a = i <;> simp_all [mapGet]

/-- A pseudo-channel's contents moved keep the invariant. -/
theorem Inv_moveChannel {s : State} (h : Inv s) (w src dst : Nat) : Inv (s.moveChannel w src dst) := by
  unfold State.moveChannel
  dsimp only
  refine memWf_filter (m := State.mem _) ?_ _
  rw [mem_foldl _ (fun (s : State) (e : Nat × (Nat × Nat)) => s.setStamp _ _) (fun _ _ => rfl),
    mem_foldl _ (fun (s : State) (e : Nat × LineState) => s.setLine _ _) (fun _ _ => rfl)]
  exact memWf_putCells (Inv_zeroChannel (Inv_of_mem h (State.mem_rekey s dst w)) dst) _

/-- Lines written back keep every byte. -/
@[simp] theorem State.mem_writeBack (s : State) (f : Nat → Bool) : (s.writeBack f).mem = s.mem := by
  unfold State.writeBack; simp

/-- A cluster cleared keeps the invariant. -/
theorem Inv_clearCluster {s : State} (h : Inv s) (c : Nat) : Inv (s.clearCluster c) := by
  unfold State.clearCluster
  dsimp only
  refine Inv_of_mem (s := s.uatoms.foldl _ s) (Inv_foldl _ _ (fun s u hs => ?_) h) rfl
  split
  · exact Inv_mergeAtom hs _ _ _
  · exact hs

/-- A cluster given to a world keeps the invariant. -/
theorem Inv_giveCluster {s : State} (h : Inv s) (c w : Nat) : Inv (s.giveCluster c w) :=
  Inv_of_mem (Inv_clearCluster (s := { s with clown := mapSet 63#6 s.clown c (BitVec.ofNat 6 w) }) h c) rfl

end Sys2Proof.Machine
end

