-- ==== Sys2Proof/Laws/Ops.lean ====
section
/-!
SUPPORT. Sys2Proof/Laws/Ops.lean: what the shared operations of a word can do: how its group is found and changed, how a
word ends, and what a retired word leaves alone.
-/
namespace Sys2Proof.Machine

/-! ## Groups by number -/

/-- A group read after a change of one, by a change that keeps its number. -/
theorem State.group_modGroup (s : State) (gid k : Nat) (f : Group → Group) (hf : ∀ g, (f g).gid = g.gid) :
    (s.modGroup gid f).group k = if k = gid then (s.group k).map f else s.group k := by
  unfold State.group State.modGroup
  rw [findBy_updBy _ _ _ _ (fun a _ => by simp [hf])]
  cases h : findBy (fun g => g.gid == k) s.groups with
  | none => simp
  | some g =>
    have hg : g.gid = k := by simpa using findBy_some h
    by_cases hk : k = gid <;> simp [hg, hk]

/-- A group found bears its number. -/
theorem State.group_gid {s : State} {k : Nat} {g : Group} (h : s.group k = some g) : g.gid = k := by
  simpa using findBy_some h

@[simp] theorem State.group_meter (s : State) (w m n k : Nat) : (s.meter w m n).group k = s.group k := by
  simp [State.group]

@[simp] theorem State.byte_modGroup (s : State) (k : Nat) (f : Group → Group) (a : Nat) :
    (s.modGroup k f).byte a = s.byte a := rfl
@[simp] theorem State.byte_meter (s : State) (w m n a : Nat) : (s.meter w m n).byte a = s.byte a := by
  simp [State.byte]

/-- A polder read after one is put. -/
@[simp] theorem State.polder_setPolder (s : State) (w v : Nat) (p : Polder) :
    (s.setPolder w p).polder v = if v = w then p else s.polder v := by
  simp [State.polder, State.setPolder]
@[simp] theorem State.polder_modGroup (s : State) (k : Nat) (f : Group → Group) (w : Nat) :
    (s.modGroup k f).polder w = s.polder w := rfl

/-- The meters are all that `meter` changes of a polder. -/
theorem State.polder_meter (s : State) (w m n v : Nat) :
    ∃ x, (s.meter w m n).polder v = { s.polder v with meters := x } ∧ (v ≠ w → (s.meter w m n).polder v = s.polder v) := by
  unfold State.meter
  split
  · by_cases h : v = w
    · subst h; exact ⟨_, by simp; rfl, by simp⟩
    · exact ⟨(s.polder v).meters, by simp [h], by simp [h]⟩
  · exact ⟨(s.polder v).meters, rfl, fun _ => rfl⟩

/-! ## Lanes -/

/-- A lane read after the lanes a test picks are changed, by a change that leaves a lane without a thread as it is. -/
theorem Group.lane_mapLanes (g : Group) (p : Nat → Bool) (f : Nat → Lane → Lane) (l : Nat)
    (h : p l = true → f l Lane.none = Lane.none) :
    (g.mapLanes p f).lane l = if p l then f l (g.lane l) else g.lane l :=
  mapGet_map Lane.none g.lanes p f l h

/-! ## The end of a word -/

/-- A word that is done. -/
theorem finish_done (gid : Nat) (g : Group) (i : Issue) (s : State) (h : g.gid = gid) :
    (Res.done s).finish gid g i = s.wordDone g i := by
  subst h; rfl

/-- A word at its group runs its meaning there. -/
theorem onGroup_at {s : State} {g : Group} {i : Issue} (h : AtWord s g i) (f : Group → Issue → Res) :
    onGroup s f = .next ((f g i).finish g.gid g i) := by
  unfold onGroup
  rw [h.cur]
  simp only [h.here, h.clause]

/-- A word always ends in a next state at its group. -/
theorem onGroup_goes {s : State} {g : Group} {i : Issue} (h : AtWord s g i) (f : Group → Issue → Res) :
    Goes (onGroup s f) := ⟨_, onGroup_at h f⟩

/-- Retiring keeps a group's number. -/
@[simp] theorem Group.retire_gid' (g : Group) (n : Nat) : (g.retire n).gid = g.gid := Group.retire_gid g n

/-- Where a lane stands is all that retiring changes of it. -/
theorem Group.retire_lane (g : Group) (n l : Nat) : SameButPc (g.lane l) ((g.retire n).lane l) := by
  unfold Group.retire
  split
  · rfl
  · split
    · rfl
    · split
      · unfold SameButPc Group.lane Group.mapLanes
        dsimp only
        induction g.lanes with
        | nil => rfl
        | cons e m ih =>
          obtain ⟨j, u⟩ := e
          simp only [List.map_cons, mapGet]
          split <;> simp only [mapGet] <;> split <;> first | rfl | exact ih
      · rfl

/-- What a word's effect on its group leaves alone outside the group. -/
theorem wordEffect_elsewhere (s : State) (g : Group) (i : Issue) (f : Group → Group) (hf : ∀ h, (f h).gid = h.gid) :
    Elsewhere s (s.wordEffect g i f) g := by
  unfold State.wordEffect State.wordDone State.meterScalar
  refine ⟨fun a => ?_, fun k hk => ?_, fun w => ?_, ?_⟩
  · split <;> simp
  · rw [State.group_modGroup _ _ _ _ (fun h => Group.retire_gid h _), if_neg hk]
    split <;> simp [State.group_modGroup _ _ _ _ hf, hk]
  · rw [State.polder_modGroup]
    split
    · obtain ⟨x, h1, h2⟩ := State.polder_meter (s.modGroup g.gid f) g.world 8 1 w
      exact ⟨x, by simpa using h1, by simpa using h2⟩
    · exact ⟨_, rfl, fun _ => rfl⟩
  · split
    · unfold State.meter
      split <;> rfl
    · rfl

/-- The group after a word's effect. -/
theorem wordEffect_group (s : State) (g h : Group) (i : Issue) (f : Group → Group) (hf : ∀ h, (f h).gid = h.gid)
    (hg : s.group g.gid = some h) :
    (s.wordEffect g i f).group g.gid = some ((f h).retire i.len) := by
  unfold State.wordEffect State.wordDone State.meterScalar
  rw [State.group_modGroup _ _ _ _ (fun h => Group.retire_gid h _), if_pos rfl]
  split <;> simp [State.group_modGroup _ _ _ _ hf, hg]

end Sys2Proof.Machine
end

