-- ==== Sys2Proof/Tests/Slice0.lean ====
section
/-!
SUPPORT. Sys2Proof/Tests/Slice0.lean: the tests of the model and a witness for the hypotheses of each statement.
-/
namespace Sys2Proof.Tests
set_option Elab.async false
open Sys2Proof.Machine

/-! ## Small states -/

/-- A clause of a class with these words, lanes 0 and 1 in it. -/
def tI (cls : Nat) (ws : List Word) : Issue := ⟨0x1000#64, cls, 15, 15, ws, 0, 3#64⟩
/-- A launched lane whose V registers are given. -/
def tL (tid : Word) (rs : List (Nat × Reg)) : Lane := ⟨0x1000#64, tid, 1#7, 7#32, [⟨0, rs⟩], none, 0⟩
/-- A group of two lanes of a world at a clause; V0 holds 0 and 16, V1 5 and 6, S2 an address of the boot window. -/
def tG (w : Nat) (i : Issue) : Group :=
  { gid := 1, core := 0, slot := 0, world := w, team := 2, grid := 3, kind := .launched,
    lanes := [(0, tL 0#32 [(1, ⟨5#32, false⟩)]), (1, tL 1#32 [(0, ⟨16#32, false⟩), (1, ⟨6#32, false⟩)])],
    sregs := [(2, ⟨0x10000000000#64, false⟩), (3, ⟨7#64, false⟩)], cregs := 0#4, qregs := [], flags := [], jregs := [],
    lclock := 4, lcfrac := 0, gstat := 1#32, latch := none, frames := [⟨0, 128, 0#64, none, false, 0, [], []⟩], issue := some i,
    waiting := .no, request := none, held := none, heldTrap := none, asyncs := [], spush := none, popped := [],
    swapped := false, tlbinv := 0, cmaint := 0, restores := [], since := none, faults := [], lapsed := none, second := none,
    passed := none, atoms := [], launching := none }
def tT (w : Nat) : Team :=
  { key := 2, grid := 3, world := w, core := 0, slot := 0, teamid := 0, gang := 4, kernel := probeKernel, args := 0#64,
    scratch := [], spoison := [], tiles := [], tstate := [], phase := [], bins := [⟨none, [], false⟩],
    error := false }
def tK (w : Nat) : Grid :=
  { key := 3, world := w, gridid := 1#32, prio := 0, strict := false, ftz := false, kernel := probeKernel, gx := 1, gy := 1,
    gz := 1, gang := 1, args := 0#64, ctr := 0#64, cinc := 0#64, poolcap := 0, next := 1, ended := 0, launcher := 0,
    cluster := none, node := none, keeper := false, desc := 0#64, base := [], clock := 0, error := false, held := none }
/-- A machine with one group, at its clause. -/
def tS (w : Nat) (i : Issue) : State :=
  { State.reset with groups := [tG w i], teams := [tT w], grids := [tK w], cur := .group 1, ids := 10 }

theorem at_tS (w : Nat) (i : Issue) : AtWord (tS w i) (tG w i) i := ⟨rfl, by rfl, rfl⟩


/-- Q0 bound to consume object 5 of gang 4, which holds one entry. -/
def tQueue (n : Nat) (vector : Bool) : Queue :=
  ⟨4, 5, vector, List.replicate n ⟨[9#32, 0#32], false, 6⟩, .never, some 1, false⟩
def tGQ (w : Nat) (i : Issue) (producer : Bool) : Group := { tG w i with qregs := [(0, ⟨5, producer⟩)] }
def tSQ (w : Nat) (i : Issue) (producer : Bool) (q : Queue) : State :=
  { tS w i with groups := [tGQ w i producer], queues := [q] }
theorem at_tSQ (w : Nat) (i : Issue) (p : Bool) (q : Queue) : AtWord (tSQ w i p q) (tGQ w i p) i := ⟨rfl, by rfl, rfl⟩

abbrev i0 : Issue := tI 0 [0#32]
abbrev s0 : State := tS 60 i0
abbrev g0 : Group := tG 60 i0
def sq : State := tSQ 60 i0 false (tQueue 1 false)
def gq : Group := tGQ 60 i0 false
/-- What the pop of `Q0` leaves. -/
def sp : State := { sq with
  queues := [tQueue 0 false],
  groups := [{ gq with lclock := 6, popped := [⟨[9#32, 0#32], false, 6⟩] }] }

theorem pops_q0 (scalar : Bool) : Pops sq gq i0 scalar [0] sp [⟨[9#32, 0#32], false, 6⟩] := by
  have h : ∀ b, sq.pop gq 0 b = .entry sp ⟨[9#32, 0#32], false, 6⟩ := by decide +kernel
  have v : ([0].any (sq.vectorBound gq)) = false := by decide +kernel
  intro k
  show takeQueues i0 scalar [0] [] sq gq k = _
  simp only [takeQueues, h, v, Bool.and_false, Bool.false_eq_true, if_false]

theorem witness_ScalarArithmetic :
    AtWord s0 g0 i0 ∧ Ready s0 g0 [] [] (ssrcRegs [⟨0#1, 2#5⟩, ⟨0#1, 3#5⟩] ++ [4]) ∧
    Pops s0 g0 i0 true (ssrcQueues [⟨0#1, 2#5⟩, ⟨0#1, 3#5⟩]) s0 [] ∧ s0.group g0.gid = some g0 ∧
    ssrcVals g0 [⟨0#1, 2#5⟩, ⟨0#1, 3#5⟩] [] = [⟨0x10000000000#64, false⟩, ⟨7#64, false⟩] :=
  ⟨at_tS _ _, by decide +kernel, fun _ => rfl, by decide +kernel, by decide +kernel⟩
theorem witness_ScalarArithmetic_queue :
    AtWord sq gq i0 ∧ Ready sq gq [] [] (ssrcRegs [⟨1#1, 0#5⟩, ⟨0#1, 0#5⟩] ++ [0]) ∧
    Pops sq gq i0 true (ssrcQueues [⟨1#1, 0#5⟩, ⟨0#1, 0#5⟩]) sp [⟨[9#32, 0#32], false, 6⟩] ∧
    (∃ g', sp.group gq.gid = some g') ∧
    ssrcVals gq [⟨1#1, 0#5⟩, ⟨0#1, 0#5⟩] [⟨[9#32, 0#32], false, 6⟩] = [⟨9#64, false⟩, ⟨0#64, false⟩] :=
  ⟨at_tSQ _ _ _ _, by decide +kernel, pops_q0 true, ⟨_, rfl⟩, by decide +kernel⟩
theorem witness_ScalarArithmetic_immediate : AtWord s0 g0 i0 ∧ Ready s0 g0 [] [] [31, 0] :=
  ⟨at_tS _ _, by decide +kernel⟩

theorem witness_ScalarCompareAndSpecials :
    AtWord s0 g0 i0 ∧ Ready s0 g0 [] [] (ssrcRegs [⟨0#1, 2#5⟩, ⟨0#1, 3#5⟩] ++ [2]) ∧
    Pops s0 g0 i0 true (ssrcQueues [⟨0#1, 2#5⟩, ⟨0#1, 3#5⟩]) s0 [] ∧ s0.group g0.gid = some g0 ∧
    ssrcVals g0 [⟨0#1, 2#5⟩, ⟨0#1, 3#5⟩] [] = [⟨0x10000000000#64, false⟩, ⟨7#64, false⟩] ∧
    WellFormed (.scmp 0#1 0#1 3#2 5#4 3#5 2#5 0#2) ∧ WellFormed (.scmpi 5#3 0x7FF#12 2#5 3#2) :=
  ⟨at_tS _ _, by decide +kernel, fun _ => rfl, by decide +kernel, by decide +kernel, rfl, rfl⟩
/-- A group whose S3 and V1 of lane 1 are poisoned. -/
def gp : Group := { g0 with
  sregs := [(3, ⟨7#64, true⟩)],
  lanes := [(0, tL 0#32 []), (1, tL 1#32 [(1, ⟨6#32, true⟩)])] }
def spo : State := { s0 with groups := [gp] }
theorem at_spo : AtWord spo gp i0 := ⟨rfl, by rfl, rfl⟩
theorem witness_ScalarCompareAndSpecials_poison :
    AtWord spo gp i0 ∧ Ready spo gp [] [] (ssrcRegs [⟨0#1, 2#5⟩, ⟨0#1, 3#5⟩] ++ [2]) ∧
    Pops spo gp i0 true (ssrcQueues [⟨0#1, 2#5⟩, ⟨0#1, 3#5⟩]) spo [] ∧ spo.group gp.gid = some gp ∧
    ssrcVals gp [⟨0#1, 2#5⟩, ⟨0#1, 3#5⟩] [] = [⟨0#64, false⟩, ⟨7#64, true⟩] ∧ ssrcVals gp [⟨0#1, 3#5⟩] [] = [⟨7#64, true⟩] ∧
    Ready spo gp [] [] (ssrcRegs [⟨0#1, 3#5⟩, ⟨0#1, 2#5⟩] ++ [3]) ∧ (gp.sreg 3).poison = true ∧
    ssrcVals gp [⟨0#1, 3#5⟩, ⟨0#1, 2#5⟩] [] = [⟨7#64, true⟩, ⟨0#64, false⟩] :=
  ⟨at_spo, by decide +kernel, fun _ => rfl, by decide +kernel, by decide +kernel, by decide +kernel, by decide +kernel⟩
theorem witness_ScalarCompareAndSpecials_smovs :
    AtWord s0 g0 i0 ∧ Ready s0 g0 [] [] (ssrcRegs [⟨0#1, 3#5⟩] ++ [4]) ∧ s0.team g0.team = some (tT 60) ∧
    s0.grid g0.grid = some (tK 60) ∧ WellFormed (.smovs 2#6 0#5) ∧ WellFormed (.smovs 9#6 31#5) ∧
    Pops s0 g0 i0 true (ssrcQueues [⟨0#1, 3#5⟩]) s0 [] ∧ ssrcVals g0 [⟨0#1, 3#5⟩] [] = [⟨7#64, false⟩] ∧
    s0.stickyPending g0 = false :=
  ⟨at_tS _ _, by decide +kernel, by decide +kernel, by decide +kernel, rfl, rfl, fun _ => rfl, by decide +kernel, by decide +kernel⟩
/-- A load in flight, whose word may still set PSN. -/
def sLd : State := { s0 with ops := [⟨7, 1, 0, 60, 2, some 0, .load 9 4 false false [⟨0, 0, [.mem (2 ^ 40)], [], false⟩], false, 0⟩] }
theorem witness_ScalarCompareAndSpecials_pending :
    AtWord sLd g0 i0 ∧ Ready sLd g0 [] [] (ssrcRegs [⟨0#1, 3#5⟩] ++ [4]) ∧ sLd.team g0.team = some (tT 60) ∧
    sLd.grid g0.grid = some (tK 60) ∧ sLd.stickyPending g0 = true :=
  ⟨⟨rfl, by rfl, rfl⟩, by decide +kernel⟩

theorem witness_QueuePushAndMeters (n : Nat) (v p : Bool) :
    let s := tSQ 60 i0 p (tQueue n v); let g := tGQ 60 i0 p
    AtWord s g i0 ∧ findBy (fun e => e.1 == (0#2).toNat) g.qregs = some ((0#2).toNat, ⟨5, p⟩) ∧
    s.queue (s.gangOf g) 5 = some (tQueue n v) ∧ (tQueue n v).gang = s.gangOf g :=
  ⟨at_tSQ _ _ _ _, rfl, rfl, rfl⟩
/-- No Q register bound, one bound to consume, and a vector object as the source. -/
theorem witness_QueuePushAndMeters_unbound : AtWord s0 g0 i0 ∧ (ssrcQueues [⟨0#1, 3#5⟩]).any (s0.vectorBound g0) = false ∧
    findBy (fun e => e.1 == (1#2).toNat) g0.qregs = none ∧ (ssrcQueues [⟨0#1, 3#5⟩]).any (sq.vectorBound gq) = false ∧
    findBy (fun e => e.1 == (0#2).toNat) gq.qregs = some ((0#2).toNat, ⟨5, false⟩) ∧
    (ssrcQueues [⟨1#1, 0#5⟩]).any ((tSQ 60 i0 false (tQueue 1 true)).vectorBound gq) = true :=
  ⟨at_tS _ _, by decide +kernel⟩
theorem witness_QueuePushAndMeters_room : let s := tSQ 60 i0 true (tQueue 63 false); let g := tGQ 60 i0 true
    (tQueue 63 false).entries.length < 64 ∧ Ready s g [] [] (ssrcRegs [⟨0#1, 3#5⟩]) ∧
    Pops s g i0 true (ssrcQueues [⟨0#1, 3#5⟩]) s [] ∧ s.group g.gid = some g ∧ ssrcVals g [⟨0#1, 3#5⟩] [] = [⟨7#64, false⟩] ∧
    64 ≤ (tQueue 64 false).entries.length ∧ (ssrcQueues [⟨0#1, 3#5⟩]).any (s.vectorBound g) = false ∧
    s.performed g.gid Op.nearStore = true ∧ (tSQ 60 i0 true (tQueue 0 true)).queue 4 5 = some (tQueue 0 true) ∧
    let t := { s with ops := [⟨7, 1, 0, 60, 2, none, .store 4 [⟨0, 0, [.mem (2 ^ 40)], [0#8], false⟩], false, 0⟩] }
    t.performed g.gid Op.nearStore = false :=
  ⟨by decide +kernel, by decide +kernel, fun _ => rfl, rfl, by decide +kernel⟩
/-- Q0 consumes object 5, Q1 produces to object 6 or to 5 itself. -/
def gQQ (obj : Nat) : Group := { g0 with qregs := [(0, ⟨5, false⟩), (1, ⟨obj, true⟩)] }
def sQQ (obj : Nat) : State := { s0 with
  groups := [gQQ obj], queues := [tQueue 1 false, { tQueue 0 false with obj := 6, producer := .group 1 }] }
theorem witness_QueuePushAndMeters_queue : ∀ obj ∈ [5, 6], AtWord (sQQ obj) (gQQ obj) i0 ∧
    let w := tQueue 1 false
    let v := if obj = 5 then w else { tQueue 0 false with obj := 6, producer := .group 1 }
    findBy (fun e => e.1 == (1#2).toNat) (gQQ obj).qregs = some ((1#2).toNat, ⟨obj, true⟩) ∧
    findBy (fun e => e.1 == (0#5).toNat % 4) (gQQ obj).qregs = some ((0#5).toNat % 4, ⟨5, false⟩) ∧
    (sQQ obj).queue ((sQQ obj).gangOf (gQQ obj)) 5 = some w ∧ w.entries ≠ [] ∧ w.vector = false ∧
    (sQQ obj).queue ((sQQ obj).gangOf (gQQ obj)) obj = some v ∧ v.vector = false ∧ v.entries.length < 64 ∧
    (ssrcQueues [⟨1#1, 0#5⟩]).any ((sQQ obj).vectorBound (gQQ obj)) = false ∧ (gQQ obj).popped = [] ∧
    (sQQ obj).performed (gQQ obj).gid Op.nearStore = true := by
  intro obj h
  simp only [List.mem_cons, List.not_mem_nil, or_false] at h
  rcases h with rfl | rfl <;> exact ⟨⟨rfl, by rfl, rfl⟩, by decide +kernel⟩
theorem witness_QueuePushAndMeters_mrd : let s := tS 0 i0; let g := tG 0 i0
    AtWord s g i0 ∧ Ready s g [] [] [31] ∧ g.world < 48 ∧ s.grid g.grid = some (tK 0) ∧
    (∀ m, mapGet 0 (s.polder g.world).shown m ≤ mapGet 0 (s.polder g.world).meters m ∧
      mapGet 0 (tK 0).base m ≤ mapGet 0 (s.polder g.world).meters m) ∧ 48 ≤ g0.world :=
  ⟨at_tS _ _, by decide +kernel, by decide +kernel, rfl, fun _ => ⟨Nat.le_refl _, Nat.le_refl _⟩, by decide⟩

theorem witness_ScalarAccess :
    AtWord s0 g0 i0 ∧ Ready s0 g0 [] [] [2, 0] ∧ g0.flagFree (i0.flag 1#1) = true ∧ (g0.sreg 2).poison = false ∧
    (∀ l ∈ [pathsLoad 8, pathsStore 8], ∀ need ∈ [0, 1],
      s0.access g0 l true need 8 [(64, ((g0.sreg 2).val + (0x7F8#12).signExtend 64).toNat)] = (s0, .ok [(64,
        .va 0 0x100000007F8, (List.range 8).map fun k => .mem (0x100000007F8 + k))])) ∧
    AtWord spo gp i0 ∧ (gp.sreg 3).poison = true :=
  ⟨at_tS _ _, by decide +kernel, by decide +kernel, by decide +kernel, by
    intro l hl; simp only [List.mem_cons, List.not_mem_nil, or_false] at hl; rcases hl with rfl | rfl <;> decide +kernel,
   at_spo, by decide +kernel⟩


theorem witness_LaneReady : ∀ r ∈ [[1, 2, 3], [127, 127, 127], [2, 3, 4, 5, 126, 127], [], [1, 2, 127]],
    LaneReady s0 g0 i0 (g0.contributing i0 7#4) r [] ∧ g0.contributing i0 7#4 = [0, 1] := by
  have h : ∀ r ∈ [[1, 2, 3], [127, 127, 127], [2, 3, 4, 5, 126, 127], [], [1, 2, 127]],
    s0.hazard g0 (g0.contributing i0 7#4) r [] = false ∧ boundCond g0 (g0.contributing i0 7#4) r = none ∧
      g0.contributing i0 7#4 = [0, 1] := by decide +kernel
  exact fun r hr => ⟨⟨at_tS _ _, (h r hr).1, (h r hr).2.1⟩, (h r hr).2.2⟩
/-- The hypotheses of LaneInteger, at the highest registers and over pairs. -/
theorem witness_LaneInteger :
    LaneReady s0 g0 i0 (g0.contributing i0 7#4) [(1#7).toNat, (2#7).toNat, (127#7).toNat] [] ∧
    LaneReady s0 g0 i0 (g0.contributing i0 7#4) ([(2#7).toNat, (2#7).toNat + 1, (4#7).toNat, (4#7).toNat + 1] ++
      [(126#7).toNat, (126#7).toNat + 1]) [] :=
  ⟨⟨at_tS _ _, by decide +kernel, by decide +kernel⟩, ⟨at_tS _ _, by decide +kernel, by decide +kernel⟩⟩
theorem witness_BitFieldsAndLogic :
    LaneReady s0 g0 i0 (g0.contributing i0 7#4) [(1#7).toNat, (2#7).toNat, (3#7).toNat] [] ∧
    LaneReady sq gq i0 (gq.contributing i0 7#4) (vsrcRegs [vsrc 1#1 0#7, vsrc 0#1 1#7, vsrc 0#1 2#7] ++ [(3#7).toNat]) [] ∧
    Pops sq gq i0 false (vsrcQueues [vsrc 1#1 0#7, vsrc 0#1 1#7, vsrc 0#1 2#7]) sp [⟨[9#32, 0#32], false, 6⟩] ∧
    ∃ g', sp.group gq.gid = some g' :=
  ⟨⟨at_tS _ _, by decide +kernel, by decide +kernel⟩, ⟨at_tSQ _ _ _ _, by decide +kernel, by decide +kernel⟩,
   pops_q0 false, ⟨_, rfl⟩⟩
theorem witness_LaneSelect :
    LaneReady s0 g0 i0 (maskLanes i0.lanes) [(1#7).toNat, (2#7).toNat, (3#7).toNat] [] :=
  ⟨at_tS _ _, by decide +kernel, by decide +kernel⟩
theorem witness_LaneMoves : let ls := g0.contributing i0 7#4
    LaneReady s0 g0 i0 ls [(1#7).toNat, (3#7).toNat] [] ∧ LaneReady s0 g0 i0 ls [(3#7).toNat] [] ∧
    LaneReady s0 g0 i0 ls [(3#7).toNat] [(31#7).toNat % 32] ∧
    LaneReady sq gq i0 (gq.contributing i0 7#4) (vsrcRegs [vsrc 1#1 0#7] ++ [(3#7).toNat]) [] ∧
    LaneReady sq gq i0 (gq.contributing i0 7#4) (vsrcRegs [vsrc 1#1 0#7, vsrc 0#1 1#7] ++ [(3#7).toNat]) [] ∧
    (∀ l ∈ [[vsrc 1#1 0#7], [vsrc 1#1 0#7, vsrc 0#1 1#7], [vsrc 1#1 0#7, vsrc 0#1 1#7, vsrc 0#1 2#7]],
      Pops sq gq i0 false (vsrcQueues l) sp [⟨[9#32, 0#32], false, 6⟩]) ∧ ∃ g', sp.group gq.gid = some g' := by
  refine ⟨⟨at_tS _ _, by decide +kernel, by decide +kernel⟩, ⟨at_tS _ _, by decide +kernel, by decide +kernel⟩,
    ⟨at_tS _ _, by decide +kernel, by decide +kernel⟩, ⟨at_tSQ _ _ _ _, by decide +kernel, by decide +kernel⟩,
    ⟨at_tSQ _ _ _ _, by decide +kernel, by decide +kernel⟩, ?_, ⟨_, rfl⟩⟩
  intro l hl
  simp only [List.mem_cons, List.not_mem_nil, or_false] at hl
  rcases hl with rfl | rfl | rfl <;> exact pops_q0 false
theorem witness_LaneFloatAndConvert : let ls := g0.contributing i0 7#4
    LaneReady s0 g0 i0 ls [(1#7).toNat, (127#7).toNat] [] ∧ LaneReady s0 g0 i0 ls [(1#7).toNat, (2#7).toNat, (3#7).toNat] [] ∧
    LaneReady s0 g0 i0 ls ([2, 3, 4, 5] ++ [126, 127]) [] ∧
    LaneReady s0 g0 i0 ls (vsrcRegs [vsrc 0#1 1#7, vsrc 0#1 2#7, vsrc 0#1 3#7] ++ [4]) [] ∧
    Pops s0 g0 i0 false (vsrcQueues [vsrc 0#1 1#7, vsrc 0#1 2#7, vsrc 0#1 3#7]) s0 [] ∧ s0.group g0.gid = some g0 ∧
    LaneReady s0 g0 i0 ls ([2, 3, 4, 5, 6, 7] ++ [8, 9]) [] :=
  ⟨⟨at_tS _ _, by decide +kernel, by decide +kernel⟩, ⟨at_tS _ _, by decide +kernel, by decide +kernel⟩,
    ⟨at_tS _ _, by decide +kernel, by decide +kernel⟩, ⟨at_tS _ _, by decide +kernel, by decide +kernel⟩, fun _ => rfl,
    by decide +kernel, ⟨at_tS _ _, by decide +kernel, by decide +kernel⟩⟩
/-- A conversion from a pair of registers to one, and one from a queue to four. -/
theorem witness_LaneFloatAndConvert_vcvt :
    WellFormed (.vcvt 7#4 2#7 5#7 1#4 0#4 0#1 1#1 4#3) ∧ cvtShape 1 0 = some (1, 1, 2) ∧
    LaneReady s0 g0 i0 (g0.contributing i0 7#4) (vsrcRegs ((List.range 2).map fun k => VSrc.v (2 + k)) ++ [5]) [] ∧
    Pops s0 g0 i0 false (vsrcQueues ((List.range 2).map fun k => VSrc.v (2 + k))) s0 [] ∧ s0.group g0.gid = some g0 ∧
    WellFormed (.vcvt 7#4 0#7 4#7 1#4 4#4 1#1 0#1 0#3) ∧ cvtShape 1 4 = some (4, 4, 1) ∧
    LaneReady sq gq i0 (gq.contributing i0 7#4) (vsrcRegs [vsrc 1#1 0#7] ++ [4, 5, 6, 7]) [] ∧
    Pops sq gq i0 false (vsrcQueues [vsrc 1#1 0#7]) sp [⟨[9#32, 0#32], false, 6⟩] :=
  ⟨rfl, rfl, ⟨at_tS _ _, by decide +kernel, by decide +kernel⟩, fun _ => rfl, by decide +kernel, rfl, rfl,
    ⟨at_tSQ _ _ _ _, by decide +kernel, by decide +kernel⟩, pops_q0 false⟩
/-- A finite result of each format beside a finite code. -/
theorem witness_RoundToNearest : ∀ f ∈ [f64, f32, f16, bf16, e4m3, e5m2, e3m2, e2m3, e2m1],
    (∃ r, (f.decode (rne f (.fin false 3 (-1)))).value = some r) ∧ (∃ v, (f.decode 1).value = some v) ∧
    1 < 2 * f.signBit ∧ 1 % f.signBit ≤ f.maxCode := by
  have h : ∀ f ∈ [f64, f32, f16, bf16, e4m3, e5m2, e3m2, e2m3, e2m1],
      (f.decode (rne f (.fin false 3 (-1)))).value.isSome = true ∧ (f.decode 1).value.isSome = true ∧
      1 < 2 * f.signBit ∧ 1 % f.signBit ≤ f.maxCode := by decide +kernel
  exact fun f hf => ⟨Option.isSome_iff_exists.mp (h f hf).1, Option.isSome_iff_exists.mp (h f hf).2.1, (h f hf).2.2⟩

theorem witness_LaneCompare :
    LaneReady s0 g0 i0 (g0.contributing i0 7#4) (vsrcRegs [VSrc.v 2, .v 3, .v 4, .v 5]) [] ∧
    LaneReady s0 g0 i0 (maskLanes i0.lanes) (vsrcRegs [vsrc 0#1 1#7, vsrc 0#1 2#7]) [] ∧
    Pops s0 g0 i0 false (vsrcQueues [VSrc.v 2, .v 3, .v 4, .v 5]) s0 [] ∧
    Pops s0 g0 i0 false (vsrcQueues [vsrc 0#1 1#7, vsrc 0#1 2#7]) s0 [] ∧ s0.group g0.gid = some g0 ∧
    WellFormed (.vcmp 7#4 4#7 2#7 1#3 7#3 0#1 0#1 5#3 3#3 5#4) ∧ WellFormed (.vcmp 7#4 2#7 1#7 1#3 7#3 0#1 0#1 6#3 1#3 0#4) ∧
    WellFormed (.vfcmp 7#4 4#7 2#7 1#3 7#3 0#1 0#1 5#3 1#3 12#4) ∧
    WellFormed (.vfcmp 7#4 2#7 1#7 1#3 7#3 0#1 0#1 6#3 3#3 12#4) ∧
    ([0, 1].filter fun l => laneTag' g0 [] [VSrc.v 1] l) = [] :=
  ⟨⟨at_tS _ _, by decide +kernel, by decide +kernel⟩, ⟨at_tS _ _, by decide +kernel, by decide +kernel⟩, fun _ => rfl,
    fun _ => rfl, by decide +kernel, rfl, rfl, rfl, rfl, by decide +kernel⟩
theorem witness_LaneCompare_poison :
    LaneReady spo gp i0 (gp.contributing i0 7#4) (vsrcRegs [vsrc 0#1 1#7, vsrc 0#1 2#7]) [] ∧
    Pops spo gp i0 false (vsrcQueues [vsrc 0#1 1#7, vsrc 0#1 2#7]) spo [] ∧ spo.group gp.gid = some gp ∧
    ((gp.contributing i0 7#4).filter fun l => laneTag' gp [] [vsrc 0#1 1#7, vsrc 0#1 2#7] l) = [1] :=
  ⟨⟨at_spo, by decide +kernel, by decide +kernel⟩, fun _ => rfl, by decide +kernel, by decide +kernel⟩
theorem witness_MatchMask :
    LaneReady s0 g0 i0 (g0.contributing i0 7#4) [(1#7).toNat, (126#7).toNat, (126#7).toNat + 1] [] :=
  ⟨at_tS _ _, by decide +kernel, by decide +kernel⟩
theorem witness_CrossLane : let ls := g0.contributing i0 7#4
    LaneReady s0 g0 i0 ls [3, 1] [] ∧ s0.peekHazard g0 1 = false ∧
    peekBound g0 ls (ls.map fun l => if (vAt g0 1#7 l).toNat ≤ 63 then (vAt g0 1#7 l).toNat else l) [3, 1] 1 = none ∧
    LaneReady s0 g0 i0 ls [3] [] ∧ peekBound g0 ls (ls.map fun _ => (63#6).toNat) [3] 1 = none ∧
    LaneReady s0 g0 i0 ls [126, 127] [] ∧ WellFormed (.popc 7#4 2#7 7#3 3#7) :=
  ⟨⟨at_tS _ _, by decide +kernel, by decide +kernel⟩, by decide +kernel, by decide +kernel,
    ⟨at_tS _ _, by decide +kernel, by decide +kernel⟩, by decide +kernel, ⟨at_tS _ _, by decide +kernel, by decide +kernel⟩, rfl⟩
theorem witness_LaneSpecials : let ls := g0.contributing i0 7#4
    LaneReady s0 g0 i0 ls [1] [] ∧ (ls.filter fun l => tagAt g0 [1] l) = [] ∧
    LaneReady spo gp i0 (gp.contributing i0 7#4) [1] [] ∧ ((gp.contributing i0 7#4).filter fun l => tagAt gp [1] l) = [1] ∧
    s0.stickyPending g0 = false ∧ sLd.stickyPending g0 = true ∧ AtWord sLd g0 i0 :=
  ⟨⟨at_tS _ _, by decide +kernel, by decide +kernel⟩, by decide +kernel,
    ⟨at_spo, by decide +kernel, by decide +kernel⟩, by decide +kernel, by decide +kernel, by decide +kernel, rfl, by rfl, rfl⟩

/-- Accesses of `w` bytes at 2^40 and at 16 above, as lanes 0 and 1 of the fixture make them. -/
def tPs (w : Nat) : List (Nat × Place × List Loc) :=
  [0, 1].map fun l => (l, .va 0 (2 ^ 40 + 16 * l), (List.range w).map fun k => .mem (2 ^ 40 + 16 * l + k))
theorem tPs_plain (w : Nat) : ∀ e ∈ tPs w, ∀ l c r k, e.2.1 ≠ .win l c r k := by
  intro e he
  simp only [tPs, List.mem_map] at he
  obtain ⟨l, -, rfl⟩ := he
  intro l c r k h
  cases h
theorem reached {s : State} {w : Nat} {regs : List Nat} {legal : Nat → Bool} {host : Bool} {need : Nat}
    (hs : AtWord s g0 i0) (hr : Ready s g0 (g0.contributing i0 7#4) (0 :: regs) [2])
    (hc : addrChecks g0 (g0.contributing i0 7#4) 2#5 0#7 regs = none)
    (ha : s.access g0 legal host need w ((g0.contributing i0 7#4).map fun l => (l, laneAddress g0 0#2 2#5 0#7 0#16 l)) =
      (s, .ok (tPs w))) :
    Reached s s g0 i0 (g0.contributing i0 7#4) regs 0#2 2#5 0#7 1#1 0#16 legal host need w (tPs w) :=
  ⟨hs, hr, rfl, hc, ha, tPs_plain w⟩

/-- Every width of the lane loads and stores. -/
theorem witness_LaneAccessAndFaults : ∀ w ∈ [1, 2, 4, 8, 16],
    Reached s0 s0 g0 i0 (g0.contributing i0 7#4) ((List.range (if w ≤ 4 then 1 else w / 4)).map ((124#7).toNat + ·)) 0#2 2#5
      0#7 1#1 0#16 (pathsLoad w) true 0 w (tPs w) ∧
    Reached s0 s0 g0 i0 (g0.contributing i0 7#4) ((List.range (if w ≤ 4 then 1 else w / 4)).map ((124#7).toNat + ·)) 0#2 2#5
      0#7 1#1 0#16 (pathsStore w) true 1 w (tPs w) ∧ ∀ e ∈ tPs w, e.2.2 ≠ [] := by
  intro w hw
  simp only [List.mem_cons, List.not_mem_nil, or_false] at hw
  rcases hw with rfl | rfl | rfl | rfl | rfl <;>
    exact ⟨reached (at_tS _ _) (by decide +kernel) (by decide +kernel) (by decide +kernel),
      reached (at_tS _ _) (by decide +kernel) (by decide +kernel) (by decide +kernel), by decide +kernel⟩
/-- The device memory that each lane of the fixture names, and one word of its team's scratchpad that both do. -/
def tLoc (w l : Nat) : List Loc := (List.range w).map fun k => .mem (2 ^ 40 + 16 * l + k)
def tPadLoc (w : Nat) (_ : Nat) : List Loc := (List.range w).map fun k => .scr false 2 (4080 + k)
theorem plain_mem {w : Nat} {regs : List Nat} (hr : Ready s0 g0 (g0.contributing i0 7#4) (0 :: regs) [2])
    (hb : boundCond g0 (g0.contributing i0 7#4) (0 :: regs) = none)
    (hd : ∀ l ∈ g0.contributing i0 7#4, laneAddress g0 0#2 2#5 0#7 0#16 l = 2 ^ 40 + 16 * l ∧ (2 ^ 40 + 16 * l) % w = 0 ∧
      s0.physOk (2 ^ 40 + 16 * l) = true ∧ 2 ^ 40 + 16 * l < 2 ^ 56 ∧ hostWindow (2 ^ 40 + 16 * l) = false) :
    Plain s0 g0 i0 (g0.contributing i0 7#4) regs 0#2 2#5 0#7 1#1 0#16 w (tLoc w) :=
  ⟨at_tS _ _, hr, by decide +kernel, hb, rfl, by decide +kernel, fun l hl => by
    obtain ⟨a, b, c, d, e⟩ := hd l hl
    rw [a]
    exact ⟨b, .inr ⟨rfl, d, c, e, rfl⟩⟩⟩
/-- The fixture whose lanes both name the last word of the scratchpad, by S2 and V2. -/
def gPd : Group := { g0 with sregs := [(2, ⟨0x2000000000000FF0#64, false⟩), (3, ⟨7#64, false⟩)] }
def sPd : State := { s0 with groups := [gPd] }
theorem plain_pad {w : Nat} {regs : List Nat} (hr : Ready sPd gPd (gPd.contributing i0 7#4) (2 :: regs) [2])
    (hb : boundCond gPd (gPd.contributing i0 7#4) (2 :: regs) = none)
    (hd : ∀ l ∈ gPd.contributing i0 7#4, laneAddress gPd 0#2 2#5 2#7 0#16 l = 0x2000000000000FF0)
    (hw : 0x2000000000000FF0 % w = 0) :
    Plain sPd gPd i0 (gPd.contributing i0 7#4) regs 0#2 2#5 2#7 1#1 0#16 w (tPadLoc w) :=
  ⟨⟨rfl, by rfl, rfl⟩, hr, by decide +kernel, hb, rfl, by decide +kernel, fun l hl => by
    rw [hd l hl]
    exact ⟨hw, .inl ⟨tT 60, rfl, by decide, by decide, by decide +kernel, rfl⟩⟩⟩
theorem witness_LaneAccessAndFaults_plain : ∀ w ∈ [1, 2, 4, 8, 16],
    let regs := (List.range (if w ≤ 4 then 1 else w / 4)).map ((124#7).toNat + ·)
    Plain s0 g0 i0 (g0.contributing i0 7#4) regs 0#2 2#5 0#7 1#1 0#16 w (tLoc w) ∧
    Plain sPd gPd i0 (gPd.contributing i0 7#4) regs 0#2 2#5 2#7 1#1 0#16 w (tPadLoc w) := by
  intro w hw
  simp only [List.mem_cons, List.not_mem_nil, or_false] at hw
  rcases hw with rfl | rfl | rfl | rfl | rfl <;> refine ⟨plain_mem ?_ ?_ ?_, plain_pad ?_ ?_ ?_ ?_⟩ <;> decide +kernel
/-- An address on a path a load may not use, and one that is not a multiple of 4. -/
theorem witness_LaneAccessAndFaults_faults :
    [(0, 0x7000000000000000), (1, 2 ^ 40)].filter (fun e => decide (s0.place g0 (pathsLoad 4) 4 e.2 = none)) =
      [(0, 0x7000000000000000)] ∧
    (∀ e ∈ [(0, 2 ^ 40), (1, 2 ^ 40 + 2)], ¬ s0.place g0 (pathsLoad 4) 4 e.2 = none ∧ pathOf e.2 ≠ 4) ∧
    [(0, 2 ^ 40), (1, 2 ^ 40 + 2)].filter (fun e => decide (e.2 % 4 ≠ 0)) = [(1, 2 ^ 40 + 2)] := by decide +kernel

/-- The same at a lane load and a lane store. -/
def gOff (a : DWord) : Group := { g0 with sregs := [(2, ⟨a, false⟩)] }
def sOff (a : DWord) : State := { s0 with groups := [gOff a] }
theorem witness_LaneAccessAndFaults_traps : ∀ a ∈ [0x7000000000000000#64, 0x10000000002#64],
    AtWord (sOff a) (gOff a) i0 ∧ Ready (sOff a) (gOff a) ((gOff a).contributing i0 7#4) [0, 4] [2] ∧
    (gOff a).flagFree (i0.flag 1#1) = true ∧ addrChecks (gOff a) ((gOff a).contributing i0 7#4) 2#5 0#7 [4] = none ∧
    let as := ((gOff a).contributing i0 7#4).map fun l => (l, laneAddress (gOff a) 0#2 2#5 0#7 0#16 l)
    let off := as.filter fun e => decide ((sOff a).place (gOff a) (pathsLoad 4) 4 e.2 = none)
    as = [(0, a.toNat), (1, a.toNat + 16)] ∧ (a = 0x7000000000000000#64 → off = as) ∧
    (a ≠ 0x7000000000000000#64 → off = [] ∧ (∀ e ∈ as, pathOf e.2 ≠ 4) ∧ as.filter (fun e => decide (e.2 % 4 ≠ 0)) = as) := by
  intro a h
  simp only [List.mem_cons, List.not_mem_nil, or_false] at h
  rcases h with rfl | rfl <;> exact ⟨⟨rfl, by rfl, rfl⟩, by decide +kernel⟩

/-- The accesses of `w` bytes of the fixture's lanes. -/
def tAccs (w : Nat) : List LaneAcc := (tPs w).map fun e => ⟨e.1, 0, e.2.2, [], false⟩
theorem coherent_of {accs : List LaneAcc}
    (h : accs.all (fun a => a.locs.all fun l => match l with | .mem p => !hostWindow p | _ => false) = true) :
    Coherent accs := by
  intro a ha l hl
  have := List.all_eq_true.mp (List.all_eq_true.mp h a ha) l hl
  cases l <;> simp_all
theorem sound_of {s : State} {w : Nat} {pas : List Nat}
    (h : (pas.all fun a => decide (s.line (a / 128) = ⟨false, []⟩) && !s.alien (a / 128) && decide (s.uatom (a / 32) = none)) = true ∧
      s.held pas none = false ∧ s.reaches w pas = true) : Sound s w pas := by
  have := fun a ha => (by simpa using List.all_eq_true.mp h.1 a ha :
    (s.line (a / 128) = ⟨false, []⟩ ∧ s.alien (a / 128) = false) ∧ s.uatom (a / 32) = none)
  exact ⟨fun a ha => (this a ha).1.1, fun a ha => (this a ha).1.2, fun a ha => (this a ha).2, h.2.1, h.2.2⟩

/-- An access to device memory beside one to scratchpad. -/
def tNear (w : Nat) : List LaneAcc := [⟨0, 0, tLoc w 0, [], false⟩, ⟨1, 0, tPadLoc w 1, [], false⟩]
theorem near_coherent {accs : List LaneAcc} (h : Coherent accs) : Near accs := fun a ha => .inl (h a ha)
theorem near_tNear (w : Nat) (h : (tLoc w 0).all (fun l => match l with | .mem p => !hostWindow p | _ => false) = true) :
    Near (tNear w) := by
  intro a ha
  simp only [tNear, List.mem_cons, List.not_mem_nil, or_false] at ha
  rcases ha with rfl | rfl
  · left
    intro l hl
    have := List.all_eq_true.mp h l hl
    cases l <;> simp_all
  · right
    refine ⟨false, 2, ?_⟩
    intro l hl
    simp only [tPadLoc, List.mem_map] at hl
    obtain ⟨k, -, rfl⟩ := hl
    exact ⟨_, rfl⟩
/-- The fixture with one operation of its group in flight. -/
def tOp (k : OpKind) : Op := ⟨7, 1, 0, 60, 2, some 0, k, false, 0⟩
def sOp (k : OpKind) : State := { s0 with ops := [tOp k] }
theorem witness_LoadAndStorePerformed : ∀ w ∈ [1, 2, 4, 8, 16],
    let k := OpKind.load 124 w true false (tNear w); let j := OpKind.store w (tNear w)
    Near (tNear w) ∧ Sound (sOp k) 60 (devBytes (tNear w)) ∧ Sound (sOp j) 60 (devBytes (tNear w)) ∧
    (sOp k).op 7 = some (tOp k) ∧ (sOp k).group (tOp k).gid = some g0 ∧ (sOp k).mayPerform (tOp k) = true ∧
    (∀ a ∈ devBytes (tNear w), mapGet none (sOp k).l1 (copyKey g0.core (a / 32)) = none) ∧
    ((tNear w).map (·.lane)).Nodup ∧ (∀ a ∈ tNear w, a.locs.length = w) ∧
    (∀ a ∈ tNear w, (g0.lane a.lane).chain.any (fun c => c.fid == a.fid) = true) ∧
    (sOp j).op 7 = some (tOp j) ∧ (sOp j).mayPerform (tOp j) = true ∧ (sOp j).team 2 = some (tT 60) := by
  intro w hw
  simp only [List.mem_cons, List.not_mem_nil, or_false] at hw
  rcases hw with rfl | rfl | rfl | rfl | rfl <;>
    exact ⟨near_tNear _ (by decide +kernel), sound_of (by decide +kernel), sound_of (by decide +kernel), by decide +kernel⟩
theorem witness_Atomics : ∀ w ∈ [4, 8],
    Reached s0 s0 g0 i0 (g0.contributing i0 7#4) (((List.range (w / 4)).map ((6#7).toNat + ·)) ++
      (List.range (w / 4)).map ((4#7).toNat + ·)) 0#2 2#5 0#7 1#1 0#16 pathsAtom false 1 w (tPs w) ∧
    walkCond g0 true = none ∧
    (∀ l ∈ g0.contributing i0 7#4, tagAt g0 (((List.range (w / 4)).map ((4#7).toNat + ·)) ++
      (List.range (w / 4)).map ((6#7).toNat + ·)) l = false) ∧
    Coherent (tAccs w) ∧ Sound s0 60 (devBytes (tAccs w)) ∧ s0.group g0.gid = some g0 ∧ (∀ e ∈ tPs w, e.2.2.length = w) ∧
    s0.mayPerform ⟨s0.ids, g0.gid, g0.core, g0.world, g0.team, none, .store w (tAccs w), false, 0⟩ = true ∧
    g0.passed = none ∧ g0.atoms = [] := by
  intro w hw
  simp only [List.mem_cons, List.not_mem_nil, or_false] at hw
  rcases hw with rfl | rfl <;>
    exact ⟨reached (at_tS _ _) (by decide +kernel) (by decide +kernel) (by decide +kernel), by decide +kernel,
      by decide +kernel, coherent_of (by decide +kernel), sound_of (by decide +kernel), by decide +kernel⟩
/-- Accesses of the fixture's lanes to what `loc` gives each. -/
def tOf (loc : Nat → List Loc) : List LaneAcc := [0, 1].map fun l => ⟨l, 0, loc l, [], false⟩
theorem witness_Atomics_plain : ∀ w ∈ [4, 8],
    let regs := ((List.range (w / 4)).map ((6#7).toNat + ·)) ++ (List.range (w / 4)).map ((4#7).toNat + ·)
    Plain s0 g0 i0 (g0.contributing i0 7#4) regs 0#2 2#5 0#7 1#1 0#16 w (tLoc w) ∧
    Coherent (tOf (tLoc w)) ∧ Sound s0 60 (devBytes (tOf (tLoc w))) ∧
    Plain sPd gPd i0 (gPd.contributing i0 7#4) regs 0#2 2#5 2#7 1#1 0#16 w (tPadLoc w) ∧
    sPd.team gPd.team = some (tT 60) ∧ (∀ a ∈ tOf (tPadLoc w), ∀ l ∈ a.locs, l.path = 2) ∧
    (∀ a ∈ tOf (tPadLoc w), locPoison sPd a = false) ∧
    sPd.mayPerform ⟨s0.ids, 1, 0, 60, 2, none, .store w (tOf (tPadLoc w)), false, 0⟩ = true ∧
    s0.mayPerform ⟨s0.ids, 1, 0, 60, 2, none, .store w (tOf (tLoc w)), false, 0⟩ = true ∧
    ∀ l ∈ gPd.contributing i0 7#4, tagAt gPd (((List.range (w / 4)).map ((4#7).toNat + ·)) ++
      (List.range (w / 4)).map ((6#7).toNat + ·)) l = false := by
  intro w hw
  simp only [List.mem_cons, List.not_mem_nil, or_false] at hw
  rcases hw with rfl | rfl <;> refine ⟨plain_mem ?_ ?_ ?_, coherent_of ?_, sound_of ?_, plain_pad ?_ ?_ ?_ ?_, ?_⟩ <;>
    decide +kernel
/-- The widths of tags 0 and 12 and of tag 8, in the coherence classes of the three words. -/
theorem witness_UpdateReleaseAcquire : ∀ x ∈ [0, 8, 12],
    Reached s0 s0 g0 i0 (g0.contributing i0 7#4) ((List.range (tagBytes x / 4)).map ((4#7).toNat + ·)) 0#2 2#5 0#7 1#1 0#16
      pathsUpd false 1 (tagBytes x) (tPs (tagBytes x)) ∧ walkCond g0 (x == 10) = none ∧
    (∀ l ∈ g0.contributing i0 7#4, tagAt g0 ((List.range (tagBytes x / 4)).map ((4#7).toNat + ·)) l = false) ∧
    Coherent (tAccs (tagBytes x)) ∧ s0.held (devBytes (tAccs (tagBytes x))) none = false ∧
    s0.reaches 60 (devBytes (tAccs (tagBytes x))) = true ∧
    (∀ e ∈ tPs (tagBytes x), e.2.2.length = tagBytes x) ∧
    (∀ a ∈ devBytes (tAccs (tagBytes x)), ∀ u, s0.uatom (a / 32) = some u → u.tag = x) ∧
    (s0.uatoms.map (·.atom)).Nodup ∧ (s0.unitAtoms (g0.core / 4)).length + (g0.contributing i0 7#4).length ≤ 256 ∧
    s0.mayPerform ⟨s0.ids, g0.gid, g0.core, g0.world, g0.team, none, .store (tagBytes x) (tAccs (tagBytes x)), false, 0⟩ = true ∧
    Plain s0 g0 i0 (g0.contributing i0 7#4) ((List.range (tagBytes x / 4)).map ((4#7).toNat + ·)) 0#2 2#5 0#7 1#1 0#16
      (tagBytes x) (tLoc (tagBytes x)) ∧
    tPs (tagBytes x) = (g0.contributing i0 7#4).map fun l =>
      (l, Place.va 0 (laneAddress g0 0#2 2#5 0#7 0#16 l), tLoc (tagBytes x) l) := by
  intro x hx
  have hu : ∀ a, s0.uatom a = none := fun _ => rfl
  simp only [List.mem_cons, List.not_mem_nil, or_false] at hx
  rcases hx with rfl | rfl | rfl <;>
    exact ⟨reached (at_tS _ _) (by decide +kernel) (by decide +kernel) (by decide +kernel), by decide +kernel,
      by decide +kernel, coherent_of (by decide +kernel), by decide +kernel, by decide +kernel, by decide +kernel,
      fun a _ u h => by (rw [hu] at h; cases h), by decide +kernel, by decide +kernel, by decide +kernel,
      plain_mem (by decide +kernel) (by decide +kernel) (by decide +kernel), by decide +kernel⟩
theorem witness_UpdateReleaseAcquire_relAcq : ∀ w ∈ [4, 8],
    let span := (List.range (w / 4)).map ((126#7).toNat + ·)
    Reached s0 s0 g0 i0 (g0.contributing i0 7#4) span 0#2 2#5 0#7 1#1 0#16 pathsAtom false 1 w (tPs w) ∧
    Reached s0 s0 g0 i0 (g0.contributing i0 7#4) span 0#2 2#5 0#7 1#1 0#16 pathsAtom false 0 w (tPs w) ∧
    s0.performed g0.gid releaseWaits = true ∧
    (∀ a ∈ devBytes (tAccs w), mapGet none s0.l1 (copyKey g0.core (a / 32)) = none) ∧
    s0.mayPerform ⟨s0.ids, g0.gid, g0.core, g0.world, g0.team, none, .load 126 w false false (tAccs w), false, 0⟩ = true ∧
    Near (tAccs w) ∧ Sound s0 60 (devBytes (tAccs w)) ∧
    s0.mayPerform ⟨s0.ids, g0.gid, g0.core, g0.world, g0.team, none, .store w (tAccs w), false, 0⟩ = true := by
  intro w hw
  simp only [List.mem_cons, List.not_mem_nil, or_false] at hw
  rcases hw with rfl | rfl <;>
    exact ⟨reached (at_tS _ _) (by decide +kernel) (by decide +kernel) (by decide +kernel),
      reached (at_tS _ _) (by decide +kernel) (by decide +kernel) (by decide +kernel), by decide +kernel,
      by decide +kernel, by decide +kernel, near_coherent (coherent_of (by decide +kernel)), sound_of (by decide +kernel),
      by decide +kernel⟩
/-- The same at a word of the scratchpad that both lanes name. -/
theorem witness_UpdateReleaseAcquire_pad : ∀ w ∈ [4, 8],
    Plain sPd gPd i0 (gPd.contributing i0 7#4) ((List.range (w / 4)).map ((126#7).toNat + ·)) 0#2 2#5 2#7 1#1 0#16 w (tPadLoc w) ∧
    Near (tOf (tPadLoc w)) ∧ Sound sPd 60 (devBytes (tOf (tPadLoc w))) ∧ sPd.performed gPd.gid releaseWaits = true ∧
    (∀ l ∈ gPd.contributing i0 7#4, pathOf (laneAddress gPd 0#2 2#5 2#7 0#16 l) = 2) ∧
    sPd.mayPerform ⟨s0.ids, 1, 0, 60, 2, none, .store w (tOf (tPadLoc w)), false, 0⟩ = true ∧
    sPd.mayPerform ⟨s0.ids, 1, 0, 60, 2, none, .load 126 w false false (tOf (tPadLoc w)), false, 0⟩ = true := by
  have near : ∀ w, Near (tOf (tPadLoc w)) := by
    intro w a ha
    simp only [tOf, List.mem_map] at ha
    obtain ⟨l, -, rfl⟩ := ha
    refine .inr ⟨false, 2, ?_⟩
    intro l hl
    simp only [tPadLoc, List.mem_map] at hl
    obtain ⟨k, -, rfl⟩ := hl
    exact ⟨_, rfl⟩
  intro w hw
  simp only [List.mem_cons, List.not_mem_nil, or_false] at hw
  rcases hw with rfl | rfl <;> refine ⟨plain_pad ?_ ?_ ?_ ?_, near _, sound_of ?_, ?_⟩ <;> decide +kernel

/-- A sync-variable entry of the word's atom, written from another core. -/
def sVr : State := { s0 with vars := [⟨2 ^ 35, 60, 0x400#16, 1#2, 9⟩] }
/-- A word whose release renews that entry, and whose acquire the entry widens. -/
theorem witness_UpdateReleaseAcquire_scope : ∀ w ∈ [4, 8],
    let span := (List.range (w / 4)).map ((126#7).toNat + ·)
    Reached sVr sVr g0 i0 (g0.contributing i0 7#4) span 0#2 2#5 0#7 1#1 0#16 pathsAtom false 1 w (tPs w) ∧
    Reached sVr sVr g0 i0 (g0.contributing i0 7#4) span 0#2 2#5 0#7 1#1 0#16 pathsAtom false 0 w (tPs w) ∧
    (sVr.performed g0.gid releaseWaits = true ∧
    (∀ a ∈ devBytes (tAccs w), mapGet none sVr.l1 (copyKey g0.core (a / 32)) = none) ∧
    sVr.mayPerform ⟨s0.ids, g0.gid, g0.core, g0.world, g0.team, none, .load 126 w false false (tAccs w), false, 0⟩ = true ∧
    sVr.mayPerform ⟨s0.ids, g0.gid, g0.core, g0.world, g0.team, none, .store w (tAccs w), false, 0⟩ = true ∧
    atomsOf (devBytes (tAccs w)) = [2 ^ 35] ∧ (∃ v ∈ sVr.vars, v.atom = 2 ^ 35) ∧
    ∀ v ∈ sVr.vars, v.atom = 2 ^ 35 → v.writer.toNat / 2 ^ 10 ≠ (sVr.writerOf g0).toNat / 2 ^ 10) ∧
    Near (tAccs w) ∧ Sound sVr 60 (devBytes (tAccs w)) := by
  intro w hw
  simp only [List.mem_cons, List.not_mem_nil, or_false] at hw
  rcases hw with rfl | rfl <;>
    exact ⟨reached ⟨rfl, by rfl, rfl⟩ (by decide +kernel) (by decide +kernel) (by decide +kernel),
      reached ⟨rfl, by rfl, rfl⟩ (by decide +kernel) (by decide +kernel) (by decide +kernel), by decide +kernel,
      near_coherent (coherent_of (by decide +kernel)), sound_of (by decide +kernel)⟩
theorem witness_UpdateReleaseAcquire_fence : AtWord s0 g0 i0 ∧ ∀ p < 16, s0.performed g0.gid (fenceWaits p) = true ∧
    ∀ z < 4, s0.performed g0.gid (hostFence z p) = true :=
  ⟨at_tS _ _, by decide +kernel⟩
theorem witness_TagTable : (7#32 : Word) ≠ 0xFFFFFFFF#32 ∧ (tagStep 1 0 3 [] 1#32 7#32).2 ≠ 0xFFFFFFFF#32 ∧
    LaneReady s0 g0 i0 (g0.contributing i0 7#4) [(3#7).toNat, (1#7).toNat, (2#7).toNat] [] ∧
    (∀ l ∈ g0.contributing i0 7#4, tagAt g0 [(1#7).toNat, (2#7).toNat] l = false) ∧
    LaneReady s0 g0 i0 (g0.contributing i0 7#4) [(3#7).toNat, (1#7).toNat] [] ∧
    (∀ l ∈ g0.contributing i0 7#4, tagAt g0 [(1#7).toNat] l = false) ∧
    s0.performed g0.gid (fun o => o.storesOn 2 || o.storesOn 3) = true :=
  ⟨by decide +kernel, by decide +kernel, ⟨at_tS _ _, by decide +kernel, by decide +kernel⟩, by decide +kernel,
    ⟨at_tS _ _, by decide +kernel, by decide +kernel⟩, by decide +kernel, by decide +kernel⟩
/-- The fixture with another value in S2. -/
def gS2 (v : DWord) : Group := { g0 with sregs := [(2, ⟨v, false⟩), (3, ⟨7#64, false⟩)] }
def sS2 (v : DWord) : State := { s0 with groups := [gS2 v] }
theorem at_sS2 (v : DWord) : AtWord (sS2 v) (gS2 v) i0 := ⟨rfl, by rfl, rfl⟩
/-- An aligned register, a unit that is not there, and an address within a register, for the three widths. -/
theorem witness_ControlSpace : ∀ v ∈ [0x7000001000000000#64, 0x7000001003F00004#64, 0x7000002000000008#64],
    AtWord (sS2 v) (gS2 v) i0 ∧ Ready (sS2 v) (gS2 v) [] [] [(2#5).toNat, (3#5).toNat] ∧ (gS2 v).flagFree (i0.flag 1#1) = true ∧
    ((gS2 v).sreg 2).poison = false ∧ ((gS2 v).sreg 3).poison = false ∧
    (∀ w ∈ [2#3, 3#3, 6#3], WellFormed (.cld w 0#12 2#5 3#5 1#1)) ∧
    ctlOk v.toNat = true ∧ v.toNat % 4 = 0 ∧ (v = 0x7000001003F00004#64 → v.toNat % 8 ≠ 0) := by
  have hw : ∀ w ∈ [2#3, 3#3, 6#3], illFormed (.cld w 0#12 2#5 3#5 1#1) = none := by decide +kernel
  intro v hv
  simp only [List.mem_cons, List.not_mem_nil, or_false] at hv
  rcases hv with rfl | rfl | rfl <;>
    exact ⟨at_sS2 _, by decide +kernel, by decide +kernel, by decide +kernel, by decide +kernel, hw, by decide +kernel,
      by decide +kernel, by decide +kernel⟩
theorem witness_ControlSpace_poison : AtWord spo gp i0 ∧ Ready spo gp [] [] [3, 4] ∧ Ready spo gp [] [] [4, 3] ∧
    gp.flagFree (i0.flag 1#1) = true ∧ (gp.sreg 3).poison = true ∧ (gp.sreg 4).poison = false ∧
    ∀ w ∈ [2#3, 3#3, 6#3], WellFormed (.cld w 0#12 3#5 4#5 1#1) ∧ WellFormed (.cst w 0#12 4#5 3#5 1#1) := by
  have h : ∀ w ∈ [2#3, 3#3, 6#3], illFormed (.cld w 0#12 3#5 4#5 1#1) = none ∧ illFormed (.cst w 0#12 4#5 3#5 1#1) = none := by
    decide +kernel
  exact ⟨at_spo, by decide +kernel, by decide +kernel, rfl, rfl, rfl, h⟩
theorem witness_ControlSpace_unit : ctlOk 0xFFFFFFFFFFFFFFF8 = false ∧ AtWord (sS2 0xFFFFFFFFFFFFFFF8#64) (gS2 0xFFFFFFFFFFFFFFF8#64) i0 :=
  ⟨by decide +kernel, at_sS2 _⟩
/-- The fixture with an invalidation and a maintenance outstanding and one translation marked. -/
def gm : Group := { g0 with tlbinv := 1, cmaint := 1 }
def tTlb (w agent : Nat) (stale : Bool) : TlbEntry := ⟨agent, w, 1, 0x10000, 0x20000, true, true, false, false, false, 16, stale, 16, 16, if stale then [1, 0] else []⟩
def sm : State := { s0 with groups := [gm], tlb := [tTlb 3 0 true] }
theorem witness_Maintenance :
    AtWord s0 g0 i0 ∧ Ready s0 g0 [] [] [2, 3] ∧ (g0.sreg 2).poison = false ∧ (g0.sreg 3).poison = false ∧
    WellFormed (.tlbinv 2#2 2#2 3#5 2#5) ∧ g0.tlbinv = 0 ∧ g0.cmaint = 0 ∧
    AtWord sm gm i0 ∧ gm.tlbinv ≠ 0 ∧ gm.cmaint ≠ 0 ∧ sm.group 1 = some gm ∧ sm.staleInUse 1 0 = false :=
  ⟨at_tS _ _, by decide +kernel, by decide +kernel, by decide +kernel, rfl, rfl, rfl, ⟨rfl, by rfl, rfl⟩, by decide, by decide,
    rfl, by decide +kernel⟩
theorem witness_Maintenance_poison : AtWord spo gp i0 ∧ Ready spo gp [] [] ([] ++ 3 :: [4]) ∧ Ready spo gp [] [] ([4] ++ 3 :: []) ∧
    Ready spo gp [] [] [3] ∧ (gp.sreg 3).poison = true ∧ (gp.sreg 4).poison = false :=
  ⟨at_spo, by decide +kernel⟩
/-- Two dirty lines of the boot window's world, with cells inside them. -/
theorem witness_Maintenance_inv :
    let s := { s0 with dirty := [(2 ^ 33, ⟨[(2 ^ 40 + 3, 7#8)], ⟨false, []⟩, 0, 0⟩), (2 ^ 33 + 1, ⟨[], ⟨false, []⟩, 0, 0⟩)] }
    (s.dirty.map Prod.fst).Nodup ∧ (∀ e ∈ s.dirty, ∀ c ∈ e.2.cells, c.1 / 128 = e.1) ∧ s.dirtyLine (2 ^ 33) ≠ none ∧
    s.lineSkipped (2 ^ 33) = true := by
  decide +kernel
theorem witness_Maintenance_discarded :
    let s := { s0 with dirty := [(5, ⟨[(643, 7#8)], ⟨false, []⟩, 0, 0⟩)] }
    s.dirtyLine 5 ≠ none ∧ s.lineSkipped 5 = false ∧ 48 ≤ s.owner (5 * 128) ∧ s.inWays 60 5 = true ∧
    (0 < (5 + 1) * 128 ∧ 5 * 128 < 0 + 1000) ∧ (s.dirty.map Prod.fst).Nodup ∧
    (∀ e ∈ s.dirty, ∀ c ∈ e.2.cells, c.1 / 128 = e.1) ∧ s.dirtyLine 6 = none := by decide +kernel
theorem witness_Maintenance_invctl : (s0.polder 47).invgo = false ∧
    let s := sm.setPolder 3 { sm.polder 3 with invgo := true }; (s.polder 3).invgo = true ∧ s.staleInUse 0 3 = false := by
  decide +kernel
/-- A group with another GSTAT: STRICT clear, or set with a lane waiting elsewhere. -/
def gb : Group := { g0 with gstat := 16#32, lanes := (2, { tL 2#32 [] with pcv := 0x800#64 }) :: g0.lanes }
def sb : State := { s0 with groups := [gb] }

theorem witness_Branching :
    AtWord s0 g0 i0 ∧ g0.gstat.getLsbD 4 = false ∧ (∀ l ∈ g0.ready, i0.lanes.getLsbD l = true) ∧
    AtWord sb gb i0 ∧ gb.gstat.getLsbD 4 = true ∧ ¬ (∀ l ∈ gb.ready, i0.lanes.getLsbD l = true) ∧
    Ready s0 g0 (g0.contributing i0 7#4) [4, 5] [] ∧ targetChecks g0 (g0.contributing i0 7#4) 4#7 = none :=
  ⟨at_tS _ _, by decide +kernel, by decide +kernel, ⟨rfl, by rfl, rfl⟩, by decide +kernel⟩
/-- The fixture with another group. -/
def sG (g : Group) : State := { s0 with groups := [g] }
theorem at_sG (g : Group) (h : g.gid = 1) (hi : g.issue = some i0) : AtWord (sG g) g i0 := by
  refine ⟨by rw [h]; rfl, ?_, hi⟩
  show (if (g.gid == g.gid) = true then some g else none) = some g
  simp
/-- Lane 0 at depth 255. -/
def gd : Group := { g0 with lanes := [(0, { tL 0#32 [] with chain := List.replicate 256 ⟨0, []⟩ })] }
/-- Frames that leave too little of the pool for another group's request. -/
def gf : Group := { g0 with gid := 9, slot := 1, frames := List.replicate 63 ⟨0, 128, 0#64, none, false, 0, [], []⟩ }
/-- Frames of the group itself that fill the pool. -/
def gff : Group := { g0 with frames := List.replicate 64 ⟨0, 128, 0#64, none, false, 0, [], []⟩ }
theorem witness_Calls :
    AtWord s0 g0 i0 ∧ g0.contributing i0 7#4 ≠ [] ∧ Ready s0 g0 (g0.contributing i0 7#4) [4, 5] [] ∧
    targetChecks g0 (g0.contributing i0 7#4) 4#7 = none ∧ (∀ l ∈ [0, 1], (g0.lane l).depth ≠ 255) ∧
    16 * 1 + g0.held' ≤ s0.usable (s0.poolOf 0 3) ∧ g0.request = none ∧
    s0.canServe (s0.poolOf 0 3) s0.clock g0.slot 16 = true :=
  ⟨at_tS _ _, by decide +kernel⟩
theorem witness_Calls_waits : let s := { s0 with groups := [g0, gf] }
    AtWord s g0 i0 ∧ 16 * 1 + g0.held' ≤ s.usable (s.poolOf 0 3) ∧ s.canServe (s.poolOf 0 3) s.clock g0.slot 16 = false :=
  ⟨⟨rfl, by rfl, rfl⟩, by decide +kernel, by decide +kernel⟩
theorem witness_Calls_faults :
    AtWord (sG gd) gd i0 ∧
    ((gd.contributing i0 7#4).filter fun l => decide ((gd.lane l).depth = 255)) = [0] ∧
    let s := sG gff
    AtWord s gff i0 ∧ s.usable (s.poolOf 0 3) < 1 + gff.held' ∧
    ((gff.contributing i0 7#4).filter fun l => decide ((gff.lane l).depth = 255)) = [] :=
  ⟨at_sG _ rfl rfl, by decide +kernel, at_sG _ rfl rfl, by decide +kernel, by decide +kernel⟩
/-- Both lanes in a called frame; V15 of it as `v`, its trap point `p`; `S2` a good target, `S3` a depth. -/
def gr (v : Word) (p : Option TrapPoint) : Group := { g0 with
  lanes := [(0, { tL 0#32 [] with chain := [⟨5, [(15, ⟨v, false⟩)]⟩, ⟨0, []⟩] }), (1, { tL 1#32 [] with chain := [⟨5, []⟩, ⟨0, []⟩] })],
  frames := [⟨0, 128, 0#64, none, false, 0, [], []⟩, ⟨5, 32, 0x1000#64, p, false, 5, [], []⟩],
  sregs := [(2, ⟨0x2000#64, false⟩), (3, ⟨2#64, false⟩)] }
def sr (v : Word) (p : Option TrapPoint) : State := { s0 with groups := [gr v p] }
theorem at_sr (v : Word) (p : Option TrapPoint) : AtWord (sr v p) (gr v p) i0 := ⟨rfl, by rfl, rfl⟩
theorem witness_Returns :
    AtWord s0 g0 i0 ∧ ((g0.contributing i0 7#4).filter fun l => decide ((g0.lane l).depth = 0)) ≠ [] ∧
    g0.trapFrames (g0.contributing i0 7#4) = [] ∧
    AtWord (sr 0#32 none) (gr 0#32 none) i0 ∧
    ((gr 0#32 none).contributing i0 7#4).filter (fun l => decide (((gr 0#32 none).lane l).depth = 0)) = [] ∧
    (gr 0#32 none).trapFrames ((gr 0#32 none).contributing i0 7#4) = [] ∧
    (∀ l ∈ (gr 0#32 none).contributing i0 7#4,
      (gr 0#32 none).frame ((gr 0#32 none).lane l).fid = some ⟨5, 32, 0x1000#64, none, false, 5, [], []⟩) :=
  ⟨at_tS _ _, by decide +kernel, by decide +kernel, at_sr _ _, by decide +kernel, by decide +kernel, by decide +kernel⟩
theorem witness_Returns_unwind : let s := sr 0#32 none; let g := gr 0#32 none
    Ready s g [] [] [3, 2] ∧ (g.sreg 3).poison = false ∧ (g.sreg 2).poison = false ∧
    okTarget (g.sreg 2).val = true ∧ okTarget (g.sreg 3).val = false ∧
    (∀ l ∈ g.contributing i0 7#4, (g.lane l).depth < (g.sreg 3).val.toNat ∧ ¬ (g.lane l).depth < (g.sreg 0).val.toNat) ∧
    (∃ l ∈ gb.liveLanes, (gb.contributing i0 7#4).contains l = false) := by decide +kernel
theorem witness_TrapEntry :
    AtWord s0 g0 i0 ∧ g0.contributing i0 7#4 ≠ [] ∧ g0.contributing i0 1#4 = [] ∧ s0.trapent g0 ≠ 0#64 ∧
    (∀ l ∈ maskLanes i0.lanes, (g0.lane l).depth ≠ 255) ∧ g0.held' + 4 ≤ s0.usable (s0.poolOf g0.core g0.grid) ∧
    s0.canServe (s0.poolOf g0.core g0.grid) s0.clock g0.slot 4 = true :=
  ⟨at_tS _ _, by decide +kernel⟩
theorem witness_TrapEntry_waits : let s := { s0 with groups := [g0, { gf with frames := List.replicate 63 ⟨0, 128, 0#64, none, false, 0, [], []⟩ }] }
    AtWord s g0 i0 ∧ g0.contributing i0 7#4 ≠ [] ∧ s.trapent g0 ≠ 0#64 ∧
    g0.held' + 4 ≤ s.usable (s.poolOf g0.core g0.grid) ∧ s.canServe (s.poolOf g0.core g0.grid) s.clock g0.slot 4 = false :=
  ⟨⟨rfl, by rfl, rfl⟩, by decide +kernel⟩
theorem witness_TrapEntry_served (r : PendingTrap) : let g := { g0 with request := some ⟨0, 4, .trap r, true⟩ }
    { s0 with groups := [g] }.group 1 = some g := rfl
def tPoint : TrapPoint := ⟨false, 0, 1, 1, none⟩
/-- The members of one trap frame, its record asking REPLAY (0), SKIP (1) past the clause, and 3. -/
theorem witness_TrapReturn : ∀ v ∈ [0#32, 1#32, 3#32],
    let f : Frame := ⟨5, 32, 0x1000#64, some tPoint, false, 5, [], []⟩
    let g := gr v (some tPoint)
    AtWord (sr v (some tPoint)) g i0 ∧ (g.contributing i0 7#4).head? = some 0 ∧
    Ready (sr v (some tPoint)) g (g.contributing i0 7#4) [15] [] ∧
    (∀ l ∈ g.contributing i0 7#4, (g.lane l).depth ≠ 0 ∧ (g.lane l).fid = f.fid ∧ f.pointOf l = some tPoint) ∧
    g.frame f.fid = some f ∧
    g.trapFrames (g.contributing i0 7#4) = [f] ∧ (∀ l ∈ g.trapMembers f, l ∈ g.contributing i0 7#4) ∧
    ((g.lane 0).vreg 15).val.toNat % 4 = v.toNat := by
  intro v hv
  simp only [List.mem_cons, List.not_mem_nil, or_false] at hv
  rcases hv with rfl | rfl | rfl <;>
    exact ⟨at_sr _ _, by decide +kernel⟩
/-- Lane 1 of the members waits elsewhere. -/
theorem witness_TrapReturn_some : let p : TrapPoint := ⟨true, 0, 1, 1, none⟩; let g := gr 0#32 (some p)
    let i := { i0 with lanes := 1#64 }
    let f : Frame := ⟨5, 32, 0x1000#64, some p, false, 5, [], []⟩
    (∃ l ∈ g.trapMembers f, l ∉ g.contributing i 7#4) ∧ g.trapFrames (g.contributing i 7#4) = [f] := by
  decide +kernel
theorem witness_SpawnAndRegroup :
    AtWord s0 g0 i0 ∧ s0.team g0.team = some (tT 60) ∧ g0.contributing i0 7#4 ≠ [] ∧
    Ready s0 g0 (g0.contributing i0 7#4) [1] [2] ∧ boundCond g0 (g0.contributing i0 7#4) [1] = none ∧
    (g0.sreg 2).poison = false ∧ okTarget (g0.sreg 2).val = true ∧ binFor (tT 60).bins (g0.sreg 2).val = some 0 ∧
    (((tT 60).bins[0]?).map (·.recs.length)).getD 0 ≤ 64 ∧ (s0.heldTids (tT 60).key).length + 64 < 2 ^ 32 - 1024 :=
  ⟨at_tS _ _, by decide +kernel⟩
/-- A second launched group of the team, not yet at the `REGROUP`. -/
def g1' : Group := { g0 with gid := 9, slot := 1 }
def s01 : State := { s0 with groups := [g0, g1'] }
theorem witness_SpawnAndRegroup_regroup :
    AtWord s0 g0 i0 ∧ g0.isLaunched = true ∧ g0.parked = 0#64 ∧ (∀ l ∈ g0.liveLanes, i0.lanes.getLsbD l = true) ∧
    Ready s0 g0 (maskLanes i0.lanes) [1] [] ∧ boundCond g0 (maskLanes i0.lanes) [1] = none ∧
    let gs := (s0.modGroup g0.gid fun h => { h with waiting := .regroup }).launched g0.team
    (∀ h ∈ gs, h.waiting = .regroup ∧ h.flags = [] ∧ h.swapped = false ∧ h.asyncs = [] ∧ s0.pendingV h.gid = [] ∧ s0.pendingS h.gid = [] ∧
      ∀ f ∈ h.frames, f.spilled = false) ∧
    s0.inUse (s0.poolOf g0.core g0.grid) ≤ s0.usable (s0.poolOf g0.core g0.grid) ∧ (gs.map (·.gid)).Nodup ∧
    (∀ x ∈ gs.flatMap fun h => h.liveLanes.map h.arrivalKey, ∀ y ∈ gs.flatMap fun h => h.liveLanes.map h.arrivalKey, x = y) ∧
    ∃ h ∈ (s01.modGroup g0.gid fun h => { h with waiting := .regroup }).launched g0.team,
      h.waiting ≠ .regroup := by
  refine ⟨at_tS _ _, ?_⟩
  decide +kernel
/-- The last arrival, an arrival before the other group's, and a group whose barrier is done. -/
theorem witness_Barriers : ∀ gang : Bool, ∀ n < 4,
    AtWord s0 g0 i0 ∧ (s0.groups.map (·.gid)).Nodup ∧ (s01.groups.map (·.gid)).Nodup ∧
    g0.isLaunched = true ∧ (∀ l ∈ g0.ready, i0.lanes.getLsbD l = true) ∧
    s0.performed g0.gid arriveWaits = true ∧ g0.waiting ≠ .barrier gang n true ∧
    (∀ h ∈ (s0.parties gang g0).filter fun h : Group => h.gid != g0.gid, h.waiting = .barrier gang n false) ∧
    (∃ h ∈ (s01.parties gang g0).filter fun h : Group => h.gid != g0.gid, h.waiting ≠ .barrier gang n false) ∧
    AtWord { s0 with groups := [{ g0 with waiting := .barrier gang n true }] } { g0 with waiting := .barrier gang n true } i0 := by
  have h : ∀ gang : Bool, ∀ n < 4, g0.isLaunched = true ∧ (∀ l ∈ g0.ready, i0.lanes.getLsbD l = true) ∧
    s0.performed g0.gid arriveWaits = true ∧ g0.waiting ≠ .barrier gang n true ∧
    (∀ h ∈ (s0.parties gang g0).filter fun h : Group => h.gid != g0.gid, h.waiting = .barrier gang n false) ∧
    (∃ h ∈ (s01.parties gang g0).filter fun h : Group => h.gid != g0.gid, h.waiting ≠ .barrier gang n false) := by
    decide +kernel
  intro gang n hn
  obtain ⟨a, b, c, d, e, f⟩ := h gang n hn
  exact ⟨at_tS _ _, by decide +kernel, by decide +kernel, a, b, c, d, e, f, ⟨rfl, by rfl, rfl⟩⟩


/-- A copy's record in scratchpad at 0: one element of a byte; a sync word's bytes follow from 256 on. -/
def tPad : List Host.Cell := [(20, 1#8), (22, 1#8), (24, 1#8), (26, 1#8), (28, 1#8)]
/-- The fixture with addresses in S2, S3 and S4, and a scratchpad. -/
def gA (a b c : DWord) : Group := { g0 with sregs := [(2, ⟨a, false⟩), (3, ⟨b, false⟩), (4, ⟨c, false⟩)] }
def tA (pad : List Host.Cell) : Team := { tT 60 with scratch := pad }
def sA (g : Group) (pad : List Host.Cell) : State := { s0 with groups := [g], teams := [tA pad] }
theorem at_sA (a b c : DWord) (pad : List Host.Cell) : AtWord (sA (gA a b c) pad) (gA a b c) i0 := ⟨rfl, by rfl, rfl⟩

def gSync (n : DWord) : Group := gA 0x2000000000000FF0#64 n 0#64
/-- The last sync word of the scratchpad; REG is 1 at 12 bytes into it where observers are outstanding. -/
def sSync (n : DWord) (pad : List Host.Cell) : State := sA (gSync n) pad
theorem witness_SyncWords : ∀ n ∈ [0#64, 1#64], ∀ pad ∈ [[], [(4092, 1#8)]],
    AtWord (sSync n pad) (gSync n) i0 ∧ Ready (sSync n pad) (gSync n) [] [] [2, 3] ∧
    ((gSync n).sreg 2).poison = false ∧ ((gSync n).sreg 3).poison = false ∧
    (sSync n pad).place (gSync n) (fun p => p == 2 || p == 3) 16 0x2000000000000FF0 = some (.scr (pathOf 0x2000000000000FF0 == 3) 2 4080) ∧
    (sSync n pad).team 2 = some (tA pad) ∧ (∀ k < 16, mapGet false (tA pad).spoison ((4080 + k) / 4) = false) ∧
    (sSync n pad).performed (gSync n).gid arriveWaits = true ∧ (sSync n pad).syncBusy (gSync n) 2#5 = false := by
  intro n hn pad hp
  simp only [List.mem_cons, List.not_mem_nil, or_false] at hn hp
  rcases hn with rfl | rfl <;> rcases hp with rfl | rfl <;>
    exact ⟨at_sA _ _ _ _, by decide +kernel⟩
/-- A counter of value 0 in the boot window, waited for at 0 and at 7. -/
def tPs64 (w : Nat) : List (Nat × Place × List Loc) := [(64, .va 0 (2 ^ 40), (List.range w).map fun k => .mem (2 ^ 40 + k))]
def tAccs64 (w : Nat) : List LaneAcc := (tPs64 w).map fun e => ⟨e.1, 0, e.2.2, [], false⟩
theorem witness_SyncWords_counter :
    AtWord s0 g0 i0 ∧ s0.access g0 (· == 0) false 0 8 [(64, (g0.sreg 2).val.toNat)] = (s0, .ok (tPs64 8)) ∧ Coherent (tAccs64 8) ∧
    Sound s0 60 (devBytes (tAccs64 8)) ∧ (∀ e ∈ tPs64 8, e.2.2.length = 8) ∧
    (∀ x ∈ devBytes (tAccs64 8), mapGet none s0.l1 (copyKey g0.core (x / 32)) = none) ∧
    s0.mayPerform ⟨s0.ids, g0.gid, g0.core, g0.world, g0.team, none, .load 0 8 false true (tAccs64 8), false, 0⟩ = true ∧
    ofBytes ((tAccs64 8).flatMap (locBytes s0)) < (g0.sreg 3).val.toNat ∧
    (g0.sreg 0).val.toNat ≤ ofBytes ((tAccs64 8).flatMap (locBytes s0)) :=
  ⟨at_tS _ _, by decide +kernel, coherent_of (by decide +kernel), sound_of (by decide +kernel), by decide +kernel⟩
/-- A block of the group, parked with J0. -/
def tBlk (stage : BlockStage) : Block :=
  { newBlock 20 21 1 0 60 2 0 0 0 0 0 (some 0) none none 0#64 none with stage := stage }
theorem witness_QueuesAndRejoin :
    sq.group gq.gid = some gq ∧ findBy (fun e => e.1 == 0) gq.qregs = some (0, ⟨5, false⟩) ∧
    sq.queue (sq.gangOf gq) 5 = some (tQueue 1 false) ∧ (tQueue 1 false).entries ≠ [] ∧ (tQueue 0 false).entries = [] ∧
    { tQueue 0 false with producer := .group 4 }.live = true ∧
    AtWord sq gq i0 ∧
    (∃ u, (sq.closeQ gq 1).queue (sq.gangOf gq) 5 = some u ∧ u.consumer.isSome = true ∧ u.live = false ∧ u.vector = false) ∧
    (∃ u, (sq.closeQ gq 0).queue (sq.gangOf gq) 5 = some u ∧ u.consumer = none) ∧
    (sq.closeQ gq 0).queue (sq.gangOf gq) 15 = none := by
  refine ⟨rfl, rfl, rfl, by decide, rfl, rfl, at_tSQ _ _ _ _, ⟨_, rfl, ?_⟩, ⟨_, rfl, ?_⟩, ?_⟩ <;> decide +kernel
theorem witness_QueuesAndRejoin_rejoin :
    (∃ b ∈ [tBlk .sent], b.gid = g0.gid ∧ b.parked = some (0#2).toNat ∧ b.stage ≠ .delivered) ∧
    (∀ b ∈ [tBlk .delivered], b.gid = g0.gid → b.parked = some (0#2).toNat → b.stage = .delivered) ∧
    let g := { g0 with issue := none, lanes := [(0, { tL 0#32 [] with pcv := exitPc })] }
    ({ s0 with groups := [g] }).group g.gid = some g ∧ g.ready = [] := by decide +kernel

/-- A group about to issue in the boot window, where a header and words stand. -/
def gH : Group := { g0 with
  issue := none, lanes := [(0, { tL 0#32 [] with pcv := 0x1000000007C#64 }), (1, { tL 1#32 [] with pcv := 0x10000000080#64 })] }
def sH (header : Word) : State := { s0 with
  groups := [gH], mem := (toBytes 4 header.toNat ++ [1#8]).zipIdx.filterMap fun e =>
    if e.1 = 0#8 then none else some (2 ^ 40 + 124 + e.2, e.1) }
/-- Sound headers of classes 0, 6 and 7, one with WAIT, and unsound ones: SIG, N, SETA 12, SETB 14. -/
theorem witness_ClauseIssue : ∀ h ∈ [0xA7F80001#32, 0xA7F80061#32, 0xA7F80071#32, 0xA7F80081#32, 0x97F80001#32, 0xA7F80000#32,
      0xA7E00001#32, 0xA7780001#32],
    (sH h).group gH.gid = some gH ∧ (sH h).mayIssue gH = true ∧ gH.nextClause = (0x1000000007C#64, [0]) ∧ gH.asyncs = [] ∧ gH.second = none ∧
    (∀ f ∈ gH.frames, f.spilled = false) ∧ (∃ s1 s2, (sH h).fetchWords gH 0x1000000007C 1 = (s1, .ok [h]) ∧
      s1.fetchWords gH 0x10000000080 1 = (s2, .ok [1#32]) ∧ s2.group gH.gid = some gH) ∧ (∀ k < 12, gH.flag k = 0) := by
  have f : ∀ {s : State} {a : Nat} {x : Word}, (s.fetchWords gH a 1).2 = .ok [x] →
      s.fetchWords gH a 1 = ((s.fetchWords gH a 1).1, .ok [x]) := fun h => Prod.ext rfl h
  intro h hh
  simp only [List.mem_cons, List.not_mem_nil, or_false] at hh
  rcases hh with rfl | rfl | rfl | rfl | rfl | rfl | rfl | rfl <;>
    exact ⟨rfl, by decide +kernel, by decide +kernel, rfl, rfl, by decide +kernel,
      ⟨_, _, f (by decide +kernel), f (by decide +kernel), by decide +kernel⟩, by decide +kernel⟩
theorem witness_ClauseIssue_waits : (0xA7F80081#32 : Word).toNat.testBit (7 + 0) = true ∧ { gH with flags := [(0, 1)] }.flag 0 ≠ 0 := by
  decide +kernel
theorem witness_Completions :
    let o := { tOp .plain with done := true }
    let s := { s0 with ops := [o] }
    s.op 7 = some o ∧ s.group o.gid = some g0 ∧ g0.liveLanes ≠ [] ∧
    let r : FrameReq := ⟨0, 4, .call 32, false⟩
    let g := { g0 with request := some r }
    let s := sG g
    s.group g.gid = some g ∧ s.inUse (s.poolOf g.core g.grid) + r.granules ≤ s.usable (s.poolOf g.core g.grid) ∧
    (∀ w ∈ s.waiters (s.poolOf g.core g.grid), r.age < w.1 ∨ (r.age = w.1 ∧ g.slot ≤ w.2.1)) ∧
    ({ s0 with lines := [(5, ⟨false, [(0, 1#8)]⟩)] }.line 5).read = ⟨.corrected, false⟩ := by decide +kernel
/-- A return into frame 0, spilled, that may be served or whose granules do not fit. -/
theorem witness_Completions_restore : ∀ n ∈ [16, 5000],
    let r : FrameReq := ⟨0, n, .restore 0, false⟩
    let g := { g0 with frames := [⟨0, 128, 0#64, none, true, 0, [], []⟩], restores := [r] }
    let s := sG g
    s.group g.gid = some g ∧ g.request = none ∧ g.swapped = false ∧ g.restores = [r] ∧ g.requests = [r] ∧
    (n = 16 ↔ s.inUse (s.poolOf g.core g.grid) + r.granules ≤ s.usable (s.poolOf g.core g.grid)) ∧
    (∀ w ∈ s.waiters (s.poolOf g.core g.grid), r.age < w.1 ∨ (r.age = w.1 ∧ g.slot ≤ w.2.1)) := by decide +kernel

theorem access_ok {s : State} {r : State × Except Cond (List (Nat × Place × List Loc))}
    (h : (match r with | (t, .ok _) => decide (t = s) | _ => false) = true) : ∃ ps, r = (s, .ok ps) := by
  obtain ⟨t, e | ps⟩ := r
  · simp at h
  · exact ⟨ps, by simpa using h⟩
/-- The fixture's layout word is zero: the team's own scratchpad from its first byte, strides 0. S4 is the tile's base. -/
def gT : Group := gA 0#64 0#64 0x10000000000#64
def sT : State := sA gT []
theorem witness_MatrixTiles :
    AtWord sT gT i0 ∧ sT.team gT.team = some (tA []) ∧ gT.flagFree (i0.flag 1#1) = true ∧ (7 < (tA []).kernel.tiles) ∧
    sT.tileBusy gT [7] = false ∧ sT.tileBusy gT [6, 7] = false ∧ Ready sT gT [] [] (layoutRegs 5#5) ∧
    sPoison gT 3 (layoutRegs 5#5) = none ∧ layoutClean (gT.layoutBits 5#5) = true ∧
    (∀ per ∈ [2, 4, 8], sT.layoutPath gT (layoutOf (gT.layoutBits 5#5)) 128 (128 / per) = none) ∧
    sT.layoutTeam gT (layoutOf (gT.layoutBits 5#5)) = some (tA []) := by
  refine ⟨at_sA _ _ _ _, ?_⟩
  decide +kernel
theorem witness_MatrixTiles_blocks :
    sT.blocksReady gT ((layoutOf (gT.layoutBits 5#5)).accs (tA []).key 128 16) = true := by decide +kernel

/-- Every chunk and scale of a tile drained as E2M1 with E8M0 scales. -/
theorem witness_MatrixTiles_drain :
    let y := layoutOf (gT.layoutBits 5#5)
    let chunks := (List.range (128 * (128 / 32))).map fun k =>
      ((64 : Nat), addrAdd 0x10000000000 (16 * (k / (128 / 32) * y.s0 + k % (128 / 32) * y.s1) % 2 ^ 64))
    let scales := (List.range 512).map fun k => ((64 : Nat), addrAdd 0x10000000000 (1 * k))
    drainPerChunk 8 = 32 ∧ Ready sT gT [] [] ([4, 4] ++ layoutRegs 5#5) ∧ ((tA []).tileState 7).mode ≠ .xh ∧
    sPoison gT 0 [4, 4] = none ∧ y.off = 0 ∧ y.gang = false ∧ y.core = 0 ∧
    (∃ cs, sT.access gT pathsDrain true 1 16 chunks = (sT, .ok cs)) ∧
    (∃ ws, sT.access gT pathsDrain true 1 1 scales = (sT, .ok ws)) ∧
    (∀ e ∈ chunks.flatMap (fun e => [e.2, addrAdd e.2 15]) ++ scales.flatMap (fun e => [e.2, addrAdd e.2 0]),
      sT.place gT pathsDrain 1 e ≠ none) ∧ sT.tileBusy gT [7] = false ∧ 0x10000000000 % 16 = 0 := by
  refine ⟨?_, ?_, ?_, ?_, ?_, ?_, ?_, access_ok ?_, access_ok ?_, ?_, ?_⟩ <;> decide +kernel
def tMat (pair : Bool) : MatrixOp := ⟨pair, 2, if pair then 4 else 2, 0, 32, false, 2, 2, [], [], 0#128, 0#2, 0, 0, true⟩
/-- A second team of the gang on core 1, with a group. -/
def tF : Team := { tA [] with key := 4, core := 1, teamid := 1 }
def gF : Group := { g0 with gid := 9, core := 1, team := 4 }
def sF (ops : List Op) : State := { s0 with groups := [g0, gF], teams := [tA [], tF], ops := ops }
theorem witness_MatrixTiles_pass : ∀ pair : Bool,
    let o := tOp (.matrix (tMat pair))
    let s := sF [o]
    s.op 7 = some o ∧ (tMat pair).granted = true ∧ o.team = (tMat pair).team ∧ s.group o.gid = some g0 ∧ g0 ∈ s.groups ∧
    g0.team = (tMat pair).team ∧ ((tMat pair).exact = true → 4 ≤ (tMat pair).fmta ∧ 4 ≤ (tMat pair).fmtb) ∧
    g0.liveLanes ≠ [] ∧ s.team 2 = some (tA []) ∧ mapCanon none (tA []).tiles = true ∧
    (if (tMat pair).pair = true then (tMat pair).follower ≠ (tMat pair).team ∧ s.team (tMat pair).follower = some tF ∧
      mapCanon none tF.tiles = true ∧ gF ∈ s.groups ∧ gF.gid ≠ o.gid ∧ gF.team = (tMat pair).follower
      else (tMat pair).follower = (tMat pair).team) := by decide +kernel

/-- The pair's fixture, its first group with layout words of zero at S5, and the latch as given. -/
def gM (h : Option Latch) : Group := { gT with latch := h }
def sM (h : Option Latch) : State := { sF [] with groups := [gM h, gF] }
def tLatch : Latch := ⟨1#1, 0#7, 5#5, 2#4, 0#3, [], 0#128⟩
theorem at_sM (h : Option Latch) : AtWord (sM h) (gM h) i0 := ⟨rfl, by rfl, rfl⟩
/-- A from registers, from blocks and from the latch, alone and as a pair, at the highest tile that fits. -/
theorem witness_MatrixIssue : ∀ pair : Bool,
    let yb := layoutOf ((gM none).layoutBits 5#5)
    let cols := if pair then 256 else 128
    (if pair then (sM none).follower (gM none) else (sM none).team 2) = some (if pair then tF else tA []) ∧
    (sM none).team 2 = some (tA []) ∧ (gM none).latched 0#1 8#7 0#5 2#4 0#3 = none ∧ (gM none).latched 1#1 0#7 5#5 2#4 0#3 = none ∧
    Ready (sM none) (gM none) (gM none).liveLanes (regSpan 8#7 (mmaSpan 0 2)) (layoutRegs 5#5) ∧
    Ready (sM none) (gM none) (gM none).liveLanes [] (layoutRegs 5#5 ++ layoutRegs 5#5) ∧
    walkCond (gM none) true = none ∧ boundCond (gM none) (gM none).liveLanes (regSpan 8#7 (mmaSpan 0 2)) = none ∧
    boundCond (gM none) (gM none).liveLanes [] = none ∧ 7 + 1 ≤ min (tA []).kernel.tiles tF.kernel.tiles ∧
    sPoison (gM none) 3 (layoutRegs 5#5 ++ layoutRegs 5#5) = none ∧ sPoison (gM none) 3 ([] ++ layoutRegs 5#5) = none ∧
    layoutClean ((gM none).layoutBits 5#5) = true ∧ (sM none).layoutPath (gM none) yb 128 (32 / mmaPerChunk 2) = none ∧
    (sM none).layoutPath (gM none) yb cols (32 / mmaPerChunk 2) = none ∧ (sM none).layoutTeam (gM none) yb = some (tA []) ∧
    (gM none).flagFree (i0.flag 1#1) = true ∧ (sM none).mrtUsed 0 < 32 ∧
    (sM none).blocksReady (gM none) (yb.accs 2 128 (32 / mmaPerChunk 2) ++ yb.accs 2 cols (32 / mmaPerChunk 2)) = true ∧
    (sM none).blocksReady (gM none) ([] ++ yb.accs 2 cols (32 / mmaPerChunk 2)) = true := by
  intro pair
  cases pair <;> decide +kernel
theorem witness_MatrixIssue_latch : AtWord (sM none) (gM none) i0 ∧ AtWord (sM (some tLatch)) (gM (some tLatch)) i0 ∧
    (gM (some tLatch)).latched 1#1 0#7 5#5 2#4 0#3 = some tLatch ∧
    Ready (sM (some tLatch)) (gM (some tLatch)) (gM (some tLatch)).liveLanes [] ([] ++ layoutRegs 5#5) :=
  ⟨at_sM _, at_sM _, by decide +kernel, by decide +kernel⟩
/-- A request that is granted, and one whose array is taken. -/
theorem witness_MatrixIssue_grant :
    let m := { tMat true with granted := false }
    let o := tOp (.matrix m)
    let s := sF [o]
    s.op 7 = some o ∧ (∀ a ∈ arraysOf o m, s.arrayBusy a = false) ∧ 0 ∈ arraysOf o m ∧
    (∀ p ∈ s.ops, p.id = o.id) ∧ s.inOrder (o, m) = true ∧
    (sF [o, { o with id := 8, kind := .matrix { tMat false with granted := true } }]).arrayBusy 0 = true := by decide +kernel

/-- The bytes of the copy's record. -/
def tRec : List (Byte × Bool) := (List.range 64).map fun k => (mapGet 0#8 tPad k, false)
/-- One element from the boot window to scratchpad, its record at 0 (S4), its scratchpad side at the last byte (S3). -/
def gCp : Group := gA 0x10000000000#64 0x2000000000000FFF#64 0x2000000000000000#64
def sCp : State := sA gCp tPad
/-- The same into stream 5. -/
def gCs : Group := gA 0x10000000000#64 5#64 0x2000000000000000#64
def tStream : Queue := ⟨4, 5, true, [], .never, none, false⟩
def sCs : State := { sA gCs tPad with queues := [tStream] }
theorem witness_CopyIssue :
    AtWord sCp gCp i0 ∧ Ready sCp gCp [] [] [2, 3, 4] ∧ sPoison gCp 0 [2, 3, 4] = none ∧
    sCp.ownRecord gCp 0x2000000000000000 64 64 (fun p => p == 2 || p == 3) = .ok (0, tRec) ∧
    sCp.recordReady gCp (pathOf 0x2000000000000000 == 3) 0 64 = true ∧ (∀ e ∈ tRec, e.2 = false) ∧
    (∀ ix : Bool, recordBad (tRec.map Prod.fst) ix (((sCp.team 2).map (·.kernel.scratch)).getD 0) = none) ∧
    (∀ load ix : Bool, ∀ chk < 3, sCp.copyCond 0 2 60 (copyRec (tRec.map Prod.fst)) load ix false chk 0x10000000000
      0x2000000000000FFF = none) ∧ (∀ load : Bool, sCp.sceUsed 0 load < 16) ∧ gCp.flagFree (i0.flag 1#1) = true ∧
    sCp.lines = [] ∧ sCp.uatoms = [] ∧ (∀ x, sCp.alien x = false) ∧ (∀ e ∈ sCp.ops, e.id < sCp.ids) := by
  refine ⟨at_sA _ _ _ _, ?_, ?_, ?_, ?_, ?_, ?_, ?_, ?_, ?_, rfl, rfl, fun _ => rfl, ?_⟩ <;> decide +kernel
theorem witness_CopyIssue_stream :
    AtWord sCs gCs i0 ∧ Ready sCs gCs [] [] [2, 3, 4] ∧
    sCs.ownRecord gCs 0x2000000000000000 64 64 (fun p => p == 2 || p == 3) = .ok (0, tRec) ∧
    (5#64 : DWord).toNat < 16 ∧ sCs.queue (sCs.gangOf gCs) 5 = some tStream ∧ tStream.live = false ∧ tStream.vector = true ∧
    sCs.copyCond 0 2 60 (copyRec (tRec.map Prod.fst)) true false true 0 0x10000000000 5 = none :=
  ⟨⟨rfl, by rfl, rfl⟩, by decide +kernel⟩
/-- An exclusive range of another team over the copy's bytes. -/
def sCx : State := { sCp with ranges := [⟨2 ^ 33, 2 ^ 33, true, 8, 6, 0⟩] }
theorem witness_CopyIssue_conflict :
    let c := newCopy true false (copyRec (tRec.map Prod.fst)) 0x2000000000000000 0x10000000000#64 0x2000000000000FFF#64 1 true
      none false gCp.lclock none 0
    let o : Op := ⟨sCx.ids, gCp.gid, gCp.core, gCp.world, gCp.team, i0.flag 1#1, .copy c, false, 0⟩
    sCx.copyExtent o c = some (0x10000000000, 0x10000000000) ∧ sCx.extentMiss o c 0x10000000000 0x10000000000 = none ∧
    (sCx.extentLines gCp.core gCp.world 0x10000000000 0x10000000000).1.conflicts (1 == 2)
      (sCx.extentLines gCp.core gCp.world 0x10000000000 0x10000000000).2 = true := by
  decide +kernel

/-- The same copy with no other range over its bytes. -/
theorem witness_CopyIssue_noConflict : ∀ chk ∈ [1, 2],
    let c := newCopy true false (copyRec (tRec.map Prod.fst)) 0x2000000000000000 0x10000000000#64 0x2000000000000FFF#64 chk true
      none false gCp.lclock none 0
    let o : Op := ⟨sCp.ids, gCp.gid, gCp.core, gCp.world, gCp.team, i0.flag 1#1, .copy c, false, 0⟩
    let s1 := (sCp.extentLines gCp.core gCp.world 0x10000000000 0x10000000000).1
    sCp.copyExtent o c = some (0x10000000000, 0x10000000000) ∧ s1.copyExtent o c = some (0x10000000000, 0x10000000000) ∧
    s1.conflicts (chk == 2) (sCp.extentLines gCp.core gCp.world 0x10000000000 0x10000000000).2 = false ∧ s1.lines = [] ∧
    s1.uatoms = [] ∧ (∀ x, s1.alien x = false) ∧ (∀ e ∈ s1.ops, e.id < sCp.ids) ∧ s1.ids = sCp.ids ∧ s1.sceUsed 0 true < 16 ∧
    sCp.extentMiss o c 0x10000000000 0x10000000000 = none ∧ s1.extentMiss o c 0x10000000000 0x10000000000 = none := by
  intro chk h
  simp only [List.mem_cons, List.not_mem_nil, or_false] at h
  rcases h with rfl | rfl <;>
    exact ⟨by decide +kernel, by decide +kernel, by decide +kernel, by decide +kernel, by decide +kernel, fun _ => rfl,
      by decide +kernel⟩

/-- A copy of one element in flight, and its state. -/
def tCp (load : Bool) (stream : Option Nat) : Copy :=
  newCopy load false (copyRec (tRec.map Prod.fst)) 0x2000000000000000 0x10000000000#64 0x2000000000000FFF#64 0 false stream
    false 4 none 0
def sOps (os : List Op) : State := { sA g0 tPad with ops := os, queues := [tStream] }
def tTr : Trans := ⟨0x10000000000, 0x10000000000, true, true, true, false, false, 39, 39, 39⟩
theorem witness_CopyEngine_start :
    let o := tOp (.copy (tCp true none))
    let p := { o with id := 6 }
    (sOps [o]).op 7 = some o ∧ o.id = 7 ∧ (sOps [o]).active o.world = true ∧ (tCp true none).started = false ∧
    (tCp true none).chk = 0 ∧ (∀ e ∈ (sOps [o]).ops, ¬ e.id < 7) ∧
    (sOps [p, o]).op 7 = some o ∧ ∃ e ∈ (sOps [p, o]).ops, e.id < 7 ∧ e.core = o.core := by decide +kernel
theorem clean_of {s : State} {pas : List Nat}
    (h : (pas.all fun a => decide (s.line (a / 128) = ⟨false, []⟩) && !s.alien (a / 128) && decide (s.uatom (a / 32) = none)) = true) :
    Clean s pas := by
  have := fun a ha => (by simpa using List.all_eq_true.mp h a ha :
    (s.line (a / 128) = ⟨false, []⟩ ∧ s.alien (a / 128) = false) ∧ s.uatom (a / 32) = none)
  exact ⟨fun a ha => (this a ha).1.1, fun a ha => (this a ha).1.2, fun a ha => (this a ha).2⟩
/-- A started copy of one element, its next element to move. -/
def tCm (load : Bool) (stream : Option Nat) : Copy := { tCp load stream with started := true }
theorem witness_CopyEngine_move : ∀ load : Bool, ∀ stream ∈ [none, some 5],
    let c := tCm load stream
    let o := tOp (.copy c)
    let s := sOps [o]
    let d := s.readEntry o.team c c.next
    let s0 := s.modCopy 7 fun _ => d
    Clean s0 [0x10000000000] ∧
    s.op 7 = some o ∧ c.doomed = none ∧ c.next < c.layout.total ∧ s0.elementAddr o d c.next = .ok 0x10000000000 ∧
    s0.reach o.core o.world true (if c.load = true then 0 else 1) c.layout.esize (.va (pathOf 0x10000000000) (0x10000000000 % 2 ^ 56)) =
      (s0, .ok [.mem 0x10000000000]) ∧ s0.op 7 = some { o with kind := .copy d } ∧
    s0.barred o d [0x10000000000] = false ∧ hostWindow 0x10000000000 = false ∧
    pathOf 0x10000000000 = 0 ∧ mapGet none s0.l1 (copyKey o.core (0x10000000000 / 32)) = none ∧
    s0.burst o d 0x10000000000 = 1 ∧
    (stream = none → s0.elementPad o d c.next = (2, false, [4095]) ∧ s0.team 2 = some (tA tPad)) := by
  intro load stream h
  simp only [List.mem_cons, List.not_mem_nil, or_false] at h
  cases load <;> rcases h with rfl | rfl <;>
    exact ⟨clean_of (by decide +kernel), by decide +kernel⟩
theorem witness_CopyEngine_push :
    let c := { tCm true (some 5) with next := 1, buffer := [(9#8, false)] }
    let o := tOp (.copy c)
    (sOps [o]).op 7 = some o ∧ (sOps [o]).team o.team = some (tA tPad) ∧ (sOps [o]).queue (tA tPad).gang 5 = some tStream ∧
    c.layout.total ≤ c.next ∧ c.buffer ≠ [] ∧ tStream.entries.length < 64 ∧
    let q := { tStream with entries := List.replicate 64 ⟨[], false, 0⟩ }
    { sOps [o] with queues := [q] }.queue (tA tPad).gang 5 = some q ∧ 64 ≤ q.entries.length := by decide +kernel
theorem witness_CopyEngine_completion : ∀ sy ∈ [none, some 4080],
    let c := { tCm true none with next := 1, layout := { (tCm true none).layout with sync := sy } }
    let o := tOp (.copy c)
    let s := sOps [o]
    s.op 7 = some o ∧ s.group o.gid = some g0 ∧ g0 ∈ s.groups ∧ g0.team = o.team ∧ g0.liveLanes ≠ [] ∧ s.team o.team = some (tA tPad) ∧
    c.layout.total ≤ c.next ∧ c.buffer = [] ∧ c.layout.ctr = 0#64 ∧ (s.syncWord o.team 4080).2 = false := by
  intro sy h
  simp only [List.mem_cons, List.not_mem_nil, or_false] at h
  rcases h with rfl | rfl <;> decide +kernel
theorem witness_CopyEngine_counter : s0.xlate 0 60 0x10000000000 1 false = (s0, .ok tTr) ∧ hostWindow tTr.pa = false ∧
    s0.held (addrs tTr.pa 8) none = false ∧ Clean s0 (addrs tTr.pa 8) :=
  ⟨by decide +kernel, by decide +kernel, by decide +kernel, clean_of (by decide +kernel)⟩
/-- A copy that is done and raises a counter. -/
theorem witness_CopyEngine_counterDone :
    let c := { tCm true none with next := 1, layout := { (tCm true none).layout with ctr := 0x10000000000#64 } }
    let s := (sOps [tOp (.copy c)]).modCopy 7 fun d => { d with checkin := false, layout := { d.layout with sync := none } }
    ∃ s1 t, s.addCounter 0 60 2 c.clock c.layout.ctr.toNat c.layout.cinc.toNat = .done s1 t ∧ s1.group 1 = some g0 ∧
      g0 ∈ s1.groups := by
  intro c s
  have h : (match s.addCounter 0 60 2 c.clock c.layout.ctr.toNat c.layout.cinc.toNat with
    | .done s1 _ => decide (s1.group 1 = some g0) && decide (g0 ∈ s1.groups) | _ => false) = true := by decide +kernel
  generalize s.addCounter 0 60 2 c.clock c.layout.ctr.toNat c.layout.cinc.toNat = x at h ⊢
  cases x with
  | done s1 t => exact ⟨s1, t, rfl, by simpa using h⟩
  | fail => cases h
  | wait => cases h

/-- A bank command over the scratchpad's last line, with the control word in S4. -/
def gBk (src ctl : DWord) : Group := gA 0x2000000000000F80#64 src ctl
def sBk (src ctl : DWord) : State := sA (gBk src ctl) []
theorem witness_BankCommands :
    let src := 0x2000000000000F80#64
    let ctl : DWord := BitVec.ofNat 64 (4080 * 2 ^ 32 + 32)
    AtWord (sBk src ctl) (gBk src ctl) i0 ∧ (sBk src ctl).team (gBk src ctl).team = some (tA []) ∧
    Ready (sBk src ctl) (gBk src ctl) [] [] [2, 3, 4] ∧ (∀ r ∈ [2, 3, 4], ((gBk src ctl).sreg r).poison = false) ∧
    walkCond (gBk src ctl) true = none ∧ (gBk src ctl).flagFree (i0.flag 1#1) = true ∧
    ((sBk src ctl).scratchTeam 0 2 0x2000000000000F80).map (·.key) = some (gBk src ctl).team ∧
    (∀ u, (sBk src ctl).scratchTeam 0 2 0x2000000000000F80 = some u → 0x2000000000000F80 % 2 ^ 20 + 4 * 32 ≤ u.kernel.scratch) ∧
    (0x2000000000000F80 + 2 ^ 64 - 0x2000000000000F80) % 128 = 0 ∧ 4080 + 16 ≤ (tA []).kernel.scratch := by
  have e : (sBk 0x2000000000000F80#64 (BitVec.ofNat 64 (4080 * 2 ^ 32 + 32))).scratchTeam 0 2 0x2000000000000F80 = some (tA []) := by
    decide +kernel
  refine ⟨at_sA _ _ _ _, ?_, ?_, ?_, ?_, ?_, ?_, fun u h => ?_, ?_⟩
  all_goals try decide +kernel
  rw [e] at h
  cases h
  decide +kernel
theorem witness_BankCommands_completion : ∀ op < 5, ∀ sy ∈ [none, some 4080], ∀ n ∈ [0, 32],
    let k : BankCmd := ⟨op, 0, 2, 0, 0x2000000000000100#64, n, sy⟩
    let o := tOp (.bank k)
    let s := sOp (.bank k)
    s.op 7 = some o ∧ o.kind = .bank k ∧ o.done = false ∧ s.mayPerform o = true ∧ s.team k.team = some (tT 60) ∧ g0 ∈ s.groups ∧
    g0.team = k.team ∧ g0.liveLanes ≠ [] ∧ (s.groups.map (·.gid)).Nodup ∧ g0.asyncs = [] ∧ k.dst % 4 = 0 := by
  decide +kernel

/-- A walk or task record at 64 in scratchpad: extents of 1, its sync word at 0. -/
def tWalkPad : List Host.Cell := [(64, 1#8), (68, 1#8), (72, 1#8)]
def gW (ix : DWord) : Group := gA 0x2000000000000040#64 0x2000#64 ix
def sW (ix : DWord) : State := sA (gW ix) tWalkPad
def tWalkBytes : List Byte := (List.range 64).map fun k => mapGet 0#8 tWalkPad (64 + k)
/-- Index words of one below 2^60 and of 2^60, for a task; no walk of the team yet. -/
theorem witness_TasksAndWalks : ∀ ix ∈ [0x0FFFFFFFFFFFFFFF#64, 0x1000000000000000#64], ∀ one : Bool,
    AtWord (sW ix) (gW ix) i0 ∧ RecordRead (sW ix) (gW ix) 2#5 3#5 one 64 tWalkBytes [] ∧
    Ready (sW ix) (gW ix) [] [] [2, 3, 4] ∧ (gW ix).flagFree (i0.flag 1#1) = true ∧ (sW ix).tdtUsed (gW ix).core < 64 ∧
    walkCond (gW ix) true = none ∧ (sW ix).walkOf (gW ix).team = none := by
  intro ix hi one
  simp only [List.mem_cons, List.not_mem_nil, or_false] at hi
  rcases hi with rfl | rfl <;> cases one <;> refine ⟨at_sA _ _ _ _, ⟨?_, ?_, ?_, ?_, ?_, ?_⟩, ?_⟩ <;> decide +kernel
def tWalk : Walk := ⟨8, 0, 0, 2, 1, 0, 1, 1, 1, 0, [], 0x2000#64, 0#64, [], false⟩
theorem witness_TasksAndWalks_post : let s := { s0 with walks := [tWalk] }
    s.walkOf 2 ≠ none ∧ findBy (fun v => v.core == 0 && 0 < v.e0 && 0 < v.e1 && 0 < v.e2 && !v.posted.contains 0) s.walks = some tWalk ∧
    s.team tWalk.team = some (tT 60) ∧ s.active (tT 60).world = true ∧ s.tdtUsed 0 < 64 := by decide +kernel
/-- A task at a stage, of a walk or on its own. -/
def tTask (stage : TaskStage) (walk : Option Nat) (failed : Bool) : Task :=
  ⟨8, 0, 2, 1, walk, false, none, 0x2000000000000040, 0x2000#64, 0#64, 0, 0, 0, [], 0, stage, 0, 0, 0, none, failed, 0⟩
def sTask (k : Task) (pad : List Host.Cell) : State := { s0 with tasks := [k], teams := [tA pad] }
/-- Every stage of a task that goes well, and a failed one; no operand asks for a copy. -/
theorem witness_TasksAndWalks_stages : ∀ st ∈ [TaskStage.posted, .entered, .buffered, .inputs, .ready, .outputs, .draining,
      .arriving], ∀ w ∈ [none, some 3], ∀ f : Bool,
    let k := tTask st w f
    let s := sTask k []
    s.task 8 = some k ∧ k.id = 8 ∧ s.active (s.taskWorld k) = true ∧
    (s.tasks.filter fun u => u.core == k.core && u.stage != .posted && u.stage != .arriving).length < 64 ∧
    0 < bufferCount k.opnds ∧ (∀ u ∈ s.tasks, u.id = 8) ∧ s.taskFree k = true ∧ s.taskBusy 8 = false ∧
    s.sceUsed 0 true ≤ 16 ∧ s.sceUsed 0 false ≤ 16 ∧ k.opnds.length ≤ k.sent ∧
    (s.syncWord 2 0).1.refuses = false ∧ (s.syncWord 2 0).2 = false ∧ s.team 2 = some (tA []) ∧
    (∃ g ∈ s.groups, g.team = k.team ∧ g.liveLanes ≠ []) ∧ (s.groups.map (·.gid)).Nodup ∧
    (∀ o ∈ s.ops, some o.gid = k.body → o.done = true) := by
  intro st h1 w h2 f
  simp only [List.mem_cons, List.not_mem_nil, or_false] at h1 h2
  rcases h1 with rfl | rfl | rfl | rfl | rfl | rfl | rfl | rfl <;> rcases h2 with rfl | rfl <;> cases f <;> decide +kernel
/-- A task one of whose operands still waits for a copy. -/
def tOpnd : Operand :=
  ⟨3, copyRec ((List.range 64).map fun k => mapGet 0#8 tPad k), false, 0x10000000000#64, 0, 0, 0, 0, 0, 1⟩
theorem witness_TasksAndWalks_copies : ∀ st ∈ [TaskStage.buffered, .inputs, .outputs, .draining], ∀ load : Bool,
    let k := { tTask st none false with opnds := [tOpnd] }
    let s := sTask k tPad
    s.task 8 = some k ∧ s.active (s.taskWorld k) = true ∧ k.sent < k.opnds.length ∧ s.sceUsed 0 load + 1 ≤ 16 ∧
    s.taskFree k = true ∧ (∀ o ∈ s.ops, some o.gid = k.body → o.done = true) ∧
    s.copyCond k.core k.team (s.taskWorld k) tOpnd.layout load false false 0 (tOpnd.memBase 0 0 0).toNat 0x2000000000000000 = none := by
  decide +kernel
/-- Observers outstanding refuse the arrival. -/
theorem witness_TasksAndWalks_refused : ∀ st ∈ [TaskStage.draining, .arriving],
    ((sTask (tTask st none false) [(12, 1#8)]).syncWord 2 0).1.refuses = true ∧
    ((sTask (tTask st none false) [(12, 1#8)]).syncWord 2 0).2 = false := by decide +kernel
theorem witness_TasksAndWalks_run :
    let s := sTask (tTask .ready none false) []
    s.mayStart (tA []) = true ∧ s.freeSlot 0 = some 1 ∧ s.canServe (s.poolOf 0 3) 0 256 (granules (tA []).kernel.frame) = true ∧
    (s.heldTids 2).length + 64 < 2 ^ 32 - 1024 ∧ (∀ h ∈ s.groups, h.gid < s.ids) := by decide +kernel

/-- A block of world 60 that runs one command, in a context. -/
def tCmd (op fmt len : Nat) (ya : DWord) (scal : Word) : Cmd := ⟨op, fmt, true, len, 0x10000000000#64, ya, scal⟩
def bK (c : Cmd) (r : Option RowCtx) : Block :=
  { newBlock 8 0 1 0 60 2 0 0 0 0 0 none none none 0#64 none with cmds := [c], plans := [(2 ^ 40, 2 ^ 40 + 2 ^ 21)], stage := .running, row := r }
def sK (c : Cmd) (r : Option RowCtx) : State := { s0 with blocks := [bK c r], cur := .block 8 }
def cK : Cmd := tCmd 0 1 2 0x10000200000#64 0#32
def rK (pos n : Nat) (bs : List (Nat × Nat)) : RowCtx :=
  { newRow (2 ^ 40) 0#32 (0xA7F80071#32 :: List.replicate n 0#32) 0 with first := 1, stop := 1 + n, pos := pos, bases := bs }
theorem at_sK (r : RowCtx) (h : r.pos < r.stop) : AtRow (sK cK (some r)) (bK cK (some r)) r := ⟨rfl, by rfl, rfl, h⟩
def rR (b0 : Nat) : RowCtx := rK 2 2 [(0, b0), (1, 16), (2, 32)]
/-- A word with B[0] at the page's first and last rows, so that an offset falls within and without; a loop of one word; a
DOT's whole row and one element more. -/
theorem witness_RowWords : ∀ b0 ∈ [0, 2047],
    AtRow (sK cK (some (rR b0))) (bK cK (some (rR b0))) (rR b0) ∧ (rR b0).base 0 = b0 ∧ 0 ≤ ((rR b0).base 0 : Int) + (0#13).toInt ∧
    ((rR b0).base 0 : Int) + (0#13).toInt ≤ 2047 ∧ (b0 = 0 → ((rR b0).base 0 : Int) + (0x1FFF#13).toInt < 0) ∧
    (b0 = 2047 → 2047 < ((rR b0).base 0 : Int) + (1#13).toInt) ∧ (∀ n, (sK cK (some (rR b0))).rowClean (rR b0) n) ∧
    (rR b0).first + 1 ≤ (rR b0).pos ∧ (∀ w ∈ ((rR b0).words.drop ((rR b0).pos - 1)).take 1, w.toNat % 128 ≠ 0x0E) ∧ 1 ≤ (rR b0).first ∧
    (512#10).toNat * 16 ≤ 8192 ∧ 8192 < (513#10).toNat * 16 ∧ (256#10).toNat * 32 ≤ 8192 ∧ 8192 < (257#10).toNat * 32 := by
  have one : ∀ l : List Word, l = [0#32] → ∀ w ∈ l, w.toNat % 128 ≠ 0x0E := by
    rintro l rfl w hw
    cases List.mem_singleton.mp hw
    decide
  intro b0 h
  simp only [List.mem_cons, List.not_mem_nil, or_false] at h
  rcases h with rfl | rfl
  all_goals
    refine ⟨at_sK (rR _) ?_, ?_, ?_, ?_, ?_, ?_, fun _ _ _ => ⟨rfl, rfl⟩, ?_, one _ ?_, ?_⟩ <;> decide +kernel
/-- Sums of 64 rows and products of 32 at the highest rows that fit, and one row more. -/
theorem witness_RowWords_serial : let r := rK 2 2 [(0, 1984), (1, 1920), (2, 0)]
    AtRow (sK cK (some r)) (bK cK (some r)) r ∧ (∀ n, (sK cK (some r)).rowClean r n) ∧
    r.base 1 + 64 ≤ 2048 ∧ r.base 2 + 64 ≤ 2048 ∧ r.base 0 + 64 ≤ 2048 ∧ r.base 0 + 2 * 32 ≤ 2048 ∧ (64#13).toNat = 64 ∧
    (r.base 0 ≤ r.base 1 ∨ r.base 1 + 64 ≤ r.base 0) ∧ (r.base 0 ≤ r.base 2 ∨ r.base 2 + 64 ≤ r.base 0) :=
  ⟨at_sK (rK 2 2 [(0, 1984), (1, 1920), (2, 0)]) (by decide +kernel), fun _ _ _ => ⟨rfl, rfl⟩, by decide +kernel⟩
theorem at_cmd (c : Cmd) (h : c.fieldsOk = true) : AtCmd (sK c none) (sK c none) (bK c none) c (2 ^ 40) (2 ^ 40 + 2 ^ 21) :=
  ⟨by rfl, rfl, rfl, h, rfl, by rfl, rfl, (fun _ hu => nomatch hu), fun _ _ => ⟨rfl, rfl⟩⟩
/-- Each command, with lengths of none, one and the greatest. -/
theorem witness_KernelsAndBuiltIns : ∀ c ∈ [tCmd 0 1 2 0x10000200000#64 0#32, tCmd 0 1 255 0x10000200000#64 0#32,
      tCmd 1 1 0 0x10000200000#64 5#32, tCmd 1 3 1 0x10000200000#64 0#32, tCmd 2 1 1 0x10000200000#64 0#32,
      tCmd 3 3 1 0#64 0#32, tCmd 4 1 0 0x10000200000#64 0#32, tCmd 4 3 8192 0x10000200000#64 1#32, tCmd 4 1 1 0x10000200000#64 0#32,
      tCmd 5 1 1 0#64 7#32, tCmd 6 3 2048 0x10000200000#64 0#32],
    AtCmd (sK c none) (sK c none) (bK c none) c (2 ^ 40) (2 ^ 40 + 2 ^ 21) ∧ (c.op = 0 → 0 < c.n) := by
  have h : ∀ c ∈ [tCmd 0 1 2 0x10000200000#64 0#32, tCmd 0 1 255 0x10000200000#64 0#32,
      tCmd 1 1 0 0x10000200000#64 5#32, tCmd 1 3 1 0x10000200000#64 0#32, tCmd 2 1 1 0x10000200000#64 0#32,
      tCmd 3 3 1 0#64 0#32, tCmd 4 1 0 0x10000200000#64 0#32, tCmd 4 3 8192 0x10000200000#64 1#32, tCmd 4 1 1 0x10000200000#64 0#32,
      tCmd 5 1 1 0#64 7#32, tCmd 6 3 2048 0x10000200000#64 0#32], c.fieldsOk = true ∧ (c.op = 0 → 0 < c.n) := by decide +kernel
  exact fun c hc => ⟨at_cmd c (h c hc).1, (h c hc).2⟩
/-- At a header that is good, at one of N = 0, and past the words with a row written. -/
theorem witness_KernelsAndBuiltIns_kernel : ∀ ws ∈ [[0xA7F80071#32, 0#32], [0xA7F80070#32, 0#32], []],
    let r := { newRow (2 ^ 40) 0#32 ws 0 with rows := [(2047, (1#8192, true))] }
    let s := sK cK (some r)
    let b := bK cK (some r)
    s.block b.id = some b ∧ b.cmds[b.idx]? = some cK ∧ b.stage = .running ∧ cK.op = 0 ∧ b.row = some r ∧ r.pos = r.stop ∧
    s.noneWait ∧ (r.rows.map Prod.fst).Nodup ∧ ∀ e ∈ r.rows, e.1 < 2048 ∧ s.rowClean r e.1 := by
  intro ws _ r s b
  refine ⟨by rfl, rfl, rfl, rfl, rfl, rfl, ?_, ?_, ?_⟩
  · exact ⟨fun o ho => (nomatch ho), fun o ho => (nomatch ho), rfl⟩
  · exact List.nodup_singleton _
  · intro e he
    have h : e = (2047, (1#8192, true)) := List.mem_singleton.mp he
    subst h
    exact ⟨by decide, fun _ _ => ⟨rfl, rfl⟩⟩


/-- Memory that holds these cells from `base` on, an unlisted byte zero. -/
def tMem (base : Nat) (cs : List (Nat × Nat)) : List Host.Cell := cs.map fun c => (base + c.1, BitVec.ofNat 8 c.2)
/-- Page tables of polder 0 in its own memory: its first 2 MiB stand at intermediate and virtual address 0. -/
def tTables : List Host.Cell :=
  tMem 0x100000 [(0, 1), (1, 0x20), (2, 0x10), (0x2000, 1), (0x2001, 0x40), (0x2002, 0x10), (0x4000, 1), (0x4001, 0x60),
    (0x4002, 0x10), (0x6000, 0x7A), (0x8000, 1), (0x8001, 0xA0), (0x8002, 0x10), (0xA000, 1), (0xA001, 0xC0), (0xA002, 0x10),
    (0xC000, 1), (0xC001, 0xE0), (0xC002, 0x10), (0xE000, 0x3A)]
def tPolder : Polder := { Polder.reset with state := .run, s2root := 0x100000#64, s1root := 0x108000#64, keys := true, ide := true }
/-- Polder 0 running, with its tables. -/
def sP : State := { s0 with mem := tTables, pcown := [(0, 0#6)], pldrs := [(0, tPolder)] }
/-- A group whose lanes name two blocks of no command. -/
def gC : Group := { g0 with
  lanes := [(0, tL 0#32 [(3, ⟨0x100#32, false⟩)]), (1, tL 1#32 [(2, ⟨0x1000#32, false⟩), (3, ⟨0x100#32, false⟩)])],
  sregs := [(2, ⟨0#64, false⟩), (3, ⟨0#64, false⟩)] }
def sC (qs : List Queue) : State := { s0 with groups := [gC], queues := qs }
/-- Replies to registers and to queue 0. -/
theorem witness_BankCalls :
    AtWord (sC []) gC i0 ∧ Ready (sC []) gC (gC.contributing i0 7#4) [2, 3] [2, 3] ∧
    boundCond gC (gC.contributing i0 7#4) [2, 3] = none ∧ (∀ l ∈ gC.contributing i0 7#4, tagAt gC [2, 3] l = false) ∧
    (gC.sreg 2).poison = false ∧ (gC.sreg 3).poison = false ∧
    (∀ e ∈ (gC.contributing i0 7#4).map fun l => (l, (pairOf gC 2#7 l).toNat), pathOf e.2 = 0 ∧ bitsAt e.2 56 4 = 0 ∧
      e.2 % 64 = 0 ∧ (gC.world = 60 → (sC []).physOk (e.2 % 2 ^ 56) = true ∧ hostWindow (e.2 % 2 ^ 56) = false)) ∧
    (sC [{ tStream with vector := false, obj := 0 }]).replyQueue 4 0 = none ∧ (sC []).gangOf gC = 4 ∧
    (match (sC []).optSync gC 0#64 with | .ok none => true | _ => false) = true ∧ gC.flagFree (i0.flag 1#1) = true ∧
    gC.contributing i0 7#4 ≠ [] ∧
    (match (sC []).grabAll gC ((gC.contributing i0 7#4).map fun l => (l, (pairOf gC 2#7 l).toNat)) with
      | .ok (s1, [(0, _, .ok _), (1, _, .ok _)]) => decide (s1.group 1 = some gC) && s1.blocks.isEmpty && s1.ops.isEmpty && s1.uatoms.isEmpty
      | _ => false) = true := by
  refine ⟨⟨rfl, by rfl, rfl⟩, ?_⟩
  decide +kernel
/-- A block sent, ATOMIC, whose command passes its checks, or names another row sequencer. -/
def tSent (rsq : Nat) : Block := { bK { tCmd 5 1 1 0#64 7#32 with xa := 0#64 } none with
  stage := .sent, world := 0, rsq := rsq, atomic := true, plans := [] }
theorem witness_BankCalls_begin : ∀ rsq ∈ [0, 1], let s := { sP with blocks := [tSent rsq] }
    s.block (tSent rsq).id = some (tSent rsq) ∧ rsq ≠ unrouted ∧ (match s.checkAll (tSent rsq) 0 (tSent rsq).cmds with
      | (t, .ok _) => rsq == 0 && decide (t.block 8 = some (tSent rsq))
      | (t, .error _) => rsq == 1 && decide (t.block 8 = some (tSent rsq))) = true := by
  intro rsq h
  simp only [List.mem_cons, List.not_mem_nil, or_false] at h
  rcases h with rfl | rfl <;> decide +kernel
/-- A block whose first operand could not be translated when it was sent. -/
theorem witness_BankCalls_unrouted : let s := { sP with blocks := [tSent unrouted] }
    s.block (tSent unrouted).id = some (tSent unrouted) ∧
    (match s.xlate (tSent unrouted).core (tSent unrouted).world 0 3 false with
      | (s1, .ok _) => decide (s1.block 8 = some (tSent unrouted))
      | _ => false) = true := by decide +kernel
/-- The last reply and one before it, to registers, with a sync word or none, and to a queue. -/
theorem witness_BankCalls_reply : ∀ left ∈ [1, 2], ∀ q ∈ [none, some 0], ∀ sy ∈ [none, some (2, 4080)],
    let b := { newBlock 8 7 1 0 60 2 1 0 126 0 5 none q sy 0#64 none with stage := .answered }
    let o := tOp (.memcall left q)
    let s := { sOp (.memcall left q) with
      blocks := [b], queues := [{ tStream with vector := false, obj := 0, producer := .replies 7 }] }
    s.block b.id = some b ∧ b.held = none ∧ b.graph = none ∧ b.ctr = 0#64 ∧ s.active b.world = true ∧ s.group b.gid = some g0 ∧
    g0 ∈ s.groups ∧ g0.liveLanes ≠ [] ∧ g0.team = b.team ∧ s.team b.team = some (tT 60) ∧ s.op b.op = some o ∧ o.id = b.op ∧
    o.gid = b.gid ∧ o.team = b.team ∧ (g0.lane b.lane).chain.any (fun c => c.fid == b.fid) = true ∧
    s.queue (tT 60).gang 0 = some { tStream with vector := false, obj := 0, producer := .replies 7 } ∧
    (∀ c ∈ s.blocks, c.op = b.op → c.stage = .answered → b.order ≤ c.order) ∧
    ¬ ∀ c ∈ [b, { b with id := 9, order := 3 }], c.op = b.op → c.stage = .answered → 5 ≤ c.order := by
  intro left h1 q h2 sy h3
  simp only [List.mem_cons, List.not_mem_nil, or_false] at h1 h2 h3
  rcases h1 with rfl | rfl <;> rcases h2 with rfl | rfl <;> rcases h3 with rfl | rfl <;> decide +kernel

/-- The record of a collective of one 32-bit word: handle 1, S32, SEND 2^40 + 0x400, RECV 2^40 + 0x800. -/
def tCollMem : List Host.Cell := tMem (2 ^ 40) [(0, 1), (4, 11), (9, 4), (13, 1), (17, 8), (21, 1), (24, 1)]
def tComm : Comm := ⟨60, 1#32, 2, 0, 0#256, [0#12, 0#12], 0⟩
def sL (known : Bool) : State := { s0 with mem := tCollMem, comms := if known then [tComm] else [] }
def tColl (kind : Nat) (known : Bool) (cseq : Nat) : Coll :=
  ⟨kind, 1#32, 11#32, 0x10000000400#64, 0x10000000800#64, 1, 0#64, 0#64, 2 ^ 40, cseq, known, false, false, false, none, 2, [], none, false⟩
theorem witness_Collectives : ∀ known : Bool,
    AtWord (sL known) g0 i0 ∧ Ready (sL known) g0 [] [] [2] ∧ (g0.sreg 2).poison = false ∧ (g0.sreg 2).val.toNat < 2 ^ 56 ∧
    (g0.sreg 2).val.toNat % 64 = 0 ∧
    (sL known).performed g0.gid (fun o => o.touches.1.any fun t => t.1 == 0 || t.1 == 6) = true ∧
    (match (sL known).grab g0.core g0.world g0.lclock (g0.sreg 2).val.toNat 64 with
      | .ok s1 bs _ => bs.all (fun e => !e.2) && decide (collBad (bs.map Prod.fst) = none) &&
          decide (s1.comm 60 1#32 = if known then some tComm else none) && decide (s1.collUsed 60 1#32 = 0) &&
          !s1.collPrior g0 (tColl 0 known 0)
      | _ => false) = true ∧ g0.flagFree (i0.flag 1#1) = true := by
  intro known
  cases known <;> exact ⟨⟨rfl, by rfl, rfl⟩, by decide +kernel⟩
def sColl (c : Coll) : State := { sL true with ops := [tOp (.coll c)] }
/-- A collective that was not open, one at the last CSEQ and past it, and one whose communicator was lost. -/
theorem witness_Collectives_ends :
    let o := tOp (.coll (tColl 0 false 0))
    (sColl (tColl 0 false 0)).op 7 = some o ∧ o.id = 7 ∧ (sColl (tColl 0 false 0)).active o.world = true ∧
    2 ^ 32 ≤ (tColl 0 true (2 ^ 32)).cseq ∧ (tColl 0 true (2 ^ 32 - 1)).cseq < 2 ^ 32 ∧
    let c := { tColl 0 true 0 with lost := true }
    let s := sColl c
    c.known = true ∧ (match s.collBuffer o.world 1 c.recv (c.recvCount c.size) with
      | (s1, .ok w) => !s1.held w none && s1.uatoms.isEmpty && decide (s1.op 7 = some (tOp (.coll c))) &&
        w.all fun a => decide (s1.line (a / 128) = ⟨false, []⟩) && !s1.alien (a / 128) && decide (s1.uatom (a / 32) = none)
      | _ => false) = true ∧
    s.modColl 7 (fun c => { c with lost := true }) = s ∧ ({ c with wrote := some 2 } : Coll).wrote = some 2 := by decide +kernel
/-- Each collective, with contributions that agree, that are of another length, and that are bad. -/
theorem witness_Collectives_run : ∀ kind < 5, ∀ n ∈ [1, 2], ∀ bad : Bool,
    let c := tColl kind true 0
    let s := sColl c
    s.comm 60 c.comm = some tComm ∧ c.overlaps 2 = false ∧ tComm.rank < 2 ∧ s.routed 60 tComm = true ∧
    (match s.collBuffer 60 0 c.send (c.sendCount 2) with
      | (s1, .ok src) => (match s1.collBuffer 60 1 c.recv (c.recvCount 2) with
        | (s2, .ok dst) =>
          let own : RankData := ⟨0, kind, 11#32, 1, false, (List.range (c.sendCount 2)).map fun k =>
            (BitVec.ofNat 32 (ofBytes (((src.drop (4 * k)).take 4).map s2.byte)), false)⟩
          let peer : RankData := ⟨1, kind, 11#32, n, bad, List.replicate (c.sendCount 2) (3#32, false)⟩
          !s2.held (src ++ dst) none && (src ++ dst).all (fun a => decide (s2.line (a / 128) = ⟨false, []⟩) &&
              !s2.alien (a / 128) && decide (s2.uatom (a / 32) = none)) && decide dst.Nodup && src.length == 4 * c.sendCount 2 &&
            dst.length == 4 * c.recvCount 2 && decide (s2.op 7 = some (tOp (.coll c))) && decide (gatherRanks 2 0 own [] = none) &&
            decide (gatherRanks 2 0 own [peer] = some [own, peer]) && !s2.streamLong c 2
        | _ => false)
      | _ => false) = true := by
  intro kind hk n hn bad
  simp only [List.mem_cons, List.not_mem_nil, or_false] at hn
  have : kind = 0 ∨ kind = 1 ∨ kind = 2 ∨ kind = 3 ∨ kind = 4 := by omega
  rcases this with rfl | rfl | rfl | rfl | rfl <;> rcases hn with rfl | rfl <;> cases bad <;> decide +kernel
theorem witness_Collectives_overlap : { tColl 0 true 0 with recv := 0x10000000402#64 }.overlaps 2 = true := by decide +kernel
theorem witness_Collectives_status :
    s0.xlate deviceAgent 60 ((2 ^ 40 + 48) % 2 ^ 56) 1 false = (s0, .ok { tTr with pa := 2 ^ 40 + 48, ia := 2 ^ 40 + 48 }) ∧
    s0.held (addrs (2 ^ 40 + 48) 8 ++ []) none = false ∧ Clean s0 (addrs (2 ^ 40 + 48) 8) ∧ s0.group 1 = some g0 ∧ g0.asyncs = [] :=
  ⟨by decide +kernel, by decide +kernel, clean_of (by decide +kernel), by decide +kernel, rfl⟩


/-- A launch record at 2^40 with its grid's descriptor 128 bytes on; GX as given. -/
def tLaunchMem (gx : Nat) : List Host.Cell :=
  tMem (2 ^ 40) ([(0, 128), (5, 1)] ++ (if gx = 0 then [] else [(8, gx)]) ++ [(12, 1), (16, 1), (20, 1), (129, 16), (144, 1),
    (145, 1), (156, 64)])
/-- A launch record of a graph of one COPY node, whose header stands 128 bytes on. -/
def tGraphMem (poolcap : Nat) : List Host.Cell :=
  tMem (2 ^ 40) ([(0, 128), (5, 1), (21, 4)] ++ (if poolcap = 0 then [] else [(24, poolcap)]) ++ [(128, 1), (137, 1), (141, 1),
    (256, 2)])
def tEntries (n : Nat) : List LaunchEntry := List.replicate n ⟨60, 0, false, 99, 0, false⟩
def sLa (mem : List Host.Cell) (n : Nat) : State := { s0 with mem := mem, launches := tEntries n }
/-- A grid's record accepted, one refused (GX 0), a graph's accepted and one refused (POOLCAP 1), on a queue with room and on
a full one. -/
theorem witness_LaunchAndDistribution : ∀ n ∈ [255, 256], ∀ m ∈ [(tLaunchMem 1, 0), (tLaunchMem 0, 2), (tGraphMem 0, 0),
      (tGraphMem 1, 4)],
    let s := sLa m.1 n
    AtWord s g0 i0 ∧ g0.launching = none ∧ Ready s g0 [] [] [2, 4] ∧ (g0.sreg 2).poison = false ∧
    s.physOk (2 ^ 40) = true ∧ s.performed g0.gid launchWaits = true ∧ s.active g0.world = true ∧
    (match s.takeLaunch 0 60 4 (2 ^ 40) with
      | (s1, .ok (.error k, _)) => decide (s1.group 1 = some g0) && k == m.2
      | (s1, .ok (.ok r, _)) => decide (s1.group 1 = some g0) && m.2 == 0 && s1.queued 60 r.prio == n
      | _ => false) = true := by
  intro n h m hm
  simp only [List.mem_cons, List.not_mem_nil, or_false] at h hm
  rcases h with rfl | rfl <;> rcases hm with rfl | rfl | rfl | rfl <;> exact ⟨⟨rfl, by rfl, rfl⟩, by decide +kernel⟩
theorem witness_LaunchAndDistribution_waits :
    AtWord sLd g0 i0 ∧ sLd.performed g0.gid launchWaits = false ∧
    let r := LaunchRead.grid (serviceLaunch 0x3000 0x4000) probeKernel 5
    let g := { g0 with launching := some r }
    AtWord (sG g) g i0 ∧ (sG g).queued 60 r.prio < 256 ∧
    256 ≤ ({ sG g with launches := List.replicate 256 ⟨60, r.prio, false, 99, 0, false⟩ } : State).queued 60 r.prio :=
  ⟨⟨rfl, by rfl, rfl⟩, by decide +kernel, at_sG _ rfl rfl, by decide +kernel, by decide +kernel⟩
/-- The parts of those reads. -/
theorem witness_LaunchAndDistribution_reads :
    (match (sLa (tLaunchMem 1) 0).takeClean 0 60 4 (2 ^ 40) 64 with
      | (s1, .ok (r, _)) => launchKind r == 0 && (match s1.takeGrid 0 60 4 r with
        | (_, .ok (.ok _, _)) => true
        | _ => false)
      | _ => false) = true ∧
    (match (sLa (tLaunchMem 0) 0).takeClean 0 60 4 (2 ^ 40) 64 with
      | (s1, .ok (r, _)) => launchKind r == 0 && (match s1.takeGrid 0 60 4 r with
        | (_, .ok (.error k, _)) => k == 2
        | _ => false)
      | _ => false) = true ∧
    (∀ p ∈ [0, 1], (match (sLa (tGraphMem p) 0).takeClean 0 60 4 (2 ^ 40) 64 with
      | (s1, .ok (r, _)) => launchKind r == 1 && launchStatus r none == 4 * p && lowPath (launchOf r).target.toNat 64 &&
        (match s1.takeGraph 0 60 4 (launchOf r).target.toNat with
          | (_, .ok (some (xs, []), _)) => xs.length == 1
          | _ => false)
      | _ => false) = true) ∧
    lowPath 0x6000000000000000 64 = false := by decide +kernel
/-- A grid of two teams, a gang, at the head of queue 3 of cluster 47, and clusters for it or none. -/
def kH : Grid := { tK 60 with gx := 2, gang := 2, next := 0, cluster := some 47 }
def eH : LaunchEntry := ⟨60, 3, false, 3, 5, false⟩
def sHd (lt : List (Nat × BitVec 6)) (clock : Nat) : State :=
  { s0 with grids := [kH], launches := [eH], latch := lt, clock := clock }
theorem witness_LaunchAndDistribution_placement : let s := sHd [(47, 60#6)] 0
    s.mayPlace 60 = true ∧ launchLines 60 = (List.range 47).map some ++ some 47 :: [] ∧
    (∀ m ∈ (List.range 47).map some, ∀ q < 4, s.head 60 q m = none) ∧ s.head 60 3 (some 47) = some eH ∧ eH.graph = false ∧ s.grid eH.key = some kH ∧ kH.key = eH.key ∧
    s.bestPlace kH (min kH.gang (kH.total - kH.next)) = some 188 := by decide +kernel
theorem witness_LaunchAndDistribution_reserving :
    some 47 ∈ launchLines 60 ∧ (∀ c ∈ [2 ^ 20 + 4, 2 ^ 20 + 5], (sHd [] c).head 60 3 (some 47) = some eH ∧
      (sHd [] c).grid eH.key ≠ none ∧ ∀ m ∈ launchLines 60, m ≠ some 47 → (sHd [] c).head 60 3 m = none) ∧ eH.since + 2 ^ 20 ≤ (sHd [] (2 ^ 20 + 5)).clock ∧
    (sHd [] (2 ^ 20 + 4)).clock < eH.since + 2 ^ 20 ∧ (sHd [] (2 ^ 20 + 5)).placeHead 60 3 eH = none ∧
    (sHd [] (2 ^ 20 + 4)).placeHead 60 3 eH = none := by decide +kernel
/-- A polder whose lock-keeper ended, with a cluster. -/
def sLk : State := { sP with pldrs := [(0, { tPolder with lkended := true })], latch := [(0, 0#6)], groups := [], teams := [] }
theorem witness_LaunchAndDistribution_keeper : (sLk.polder 0).lkended = true ∧ sLk.mayPlace 0 = true ∧
    sLk.keeperKernel 0 ((sLk.lowestCore 0).getD 0) = (sLk, some firmwareKernel) ∧
    (sLk.startKeeper 0 firmwareKernel).isSome = true ∧ ∀ g ∈ sLk.grids, g.key < sLk.ids :=
  ⟨by decide +kernel, by decide +kernel, rfl, by decide +kernel, by decide +kernel⟩
theorem witness_LaunchAndDistribution_end : let k := { tK 60 with ended := 1 }; let s := { s0 with grids := [k] }
    s.grid k.key = some k ∧ k.total ≤ k.ended ∧ k.held = none ∧ s.active k.world = true ∧ s.noneWait ∧ k.cluster = none ∧
    k.ctr = 0#64 := by
  exact ⟨by rfl, by decide +kernel, rfl, by decide +kernel, ⟨fun o ho => (nomatch ho), fun o ho => (nomatch ho), rfl⟩, rfl, rfl⟩
/-- A bin of two records whose timer runs out at cycle 1024, and one that is due. -/
def tBin (due : Bool) : Bin := ⟨some 0x2000#64, [⟨5000#32, ⟨1#32, false⟩, 0⟩, ⟨5001#32, ⟨2#32, false⟩, 3⟩], due⟩
def tTb (due : Bool) : Team := { tT 60 with bins := [⟨none, [], false⟩, tBin due] }
def sBin (due : Bool) : State := { s0 with teams := [tTb due], clock := 1024 }
theorem witness_LaunchAndDistribution_bins : ∀ due : Bool,
    (sBin due).team (tTb due).key = some (tTb due) ∧ (tTb due).bins[1]? = some (tBin due) ∧ (sBin due).mayStart (tTb due) = true ∧
    (tBin due).recs.head?.map (·.posted) = some 0 ∧ 0 + (tTb due).kernel.timer ≤ (sBin due).clock ∧
    (due = true → (tBin due).ready (tTb due).kernel.timer = some 1024) ∧ (sBin due).freeSlot 0 = some 1 ∧
    (tTb due).lowerBin 1 1024 = false ∧
    (sBin due).canServe ((sBin due).poolOf 0 3) 1024 256 (granules (tTb due).kernel.frame) = true ∧
    (∀ g ∈ (sBin due).groups, g.gid < (sBin due).ids) := by
  intro due
  cases due <;> decide +kernel

/-- A graph of two nodes, the second after the first: the first a body as given, waiting or as it stands. -/
def tNode (b : NodeBody) (st : NodeState) (key next : Nat) : Node := ⟨b, st, key, next, false, 0, none⟩
def tGraph (n : Node) : Graph :=
  ⟨5, 60, 0x10000000080#64, 0, false, 0#64, 0#64, [n, tNode n.body .waiting 0 0], [(0, 1)], 0, none, none⟩
def sGr (n : Node) : State := { s0 with graphs := [tGraph n] }
def tBodies : List NodeBody := [.grid (serviceLaunch 0x3000 0x4000) probeKernel, .copy 0x10000000000#64 0x10000000080#64 128,
  .bankcall 0x10000000000#64 [] false, .coll 0 0x10000000000#64 ((List.range 64).map fun k => mapGet 0#8 tCollMem (2 ^ 40 + k))]
theorem witness_Graphs : ∀ b ∈ tBodies, ∀ st ∈ [NodeState.waiting, .running],
    let n := tNode b st 77 0
    let s := sGr n
    s.graph (tGraph n).key = some (tGraph n) ∧ (tGraph n).nodes[0]? = some n ∧ s.graphHeld (tGraph n) = false ∧
    s.mayPlace 60 = true ∧ s.head 60 0 none = none ∧ (∀ e ∈ (tGraph n).edges, ¬ e.2 = 0) ∧ (∀ b ∈ s.blocks, b.id < s.ids) ∧ s.active 60 = true ∧
    s.op 77 = none ∧ s.comm 60 1#32 = none := by
  intro b h st h2
  simp only [tBodies, List.mem_cons, List.not_mem_nil, or_false] at h h2
  rcases h with rfl | rfl | rfl | rfl <;> rcases h2 with rfl | rfl <;> decide +kernel
/-- A node behind another launch, and the same once it is the queue's head. -/
theorem witness_Graphs_queued : ∀ b ∈ tBodies.drop 1,
    let n := tNode b .waiting 0 0
    let s := { sGr n with launches := [⟨60, 0, false, 99, 0, false⟩] }
    let m := tNode b .queued 77 0
    let u := { sGr m with launches := [⟨60, 0, false, 77, 0, false⟩] }
    s.graph 5 = some (tGraph n) ∧ s.graphHeld (tGraph n) = false ∧ s.mayPlace 60 = true ∧
    s.head 60 0 none = some ⟨60, 0, false, 99, 0, false⟩ ∧ (∀ e ∈ s.launches, e.key ≠ s.ids) ∧
    (∀ g ∈ s.graphs, ∀ x ∈ g.nodes, x.key ≠ s.ids) ∧
    u.graph 5 = some (tGraph m) ∧ u.graphHeld (tGraph m) = false ∧ u.mayPlace 60 = true ∧ (u.head 60 0 none).map (·.key) = some 77 := by
  intro b h
  simp only [tBodies, List.drop, List.mem_cons, List.not_mem_nil, or_false] at h
  rcases h with rfl | rfl | rfl <;> decide +kernel
/-- A node of a graph whose queue is headed by a later, held launch of the same template, which it passes. -/
theorem witness_Graphs_passes : ∀ b ∈ tBodies.drop 1,
    let n := tNode b .waiting 0 0
    let s := { sGr n with graphs := [tGraph n, { tGraph n with key := 9 }], launches := [⟨60, 0, true, 9, 0, false⟩] }
    s.graph 5 = some (tGraph n) ∧ s.graphHeld (tGraph n) = false ∧ s.mayPlace 60 = true ∧
    s.head 60 0 none = some ⟨60, 0, true, 9, 0, false⟩ ∧ (∀ e ∈ s.launches, e.key ≠ s.ids) ∧
    ∀ g ∈ s.graphs, ∀ x ∈ g.nodes, x.key ≠ s.ids := by
  intro b h
  simp only [tBodies, List.drop, List.mem_cons, List.not_mem_nil, or_false] at h
  rcases h with rfl | rfl | rfl <;> decide +kernel
theorem witness_Graphs_record : collBad ((List.range 64).map fun k => mapGet 0#8 tCollMem (2 ^ 40 + k)) = none := by
  decide +kernel
theorem witness_Graphs_copy :
    s0.xlate deviceAgent 60 ((0x10000000000 + 0) % 2 ^ 56) 0 false = (s0, .ok tTr) ∧
    s0.xlate deviceAgent 60 ((0x10000000080 + 0) % 2 ^ 56) 1 false = (s0, .ok { tTr with pa := 2 ^ 40 + 128, ia := 2 ^ 40 + 128 }) ∧
    tTr.pa % 128 = 0 ∧ s0.held (addrs (2 ^ 40) 128 ++ addrs (2 ^ 40 + 128) 128) none = false ∧ hostWindow (2 ^ 40) = false ∧
    hostWindow (2 ^ 40 + 128) = false ∧
    (∀ p ∈ addrs (2 ^ 40) 128, mapGet none s0.l1 (copyKey (s0.engineCore 60) (p / 32)) = none) ∧
    Clean s0 (addrs (2 ^ 40) 128 ++ addrs (2 ^ 40 + 128) 128) := by
  refine ⟨?_, ?_, ?_, ?_, ?_, ?_, ?_, clean_of ?_⟩ <;> decide +kernel
theorem witness_Graphs_bankcall :
    let b := { newBlock 77 0 0 0 60 0 64 0 0 0 0 none none none 0#64 (some (5, 0)) with stage := .answered }
    { s0 with blocks := [b] }.block 77 = some b := by decide +kernel
theorem witness_Graphs_done : let n := tNode (.copy 0#64 0#64 128) .running 77 128
    (sGr n).graph 5 = some (tGraph n) ∧ 128 ≤ n.next ∧ n.held = none ∧
    let k := { tGraph n with nodes := [{ n with state := .completed }, { n with state := .cancelled }] }
    { s0 with graphs := [k] }.graph 5 = some k ∧ k.nodes[0]? = some { n with state := .completed } ∧ k.nodes.all Node.over = true ∧
    s0.active 60 = true := by decide +kernel

/-- A pool of its grid of 32 granules: a group of polder 0 waits for 8 since cycle 0 beside one of two frames, blocked or at a
header. -/
def gSp (n : Nat) : Group := { tG 0 i0 with
  frames := [⟨0, n, 0#64, none, false, 0, [], []⟩], request := some ⟨0, 8, .call 64, false⟩ }
def hSp (blocked : Bool) : Group := { tG 0 i0 with
  gid := 9, slot := 1, lanes := [(0, { tL 0#32 [] with chain := [⟨5, []⟩, ⟨0, []⟩] })],
  frames := [⟨0, 8, 0#64, none, false, 0, [], []⟩, ⟨5, 8, 0x1000#64, none, false, 5, [], []⟩], flags := [(0, 1)],
  since := some 3,
  issue := if blocked then some i0 else none, request := if blocked then some ⟨5, 8, .call 64, false⟩ else none }
def sSp (hs : List Group) (cap clock : Nat) (size : DWord := 0#64) : State :=
  { sP with pldrs := [(0, { tPolder with spillsize := size })], groups := gSp 128 :: hs, teams := [tT 0],
            grids := [{ tK 0 with poolcap := cap }], clock := clock }
/-- A move into a spill area of just that size starts at its base. -/
theorem spillOut_start {s : State} {w n a : Nat} (h : (s.polder w).spillsize.toNat = n)
    (ha : (s.polder w).spillbase.toNat = a) (hs : (s.polder w).saved = []) :
    s.spillOut w n = match s.draw.xlateSpans deviceAgent w 1 (pageSpans a n) with
      | (_, .error (d, _, _)) => if d = 0 then .waits else .full
      | (t, .ok pas) => if t.held pas none then .waits
          else .moved ((t.agentWrite (List.zip pas ((List.range n).map fun i => Config.partByte s.fresh i)) []).meter w 25 n) := by
  subst h ha
  simp [State.spillOut, State.spillPlace, hs, findBy, Nat.mod_one]
  all_goals rfl
/-- The bytes of what moves: a frame of the blocked group, or the context of the other. -/
def tSize (b : Bool) : Nat := if b then 2048 * granules 8 else (hSp b).contextSize
def sSpb (b : Bool) : State := sSp [hSp b] 25 16384 (BitVec.ofNat 64 (tSize b))
theorem witness_Spillway : ∀ b : Bool,
    let s := sSpb b
    let g := gSp 128
    let p := s.poolOf g.core g.grid
    let others := (s.poolGroups p).filter fun h => h.gid != 1
    s.group g.gid = some g ∧ s.oldestWaiter p = some (0, 0, 8) ∧ s.active g.world = true ∧ s.usable p < s.inUse p + 8 ∧
    0 + (s.polder g.world).spillwait.toNat ≤ s.clock ∧ others = [hSp b] ∧ s.group 9 = some (hSp b) ∧
    s.spillFits 0 (tSize b) = true ∧ (b = true → (hSp b).spillable = [⟨0, 8, 0#64, none, false, 0, [], []⟩]) ∧
    (b = false → (hSp b).blocked = false ∧ youngest (others.filter s.swappable) = [hSp b]) := by
  intro b
  cases b <;> decide +kernel
theorem witness_Spillway_room : ∀ b : Bool, ∃ s1, (sSpb b).spillOut 0 (tSize b) = .moved s1 ∧ s1.group 9 = some (hSp b) ∧
    (s1.modGroup 9 fun x => if b then
      { x with frames := updBy (fun c => c.fid == 0) (fun c => { c with spilled := true }) x.frames }
      else { x with swapped := true, request := none }).inUse ((sSpb b).poolOf 0 3) + 8 ≤ s1.usable ((sSpb b).poolOf 0 3) := by
  have h : ∀ b : Bool, (match (sSpb b).draw.xlateSpans deviceAgent 0 1 (pageSpans 0 (tSize b)) with
    | (t, .ok _) => decide (t.ranges = []) &&
        decide (t.groups = (sSpb b).groups ∧ t.grids = (sSpb b).grids ∧ t.teams = (sSpb b).teams)
    | _ => false) = true ∧ ((sSpb b).polder 0).spillsize.toNat = tSize b ∧ ((sSpb b).polder 0).spillbase.toNat = 0 ∧
    ((sSpb b).polder 0).saved = [] ∧
    findBy (fun g => g.gid == 9) (sSpb b).groups = some (hSp b) ∧ ((sSpb b).modGroup 9 fun x => if b then
      { x with frames := updBy (fun c => c.fid == 0) (fun c => { c with spilled := true }) x.frames }
      else { x with swapped := true, request := none }).inUse ((sSpb b).poolOf 0 3) + 8 ≤
        (sSpb b).usable ((sSpb b).poolOf 0 3) := by
    intro b
    cases b <;> decide +kernel
  intro b
  obtain ⟨k, hs, hb, hv, hg, hu⟩ := h b
  rw [spillOut_start hs hb hv]
  generalize (sSpb b).draw.xlateSpans deviceAgent 0 1 (pageSpans 0 (tSize b)) = r at k ⊢
  obtain ⟨t, x | pas⟩ := r
  · cases k
  · simp only [Bool.and_eq_true, decide_eq_true_eq] at k
    obtain ⟨hr, g1, g2, g3⟩ := k
    have hh : t.held pas none = false := by simp [State.held, hr]
    simp only [hh, Bool.false_eq_true, if_false]
    refine ⟨_, rfl, ?_⟩
    generalize List.zip pas _ = cells
    have m := (memoryOnly_agentWrite t cells []).trans (memoryOnly_meter _ 0 25 (tSize b))
    generalize (t.agentWrite cells []).meter 0 25 (tSize b) = u at m
    have q : u.groups = (sSpb b).groups ∧ u.grids = (sSpb b).grids ∧ u.teams = (sSpb b).teams := by
      rw [m]
      exact ⟨g1, g2, g3⟩
    obtain ⟨q1, q2, q3⟩ := q
    refine ⟨by rw [← hg, ← q1]; rfl, ?_⟩
    have hi : ∀ (x : State) f p, (x.modGroup 9 f).inUse p =
      ({ State.reset with groups := x.groups, grids := x.grids }.modGroup 9 f).inUse p := fun _ _ _ => rfl
    have hp : ∀ (x : State) p, x.usable p =
      State.usable { State.reset with teams := x.teams, grids := x.grids } p := fun _ _ => rfl
    rw [hi, hp] at hu ⊢
    rw [q1, q2, q3]
    exact hu
/-- The area under an exclusive range: the move waits. -/
theorem witness_Spillway_waits : ∀ b : Bool,
    ({ sSpb b with ranges := [⟨0, 2 ^ 20, true, 8, 6, 0⟩] } : State).spillOut 0 (tSize b) = .waits := by
  intro b
  rw [spillOut_start (a := 0) (by cases b <;> decide +kernel) (by cases b <;> decide +kernel) (by cases b <;> rfl)]
  have h : (match ({ sSpb b with ranges := [⟨0, 2 ^ 20, true, 8, 6, 0⟩] } : State).draw.xlateSpans deviceAgent 0 1
      (pageSpans 0 (tSize b)) with
    | (_, .error (d, _, _)) => d == 0
    | (t, .ok pas) => t.held pas none) = true := by cases b <;> decide +kernel
  generalize ({ sSpb b with ranges := [⟨0, 2 ^ 20, true, 8, 6, 0⟩] } : State).draw.xlateSpans deviceAgent 0 1
    (pageSpans 0 (tSize b)) = r at h
  obtain ⟨t, ⟨d, e⟩ | pas⟩ := r
  · simp_all
  · simp_all
theorem witness_Spillway_none : let s := sSp [] 16 16384; let p := s.poolOf 0 3
    s.oldestWaiter p = some (0, 0, 8) ∧ s.usable p < s.inUse p + 8 ∧ s.poolGroups p = [gSp 128] ∧
    (∀ h ∈ s.poolGroups p, h.blocked = true) := by decide +kernel
/-- A blocked group's frame that the area, of no size, has no room for. -/
theorem witness_Spillway_full : let s := sSp [hSp true] 25 16384; let p := s.poolOf 0 3
    s.oldestWaiter p = some (0, 0, 8) ∧ s.usable p < s.inUse p + 8 ∧ s.spillFits 0 (tSize true) = false ∧
    s.group 1 = some (gSp 128) ∧ (gSp 128).request = some ⟨0, 8, .call 64, false⟩ ∧ (gSp 128).issue ≠ none ∧
    (∀ h ∈ s.poolGroups p, s.stuck h = true) ∧ (hSp true).spillable = [⟨0, 8, 0#64, none, false, 0, [], []⟩] := by decide +kernel
def tTrap : PendingTrap := ⟨Record.empty, 1#64, 0x1000#64, ⟨true, 0, 0, 0, none⟩⟩
theorem witness_Spillway_held : let g := { g0 with held := some 7#32, heldTrap := some tTrap }
    let s := { s0 with groups := [g] }
    findBy (fun h => h.world == 60 && h.held == some 7#32) s.groups = some g ∧ s.group g.gid = some g := by decide +kernel
theorem witness_Spillway_heldCopy :
    let o := tOp (.copy { tCp true none with held := some { Record.empty with seq := 7#32 } })
    (∀ g ∈ (sOps [o]).groups, g.held = none) ∧ o ∈ (sOps [o]).ops ∧ ((sOps [o]).ops.map (·.id)).Nodup ∧ o.world = 60 := by
  decide +kernel

/-- Host accesses of 4 bytes at an offset. -/
def tHost (o : Nat) (w : Option (List Byte)) : HostAccess := ⟨o, 4, w⟩

theorem witness_OutsideAccesses : ∀ need < 2,
    (match sP.bar2 0 0x1000 4 need with
      | (s1, some (some pas)) => !s1.held pas none && decide pas.Nodup && pas.all (fun a => decide (s1.line (a / 128) = ⟨false, []⟩) &&
          !s1.alien (a / 128) && decide (s1.uatom (a / 32) = none)) && decide (s1.trust = sP.trust)
      | _ => false) = true ∧ (sP.bar2 1 0x1000 4 need).2 = some none ∧ (sP.bar2 0 (2 ^ 39 - 3) 4 need).2 = some none := by
  intro need h
  have : need = 0 ∨ need = 1 := by omega
  rcases this with rfl | rfl <;> decide +kernel
/-- A device whose host owns pseudo-channel 511, the link trained, polder 0 opened for debug. -/
def sO : State := { sP with
  pcown := [(0, 0#6), (511, 61#6)], cxl := true, pldrs := [(0, { tPolder with dbgopen := 1#32 })], hworld := [(5, 61#6)],
  trust := { sP.trust with keys := true, keydraw := 0 }, hres := [(5, (addrs (511 * 2 ^ 30) 4, 0))] }
theorem witness_OutsideAccesses_host :
    sO.trust.keys = true ∧ sO.cxl = true ∧ (∀ p ∈ addrs (511 * 2 ^ 30) 4, sO.owner p = 61) ∧
    (∃ p ∈ addrs (511 * 2 ^ 30 - 1) 4, sO.owner p ≠ 61) ∧ s0.cxl = false ∧
    (sO.trust.boot = 0#4 ∨ sO.trust.boot = 4#4) ∧ sO.trust.mode = 0#2 ∧ (2 ^ 24 - 4) + 4 ≤ 2 ^ 24 ∧
    ¬ ((2 ^ 24 - 3) + 4 ≤ 2 ^ 24) := by decide +kernel
theorem witness_OutsideAccesses_debug : ∀ need < 2, sO.trust.dbgworld.toNat < 48 ∧
    (sO.polder sO.trust.dbgworld.toNat).dbgopen.getLsbD 0 = true ∧ (sP.polder 0).dbgopen.getLsbD 0 = false ∧
    (match sO.ownBytes 0 (8 * sO.trust.dbgia.toNat) 8 need with
      | (s1, some (some pas)) => decide (s1.trust = sO.trust) && !s1.held pas none && decide pas.Nodup && pas.length == 8 &&
          pas.all (fun a => decide (s1.line (a / 128) = ⟨false, []⟩) && !s1.alien (a / 128) && decide (s1.uatom (a / 32) = none))
      | _ => false) = true := by
  intro need h
  have : need = 0 ∨ need = 1 := by omega
  rcases this with rfl | rfl <;> decide +kernel
/-- A hart of world 61 at the host's memory and outside it. -/
theorem witness_OutsideAccesses_hart : ∀ len ∈ [1, 2, 4, 8],
    sO.hartMay 5 (addrs (511 * 2 ^ 30) len) = true ∧ sO.hartMay 5 (addrs 0 len) = false ∧
    sO.held (addrs (511 * 2 ^ 30) len) none = false ∧ Clean sO (addrs (511 * 2 ^ 30) len) ∧
    (∀ p ∈ addrs (511 * 2 ^ 30) len, mapGet none sO.l1 (copyKey (hartAgent 5) (p / 32)) = none) ∧ 511 * 2 ^ 30 % len = 0 ∧
    (8#4).toNat ≤ 8 ∧ (5 < 64 ∧ 64 ≤ 64) ∧
    (len = 4 ↔ ∃ e ∈ sO.hres, e.1 = 5 ∧ e.2.1 = addrs (511 * 2 ^ 30) len ∧ sO.writtenTo (addrs (511 * 2 ^ 30) len) ≤ e.2.2) ∧
    sO.hartWorld 5 = 61 := by
  have all : ∀ len ∈ [1, 2, 4, 8], sO.hartMay 5 (addrs (511 * 2 ^ 30) len) = true ∧ sO.hartMay 5 (addrs 0 len) = false ∧
      sO.held (addrs (511 * 2 ^ 30) len) none = false ∧
      ((addrs (511 * 2 ^ 30) len).all fun a => decide (sO.line (a / 128) = ⟨false, []⟩) && !sO.alien (a / 128) &&
        decide (sO.uatom (a / 32) = none)) = true ∧
      (∀ p ∈ addrs (511 * 2 ^ 30) len, mapGet none sO.l1 (copyKey (hartAgent 5) (p / 32)) = none) ∧ 511 * 2 ^ 30 % len = 0 ∧
      (len = 4 ↔ ∃ e ∈ sO.hres, e.1 = 5 ∧ e.2.1 = addrs (511 * 2 ^ 30) len ∧ sO.writtenTo (addrs (511 * 2 ^ 30) len) ≤ e.2.2) := by
    decide +kernel
  intro len h
  obtain ⟨a, b, c, d, e, f, g⟩ := all len h
  exact ⟨a, b, c, clean_of d, e, f, by decide, by decide, g, by decide +kernel⟩
/-- A poisoned line of the host's memory. -/
def sPsn : State := { sO with lines := [(511 * 2 ^ 23, ⟨true, []⟩)] }
theorem witness_OutsideAccesses_hartPoison : ∀ len ∈ [1, 2, 4, 8],
    sPsn.hartMay 5 (addrs (511 * 2 ^ 30) len) = true ∧ sPsn.held (addrs (511 * 2 ^ 30) len) none = false ∧ sPsn.uatoms = [] ∧
    (match sPsn.cohRead (hartAgent 5) (sPsn.hartClock 5) (addrs (511 * 2 ^ 30) len) with
      | (_, bs, none, _) => bs.any (·.2)
      | _ => false) = true := by decide +kernel
/-- A port up with tries 15 and 16; a flit that it takes, of a communicator that no one opened, which acknowledges ACK 0
or nothing new. -/
def sPort (tries : Nat) : State := { s0 with ports := [(17, { Port.reset with en := true, stat := 2#2, tries := tries })] }
def tHead : List Byte := [0#8, 0x10#8] ++ List.replicate 238 0#8
def tMid (ack : Nat) : List Byte := tHead ++ (toBytes 4 0 ++ toBytes 4 ack ++ toBytes 4 0)
def tFlit (ack : Nat) : List Byte := tMid ack ++ toBytes 4 (crc32 (tMid ack)).toNat
theorem of_toBytes4 (v : Word) : BitVec.ofNat 32 (ofBytes (toBytes 4 v.toNat)) = v := by
  apply BitVec.eq_of_toNat_eq
  simp [toBytes, ofBytes]; have := v.isLt; omega
theorem flit_crc (l : List Byte) (v : Word) (n : l.length = 252) :
    (flitOf (l ++ toBytes 4 v.toNat)).crc = v ∧ (l ++ toBytes 4 v.toNat).take 252 = l := by
  refine ⟨?_, by rw [← n, List.take_left]⟩
  change BitVec.ofNat 32 (field (l ++ toBytes 4 v.toNat) 252 4) = v
  rw [field, ← n, List.drop_left]; exact of_toBytes4 v
theorem flit_head (l q : List Byte) (n : l.length = 240) (k m : Nat) : field (l ++ q) (240 + k) m = field q k m := by
  have e : l.drop (240 + k) = [] := List.drop_eq_nil_of_le (by omega)
  rw [field, field, List.drop_append, e, n, Nat.add_sub_cancel_left, List.nil_append]
theorem flit_first (q : List Byte) : field (tHead ++ q) 0 2 = 0x1000 := by
  rw [field, tHead, List.drop_zero, List.append_assoc]
  change ofBytes [0#8, 0x10#8] = _; decide
theorem witness_DeviceEvents : ∀ tries ∈ [15, 16], ((sPort tries).port 17).stat = 2#2 ∧ ((sPort tries).port 17).tries = tries ∧
    ((sPort tries).port 17).rxseq = 0#32 ∧ ((sPort tries).port 17).acked = 0#32 ∧ (s0.port 17).stat ≠ 2#2 := by decide +kernel
theorem witness_DeviceEvents_flit : ∀ ack ∈ [0, 2 ^ 32 - 1], (tFlit ack).length = 256 ∧
    (flitOf (tFlit ack)).crc = crc32 ((tFlit ack).take 252) ∧ (flitOf (tFlit ack)).lseq = 0#32 ∧
    (ack = 0 ↔ ((flitOf (tFlit ack)).ack - 0#32).toNat < 512) ∧
    (flitOf (tFlit ack)).ftype = 1#4 ∧ (flitOf (tFlit ack)).dst = (sPort 15).devid ∧ (sPort 15).comms = [] := by
  intro ack h
  have n0 : tHead.length = 240 := by rw [tHead, List.length_append, List.length_replicate]; rfl
  have n : (tMid ack).length = 252 := by rw [tMid, List.length_append, n0]; rfl
  obtain ⟨c, k⟩ := flit_crc _ (crc32 (tMid ack)) n
  have e : tFlit ack = tHead ++ (toBytes 4 0 ++ toBytes 4 ack ++ toBytes 4 0 ++ toBytes 4 (crc32 (tMid ack)).toNat) := by
    rw [tFlit, tMid, List.append_assoc]
  have m : (flitOf (tFlit ack)).ack = BitVec.ofNat 32 (ofBytes (toBytes 4 ack)) := by
    rw [e]; exact congrArg (BitVec.ofNat 32) (flit_head _ _ n0 4 4)
  refine ⟨by rw [tFlit, List.length_append, n]; rfl, by rw [tFlit, c, k], ?_, ?_, ?_, ?_, rfl⟩
  · rw [e]; exact congrArg (BitVec.ofNat 32) (flit_head _ _ n0 0 4)
  · rw [m]
    simp only [List.mem_cons, List.not_mem_nil, or_false] at h
    rcases h with rfl | rfl <;> decide +kernel
  · rw [e]; exact congrArg (fun n => BitVec.ofNat 4 (n / 4096)) (flit_first _)
  · rw [e]; exact (congrArg (BitVec.ofNat 12) (flit_first _)).trans (by decide +kernel)
theorem witness_DeviceEvents_errors :
    (g0.lane 0).live = true ∧ (g0.lane 0).chain[0]? = some ⟨0, [(1, ⟨5#32, false⟩)]⟩ ∧ ((g0.lane 0).chain.map (·.fid)).Nodup ∧
    s0.team 2 = some (tT 60) ∧ 1023 < (tT 60).kernel.scratch / 4 ∧
    { s0 with uatoms := [⟨4, 0, [], [], 0⟩] }.uatom 4 = some ⟨4, 0, [], [], 0⟩ := by decide +kernel

/-- A slice map: cluster 0 and pseudo-channel 0 of polder 0 in a state, cluster 1 changing, cluster 2 in service; the
interface of pseudo-channel 3 ready. -/
def sSm (st : PolderState) : State := { s0 with
  clown := [(0, 0#6)], pcown := [(0, 0#6), (1, 62#6)], changing := [(1, true)], service := [(2, true)],
  pldrs := [(0, { Polder.reset with state := st })], phys := [(3, { Phy.reset with ready := true })], ways := [(2, 1#64), (120, 15#64)],
  trust := { s0.trust with vfs := true } }
theorem witness_SliceMap :
    (sSm .run).lockedOwner 0 = true ∧ (sSm .unlocked).lockedOwner 0 = false ∧ (sSm .unlocked).lockedOwner 63 = false ∧
    mapGet false (sSm .unlocked).changing 1 = true ∧ mapGet false (sSm .unlocked).changing 0 = false ∧
    mapGet false (sSm .unlocked).service 2 = true ∧ mapGet false (sSm .unlocked).service 3 = false ∧
    (mapGet 63#6 (sSm .unlocked).clown 0).toNat = 0 ∧ (mapGet 63#6 (sSm .unlocked).clown 3).toNat = 63 ∧
    (sSm .unlocked).lockedOwner 50 = false := by decide +kernel
theorem witness_SliceMap_channels :
    (mapGet Phy.reset (sSm .unlocked).phys 3).ready = true ∧ (mapGet Phy.reset (sSm .unlocked).phys 4).ready = false ∧
    (mapGet 63#6 (sSm .unlocked).pcown 1).toNat = 62 ∧ (mapGet 63#6 (sSm .unlocked).pcown 0).toNat = 0 ∧
    (mapGet 63#6 (sSm .unlocked).pcown 3).toNat = 63 ∧ (sSm .unlocked).lockedOwner 62 = false ∧
    (sSm .unlocked).otherWays 60 0 &&& 15#64 = 1#64 ∧ (sSm .unlocked).otherWays 1 0 = 15#64 ∧
    (sSm .unlocked).lockedOwner 60 = false ∧ (sSm .unlocked).lockedOwner 1 = false ∧ (sSm .unlocked).trust.vfs = true ∧
    ((sSm .unlocked).polder 0).state = .unlocked ∧ ((sSm .run).polder 0).state = .run ∧ (sSm .unlocked).dirty = [] := by
  decide +kernel

theorem witness_PortsInterfacesBoot :
    (s0.port 17).stat = 0#2 ∧ ((sPort 0).port 17).stat = 2#2 ∧
    ({ s0 with ports := [(0, { Port.reset with en := true, stat := 1#2, bad := 7 })] }.port 0).stat = 1#2 ∧
    s0.phyOwned 511 = false ∧ (s0.phy 511).train = true ∧ (sSm .unlocked).phyOwned 0 = true ∧
    ({ s0 with phys := [(0, { Phy.reset with en := true, run := some (1#2, 0#32) })] }.phy 0).run = some (1#2, 0#32) ∧
    (s0.phy 0).run = none := by decide +kernel
theorem witness_PortsInterfacesBoot_debug : (0x5CA70001#32 : Word).toNat / 65536 = 0x5CA7 ∧ (0x5CA70001#32 : Word).toNat % 4 = 1 ∧
    (0x5CA70002#32 : Word).toNat % 4 = 2 ∧ s0.trust.mode = 0#2 ∧ s0.trust.wiping = false ∧
    { s0.trust with wiping := true, wipeto := 1#2 }.wiping = true := by decide +kernel
/-- A boot image of 256 bytes whose header is sound: whether it starts rests on the signature alone. -/
def sImg : State := { s0 with
  mem := tMem bootBase [(0, 0x43), (1, 0x5A), (2, 0x46), (3, 0x57), (13, 1)], trust := { s0.trust with bootlen := 256#32 } }
theorem witness_PortsInterfacesBoot_boot :
    max 256 (min (2 ^ 24) sImg.trust.bootlen.toNat) = 256 ∧
    sImg.trust.mode = 0#2 ∧ sImg.trust.boot = 0#4 ∧
    (Config.firmwareSigOk (sImg.bytes bootBase 256) = true → sImg.trust.imageReason (sImg.bytes bootBase 256) = 0) ∧
    (Config.firmwareSigOk (sImg.bytes bootBase 256) = false → sImg.trust.imageReason (sImg.bytes bootBase 256) = 2) ∧
    s0.trust.imageReason (s0.bytes bootBase 256) = 1 := by
  have h : field (sImg.bytes bootBase 256) 0 4 = 0x57465A43 ∧ field (sImg.bytes bootBase 256) 32 32 = 0 ∧
      field (sImg.bytes bootBase 256) 160 96 = 0 ∧ field (sImg.bytes bootBase 256) 12 4 = 256 ∧
      field (sImg.bytes bootBase 256) 16 8 = 0 ∧
      sImg.trust.bootlen.toNat = 256 ∧ sImg.trust.fusetc.toNat = 0 ∧ sImg.trust.fusefw.toNat = 0 := by decide +kernel
  generalize sImg.bytes bootBase 256 = l at h ⊢
  refine ⟨by decide +kernel, rfl, rfl, ?_, ?_, by decide +kernel⟩ <;> intro hs <;> obtain ⟨a, b, c, d, e, f, g, i⟩ := h <;>
    simp [Trust.imageReason, a, b, c, d, e, f, g, i, hs]
theorem witness_PortsInterfacesBoot_ready : { s0.trust with boot := 2#4 }.boot = 2#4 ∧
    ∀ g ∈ { s0 with groups := [] }.groups, g.world ≠ 60 := by decide +kernel

/-- A command in a mailbox, with its parameters in the boot window for world 60. -/
def tBox (w : BitVec 6) (op : BitVec 8) : Mailbox := ⟨true, w, op, 0x10000000000#64, 0#8, 0#8⟩
def sMail (s : State) (own : Bool) (w : BitVec 6) (op : BitVec 8) : State :=
  { s with trust := { s.trust with
      order := [own], ok := true, boot := 3#4, mbox60 := if own then tBox w op else s.trust.mbox60,
      mbox0 := if own then s.trust.mbox0 else tBox w op } }
theorem mail_sMail (s : State) (own : Bool) (w : BitVec 6) (op : BitVec 8) : Mail (sMail s own w op) own (tBox w op) op.toNat := by
  cases own <;> exact ⟨rfl, rfl⟩
/-- A polder 0 in a state, with a cluster, a pseudo-channel and ways; pseudo-channel 511 is the host's. -/
def sPo (p : Polder) : State := { sP with
  clown := [(0, 0#6), (1, 0#6)], latch := [(0, 0#6), (1, 0#6)], pcown := [(0, 0#6), (1, 0#6), (511, 61#6)],
  ways := [(0, 2#64), (120, 4#64)], pldrs := [(0, p)], groups := [], teams := [] }
def sCr : State := { sPo Polder.reset with mem := tMem (2 ^ 40) [(3, 0xC0), (4, 0x7F)] }
/-- CREATE of polder 0, whose stage 2 root is the first byte of pseudo-channel 511, with and without entropy; of polder 1,
which has no cluster. -/
theorem witness_PolderLife :
    Mail (sMail sCr true 0#6 1#8) true (tBox 0#6 1#8) 1 ∧ ((sMail sCr true 0#6 1#8).polder 0).state = .free ∧
    (match ((sMail sCr true 0#6 1#8).setPolder 0 { (sMail sCr true 0#6 1#8).polder 0 with state := .creating }).paramBytes true
        0x10000000000 64 with
      | (s1, some b) => decide (s1.trust = (sMail sCr true 0#6 1#8).trust) && s1.configOk 0 && !s1.configOk 1 &&
          field b 32 32 == 0 && field b 0 8 % 4096 == 0 && s1.owner (field b 0 8) == 61
      | _ => false) = true ∧ (sMail sCr true 0#6 1#8).trust.ok = true ∧
    ((sPo tPolder).polder 0).state = .run :=
  ⟨mail_sMail _ _ _ _, by decide +kernel⟩
theorem witness_PolderLife_release : ∀ st ∈ [PolderState.run, .releasing, .creating, .free], ∀ by_ : Bool,
    let p := { tPolder with state := st, byStop := by_ }
    Mail (sMail (sPo p) false 0#6 2#8) false (tBox 0#6 2#8) 2 ∧ ((sMail (sPo p) false 0#6 2#8).polder 0).state = st ∧
    ((sMail (sPo p) false 0#6 2#8).polder 0).byStop = by_ ∧ (st = .run → p.releasable = true) ∧
    (sMail (sPo p) false 0#6 2#8).workEnded 0 = true ∧
    (sMail { sPo p with blocks := [{ tBlk .running with world := 0 }] } false 0#6 2#8).workEnded 0 = false ∧
    (sMail (sPo p) false 0#6 2#8).stopEnds = if st = .releasing ∧ by_ = true then some 0 else none := by
  intro st h b
  simp only [List.mem_cons, List.not_mem_nil, or_false] at h
  rcases h with rfl | rfl | rfl | rfl <;> cases b <;>
    exact ⟨mail_sMail _ _ _ _, by decide +kernel⟩
/-- SERVICE of cluster 47, whose grid's record stands at the start of the boot window. -/
theorem witness_PolderLife_service : let s := sMail { s0 with mem := tLaunchMem 1 } true 47#6 8#8
    Mail s true (tBox 47#6 8#8) 8 ∧ s.trust.boot = 3#4 ∧ mapGet 63#6 s.clown 47 = 63#6 ∧ mapGet false s.changing 47 = false ∧
    (match (s.giveCluster 47 60).serviceRecord 47 0x10000000000 with
      | (s1, .ok (.ok (l, _), _)) => decide (s1.trust = s.trust) && decide (s1.queued 60 l.prio < 256)
      | _ => false) = true ∧
    (let s := sMail { s0 with mem := tLaunchMem 0 } true 47#6 8#8
     match (s.giveCluster 47 60).serviceRecord 47 0x10000000000 with
      | (s1, .ok (.error _, _)) => decide (s1.trust = s.trust)
      | _ => false) = true ∧ Mail (sMail s0 false 0#6 8#8) false (tBox 0#6 8#8) 8 ∧
    (sMail s0 true 0#6 9#8).mail = some (true, tBox 0#6 9#8) :=
  ⟨mail_sMail _ _ _ _, by decide +kernel, by decide +kernel, by decide +kernel, by decide +kernel, by decide +kernel,
    mail_sMail _ _ _ _, rfl⟩
theorem witness_TdispRequests : ∀ st ∈ [PolderState.free, .creating, .unlocked, .locked, .run, .quarantined, .releasing],
    ∀ im : Bool, let p := { Polder.reset with state := st, imported := im, byStop := im }
    (sPo p).polder 0 = p ∧ p.lkdesc = 0#64 ∧ (p.releasable = true ↔ st ≠ .free ∧ st ≠ .creating ∧ st ≠ .releasing) ∧
    (p.enabled = false ↔ st = .free ∨ st = .creating ∨ st = .releasing) := by
  intro st h b
  simp only [List.mem_cons, List.not_mem_nil, or_false] at h
  rcases h with rfl | rfl | rfl | rfl | rfl | rfl | rfl <;> cases b <;> decide +kernel
/-- A locked polder whose descriptor stands at 0x1000, of a team of 1, or where nothing was written. -/
def tLck (a : DWord) : Polder := { tPolder with state := .locked, lkdesc := a }
def sLck (a : DWord) : State :=
  { sPo (tLck a) with mem := tMem 0x1000 [(1, 16), (16, 1), (17, 1), (28, 64)] ++ tTables }
def sLr (a : DWord) : State := (sLck a).setPolder 0 { tLck a with state := .run }
theorem witness_TdispRequests_named (a : DWord) (h : a ≠ 0#64) :
    (sLck a).polder 0 = tLck a ∧ (tLck a).state = .locked ∧ (tLck a).imported = false ∧ (tLck a).lkdesc ≠ 0#64 :=
  ⟨rfl, rfl, rfl, h⟩
theorem witness_TdispRequests_keeper : (sLr 0x1000#64).engineCore 0 = 0 ∧ ((sLr 0x1000#64).keeperKernel 0 0).2.isSome = true ∧
    (((sLr 0x1000#64).keeperKernel 0 0).1.polder 0).state = .run ∧ ((sLr 0x1000#64).keeperKernel 0 0).1.outbox = [] :=
  ⟨by decide +kernel, by decide +kernel, by decide +kernel, by decide +kernel⟩
theorem witness_TdispRequests_none : (sLr 0x2000#64).engineCore 0 = 0 ∧ ((sLr 0x2000#64).keeperKernel 0 0).2 = none ∧
    (((sLr 0x2000#64).keeperKernel 0 0).1.polder 0).state = .run ∧ ((sLr 0x2000#64).keeperKernel 0 0).1.outbox = [] :=
  ⟨by decide +kernel, by decide +kernel, by decide +kernel, by decide +kernel⟩

/-- A polder 0 in UNLOCKED. -/
def tUn : Polder := { tPolder with state := .unlocked }
/-- The entropy source up or down; the requests of the vendor: COMM_OPEN, COMM_CLOSE, DEBUG_OPEN, GET_RELEASE. -/
def sOk (ok : Bool) (s : State) : State := { s with trust := { s.trust with ok := ok, records := [(0, [1#8])] } }
def tReq (b : List (Nat × Nat)) : List Byte := (List.range 46).map fun k => BitVec.ofNat 8 (mapGet 0 b k)
theorem witness_SpdmRequests :
    (sOk true s0).trust.ok = true ∧ (sOk false s0).trust.ok = false ∧ ((sOk true s0).digest 4).isSome = true ∧
    ((sPo tPolder).polder 0).metered = true ∧ (sOk true (sPo tPolder)).trust.ok = true ∧
    ((sPo tPolder).polder 0).state = .run ∧ ((sPo tUn).polder 0).state = .unlocked ∧
    ((sL true).comm 60 1#32).isSome = true ∧
    findBy (fun e => e.1 == 0) (sOk true s0).trust.records = some (0, [1#8]) := by decide +kernel
theorem witness_SpdmRequests_open :
    let r := tReq [(0, 1), (4, 1), (8, 1)]
    field r 0 1 = 1 ∧ field r 1 1 = 0 ∧ field r 2 2 = 0 ∧ (sPo tPolder).comm 0 (BitVec.ofNat 32 (field r 4 4)) = none ∧
    field r 8 2 = 1 ∧ field r 10 2 = 0 ∧ r.length = 46 ∧ field r 44 2 = (sPo tPolder).devid.toNat ∧ (sPo tPolder).comms = [] ∧
    field (tReq [(0, 2), (1, 60), (4, 1)]) 0 1 = 2 ∧ field (tReq [(0, 2), (1, 60), (4, 1)]) 1 1 = 60 ∧
    field (tReq [(0, 2), (1, 60), (4, 1)]) 4 4 = 1 ∧ field (tReq [(0, 3), (4, 1)]) 0 1 = 3 ∧
    field (tReq [(0, 3), (4, 1)]) 4 4 = 1 ∧ field (tReq [(0, 4)]) 0 1 = 4 ∧ field (tReq [(0, 4)]) 2 6 = 0 := by decide +kernel

/-- A team of polder 0 held in cluster 0, its group in a clause or at a header; what such a team has saved. -/
def sHe (p : Polder) (inside : Bool) : State := { sPo p with
  groups := [{ tG 0 i0 with issue := if inside then some i0 else none }], teams := [tT 0], grids := [tK 0], clock := 2 ^ 31 }
def tSaved : Saved := ⟨tT 0, [{ tG 0 i0 with issue := none }], [], [], none, [], [], 0, [], 0, 0⟩
theorem witness_Preemption_suspend : ∀ inside : Bool,
    let s := fun p => sMail (sHe p inside) false 0#6 16#8
    Mail (s tPolder) false (tBox 0#6 16#8) 16 ∧
    (s tPolder).roomToSave 0 (fun _ => true) = false ∧
    (s { tPolder with spillsize := 0x1000000#64 }).roomToSave 0 (fun _ => true) = true ∧
    (s { tPolder with stopping := some 5 }).allStopped 0 (fun _ => true) = !inside ∧
    ((s { tPolder with stopping := some 5 }).polder 0).stopping = some 5 ∧
    5 + 2 ^ 30 ≤ (s { tPolder with stopping := some 5 }).clock ∧
    (sMail (sPo { tPolder with stopping := some 5 }) false 0#6 16#8).clock < 5 + 2 ^ 30 ∧
    (s tUn).polder 0 = tUn := by
  intro i; refine ⟨mail_sMail _ _ _ _, ?_⟩; cases i <;> decide +kernel
/-- The teams' save goes through where nothing is held, and the trust registers stand; a polder whose image's lines are
held waits. -/
theorem witness_Preemption_save :
    (match (sMail (sPo tPolder) false 0#6 16#8).saveCores 0 ((sMail (sPo tPolder) false 0#6 16#8).heldCores 0 fun _ => true) with
      | some (some t) => decide (t.trust = (sMail (sPo tPolder) false 0#6 16#8).trust)
      | _ => false) = true := by decide +kernel
/-- A small team to save: a spill area of no size has no room for it, and one under an exclusive range waits. -/
def sSv (size : DWord) : State := { sMail (sHe { tPolder with stopping := some 5, spillsize := size } false) false 0#6 16#8 with
  groups := [{ tG 0 i0 with issue := none, frames := [⟨0, 2, 0#64, none, false, 0, [], []⟩] }],
  teams := [{ tT 0 with kernel := { probeKernel with scratch := 0, tiles := 0, frame := 2 } }],
  ranges := [⟨0, 2 ^ 20, true, 8, 6, 0⟩] }
theorem witness_Preemption_full : (sSv 0#64).allStopped 0 (fun _ => true) = true ∧
    ((sSv 0#64).saveCores 0 ((sSv 0#64).heldCores 0 fun _ => true)).isNone = true :=
  ⟨by decide +kernel, by decide +kernel⟩
theorem witness_Preemption_saving : (sSv 0x100000#64).allStopped 0 (fun _ => true) = true ∧
    (match (sSv 0x100000#64).saveCores 0 ((sSv 0x100000#64).heldCores 0 fun _ => true) with
      | some none => true
      | _ => false) = true :=
  ⟨by decide +kernel, by decide +kernel⟩
/-- A saved team whose section stands under an exclusive range is not placed. -/
theorem witness_Preemption_resumeWaits : let v := { tSaved with bytes := [0#8] }
    ({ sMail (sPo { tPolder with susp := true, saved := [v] }) true 0#6 17#8 with
      grids := [tK 0], ranges := [⟨0, 2 ^ 20, true, 8, 6, 0⟩] } : State).resumeNext 0 = none := by decide +kernel
theorem witness_Preemption_resume : ∀ vs ∈ [[], [tSaved]],
    let s := { sMail (sPo { tPolder with susp := true, saved := vs }) true 0#6 17#8 with grids := [tK 0] }
    s.mail = some (true, tBox 0#6 17#8) ∧ (s.polder 0).susp = true ∧ (s.polder 0).importing = none ∧ (s.polder 0).saved = vs ∧
    (vs ≠ [] → (s.resumeNext 0).isSome = true) := by
  intro vs h
  simp only [List.mem_cons, List.not_mem_nil, or_false] at h
  rcases h with rfl | rfl
  · exact ⟨rfl, by decide +kernel, by decide +kernel, by decide +kernel, fun h => absurd rfl h⟩
  · exact ⟨rfl, by decide +kernel, by decide +kernel, by decide +kernel, fun _ => by decide +kernel⟩
theorem witness_Preemption_latch :
    let s := { sHe tPolder false with changing := [(0, true)], ops := [], blocks := [] }
    mapGet false s.changing 0 = true ∧ (∀ e ∈ s.pldrs, e.2.shrink = none) ∧ s.ops = [] ∧ s.mergeWaits 0 = false ∧
    (∀ g ∈ s.groups, s.stopped g = true) ∧
    (sHe tPolder true).groups.any (fun g => !(sHe tPolder true).stopped g) = true := by decide +kernel
/-- GROW and SHRINK of cluster and pseudo-channel n, named in the boot window. -/
def sRe (p : Polder) (n : Nat) (op : BitVec 8) : State :=
  sMail { sPo p with mem := tTables ++ tMem (2 ^ 40) [(0, 2 ^ n), (8, 2 ^ n)],
                     phys := [(3, { Phy.reset with ready := true })] } true 0#6 op
theorem witness_Preemption_grow : ∀ n ∈ [0, 3],
    Mail (sRe tPolder n 18#8) true (tBox 0#6 18#8) 18 ∧ ((sRe tPolder n 18#8).polder 0).state = .run ∧
    (match (sRe tPolder n 18#8).paramBytes true 0x10000000000 72 with
      | (s1, some b) => decide (s1.trust = (sRe tPolder n 18#8).trust) && decide (listBlock b = some (2 ^ n, 2 ^ n)) &&
          decide (n = 3 ↔ mapGet 63#6 s1.clown n = 63#6 ∧ mapGet false s1.changing n = false ∧
            mapGet 63#6 s1.pcown n = 63#6 ∧ (s1.phy n).ready = true)
      | _ => false) = true := by
  intro n h
  simp only [List.mem_cons, List.not_mem_nil, or_false] at h
  rcases h with rfl | rfl <;> exact ⟨mail_sMail _ _ _ _, by decide +kernel, by decide +kernel⟩
theorem witness_Preemption_shrink :
    Mail (sRe tPolder 1 19#8) true (tBox 0#6 19#8) 19 ∧ ((sRe tPolder 1 19#8).polder 0).shrink = none ∧
    (match (sRe tPolder 1 19#8).paramBytes true 0x10000000000 72 with
      | (s1, some b) => decide (listBlock b = some (2, 2)) && s1.shrinkOk 0 2 2 && s1.roomToSave 0 (Nat.testBit 2)
      | _ => false) = true :=
  ⟨mail_sMail _ _ _ _, by decide +kernel, by decide +kernel⟩
/-- A SHRINK of cluster 1 and pseudo-channel 1 under way, with a block running on it or not. -/
def sShr (busy : Bool) : State :=
  { sMail (sPo { tPolder with shrink := some (5, 2, 2) }) true 0#6 19#8 with
    clock := 2 ^ 31, blocks := if busy then [{ tBlk .running with rsq := 1 }] else [] }
theorem witness_Preemption_shrinking : ∀ busy : Bool,
    (sShr busy).mail = some (true, tBox 0#6 19#8) ∧ ((sShr busy).polder 0).shrink = some (5, 2, 2) ∧
    (sShr busy).allStopped 0 (Nat.testBit 2) = true ∧
    (sShr busy).busyOn 2 = busy ∧
    (∀ c < 48, Nat.testBit 2 c = true → (sShr busy).mergeWaits c = false) ∧
    (match (sShr busy).saveCores 0 ((sShr busy).heldCores 0 (Nat.testBit 2)) with
      | some (some t) => decide (t.trust = (sShr busy).trust)
      | _ => false) = true ∧ 5 + 2 ^ 30 ≤ (sShr busy).clock := by
  intro b; cases b <;> exact ⟨rfl, by decide +kernel⟩

/-- SLUICE_OPEN of pseudo-channel 1, LOCAL to pseudo-channel 3, or STREAM, in the boot window. -/
def sSl (kind : Nat) : State :=
  sMail { sPo tPolder with
    mem := tTables ++ tMem (2 ^ 40) ([(0, kind)].filter (·.2 != 0) ++ [(4, 1), (9, 1), (13, 1), (49, 2), (53, 1), (0x100, 1)] ++
      [(0x102, 3 - 3 * kind)].filter (·.2 != 0)),
    phys := [(3, { Phy.reset with ready := true })] } true 0#6 20#8
theorem witness_Sluices_open : ∀ kind ∈ [0, 1, 2],
    Mail (sSl kind) true (tBox 0#6 20#8) 20 ∧ ((sSl kind).polder 0).sluice = none ∧ ((sSl kind).polder 0).state = .run ∧
    (match (sSl kind).paramBytes true 0x10000000000 64 with
      | (s1, some b) => decide (s1.trust = (sSl kind).trust) && field b 0 1 == kind && field b 1 3 == 0 && field b 6 2 == 0 &&
          field b 4 2 == 1 && field b 8 8 == 0x10000000100 && field b 16 8 == 0 && field b 48 8 == 0x10000000200
      | _ => false) = true := by
  intro k h
  simp only [List.mem_cons, List.not_mem_nil, or_false] at h
  rcases h with rfl | rfl | rfl <;> exact ⟨mail_sMail _ _ _ _, by decide +kernel, by decide +kernel, by decide +kernel⟩
theorem witness_Sluices_open_pairs : ∀ stream : Bool, let kind := if stream then 1 else 0
    (match (sSl kind).paramBytes true 0x10000000000 64 with
      | (s1, some b) => (match s1.paramBytes true (field b 8 8) 4 with
        | (s2, some l) => decide (s2.trust = (sSl kind).trust) &&
            decide (s2.pairsOf 0 stream l 1 = some [(1, if stream then 0 else 3)]) &&
            (match s2.paramBytes true (field b 48 8) 1040 with
              | (s3, some _) => decide (s3.trust = (sSl kind).trust) && s3.trust.ok
              | _ => false)
        | _ => false)
      | _ => false) = true := by
  intro b; cases b <;> decide +kernel
/-- An open sluice, LOCAL or STREAM, of a polder suspended or not. -/
def tSlu (stream : Bool) : Sluice := ⟨stream, false, [(1, 3)], [0], [], 0, [], 0, 0, 0, 0#32, 0, 0⟩
def sOpn (stream : Bool) (susp : Bool) (busy : Bool) (op : BitVec 8) : State :=
  { sMail (sPo { tPolder with sluice := some (tSlu stream), susp := susp }) false 0#6 op with
    blocks := if busy then [{ tBlk .running with world := 0 }] else [] }
theorem witness_Sluices : ∀ stream susp busy : Bool, ∀ op : BitVec 8, op = 21#8 ∨ op = 22#8 ∨ op = 23#8 →
    (sOpn stream susp busy op).mail = some (false, tBox 0#6 op) ∧
    ((sOpn stream susp busy op).polder 0).sluice = some (tSlu stream) ∧ ((sOpn stream susp busy op).polder 0).susp = susp ∧
    (sOpn stream susp busy op).inFlight 0 = busy ∧ (sOpn stream susp busy op).uatoms = [] ∧
    memWf (sOpn stream susp busy op).mem = true ∧ ((sPo tPolder).polder 0).sluice = none := by
  intro a b c op h
  rcases h with rfl | rfl | rfl <;> cases a <;> cases b <;> cases c <;> exact ⟨rfl, by decide +kernel⟩
/-- What a pass answers and leaves of the trust registers: a LOCAL sluice, and a STREAM whose ring has no place. -/
theorem witness_Sluices_pass : ∀ stream : Bool, let s := sOpn stream true false 21#8
    (match s.pass 0 (tSlu stream) with
      | (s1, v, n, i, none) => i == 0 && decide ((((s1.setPolder 0 { s1.polder 0 with sluice := some v }).paramWrite v.own
          (v.block + 56) (toBytes 8 n)).trust = s.trust))
      | _ => false) = true := by
  intro b; cases b <;> decide +kernel
/-- A dirty row whose line was written with another key: at a pass, and at a close. -/
theorem witness_Sluices_bad : ∀ op : BitVec 8, op = 21#8 ∨ op = 22#8 → let s := { sOpn false true false op with lkeys := [(2 ^ 23, 7)] }
    s.mail = some (false, tBox 0#6 op) ∧ (match (if op = 21#8 then s else s.mergeAll [] 0 none).pass 0 (tSlu false) with
      | (s1, _, _, _, some ln) => ln == 2 ^ 23 && let x := (s1.integrity (ln * 128)).trust
        decide (x.mbox0 = s.trust.mbox0 ∧ x.mbox60 = s.trust.mbox60 ∧ x.order = s.trust.order ∧ x.blocked = s.trust.blocked)
      | _ => false) = true := by
  intro op h; rcases h with rfl | rfl <;> exact ⟨rfl, by decide +kernel⟩
/-- Closing: a STREAM with every row sent and a place in its ring, one without, and a LOCAL one. -/
def tSlc (ringsize : Nat) : Sluice := ⟨true, false, [(1, 0)], [0], [], 2 ^ 20, [], 0, 0, ringsize, 0#32, 2, 0⟩
def sSlc (u : Sluice) : State := sMail (sPo { tPolder with sluice := some u, susp := true }) false 0#6 22#8
theorem witness_Sluices_close : ∀ u ∈ [tSlc 1, tSlc 0, tSlu false], let s := sSlc u
    s.mail = some (false, tBox 0#6 22#8) ∧ (s.polder 0).sluice = some u ∧ (s.polder 0).susp = true ∧ s.inFlight 0 = false ∧
    (match (s.mergeAll ((s.uatoms.map (·.atom)).filter fun a => u.pairs.any fun e => e.1 == a * 32 / 2 ^ 30) 0 none).pass 0 u with
      | (s1, v, n, i, none) => decide ((s1.paramWrite v.own (v.block + 56) (toBytes 8 n)).trust = s.trust) &&
          decide ((v.dirtyRows = 0 ∧ i < v.ringsize ∧ 2 ≤ v.chunk) ↔ u = tSlc 1)
      | _ => false) = true := by
  intro u h
  simp only [List.mem_cons, List.not_mem_nil, or_false] at h
  rcases h with rfl | rfl | rfl <;> exact ⟨rfl, by decide +kernel⟩
theorem witness_Sluices_abort : let p := { tPolder with sluice := some (tSlu false), state := .quarantined }
    (sMail (sPo p) false 0#6 23#8).mail = some (false, tBox 0#6 23#8) ∧ ((sMail (sPo p) false 0#6 23#8).polder 0).sluice ≠ none ∧
    ((sMail (sPo p) false 0#6 23#8).polder 0).state = .quarantined := ⟨rfl, by decide +kernel⟩
theorem witness_Sluices_import : ∀ done failed : Bool, let i : ImportState := ⟨0, 0, failed, done, []⟩
    let s := sMail (sPo { tUn with importing := some i }) false 0#6 25#8
    s.mail = some (false, tBox 0#6 25#8) ∧ (s.polder 0).importing = some i ∧ (s.polder 0).state = .unlocked ∧
    (sMail (sPo tUn) false 0#6 24#8).mail = some (false, tBox 0#6 24#8) ∧ (sMail (sPo tUn) false 0#6 24#8).trust.ok = true ∧
    (sOk false (sMail (sPo tUn) false 0#6 24#8)).trust.ok = false ∧
    (sOk false (sMail (sPo tUn) false 0#6 24#8)).mail = some (false, tBox 0#6 24#8) := by
  intro a b; cases a <;> cases b <;> exact ⟨rfl, by decide +kernel, by decide +kernel, rfl, rfl, rfl, rfl⟩

theorem witness_EveryStepKeepsMemory : Inv State.reset ∧
    (match step { State.reset with moves := [.event (.passageOfTime 1)] } with
      | .next t => t.clock == State.reset.clock + 1
      | _ => false) = true := ⟨rfl, by decide +kernel⟩
theorem witness_DecodeEncode : classOf (.slui 0x13#20 5#5) = some 0 ∧ WellFormed (.slui 0x13#20 5#5) ∧
    classOf (.vfmaF32 7#4 5#7 4#7 10#7 0#1 0#1 0#1 0#1 0#1 0#1 0#3 6#7) = some 1 ∧
    WellFormed (.vfmaF32 7#4 5#7 4#7 10#7 0#1 0#1 0#1 0#1 0#1 0#1 0#3 6#7) ∧
    decode 0 0x00013298#32 none = .ok (.slui 0x13#20 5#5) 1 :=
  ⟨rfl, rfl, rfl, rfl, rfl⟩
/-- A schedule whose next entry is a word of the group, or of the block. -/
def sMv (m : Move) (s : State) : State := { s with moves := [m] }
/-- A clause of class 0 whose one word does not decode; a waiting instruction second in a clause of class 5. -/
def iBad : Issue := tI 0 [0xFFFFFFFF#32]
def iLate : Issue := { tI 5 [0x00013298#32, 0x0310038C#32] with idx := 1 }
theorem witness_StepRunsDecoded :
    (sMv (.word (.group 1)) s0).trust.wiping = false ∧ (sMv (.word (.group 1)) s0).alarms = [] ∧
    (sMv (.word (.group 1)) s0).stops g0 = false ∧ ({ sHe { tPolder with stopping := some 5 } true with moves := [] } : State).stops (tG 0 i0) = true ∧
    (sMv (.word (.group 1)) s0).group 1 = some g0 ∧ g0.held = none ∧ g0.swapped = false ∧ g0.issue = some i0 ∧
    decode 0 0x00013298#32 none = .ok (.slui 0x13#20 5#5) 1 ∧ instrWaits (.slui 0x13#20 5#5) = false ∧
    (match decode iBad.cls iBad.word (iBad.words[iBad.idx + 1]?) with | .illegal _ => true | _ => false) = true ∧
    decode iLate.cls iLate.word (iLate.words[iLate.idx + 1]?) = .ok (.swait 6#5 4#5) 1 ∧
    instrWaits (.swait 6#5 4#5) = true ∧ iLate.idx ≠ 0 ∧
    ({ g0 with issue := none } : Group).issue = none := by decide +kernel
theorem witness_StepRunsDecoded_rows :
    let r := rR 3
    let s := sMv (.word (.block 8)) (sK cK (some { r with words := [0x0000458A#32, 0x0000458A#32, 0x0000458A#32], pos := 1, stop := 2 }))
    (match s.block 8 with
      | some b => (match b.row with
        | some r => decide (r.pos < r.stop) && decide (decode 7 (r.words.getD r.pos 0#32) none = .ok (.baddc 0#2 2#3 1#3 3#3) 1)
        | none => false)
      | none => false) = true := by decide +kernel

/-! ## The checks of the operand fields (02 R71 steps 8 and 9): 5 is RESERVED, 6 is OPERAND -/

theorem test_wf_scalar :
    illFormed (.sadd 0#1 1#1 0#5 4#5 1#5) = some 5 ∧ illFormed (.sadd 0#1 1#1 0#5 3#5 1#5) = none ∧
    illFormed (.scmp 0#1 0#1 0#2 6#4 1#5 2#5 0#2) = some 6 ∧ illFormed (.smovs 1#6 2#5) = some 6 ∧
    illFormed (.smovs 10#6 2#5) = some 6 ∧ illFormed (.smovsWrite 1#1 4#5) = some 5 ∧
    illFormed (.sld 7#3 0#12 1#5 2#5 0#1) = some 6 ∧ illFormed (.cld 0#3 0#12 1#5 2#5 0#1) = some 6 ∧
    illFormed (.tlbinv 0#2 3#2 1#5 2#5) = some 6 ∧ illFormed (.tlbinv 3#2 0#2 1#5 2#5) = some 6 ∧
    illFormed (.cmaint 3#2 1#5 2#5) = some 6 := by decide
theorem test_wf_lane :
    illFormed (.vaddB32 15#4 0#7 0#7 0#7) = some 6 ∧ illFormed (.vaddB64 7#4 1#7 2#7 4#7) = some 6 ∧
    illFormed (.ballot 7#4 1#3 5#7) = some 6 ∧ illFormed (.popc 7#4 3#7 1#3 5#7) = some 6 ∧
    illFormed (.vmovs 7#4 10#6 5#7) = some 6 ∧
    illFormed (.vcmp 7#4 9#7 10#7 2#3 1#3 0#1 0#1 7#3 0#3 2#4) = some 6 ∧
    illFormed (.vcmp 7#4 9#7 10#7 2#3 1#3 0#1 0#1 1#3 4#3 2#4) = some 6 ∧
    illFormed (.vcmp 7#4 9#7 10#7 2#3 1#3 0#1 0#1 1#3 0#3 6#4) = some 6 ∧
    illFormed (.vcmp 7#4 9#7 10#7 2#3 1#3 0#1 0#1 1#3 2#3 2#4) = some 6 ∧
    illFormed (.vfcmp 7#4 9#7 10#7 2#3 1#3 0#1 1#1 1#3 0#3 13#4) = some 5 ∧
    illFormed (.vfcmp 7#4 9#7 10#7 2#3 1#3 0#1 0#1 1#3 0#3 13#4) = some 6 ∧
    illFormed (.vfmaF32 7#4 5#7 4#7 10#7 0#1 0#1 0#1 0#1 0#1 0#1 5#3 6#7) = some 6 ∧
    illFormed (.vfmaF64 7#4 5#7 4#7 10#7 0#1 0#1 0#1 0#3 6#7) = some 6 ∧
    illFormed (.vcvt 7#4 4#7 8#7 9#4 11#4 0#1 0#1 1#3) = some 5 ∧
    illFormed (.vcvt 7#4 4#7 8#7 1#4 1#4 0#1 0#1 0#3) = some 6 ∧
    illFormed (.vmoviB32 7#4 1#7 2#7 0#16 0#2) = some 5 ∧ illFormed (.vmoviB32 7#4 32#7 2#7 0#16 2#2) = some 5 := by
  decide
theorem test_wf_memory :
    illFormed (.ldB64 7#4 0#2 2#5 1#7 5#7 0#1) = some 6 ∧ illFormed (.ldB128 7#4 0#2 2#5 1#7 6#7 0#1) = some 6 ∧
    illFormed (.ldB128 7#4 0#2 2#5 1#7 8#7 0#1) = none ∧ illFormed (.fence 0#2 4#4) = some 6 ∧
    illFormed (.fence 0#2 7#4) = some 6 ∧ illFormed (.fence 0#2 15#4) = none ∧
    illFormed (.atomB32 7#4 0#2 2#5 1#7 4#7 0#1 0#16 11#4 6#7) = some 6 ∧
    illFormed (.atomB64 7#4 0#2 2#5 1#7 4#7 0#1 0#16 10#4 6#7) = some 6 ∧
    illFormed (.upd 7#4 0#2 2#5 1#7 4#7 0#1 0#16 13#4) = some 6 ∧
    illFormed (.upd 7#4 0#2 2#5 1#7 5#7 0#1 0#16 6#4) = some 6 ∧
    illFormed (.upd 7#4 0#2 2#5 1#7 5#7 0#1 0#16 9#4) = none ∧
    illFormed (.relB32 7#4 0#2 2#5 1#7 4#7 0#1 0#16 4#4) = some 6 := by decide
theorem test_wf_matrix :
    illFormed (.tzero 48#6 0#1) = some 6 ∧
    illFormed (.mma 0#1 0#1 1#5 11#5 8#7 2#6 0#1 0#3 0#1 2#4 2#4) = some 5 ∧
    illFormed (.mma 1#1 0#1 8#5 11#5 0#7 2#6 0#1 0#3 0#1 2#4 3#4) = some 6 ∧
    illFormed (.mma 1#1 0#1 8#5 11#5 0#7 3#6 0#1 0#3 1#1 4#4 4#4) = some 6 ∧
    illFormed (.mma 1#1 0#1 8#5 30#5 0#7 2#6 0#1 0#3 1#1 4#4 4#4) = some 6 ∧
    illFormed (.mma 1#1 0#1 8#5 11#5 0#7 2#6 0#1 4#3 1#1 4#4 4#4) = some 6 ∧
    illFormed (.tload 20#5 0#6 0#1 4#4) = some 6 ∧ illFormed (.tload 20#5 1#6 0#1 0#4) = some 6 ∧
    illFormed (.drain 12#5 11#5 10#5 4#6 0#1 0#1 0#3 0#4) = some 6 ∧
    illFormed (.drain 12#5 11#5 10#5 4#6 0#1 0#1 0#3 11#4) = some 6 ∧
    illFormed (.drain 12#5 11#5 10#5 4#6 0#1 0#1 0#3 1#4) = some 5 ∧
    illFormed (.drain 12#5 11#5 10#5 4#6 0#1 0#1 5#3 4#4) = some 6 := by decide
theorem test_wf_engines :
    illFormed (.cpyLd 0#1 0#1 3#2 6#5 4#5 2#5 0#1) = some 6 ∧ illFormed (.cpySt 1#2 6#5 4#5 2#5 0#1) = some 6 ∧
    illFormed (.cpySt 3#2 6#5 4#5 2#5 0#1) = none ∧ illFormed (.bkAdd 0#1 2#2 6#5 5#5 4#5 0#1) = some 6 ∧
    illFormed (.bkScale 0#1 1#2 6#5 5#5 4#5 0#1) = some 6 ∧
    illFormed (.memcall 7#4 0#1 0#1 0#2 0#5 0#5 5#7 0#1) = some 6 ∧ illFormed (.brx 5#7 7#4) = some 6 ∧
    illFormed (.callx 11#7 3#7 7#4) = some 6 ∧ illFormed (.barTeam 4#4) = some 6 ∧ illFormed (.nop 15#4) = some 6 := by
  decide
theorem test_wf_row :
    illFormed (.baddc 3#2 2#3 1#3 3#3) = some 6 ∧ illFormed (.addn 0#13) = some 6 ∧ illFormed (.addn 65#13) = some 6 ∧
    illFormed (.muln 33#13) = some 6 ∧ illFormed (.bloop 0#13 7#3) = some 6 ∧ illFormed (.bloop 8#13 0#3) = some 6 ∧
    illFormed (.rowstep 2048#13 1#1 0#2) = some 6 ∧ illFormed (.rowstep 2048#13 0#1 0#2) = none ∧
    illFormed (.rowDot 0#1 257#10 1#3 2#3) = some 6 ∧ illFormed (.rowDot 1#1 257#10 1#3 2#3) = none := by decide

/-! ## Words written out field by field, in the order of each format from bit 31 down (02 R48 to R62) -/

/-- SR and SI: QB and QA are FN[9] and FN[8]; the clause of 02's worked example; SLUI and SADDI of 08. -/
theorem test_decode_scalar :
    decode 0 (0#10 ++ 3#5 ++ 2#5 ++ 1#5 ++ 0x01#7) none = .ok (.sadd 0#1 0#1 3#5 2#5 1#5) 1 ∧
    decode 0 (0b0000010010#10 ++ 3#5 ++ 2#5 ++ 1#5 ++ 0x0D#7) none = .ok (.scmp 0#1 0#1 1#2 2#4 3#5 2#5 1#2) 1 ∧
    decode 0 (0b0001000100#10 ++ 0#5 ++ 4#5 ++ 0#5 ++ 0x0F#7) none = .illegal 6 ∧
    decode 0 (4#3 ++ 0xFFC#12 ++ 3#5 ++ 2#5 ++ 0x21#7) none = .ok (.sld 4#3 0xFFC#12 3#5 2#5 1#1) 1 ∧
    decode 0 (0x13#20 ++ 5#5 ++ 0x18#7) none = .ok (.slui 0x13#20 5#5) 1 ∧
    decode 0 (0#20 ++ 5#5 ++ 0x00#7) none = .illegal 0 := by decide +kernel
/-- VR and VX: guard, B, A, D; the second word's IMM16, QC, QB, QA, ABS, NEG, SAT, RM and C. -/
theorem test_decode_lane :
    decode 1 (3#4 ++ 15#7 ++ 13#7 ++ 16#7 ++ 0x13#7) none = .ok (.vselB32 3#4 15#7 13#7 16#7) 1 ∧
    decode 1 (7#4 ++ 5#7 ++ 4#7 ++ 10#7 ++ 0x62#7) (some (0#16 ++ 0b011#3 ++ 0b101#3 ++ 1#3 ++ 6#7)) =
      .illegal 5 ∧
    decode 1 (7#4 ++ 1#7 ++ 3#7 ++ 10#7 ++ 0x62#7) (some (0#16 ++ 0b011#3 ++ 0b101#3 ++ 1#3 ++ 6#7)) =
      .ok (.vfmaF32 7#4 1#7 3#7 10#7 0#1 1#1 1#1 1#1 0#1 1#1 1#3 6#7) 2 ∧
    decode 1 (7#4 ++ 5#7 ++ 4#7 ++ 10#7 ++ 0x62#7) none = .illegal 4 ∧
    decode 1 (7#4 ++ 4#7 ++ 8#7 ++ 10#7 ++ 0x63#7) (some (0#16 ++ 0b001#3 ++ 0#6 ++ 6#7)) = .illegal 5 ∧
    decode 1 (7#4 ++ 4#7 ++ 2#7 ++ 10#7 ++ 0x63#7) (some (0#16 ++ 0b001#3 ++ 0#6 ++ 6#7)) = .illegal 6 ∧
    decode 1 (7#4 ++ 4#7 ++ 2#7 ++ 10#7 ++ 0x63#7) (some (0#16 ++ 0#3 ++ 0#6 ++ 6#7)) =
      .ok (.vfmaF64 7#4 4#7 2#7 10#7 0#1 0#1 0#1 0#3 6#7) 2 ∧
    decode 1 (7#4 ++ 9#7 ++ 10#7 ++ 0b0010001#7 ++ 0x60#7) (some 0x402#32) =
      .ok (.vcmp 7#4 9#7 10#7 2#3 1#3 0#1 0#1 1#3 0#3 2#4) 2 ∧
    decode 1 (7#4 ++ 0#7 ++ 4#7 ++ 8#7 ++ 0x68#7) (some (0#8 ++ 4#4 ++ 1#4 ++ 0b0000010#7 ++ 0#2 ++ 0#7)) =
      .ok (.vcvt 7#4 4#7 8#7 4#4 1#4 0#1 1#1 0#3) 2 := by decide +kernel
/-- MA, MX and MF; 07's ATOM.B32.NMAX V3, [S4 + V2*4 + 64], V5 and FENCE.RO.DEVICE. -/
theorem test_decode_memory :
    decode 3 (7#4 ++ 2#2 ++ 4#5 ++ 2#7 ++ 3#7 ++ 0x60#7) (some (64#16 ++ 4#4 ++ 5#7 ++ 0#5)) =
      .ok (.atomB32 7#4 2#2 4#5 2#7 3#7 0#1 64#16 4#4 5#7) 2 ∧
    decode 3 (7#4 ++ 0#2 ++ 6#5 ++ 0#7 ++ 9#7 ++ 0x6A#7) (some (0#16 ++ 2#4 ++ 0#7 ++ 0#5)) =
      .ok (.acqB32 7#4 0#2 6#5 0#7 9#7 0#1 0#16 2#4) 2 ∧
    decode 3 (7#4 ++ 0#2 ++ 6#5 ++ 0#7 ++ 9#7 ++ 0x6A#7) (some (0#16 ++ 2#4 ++ 1#7 ++ 0#5)) = .illegal 5 ∧
    decode 3 0x000010A4#32 none = .ok (.fence 2#2 1#4) 1 := by decide +kernel
/-- MT, MM and MD; the forms of 09. -/
theorem test_decode_matrix :
    decode 2 (1#1 ++ 0#1 ++ 8#5 ++ 11#5 ++ 0#7 ++ 2#6 ++ 0x60#7) (some (0#20 ++ 1#3 ++ 1#1 ++ 4#4 ++ 4#4)) =
      .ok (.mma 1#1 0#1 8#5 11#5 0#7 2#6 0#1 1#3 1#1 4#4 4#4) 2 ∧
    decode 2 0x0A000064#32 (some 1#32) = .ok (.tload 20#5 0#6 0#1 1#4) 2 ∧
    decode 2 0x062D4266#32 (some 4#32) = .ok (.drain 12#5 11#5 10#5 4#6 0#1 0#1 0#3 4#4) 2 := by decide +kernel
/-- CB, CU, CG and CC. -/
theorem test_decode_control :
    decode 5 (0x1FFFF3#21 ++ 7#4 ++ 0x01#7) none = .ok (.br 0x1FFFF3#21 7#4) 1 ∧
    decode 5 (5#22 ++ 1#1 ++ 2#2 ++ 0x02#7) none = .ok (.bru 5#22 1#1 2#2) 1 ∧
    decode 5 (0#7 ++ 11#7 ++ 0#7 ++ 7#4 ++ 0x60#7) (some 0xFFFFFFF0#32) = .ok (.call 11#7 7#4 0xFFFFFFF0#32) 2 ∧
    decode 5 (0#4 ++ 7#5 ++ 5#5 ++ 0#7 ++ 7#4 ++ 0x15#7) none = .ok (.launch 7#5 5#5) 1 := by decide +kernel
/-- AS, AV, the system class, RW. -/
theorem test_decode_others :
    decode 4 (0#10 ++ 6#5 ++ 4#5 ++ 2#5 ++ 0x02#7) none = .ok (.cpyLd 0#1 0#1 0#2 6#5 4#5 2#5 0#1) 1 ∧
    decode 4 0x00000218#32 none = .ok (.collAllred 4#5 0#1) 1 ∧
    decode 6 (2#3 ++ 0#12 ++ 15#5 ++ 7#5 ++ 0x02#7) none = .ok (.cld 2#3 0#12 15#5 7#5 0#1) 1 ∧
    decode 7 (0#13 ++ 1#3 ++ 0#3 ++ 0#3 ++ 1#3 ++ 0x01#7) none = .illegal 5 ∧
    decode 7 0x0080020F#32 none = .ok (.rowstep 16#13 1#1 0#2) 1 ∧
    decode 7 0x00000481#32 none = .ok (.xld 0#13 1#2 1#3) 1 := by decide +kernel

/-! ## Worked values of the spec -/

/-- 16 R352's table: the words of the firmware lock-keeper's listing at 0x10 to 0x48, and its length. -/
theorem test_firmware_loop : firmwareLoop.length = 19 ∧
    [4, 8, 9, 11, 13, 15, 18].map (fun k => firmwareLoop[k]?) =
      [some 0xAFF80005#32, some 0x60805320#32, some 0x0008600D#32, some 0xFFFFEA02#32, some 0x03940395#32,
       some 0x609053A2#32, some 0xFFFF9B81#32] := by decide +kernel

/-- The headers of 02's worked example pass their checks; SIG other than 0xA and N = 0 do not (R70). -/
theorem test_headers : headerDetail 0xA7F80095#32 0 = none ∧ headerDetail 0xA0800032#32 0 = none ∧
    headerDetail 0xB0800032#32 0 = some 1 ∧ headerDetail 0xA0800030#32 0 = some 1 := by decide +kernel
/-- 02 R59: under XLOW the offset 0x184 goes to 0x188. -/
theorem test_permutation : permute 1 0x184 = 0x188 ∧ permute 0 0x184 = 0x184 := by decide
/-- 02 R53: the rows of the table for NORM and UNC. -/
theorem test_conjunctions : conj 0 true true true true = some (true, false) ∧ conj 0 true false true true = some (false, true) ∧
    conj 6 false true true true = some (false, false) ∧ conj 6 true false true true = some (false, true) := by decide
/-- 04's FADD32T example: 2^24 + 1 rounds to 2^24, 2^24 + 2 is exact. -/
theorem test_float_add : add32 0x4B800000 0x3F800000 = 0x4B800000 ∧ add32 0x4B800000 0x40000000 = 0x4B800001 := by
  decide +kernel
/-- 06 R154: N32 2^20 to E4M3 is the canonical NaN without SAT and 448 with it. -/
theorem test_convert : convert 4 12 0 false false 0 (2 ^ 20) = e4m3.nanCode ∧ convert 4 12 0 true false 0 (2 ^ 20) = 0x7E := by
  decide +kernel
/-- 04's requantization example, in both scale modes. -/
theorem test_requant :
    let xs := [f32.decode 0x447A0000, f32.decode 0xC0533333] ++ List.replicate 30 (f32.decode 0)
    requant 4 0 false xs (List.replicate 32 0) = (0x00801DB7, 0x7E :: 0xBC :: List.replicate 30 0) ∧
    requant 4 0 true xs (List.replicate 32 0) = (0x81, 0x78 :: 0xB5 :: List.replicate 30 0) := by decide +kernel

/-- The layout record that a saved copy keeps is read back as it was (09 R230, 21 R450). -/
theorem test_saved_record :
    let y : CopyRec := ⟨2, 3, 4, true, some 32, 0x80#64, 7#32, 3, 5, 1, 2, 3, -4, 9, -8, 77, 77, 8, 1, 2, 3⟩
    copyRec y.bytes = y ∧ y.bytes.length = 64 := by decide +kernel
/-- A trap frame of 8 registers, V3 of lane 1 poisoned, and its group. -/
def fSaved : Frame := ⟨9, 8, 0x44#64, some ⟨true, 3, 4, 7, some (true, 2)⟩, false, 9, [], []⟩
def gSaved : Group :=
  { g0 with frames := [fSaved], lanes := [(1, { Lane.none with chain := [⟨9, [(3, ⟨7#32, true⟩)]⟩] })] }
/-- A saved frame is read back with its count, return address and return point, and the tag and value of a register (21 R450). -/
theorem test_saved_frame :
    ((framesOf 1 (gSaved.frameBytes [9] fSaved)).map fun x => (x.count, x.ret, x.trap, x.below)) =
      [(8, fSaved.ret, fSaved.trap, 0)] ∧
    ((framesOf 1 (gSaved.frameBytes [9] fSaved)).map fun x => (x.lane 1, x.lane 2)) = [([(3, ⟨7#32, true⟩)], [])] :=
  ⟨by decide +kernel, by decide +kernel⟩

/-! ## One step each -/

/-- The group after an instruction, where it answers a next state. -/
def after (i : Instr) (s : State) : Option Group := match exec i s with | .next t => t.group 1 | _ => none
/-- SLUI shifts its field by 12; SADDI adds a signed one; a write to S0 is discarded. -/
theorem test_scalar_step :
    (after (.slui 0x13#20 5#5) s0).map (fun g => (g.sreg 5).val) = some 0x13000#64 ∧
    (after (.saddi 0xFFC#12 3#5 5#5) s0).map (fun g => (g.sreg 5).val) = some 3#64 ∧
    (after (.slui 0x13#20 0#5) s0).map (fun g => (g.sreg 0).val) = some 0#64 := by decide +kernel
/-- VADD wraps, reads before it writes, and leaves a lane whose guard is false alone. -/
theorem test_lane_step :
    (after (.vaddB32 7#4 1#7 1#7 1#7) s0).map (fun g => (((g.lane 0).vreg 1).val, ((g.lane 1).vreg 1).val)) =
      some (10#32, 12#32) ∧
    (after (.vsubB32 0#4 1#7 0#7 2#7) s0).map (fun g => (((g.lane 0).vreg 2).val, ((g.lane 1).vreg 2).val)) =
      some (0xFFFFFFFB#32, 10#32) ∧
    (after (.vsubB32 8#4 1#7 0#7 2#7) s0).map (fun g => (((g.lane 0).vreg 2).val, ((g.lane 1).vreg 2).val)) =
      some (0#32, 0#32) := by decide +kernel

end Sys2Proof.Tests
end

/-!
SUPPORT. Records formed and posted (20 R435 to R437): what the whole path of a record, its translation and its write at the
home among them, may change of the machine.
-/
namespace Sys2Proof.Machine

/-! ## Sparse data -/

/-- Reading after every value is changed, by a change that leaves the unlisted value as it is. -/
theorem mapGet_mapValues {α : Type} (d : α) (m : List (Nat × α)) (f : Nat → α → α) (k : Nat) (h : f k d = d) :
    mapGet d (m.map fun e => (e.1, f e.1 e.2)) k = f k (mapGet d m k) := by
  simpa using mapGet_map d m (fun _ => true) f k (fun _ => h)

/-! ## What a record leaves alone -/

/-- Of a polder only what counts and stores its errors and traffic has changed: counters, meters, a sluice's dirty rows and
the fault buffer. Its state, keys, registers and saved teams stand. -/
def Polder.CountsOnly (p q : Polder) : Prop :=
  q = { p with cecnt := q.cecnt, uecnt := q.uecnt, meters := q.meters, sluice := q.sluice, lost := q.lost,
               wfault := q.wfault, waitrec := q.waitrec, fbhead := q.fbhead, seq := q.seq }

theorem Polder.CountsOnly.trans {p q r : Polder} (h : p.CountsOnly q) (k : q.CountsOnly r) : p.CountsOnly r := by
  unfold Polder.CountsOnly at *
  refine k.trans ?_
  rw [h]
theorem Polder.CountsOnly.state {p q : Polder} (h : p.CountsOnly q) : q.state = p.state := by rw [h]

/-- What a record's path may change: memory and what stands beside it, translation caches, draws, the Trust Controller's
ring, answers to the host, and the polders' counts. Groups, teams, operations and tag tables stand. -/
structure Recorded (s t : State) : Prop where
  rest   : t = { s with mem := t.mem, lines := t.lines, lkeys := t.lkeys, dirty := t.dirty, stamps := t.stamps,
                        uatoms := t.uatoms, vars := t.vars, tlb := t.tlb, pldrs := t.pldrs, trust := t.trust,
                        alarms := t.alarms, fresh := t.fresh, outbox := t.outbox }
  counts : ∀ w, (s.polder w).CountsOnly (t.polder w)

theorem Recorded.refl (s : State) : Recorded s s := ⟨rfl, fun _ => rfl⟩
theorem Recorded.trans {s t u : State} (h : Recorded s t) (k : Recorded t u) : Recorded s u :=
  ⟨k.rest.trans (by rw [h.rest]), fun w => (h.counts w).trans (k.counts w)⟩
theorem Recorded.foldl {α : Type} (l : List α) (f : State → α → State) (hf : ∀ s a, Recorded s (f s a)) (s : State) :
    Recorded s (l.foldl f s) := by
  induction l generalizing s with
  | nil => exact .refl s
  | cons a l ih => exact (hf s a).trans (ih _)
theorem Recorded.ite {s t u : State} {c : Prop} [Decidable c] (h : Recorded s t) (k : Recorded s u) :
    Recorded s (if c then t else u) := by split <;> assumption

theorem Recorded.groups {s t : State} (h : Recorded s t) : t.groups = s.groups := by rw [h.rest]
theorem Recorded.tags {s t : State} (h : Recorded s t) : t.tags = s.tags := by rw [h.rest]
theorem Recorded.state {s t : State} (h : Recorded s t) (w : Nat) : (t.polder w).state = (s.polder w).state :=
  (h.counts w).state

/-- A change of memory and what stands beside it that leaves the polders as they are. -/
theorem recorded_of_memoryOnly {s t : State} (h : MemoryOnly s t) (hp : t.pldrs = s.pldrs) : Recorded s t :=
  ⟨h ▸ rfl, fun w => by rw [State.polder, State.polder, hp]; rfl⟩

/-! ## Counters and lines -/

theorem recorded_setPolder (s : State) (w : Nat) (p : Polder) (h : (s.polder w).CountsOnly p) : Recorded s (s.setPolder w p) := by
  refine ⟨rfl, fun v => ?_⟩
  rw [State.polder_setPolder]
  split
  · next e => rw [e]; exact h
  · rfl
theorem recorded_meter (s : State) (w m n : Nat) : Recorded s (s.meter w m n) := by
  unfold State.meter
  exact .ite (recorded_setPolder _ _ _ rfl) (.refl s)
theorem recorded_countLine (s : State) (ln : Nat) (k : LineKind) : Recorded s (s.countLine ln k) := by
  unfold State.countLine
  refine .ite ?_ (.refl s)
  split
  · exact recorded_setPolder _ _ _ rfl
  · exact recorded_setPolder _ _ _ rfl
  · exact .refl s
theorem recorded_setLine (s : State) (ln : Nat) (l : LineState) : Recorded s (s.setLine ln l) := ⟨rfl, fun _ => rfl⟩
theorem recorded_setStamp (s : State) (a : Nat) (t : Nat × Nat) : Recorded s (s.setStamp a t) := ⟨rfl, fun _ => rfl⟩
theorem recorded_noteWriter (s : State) (l : List Nat) (w : BitVec 16) (c : Option (BitVec 2)) :
    Recorded s (s.noteWriter l w c) := ⟨rfl, fun _ => rfl⟩
theorem recorded_touchRows (s : State) (lns : List Nat) : Recorded s (s.touchRows lns) := by
  refine ⟨rfl, fun w => ?_⟩
  unfold State.touchRows State.polder
  rw [mapGet_mapValues Polder.reset s.pldrs (fun _ p => { p with sluice := p.sluice.map _ }) w rfl]
  rfl
theorem recorded_soil (s : State) (ln : Nat) : Recorded s (s.soil ln) := by
  refine recorded_of_memoryOnly (memoryOnly_soil s ln) ?_
  unfold State.soil
  split
  · rfl
  · split <;> rfl
theorem recorded_encipher (s : State) (ln : Nat) : Recorded s (s.encipher ln) := by
  unfold State.encipher
  refine .ite ⟨rfl, fun _ => rfl⟩ (Recorded.trans ?_ (recorded_touchRows _ [ln]))
  exact ⟨rfl, fun _ => rfl⟩
/-- A line's bytes and check state put, and the line enciphered. -/
theorem recorded_putLine (s : State) (cells : List Host.Cell) (ln : Nat) (l : LineState) :
    Recorded s (({ s with mem := putCells s.mem cells }.setLine ln l).encipher ln) := by
  refine Recorded.trans ?_ (recorded_encipher _ ln)
  exact ⟨rfl, fun _ => rfl⟩
theorem recorded_writeLine (s : State) (ln : Nat) (cells : List Host.Cell) (p : Bool) : Recorded s (s.writeLine ln cells p) := by
  refine (recorded_soil s ln).trans ?_
  unfold State.writeLine
  refine .ite (recorded_putLine _ _ _ _) (.ite ⟨rfl, fun _ => rfl⟩ ?_)
  split
  · exact recorded_countLine _ _ _
  · exact (recorded_countLine _ _ _).trans (recorded_putLine _ _ _ _)

/-! ## Accesses at the home -/

theorem recorded_homeWrite (s : State) (cells : List Host.Cell) (p : List Nat) : Recorded s (s.homeWrite cells p) :=
  .foldl _ _ (fun _ _ => recorded_writeLine _ _ _ _) s
theorem recorded_mergeNoted (s : State) (u : UAtom) (t : Nat) (unit : Option Nat) : Recorded s (s.mergeNoted u t unit) :=
  ((recorded_meter s _ _ _).trans (recorded_setStamp _ _ _)).trans (recorded_noteWriter _ _ _ _)
theorem recorded_mergeAtom (s : State) (a c : Nat) (unit : Option Nat) : Recorded s (s.mergeAtom a c unit) := by
  unfold State.mergeAtom
  split
  · exact .refl s
  · next u _ =>
    have gone : Recorded s { s with uatoms := dropBy (fun v => v.atom == a) s.uatoms } := ⟨rfl, fun _ => rfl⟩
    have noted : ∀ (t : State) (b : Bool) (k : Nat), Recorded s t → Recorded s (if b then t.mergeNoted u k unit else t) :=
      fun t b k h => .ite (h.trans (recorded_mergeNoted _ _ _ _)) h
    refine noted _ _ _ (gone.trans (.ite ?_ (recorded_homeWrite _ _ _)))
    exact (recorded_countLine _ _ _).trans ((recorded_setLine _ _ _).trans (recorded_encipher _ _))
theorem recorded_mergeAll (s : State) (l : List Nat) (c : Nat) (u : Option Nat) : Recorded s (s.mergeAll l c u) :=
  .foldl _ _ (fun _ _ => recorded_mergeAtom _ _ _ _) s
theorem recorded_homeRead (s : State) (pas : List Nat) : Recorded s (s.homeRead pas).1 :=
  .foldl (distinct (pas.map (· / 128))) _ (fun t _ => .ite (.refl t) (recorded_countLine t _ _)) s
theorem recorded_readHome (s : State) (c : Nat) (u : Option Nat) (pas : List Nat) : Recorded s (s.readHome c u pas).1 :=
  (recorded_mergeAll s _ c u).trans (recorded_homeRead _ pas)
theorem recorded_writeHome (s : State) (after c : Nat) (u : Option Nat) (cells : List Host.Cell) (p : List Nat)
    (w : BitVec 16) (sc : Option (BitVec 2)) : Recorded s (s.writeHome after c u cells p w sc) := by
  unfold State.writeHome
  refine (recorded_mergeAll s (atomsOf (cells.map Prod.fst)) c u).trans ?_
  refine (Recorded.foldl (atomsOf (cells.map Prod.fst))
    (fun t a => t.setStamp a (max ((t.stamp a).2 + 1) after, max ((t.stamp a).2 + 1) after))
    (fun _ _ => recorded_setStamp _ _ _) _).trans ?_
  exact (recorded_homeWrite _ cells p).trans (recorded_noteWriter _ _ _ _)
theorem recorded_agentWrite (s : State) (cells : List Host.Cell) (p : List Nat) : Recorded s (s.agentWrite cells p) :=
  (recorded_writeHome s 0 0 none cells p externalWriter (some 3#2)).trans (recorded_touchRows _ _)

/-! ## Translation -/

theorem recorded_entry (s : State) (pa : Nat) : Recorded s (s.entry pa).1 := by
  have h := recorded_readHome s 0 none (addrs pa 16)
  unfold State.entry
  split
  · exact .refl s
  · split
    next t bs bad heq =>
      replace h : Recorded s t := by rw [← State.agentRead, heq] at h; exact h
      split
      · exact h
      · split <;> exact h

theorem recorded_walk2 (w ia : Nat) (l : List (Nat × Nat)) (base : Nat) (s : State) :
    Recorded s (walk2 w ia l base s).1 := by
  induction l generalizing base s with
  | nil => exact .refl s
  | cons e l ih =>
    obtain ⟨lo, n⟩ := e
    have h := recorded_entry s (base + 16 * bitsAt ia lo n)
    unfold walk2
    dsimp only
    split
    · exact .refl s
    · split
      · next heq => rw [heq] at h; exact h
      · next heq => rw [heq] at h; exact h
      · next heq =>
        rw [heq] at h
        split
        · exact h
        · split
          · exact h
          · split
            · exact h
            · exact h.trans (ih _ _)
        · split
          · exact h
          · split
            · exact h
            · split <;> exact h
        · exact h
theorem recorded_stage2 (s : State) (w ia : Nat) : Recorded s (s.stage2 w ia).1 := recorded_walk2 _ _ _ _ s

theorem recorded_walk1 (w va : Nat) (l : List (Nat × Nat)) (base : Nat) (s : State) :
    Recorded s (walk1 w va l base s).1 := by
  induction l generalizing base s with
  | nil => exact .refl s
  | cons e l ih =>
    obtain ⟨lo, n⟩ := e
    have h := recorded_stage2 s w (base + 16 * bitsAt va lo n)
    unfold walk1
    split
    · next s1 t heq =>
      rw [heq] at h
      have h1 := h.trans (recorded_entry s1 t.pa)
      split
      · next heq => rw [heq] at h1; exact h1
      · next heq => rw [heq] at h1; exact h1
      · next heq =>
        rw [heq] at h1
        split
        · exact h1
        · split
          · exact h1
          · split
            · exact h1
            · exact h1.trans (ih _ _)
        · split
          · exact h1
          · split
            · exact h1
            · next a _ =>
              have h2 := h1.trans (recorded_stage2 _ w (a + va % 2 ^ lo))
              split <;> (next heq => rw [heq] at h2; exact h2)
        · split
          · exact h1
          · split <;> exact h1
        · exact h1
    · next heq => rw [heq] at h; exact h

theorem recorded_keep (s : State) (agent w va : Nat) (t : Trans) : Recorded s (s.keep agent w va t) := by
  unfold State.keep
  refine .ite (.ite ?_ (.refl s)) ?_
  · exact ⟨rfl, fun _ => rfl⟩
  · exact ⟨rfl, fun _ => rfl⟩
theorem recorded_draw (s : State) : Recorded s s.draw := ⟨rfl, fun _ => rfl⟩

theorem recorded_translate (s : State) (agent w va need : Nat) (view : Bool) :
    Recorded s (s.translate agent w va need view).1 := by
  unfold State.translate
  split
  · split <;> exact .refl s
  · dsimp only
    split
    · exact recorded_draw s
    · have h : Recorded s (if (s.cached agent w va need).isSome then s.draw else s) := .ite (recorded_draw s) (.refl s)
      generalize (if (s.cached agent w va need).isSome then s.draw else s) = s1 at h ⊢
      replace h := h.trans (recorded_walk1 w va levels (s1.polder w).s1root.toNat s1)
      split
      · next heq =>
        rw [heq] at h
        split
        · exact h.trans (recorded_keep _ _ _ _ _)
        · exact h
      · next heq => rw [heq] at h; split <;> exact h
      · next heq => rw [heq] at h; exact h

/-! ## Records -/

theorem recorded_hostWrite (s : State) (cells : List Host.Cell) : Recorded s (s.hostWrite cells) := ⟨rfl, fun _ => rfl⟩
theorem recorded_alarm (s : State) (ln : Nat) : Recorded s (s.alarm ln) := ⟨rfl, fun _ => rfl⟩
theorem recorded_trust (s : State) (t : Trust) : Recorded s { s with trust := t } := ⟨rfl, fun _ => rfl⟩

theorem recorded_form (s : State) (w : Nat) (r : Record) : Recorded s (s.form w r).1 := by
  unfold State.form
  split
  · refine (recorded_setPolder s w _ ?_).trans (recorded_meter _ _ _ _)
    rfl
  · exact recorded_trust s _

theorem recorded_postPf (s : State) (w : Nat) (r : Record) : Recorded s (s.postPf w r) := by
  unfold State.postPf
  refine .ite (recorded_trust _ _) (.ite (recorded_trust _ _) (.ite (recorded_trust _ _) (.ite (recorded_trust _ _) ?_)))
  exact (recorded_agentWrite _ _ _).trans (recorded_trust _ _)

theorem recorded_loseRecord (s : State) (w : Nat) (f : Bool) : Recorded s (s.loseRecord w f) := recorded_setPolder _ _ _ rfl
theorem recorded_waitRecord (s : State) (w : Nat) (r : Record) : Recorded s (s.waitRecord w r) := recorded_setPolder _ _ _ rfl
/-- FBHEAD past a record that was written. -/
theorem recorded_advance (s : State) (w : Nat) (d : DWord) : Recorded s (s.setPolder w { s.polder w with fbhead := d }) :=
  recorded_setPolder _ _ _ rfl

theorem recorded_postOwn (s : State) (w : Nat) (r : Record) : Recorded s (s.postOwn w r).1 := by
  unfold State.postOwn
  dsimp only
  split
  · exact recorded_loseRecord _ _ _
  · split
    · split
      · exact recorded_waitRecord _ _ _
      · exact recorded_loseRecord _ _ _
    · have h := recorded_translate s deviceAgent w
        ((s.polder w).fbbase.toNat + 64 * ((s.polder w).fbhead.toNat % (s.polder w).fbsize.toNat)) 1 false
      split
      · next heq => rw [heq] at h; exact h.trans (recorded_waitRecord _ _ _)
      · next heq =>
        rw [heq] at h
        split
        · exact h.trans (recorded_waitRecord _ _ _)
        · split
          · exact h.trans ((recorded_hostWrite _ _).trans (recorded_advance _ _ _))
          · split
            · exact h.trans ((Recorded.ite (recorded_alarm _ _) (.refl _)).trans (recorded_loseRecord _ _ _))
            · exact h.trans ((recorded_agentWrite _ _ _).trans (recorded_advance _ _ _))
      · next heq => rw [heq] at h; exact h.trans (recorded_loseRecord _ _ _)

/-- The posting of a record changes only what a record may. -/
theorem recorded_post (s : State) (w : Nat) (r : Record) : Recorded s (s.post w r).1 := by
  unfold State.post
  split
  · exact recorded_postPf _ _ _
  · exact (Recorded.ite (recorded_postPf _ _ _) (.refl s)).trans (recorded_postOwn _ _ _)
theorem recorded_postOnly (s : State) (w : Nat) (r : Record) : Recorded s (s.postOnly w r) := recorded_post s w r

end Sys2Proof.Machine

/-!
PROOFS. The device's own events: power (00 R3), flits and ports (18 R402, R403), errors in stored words (20 R429 to R433), the
passage of time (11 R277) and the arithmetic clock (23 R483).
-/
namespace Sys2Proof.Machine

/-! ## Lists by a test -/

theorem findBy_eq_find? {α : Type} (p : α → Bool) (l : List α) : findBy p l = l.find? p := by
  induction l with
  | nil => rfl
  | cons a l ih => cases h : p a <;> simp [findBy, h, ih]
theorem dropBy_eq_filter {α : Type} (p : α → Bool) (l : List α) : dropBy p l = l.filter fun a => !p a := by
  induction l with
  | nil => rfl
  | cons a l ih => cases h : p a <;> simp [dropBy, h, ih]
/-- Nothing is found that was dropped. -/
theorem findBy_dropBy_same {α : Type} (p : α → Bool) (l : List α) : findBy p (dropBy p l) = none := by
  simp [findBy_eq_find?, dropBy_eq_filter]

/-- What no step of a fold changes, the fold does not change. -/
theorem foldl_keeps {α β σ : Type} (proj : σ → β) (l : List α) (f : σ → α → σ) (hf : ∀ s a, proj (f s a) = proj s)
    (s : σ) :
    proj (l.foldl f s) = proj s := by
  induction l generalizing s with
  | nil => rfl
  | cons a l ih => rw [List.foldl_cons, ih, hf]

/-! ## Ports (18 R401 to R403) -/

@[simp] theorem State.port_setPort (s : State) (k j : Nat) (p : Port) :
    (s.setPort k p).port j = if j = k then p else s.port j := by
  simp [State.port, State.setPort]
@[simp] theorem State.devid_setPort (s : State) (k : Nat) (p : Port) : (s.setPort k p).devid = s.devid := rfl
@[simp] theorem State.comms_setPort (s : State) (k : Nat) (p : Port) : (s.setPort k p).comms = s.comms := rfl
@[simp] theorem State.port_draw (s : State) (j : Nat) : s.draw.port j = s.port j := rfl
@[simp] theorem State.mem_setPort (s : State) (k : Nat) (p : Port) : (s.setPort k p).mem = s.mem := rfl
@[simp] theorem State.port_meter (s : State) (w m n j : Nat) : (s.meter w m n).port j = s.port j := by
  simp [State.port]
@[simp] theorem State.port_loseCseq (s : State) (c : Comm) (q j : Nat) : (s.loseCseq c q).port j = s.port j := rfl
@[simp] theorem State.mem_loseCseq (s : State) (c : Comm) (q : Nat) : (s.loseCseq c q).mem = s.mem := rfl

/-- The loss of a port's collectives changes no byte. -/
@[simp] theorem State.mem_losePort (s : State) (k : Nat) : (s.losePort k).mem = s.mem := by
  refine foldl_keeps State.mem s.ops _ (fun t o => ?_) s
  split
  · rfl
  · split
    · rfl
    · dsimp only; split <;> rfl
@[simp] theorem State.mem_dropPort (s : State) (k : Nat) (st : BitVec 2) : (s.dropPort k st).mem = s.mem := by
  unfold State.dropPort; dsimp only; split <;> simp
/-- A port that is dropped is in the state it was dropped to. -/
theorem State.dropPort_stat (s : State) (k : Nat) (st : BitVec 2) : ((s.dropPort k st).port k).stat = st := by
  simp [State.dropPort]

/-- What a flit's acknowledgement leaves of a port: the window moves where ACK lies in it. -/
theorem Port.acknowledge_fields (p : Port) (ack : Word) :
    (p.acknowledge ack).rxseq = p.rxseq ∧ (p.acknowledge ack).stat = p.stat ∧ (p.acknowledge ack).tagerr = p.tagerr ∧
    (p.acknowledge ack).acked = (if (ack - p.acked).toNat < 512 then ack + 1#32 else p.acked) ∧
    (p.acknowledge ack).tries = if (ack - p.acked).toNat < 512 then 0 else p.tries := by
  unfold Port.acknowledge
  split <;> simp

/-- A flit that a port takes: it is up, and the flit is whole and in order. -/
def State.takesFlit (s : State) (k : Nat) (bytes : List Byte) : Prop :=
  (s.port k).stat = 2#2 ∧ bytes.length = 256 ∧ (flitOf bytes).crc = crc32 (bytes.take 252) ∧
    (flitOf bytes).lseq = (s.port k).rxseq

/-- A payload flit for this device whose tag verifies under no communicator that could receive it. -/
def State.tagFails (s : State) (bytes : List Byte) : Prop :=
  (flitOf bytes).dst = s.devid ∧ (flitOf bytes).ftype = 1#4 ∧
    ∀ c ∈ s.comms, c.lists (flitOf bytes) = true → Config.flitTagOk c.key bytes = false

/-- The port after a flit that it takes, but for the count of failed tags. -/
def State.afterFlit (s : State) (k : Nat) (bytes : List Byte) : Port :=
  { s.port k with rxseq := (s.port k).rxseq + 1#32 }.acknowledge (flitOf bytes).ack

/-- No communicator of a device verifies a flit's tag exactly where each that could receive it refuses it. -/
theorem findBy_flitTag_none (l : List Comm) (f : Flit) (bytes : List Byte) :
    findBy (fun c => c.lists f && Config.flitTagOk c.key bytes) l = none ↔
      ∀ c ∈ l, c.lists f = true → Config.flitTagOk c.key bytes = false := by
  simp [findBy_eq_find?]

/-- A flit out of order, with a bad CRC or at a port that is not up is discarded (18 R402). -/
theorem execFlitReceive_discards {s : State} {k : Nat} {bytes : List Byte} (h : ¬ s.takesFlit k bytes) :
    execFlitReceive k bytes s = .next s := by
  unfold State.takesFlit at h
  unfold execFlitReceive
  dsimp only
  rw [if_pos (by tauto)]

/-- A flit taken: memory stands, the port moves on, and a failed tag is counted (18 R402, R403). -/
theorem execFlitReceive_takes {s : State} {k : Nat} {bytes : List Byte} (h : s.takesFlit k bytes) :
    ∃ t q, execFlitReceive k bytes s = .next t ∧ t.mem = s.mem ∧ t.port k = { s.afterFlit k bytes with tagerr := q } ∧
      (s.tagFails bytes → q = satInc32 (s.port k).tagerr) ∧ (¬ s.tagFails bytes → q = (s.port k).tagerr) := by
  have counted : (s.afterFlit k bytes).tagerr = (s.port k).tagerr := (Port.acknowledge_fields _ _).2.2.1
  unfold execFlitReceive
  dsimp only
  rw [if_neg (by unfold State.takesFlit at h; tauto),
    show Port.acknowledge { s.port k with rxseq := _ } (flitOf bytes).ack = s.afterFlit k bytes from rfl]
  split
  · next away =>
    refine ⟨_, (s.port k).tagerr, rfl, rfl, by simp [← counted], fun fails => ?_, fun _ => rfl⟩
    obtain ⟨hd, ht, _⟩ := fails
    simp [hd, ht] at away
  · next here =>
    obtain ⟨hd, ht⟩ : (flitOf bytes).dst = s.devid ∧ (flitOf bytes).ftype = 1#4 := by simpa using here
    split
    · next c found =>
      refine ⟨_, (s.port k).tagerr, rfl, by simp, by simp [← counted], fun fails => ?_, fun _ => rfl⟩
      obtain ⟨_, _, refused⟩ := fails
      rw [State.comms_setPort, (findBy_flitTag_none _ _ _).2 refused] at found
      simp at found
    · next refused =>
      refine ⟨_, satInc32 (s.port k).tagerr, rfl, ?_, ?_, fun _ => rfl, fun ok => absurd ⟨hd, ht, ?_⟩ ok⟩
      · split <;> simp
      · split <;> simp [counted]
      · exact (findBy_flitTag_none _ _ _).1 refused

/-- A replay of a port that is up counts at most 512 flits and one more try. -/
theorem execFlitReplay_counts {s : State} {k : Nat} (up : (s.port k).stat = 2#2) (h : (s.port k).tries < 16) :
    ∃ t n, execFlitReplay k s = .next t ∧ t.mem = s.mem ∧ 1 ≤ n ∧ n ≤ 512 ∧
      t.port k = { s.port k with replays := BitVec.ofNat 32 (min ((s.port k).replays.toNat + n) (2 ^ 32 - 1)),
                                 tries := (s.port k).tries + 1 } := by
  unfold execFlitReplay
  dsimp only
  rw [if_neg (by simp [up]), if_neg (by omega)]
  exact ⟨_, 1 + Config.freeNat s.fresh % 512, rfl, rfl, by omega, by omega, by simp⟩
/-- The seventeenth replay fails the port. -/
theorem execFlitReplay_fails {s : State} {k : Nat} (up : (s.port k).stat = 2#2) (h : 16 ≤ (s.port k).tries) :
    execFlitReplay k s = .next (s.dropPort k 3#2) := by
  unfold execFlitReplay
  dsimp only
  rw [if_neg (by simp [up]), if_pos h]

/-! ## The passage of time (11 R277) -/

/-- What neither a meter nor a draw changes, the metering of time does not change. -/
theorem meterTime_keeps {β : Type} (proj : State → β) (hm : ∀ s w m n, proj (State.meter s w m n) = proj s)
    (hd : ∀ s, proj (State.draw s) = proj s) (s : State) (cycles : Nat) : proj (s.meterTime cycles) = proj s := by
  unfold State.meterTime
  dsimp only
  rw [foldl_keeps proj _ _ fun t e => foldl_keeps proj _ _ (fun t m => by rw [hd, hm]) t]
  rw [foldl_keeps proj _ _ fun t e => hm _ _ _ _, foldl_keeps proj _ _ fun t c => hm _ _ _ _]

/-- Cycles pass for the clock and for every group's, and change no byte. -/
theorem execPassageOfTime_clocks (s : State) (cycles : Nat) :
    ∃ t, execPassageOfTime cycles s = .next t ∧ t.mem = s.mem ∧ t.clock = s.clock + cycles ∧
      ∀ k, t.group k = (s.group k).map fun g => g.tick cycles := by
  refine ⟨_, rfl, ?_, ?_, fun k => ?_⟩
  · exact meterTime_keeps State.mem (by simp) (by simp) _ _
  · exact meterTime_keeps State.clock (by simp) (by simp) _ _
  · rw [State.group, meterTime_keeps State.groups (by simp) (by simp)]
    simp only [State.group, findBy_eq_find?, List.find?_map]
    rfl

/-! ## Symbols in error (20 R429, R430) -/

@[simp] theorem State.line_setLine (s : State) (ln k : Nat) (l : LineState) :
    (s.setLine ln l).line k = if k = ln then l else s.line k := by
  simp [State.line, State.setLine]

/-- A symbol's error is the sum of all that struck it. -/
theorem mapGet_foldl_xor (l : List (Nat × Byte)) (m : List (Nat × Byte)) (i : Nat) :
    mapGet 0#8 (l.foldl (fun m e => mapSet 0#8 m e.1 (mapGet 0#8 m e.1 ^^^ e.2)) m) i =
      (l.filter fun e => e.1 == i).foldl (fun v e => v ^^^ e.2) (mapGet 0#8 m i) := by
  induction l generalizing m with
  | nil => rfl
  | cons e l ih =>
    rw [List.foldl_cons, ih, mapGet_mapSet]
    by_cases h : i = e.1
    · simp [h]
    · simp [h, Ne.symm h]

/-- Symbols of a line in error: its mark, the other lines and every byte stand. -/
theorem execSymbolsInError_line (s : State) (ln : Nat) (xs : List (Nat × Byte)) :
    ∃ t, execSymbolsInError ln xs s = .next t ∧ t.mem = s.mem ∧ (t.line ln).marked = (s.line ln).marked ∧
      (∀ k, k ≠ ln → t.line k = s.line k) ∧
      ∀ i, mapGet 0#8 (t.line ln).errs i =
        (xs.filter fun e => e.1 == i && e.1 < 144).foldl (fun v e => v ^^^ e.2) (mapGet 0#8 (s.line ln).errs i) := by
  refine ⟨_, rfl, rfl, by simp, fun k hk => by simp [hk], fun i => ?_⟩
  simp only [State.line_setLine, if_true, mapGet_foldl_xor, List.filter_filter]

end Sys2Proof.Machine

/-!
PROOFS. Errors in on-chip storage (20 R433, R441, R443): a word is poisoned at its granule, a group whose control state is lost
ends, and a device error quarantines every polder that runs.
-/
namespace Sys2Proof.Machine

/-! ## The count of a core's uncorrectable words (20 R432) -/

@[simp] theorem State.mem_countCore (s : State) (c : Nat) : (s.countCore c).mem = s.mem := by
  unfold State.countCore; dsimp only; split <;> rfl
@[simp] theorem State.l1_countCore (s : State) (c : Nat) : (s.countCore c).l1 = s.l1 := by
  unfold State.countCore; dsimp only; split <;> rfl
@[simp] theorem State.group_countCore (s : State) (c k : Nat) : (s.countCore c).group k = s.group k := by
  unfold State.countCore; dsimp only; split <;> rfl
@[simp] theorem State.team_countCore (s : State) (c k : Nat) : (s.countCore c).team k = s.team k := by
  unfold State.countCore; dsimp only; split <;> rfl

/-! ## Objects by number -/

/-- A group found after a change of its own is what the change made of it. -/
theorem State.group_of_modGroup {s : State} {gid : Nat} {f : Group → Group} {h : Group} (hf : ∀ g, (f g).gid = g.gid)
    (e : (s.modGroup gid f).group gid = some h) : ∃ g, s.group gid = some g ∧ f g = h := by
  rwa [State.group_modGroup _ _ _ _ hf, if_pos rfl, Option.map_eq_some_iff] at e
/-- A team read after a change of its own, by a change that keeps its number. -/
theorem State.team_modTeam {s : State} {k : Nat} {t : Team} (f : Team → Team) (hf : ∀ t, (f t).key = t.key)
    (h : s.team k = some t) : (s.modTeam k f).team k = some (f t) := by
  have hk : t.key = k := by simpa using findBy_some h
  unfold State.team State.modTeam at *
  rw [findBy_updBy _ _ _ _ (fun a _ => by rw [hf]), h]
  simp [hk]
/-- An atom in U state read after a change of its own. -/
theorem State.uatom_modUatom {s : State} {a : Nat} {u : UAtom} (f : UAtom → UAtom) (hf : ∀ u, (f u).atom = u.atom)
    (h : s.uatom a = some u) : (s.modUatom a f).uatom a = some (f u) := by
  have ha : u.atom = a := by simpa using findBy_some h
  unfold State.uatom State.modUatom at *
  rw [findBy_updBy _ _ _ _ (fun a _ => by rw [hf]), h]
  simp [ha]

/-! ## Words poisoned at their granule (20 R433) -/

/-- Every copy of the L1 line is poisoned, and no other. -/
theorem State.poisonL1_copy {s : State} {c l k : Nat} {x : Copied} (h : mapGet none s.l1 k = some x) :
    mapGet none (s.poisonL1 c l).l1 k =
      some { x with poison := x.poison || (decide (k / copySpan = c) && decide (k % copySpan / 4 = l)) } := by
  unfold State.poisonL1
  rw [mapGet_mapValues none s.l1 (fun key y => if key / copySpan == c && key % copySpan / 4 == l then
    y.map fun (z : Copied) => { z with poison := true } else y) k (by split <;> rfl), h]
  by_cases hc : k / copySpan = c <;> by_cases hl : k % copySpan / 4 = l <;> simp [hc, hl]

theorem Group.poisonReg_gid (g : Group) (l lv r : Nat) : (g.poisonReg l lv r).gid = g.gid := rfl

/-- The frame of a chain that stands at a level, where its frames are told apart by their numbers. -/
theorem findBy_fid_of_level {fs : List LaneFrame} {lv : Nat} {f : LaneFrame} (h : fs[lv]? = some f)
    (hn : (fs.map (·.fid)).Nodup) : findBy (fun x => x.fid == f.fid) fs = some f := by
  induction fs generalizing lv with
  | nil => simp at h
  | cons a fs ih =>
    obtain ⟨ha, hn⟩ := List.nodup_cons.1 hn
    cases lv with
    | zero =>
      obtain rfl : a = f := by simpa using h
      simp [findBy]
    | succ lv =>
      rw [List.getElem?_cons_succ] at h
      have hne : a.fid ≠ f.fid := fun e => ha (List.mem_map.2 ⟨f, List.mem_of_getElem? h, e.symm⟩)
      simpa [findBy, hne] using ih h hn

/-- The register struck keeps its value and takes the tag. -/
theorem Group.poisonReg_register {g : Group} {l lv r : Nat} {f : LaneFrame} (h : (g.lane l).chain[lv]? = some f)
    (hn : ((g.lane l).chain.map (·.fid)).Nodup) :
    (g.poisonReg l lv r).windowReg l f.fid r = ⟨(mapGet ⟨0#32, false⟩ f.regs r).val, true⟩ := by
  have lane : (g.poisonReg l lv r).lane l = (g.lane l).setVAt f.fid r ⟨(mapGet ⟨0#32, false⟩ f.regs r).val, true⟩ := by
    unfold Group.poisonReg
    rw [Group.lane_mapLanes _ _ _ _ fun _ => rfl]
    simp [h]
  unfold Group.windowReg
  rw [lane, Lane.setVAt]
  dsimp only
  rw [findBy_updBy _ _ _ _ (by intros; rfl), findBy_fid_of_level h hn]
  simp [LaneFrame.set]

@[simp] theorem Team.tileState_setTileState (t : Team) (k : Nat) (x : TileState) : (t.setTileState k x).tileState k = x := by
  simp [Team.tileState, Team.setTileState]

/-- A row's bit joins the poison of its tile. -/
theorem getLsbD_or_row (p : BitVec 128) {r : Nat} (h : r < 128) : (p ||| BitVec.ofNat 128 (2 ^ (r % 128))).getLsbD r = true := by
  rw [Nat.mod_eq_of_lt h, BitVec.getLsbD_or, BitVec.getLsbD_ofNat, Nat.testBit_two_pow_self]
  simp [h]

/-! ## The end of a group (20 R441, 08 R199) -/

@[simp] theorem State.reap_groups (s : State) (key : Nat) : (s.reap key).groups = s.groups := by
  unfold State.reap
  dsimp only
  split
  · rfl
  · split
    · rfl
    · split <;> rfl

/-- A group that has ended is gone. -/
theorem State.group_endGroup (s : State) (g : Group) : (s.endGroup g).group g.gid = none := by
  unfold State.endGroup State.group
  have asyncs : ∀ s : State, (g.asyncs.foldl (fun s r =>
      (s.modTeam g.team fun t => { t with error := true }).postOnly g.world r) s).groups = s.groups :=
    foldl_keeps State.groups g.asyncs _ fun _ r => (recorded_postOnly _ g.world r).groups
  dsimp only
  rw [State.reap_groups, asyncs]
  split <;> exact findBy_dropBy_same _ _

/-- A group still there once its frames are released and it is settled has the lanes it had. -/
theorem State.settle_lanes {s : State} {gid : Nat} {h : Group} (e : (s.settle gid).group gid = some h) :
    ∃ g, s.group gid = some g ∧ h.lanes = g.lanes := by
  have released : ∀ h, (s.releaseFrames gid).group gid = some h → ∃ g, s.group gid = some g ∧ h.lanes = g.lanes := by
    intro h e
    unfold State.releaseFrames at e
    obtain ⟨g, hg, rfl⟩ := State.group_of_modGroup (by intro; rfl) e
    exact ⟨g, hg, rfl⟩
  unfold State.settle at e
  dsimp only at e
  split at e
  · next g here =>
    split at e
    · rw [← State.group_gid here, State.group_endGroup] at e
      simp at e
    · exact released h e
  · exact released h e

theorem Lane.exited_none : Lane.none.exited = Lane.none := rfl

/-- Where every lane of a group is made to exit, no lane of it is live. -/
theorem State.exitAll_dead {s : State} {gid : Nat} {seq : BitVec 32} {h : Group} (e : (s.exitAll gid seq).group gid = some h)
    (l : Nat) : (h.lane l).live = false := by
  unfold State.exitAll at e
  split at e
  · next gone => rw [gone] at e; simp at e
  · obtain ⟨g, hg, lanes⟩ := State.settle_lanes e
    obtain ⟨g', _, rfl⟩ := State.group_of_modGroup (by intro; rfl) hg
    have lane : h.lane l = (g'.lane l).exited := by
      rw [Group.lane, lanes]
      exact Group.lane_mapLanes g' (fun _ => true) (fun _ l => l.exited) l fun _ => Lane.exited_none
    simp [lane, Lane.exited, Lane.live]

/-- A group whose control state is lost has no live lane left. -/
theorem State.loseGroup_dead {s : State} {g h : Group} (e : (s.loseGroup g).group g.gid = some h) (l : Nat) :
    (h.lane l).live = false := State.exitAll_dead e l

/-- A tag entry lost reads as empty. -/
theorem State.loseTag_entry (s : State) (c k : Nat) :
    mapGet TagEntry.empty (s.loseTag c k).tags (c * 2048 + k) = TagEntry.empty := by
  have gone : mapGet TagEntry.empty (mapSet TagEntry.empty s.tags (c * 2048 + k) TagEntry.empty) (c * 2048 + k) =
      TagEntry.empty := by simp
  unfold State.loseTag
  dsimp only
  split
  · exact gone
  · rw [((recorded_form _ _ _).trans (recorded_postOnly _ _ _)).tags]
    exact gone

/-! ## Device control state lost (20 R443) -/

/-- A polder that runs quarantined, with its record. -/
def State.quarantineRunning (s : State) (w : Nat) : State :=
  if (s.polder w).state = .run then
    let s := s.setPolder w { s.polder w with state := .quarantined }
    let (s, r) := s.form w { Record.empty with cause := 0x21#8, flags := 0x40#8, origin := 5#32 }
    s.postOnly w r
  else s

theorem State.loseDevice_eq (s : State) : s.loseDevice = (List.range 48).foldl State.quarantineRunning s := rfl

/-- The polder named stops running, and none begins to run. -/
theorem State.quarantineRunning_state (s : State) (w v : Nat) (h : v = w ∨ (s.polder v).state ≠ .run) :
    ((s.quarantineRunning w).polder v).state ≠ .run := by
  unfold State.quarantineRunning
  split
  · dsimp only
    rw [((recorded_form _ _ _).trans (recorded_postOnly _ _ _)).state, State.polder_setPolder]
    split
    · simp
    · next ne => exact h.resolve_left ne
  · next idle =>
    rcases h with rfl | h
    · exact idle
    · exact h

theorem State.foldl_quarantineRunning_state (l : List Nat) (s : State) (v : Nat) (h : v ∈ l ∨ (s.polder v).state ≠ .run) :
    ((l.foldl State.quarantineRunning s).polder v).state ≠ .run := by
  induction l generalizing s with
  | nil => simpa using h
  | cons w l ih =>
    refine ih _ ?_
    rcases h with h | h
    · rcases List.mem_cons.1 h with h | h
      · exact .inr (State.quarantineRunning_state s w v (.inl h))
      · exact .inl h
    · exact .inr (State.quarantineRunning_state s w v (.inr h))

/-! ## ON_CHIP_STORAGE_ERROR, by what it strikes -/

/-- A single-bit error is corrected and counted for its polder (20 R432). -/
theorem execOnChipStorageError_singleBit (s : State) (w : Nat) :
    ∃ t, execOnChipStorageError (.singleBit w) s = .next t ∧ t.mem = s.mem ∧
      (w < 48 → (t.polder w).cecnt = satInc (s.polder w).cecnt) := by
  refine ⟨_, rfl, ?_⟩
  dsimp only
  split
  · exact ⟨rfl, fun _ => by simp⟩
  · next other => exact ⟨rfl, fun h => absurd h other⟩

theorem execOnChipStorageError_l1Word (s : State) (c l : Nat) :
    ∃ t, execOnChipStorageError (.l1Word c l) s = .next t ∧ t.mem = s.mem ∧ ∀ k x, mapGet none s.l1 k = some x →
      mapGet none t.l1 k = some { x with poison := x.poison || (decide (k / copySpan = c) && decide (k % copySpan / 4 = l)) } :=
  ⟨_, rfl, State.mem_countCore _ _, fun k x h => by rw [State.l1_countCore, State.poisonL1_copy h]⟩

theorem execOnChipStorageError_framePool (s : State) (gid l lv r : Nat) :
    ∃ t, execOnChipStorageError (.framePool gid l lv r) s = .next t ∧ t.mem = s.mem ∧ ∀ g f, s.group gid = some g →
      (g.lane l).chain[lv]? = some f → ((g.lane l).chain.map (·.fid)).Nodup →
      ∃ h, t.group gid = some h ∧ h.windowReg l f.fid r = ⟨(mapGet ⟨0#32, false⟩ f.regs r).val, true⟩ := by
  refine ⟨_, rfl, ?_⟩
  dsimp only
  split
  · next g here =>
    refine ⟨State.mem_countCore _ _, fun g' f h hf hn => ⟨g.poisonReg l lv r, ?_, ?_⟩⟩
    · rw [State.group_countCore, State.group_modGroup _ _ _ _ fun g => Group.poisonReg_gid g l lv r, if_pos rfl, here]
      rfl
    · obtain rfl : g = g' := by simpa [here] using h
      exact Group.poisonReg_register hf hn
  · next gone => exact ⟨rfl, fun g f h => by simp [gone] at h⟩

theorem execOnChipStorageError_scratchWord (s : State) (k w : Nat) :
    ∃ t, execOnChipStorageError (.scratchWord k w) s = .next t ∧ t.mem = s.mem ∧ ∀ tm, s.team k = some tm →
      w < tm.kernel.scratch / 4 → ∃ u, t.team k = some u ∧ mapGet false u.spoison w = true ∧ u.scratch = tm.scratch := by
  refine ⟨_, rfl, ?_⟩
  dsimp only
  split
  · next tm here =>
    split
    · refine ⟨State.mem_countCore _ _, fun tm' h _ => ?_⟩
      obtain rfl : tm = tm' := by simpa [here] using h
      exact ⟨_, (State.team_countCore _ _ _).trans (State.team_modTeam _ (fun _ => rfl) here), by simp, rfl⟩
    · next outside =>
      refine ⟨rfl, fun tm' h hw => ?_⟩
      obtain rfl : tm = tm' := by simpa [here] using h
      exact absurd hw outside
  · next gone => exact ⟨rfl, fun tm h => by simp [gone] at h⟩

theorem execOnChipStorageError_tileRow (s : State) (k x r : Nat) :
    ∃ t, execOnChipStorageError (.tileRow k x r) s = .next t ∧ t.mem = s.mem ∧ ∀ tm, s.team k = some tm → r < 128 →
      ∃ u, t.team k = some u ∧ (u.tileState x).poison.getLsbD r = true ∧ u.tiles = tm.tiles := by
  refine ⟨_, rfl, ?_⟩
  dsimp only
  split
  · next tm here =>
    refine ⟨rfl, fun tm' h hr => ?_⟩
    obtain rfl : tm = tm' := by simpa [here] using h
    refine ⟨_, State.team_modTeam _ (fun _ => rfl) here, ?_, rfl⟩
    rw [Team.tileState_setTileState]
    exact getLsbD_or_row _ hr
  · next gone => exact ⟨rfl, fun tm h => by simp [gone] at h⟩

theorem execOnChipStorageError_groupControl (s : State) (gid : Nat) :
    ∃ t, execOnChipStorageError (.groupControl gid) s = .next t ∧
      ∀ h, t.group gid = some h → ∀ l, (h.lane l).live = false := by
  refine ⟨_, rfl, ?_⟩
  dsimp only
  split
  · next g here =>
    obtain rfl := State.group_gid here
    exact fun h => State.loseGroup_dead
  · next gone => exact fun h e => by simp [gone] at e

theorem execOnChipStorageError_tagEntry (s : State) (c k : Nat) :
    ∃ t, execOnChipStorageError (.tagEntry c k) s = .next t ∧
      (c < 192 → k < 2048 → mapGet TagEntry.empty t.tags (c * 2048 + k) = TagEntry.empty) := by
  refine ⟨_, rfl, fun hc hk => ?_⟩
  dsimp only
  rw [if_pos (by simp [hc, hk])]
  exact State.loseTag_entry s c k

theorem execOnChipStorageError_mergePartial (s : State) (c a : Nat) :
    ∃ t, execOnChipStorageError (.mergePartial c a) s = .next t ∧ t.mem = s.mem ∧ ∀ u, s.uatom a = some u →
      ∃ v, t.uatom a = some v ∧ v = { u with bad := u.bad ++ [0] } :=
  ⟨_, rfl, rfl, fun _ h => ⟨_, State.uatom_modUatom _ (fun _ => rfl) h, rfl⟩⟩

theorem execOnChipStorageError_deviceControl (s : State) :
    ∃ t, execOnChipStorageError .deviceControl s = .next t ∧ ∀ w < 48, (t.polder w).state ≠ .run :=
  ⟨s.loseDevice, rfl, fun _ hw => by
    rw [State.loseDevice_eq]
    exact State.foldl_quarantineRunning_state _ _ _ (.inl (List.mem_range.2 hw))⟩

/-! ## The obligation -/

/-- A power-on reset and a power-off keep the fuses and the model's own fields alone (00 R3). -/
theorem exec_power (s : State) {n : Instr} (h : n = .powerOnReset ∨ n = .powerOff) : exec n s = .next s.powered := by
  rcases h with rfl | rfl <;> rfl

/-- Settles O47: each event by the lemma of its own operation. -/
theorem deviceEvents : Obligations.DeviceEvents := by
  unfold Obligations.DeviceEvents
  refine ⟨fun s n hn => ⟨_, exec_power s hn, rfl, rfl⟩,
    fun s k bytes => ⟨execFlitReceive_discards, fun h => ?_, execFlitReplay_counts, fun up h => ?_⟩,
    fun s c cycles => ⟨rfl, rfl, rfl, ?_⟩, execSymbolsInError_line, fun s e => ?_⟩
  · obtain ⟨t, q, ht, hm, hp, fails, ok⟩ := execFlitReceive_takes h
    obtain ⟨rxseq, stat, _, acked, tries⟩ :=
      Port.acknowledge_fields { s.port k with rxseq := (s.port k).rxseq + 1#32 } (flitOf bytes).ack
    refine ⟨t, _, ht, hm, hp, rxseq, stat, ?_, acked, tries⟩
    split
    · next bad => exact fails bad
    · next good => exact ok good
  · exact ⟨_, execFlitReplay_fails up h, State.mem_dropPort _ _ _, State.dropPort_stat _ _ _⟩
  · obtain ⟨t, ht, hm, hc, hg⟩ := execPassageOfTime_clocks s cycles
    exact ⟨t, ht, hm, hc, fun k g h => by rw [hg, h]; rfl⟩
  · cases e with
    | singleBit w => exact execOnChipStorageError_singleBit s w
    | l1Word c l => exact execOnChipStorageError_l1Word s c l
    | framePool gid l lv r =>
      obtain ⟨t, ht, hm, hr⟩ := execOnChipStorageError_framePool s gid l lv r
      exact ⟨t, ht, hm, fun g f hg _ => hr g f hg⟩
    | scratchWord k w => exact execOnChipStorageError_scratchWord s k w
    | tileRow k x r => exact execOnChipStorageError_tileRow s k x r
    | groupControl gid => exact execOnChipStorageError_groupControl s gid
    | tagEntry c k => exact execOnChipStorageError_tagEntry s c k
    | mergePartial c a => exact execOnChipStorageError_mergePartial s c a
    | deviceControl => exact execOnChipStorageError_deviceControl s

end Sys2Proof.Machine

/-!
SUPPORT. Lane words (06 R134 to R137): what a write of lane registers does to a group, what a lane word does once its checks
are passed and its queue sources popped, and the draws of a word that rounds.
-/
namespace Sys2Proof.Machine

/-! ## Lane registers written -/

/-- A register write of a lane reaches the current frame's registers and nothing else of it. -/
structure Lane.RegsOnly (n m : Lane) : Prop where
  below : m.chain.drop 1 = n.chain.drop 1
  fid   : m.fid = n.fid
  rest  : m = { n with chain := m.chain }

theorem Lane.RegsOnly.refl (n : Lane) : n.RegsOnly n := ⟨rfl, rfl, rfl⟩
theorem Lane.RegsOnly.trans {a b c : Lane} (h : a.RegsOnly b) (k : b.RegsOnly c) : a.RegsOnly c :=
  ⟨k.below.trans h.below, k.fid.trans h.fid, by rw [k.rest, h.rest]⟩

theorem Lane.setV_regsOnly (n : Lane) (r : Nat) (v : Reg) : n.RegsOnly (n.setV r v) := by
  refine ⟨?_, ?_, rfl⟩ <;> simp only [Lane.setV, Lane.fid] <;> cases n.chain <;> rfl
theorem Lane.setVs_regsOnly (n : Lane) (ws : List (Nat × Reg)) : n.RegsOnly (n.setVs ws) := by
  induction ws generalizing n with
  | nil => exact .refl n
  | cons w ws ih => exact (n.setV_regsOnly w.1 w.2).trans (ih _)

@[simp] theorem Lane.none_setVs (ws : List (Nat × Reg)) : Lane.none.setVs ws = Lane.none := by
  induction ws with
  | nil => rfl
  | cons w ws ih => exact ih

theorem Lane.setV_chain_ne {n : Lane} (h : n.chain ≠ []) (r : Nat) (v : Reg) : (n.setV r v).chain ≠ [] := by
  simp only [Lane.setV]
  cases hc : n.chain with
  | nil => exact absurd hc h
  | cons f fs => simp
theorem Lane.vreg_setV {n : Lane} (h : n.chain ≠ []) (r j : Nat) (v : Reg) :
    (n.setV r v).vreg j = if j = r then v else n.vreg j := by
  simp only [Lane.setV, Lane.vreg]
  cases hc : n.chain with
  | nil => exact absurd hc h
  | cons f fs => simp [LaneFrame.set]
/-- A lane that has a frame reads, of the registers written, what was written. -/
theorem Lane.vreg_setVs {n : Lane} (h : n.chain ≠ []) (ds : List Nat) (f : Nat → Reg) (j : Nat) :
    (n.setVs (ds.map fun r => (r, f r))).vreg j = if ds.contains j then f j else n.vreg j := by
  induction ds generalizing n with
  | nil => rfl
  | cons d ds ih =>
    have := ih (Lane.setV_chain_ne h d (f d))
    rw [Lane.vreg_setV h] at this
    simp only [List.map_cons, Lane.setVs, List.foldl_cons, List.contains_cons] at this ⊢
    rw [this]
    by_cases hj : j = d <;> simp [hj]

/-! ## A word's writes in its group -/

/-- The writes that give registers `ds` of lanes `ls` the values of `f`. -/
def lanesWrite (ls ds : List Nat) (f : Nat → Nat → Reg) : Writes := ls.map fun l => (l, ds.map fun r => (r, f l r))

theorem findBy_lanesWrite (ls ds : List Nat) (f : Nat → Nat → Reg) (l : Nat) :
    findBy (fun w => w.1 == l) (lanesWrite ls ds f) =
      if ls.contains l then some (l, ds.map fun r => (r, f l r)) else none := by
  induction ls with
  | nil => rfl
  | cons k ls ih =>
    simp only [lanesWrite, List.map_cons, findBy, List.contains_cons] at ih ⊢
    by_cases hk : k = l
    · simp [hk]
    · simp [hk, ih, Ne.symm hk]

theorem Group.lane_stick (g : Group) (b : Word) (c : Bool) (l : Nat) : (g.stick b c).lane l = g.lane l := rfl

/-- A lane after the writes. -/
theorem Group.lane_writeV (g : Group) (ls ds : List Nat) (f : Nat → Nat → Reg) (l : Nat) :
    (g.writeV (lanesWrite ls ds f)).lane l =
      if ls.contains l then (g.lane l).setVs (ds.map fun r => (r, f l r)) else g.lane l := by
  rw [Group.writeV, Group.lane_stick, Group.lane_mapLanes _ _ _ _ fun _ => Lane.none_setVs _, findBy_lanesWrite]
  by_cases h : l ∈ ls <;> simp [lanesWrite, h]

/-- The writes of a word give its registers their values in its lanes and leave the rest of the group (06 R134, R136). -/
theorem Group.writeV_frame (g : Group) (ls ds : List Nat) (f : Nat → Nat → Reg)
    (hc : ∀ l ∈ ls, ∀ r ∈ ds, (g.lane l).chain ≠ []) :
    LaneFrameOf g (g.writeV (lanesWrite ls ds f)) ls ds f := by
  have regs : ∀ l, (g.lane l).RegsOnly ((g.writeV (lanesWrite ls ds f)).lane l) := fun l => by
    rw [Group.lane_writeV]
    split
    · exact Lane.setVs_regsOnly _ _
    · exact .refl _
  refine ⟨fun l r => ?_, ?_, fun l => ⟨(regs l).below, (regs l).fid⟩, fun l => ?_, rfl⟩
  · rw [Group.lane_writeV]
    by_cases hl : l ∈ ls
    · cases ds with
      | nil => simp [Lane.setVs]
      | cons d ds => rw [if_pos (by simpa using hl), Lane.vreg_setVs (hc l hl d (by simp))]; simp [hl]
    · simp [hl]
  · show (if (lanesWrite ls ds f).poisoned then _ else _) = _
    simp [lanesWrite, Writes.poisoned, List.any_map, Function.comp_def]
  · rw [(regs l).rest]

/-- Retiring changes of a group only where its lanes stand, its clause and what it has popped. -/
theorem Group.retire_rest (g : Group) (n : Nat) :
    g.retire n = { g with lanes := (g.retire n).lanes, issue := (g.retire n).issue, popped := (g.retire n).popped } := by
  unfold Group.retire
  split
  · rfl
  · split
    · rfl
    · split <;> rfl

/-- A lane frame stands when the word retires. -/
theorem LaneFrameOf.retire {g h : Group} {ls ds : List Nat} {f : Nat → Nat → Reg} (k : LaneFrameOf g h ls ds f) (n : Nat) :
    LaneFrameOf g (h.retire n) ls ds f := by
  have pc : ∀ l, (h.retire n).lane l = { h.lane l with pcv := ((h.retire n).lane l).pcv } := h.retire_lane n
  refine ⟨fun l r => ?_, ?_, fun l => ?_, fun l => ?_, ?_⟩
  · rw [pc, ← k.written l r]; rfl
  · rw [Group.retire_gstat, k.status]
  · rw [pc, ← (k.below l).1, ← (k.below l).2]; exact ⟨rfl, rfl⟩
  · rw [pc, k.lanes l]
  · rw [Group.retire_rest, k.rest]

/-! ## The rest of the machine -/

theorem Elsewhere.trans {s t u : State} {g : Group} (h : Elsewhere s t g) (k : Elsewhere t u g) : Elsewhere s u g := by
  refine ⟨fun a => (k.bytes a).trans (h.bytes a), fun j hj => (k.others j hj).trans (h.others j hj), fun w => ?_, ?_⟩
  · obtain ⟨m, hm, hw⟩ := h.polder w
    obtain ⟨n, hn, kw⟩ := k.polder w
    exact ⟨n, by rw [hn, hm], fun hne => (kw hne).trans (hw hne)⟩
  · rw [k.rest, h.rest]

theorem elsewhere_modGroup (s : State) (g : Group) (f : Group → Group) (hf : ∀ h, (f h).gid = h.gid) :
    Elsewhere s (s.modGroup g.gid f) g :=
  ⟨fun _ => rfl, fun k hk => by simp [State.group_modGroup _ _ _ _ hf, hk], fun _ => ⟨_, rfl, fun _ => rfl⟩, rfl⟩
theorem elsewhere_meter (s : State) (g : Group) (m n : Nat) : Elsewhere s (s.meter g.world m n) g := by
  refine ⟨fun a => by simp, fun k _ => by simp, fun w => ?_, by unfold State.meter; split <;> rfl⟩
  obtain ⟨x, hx, hw⟩ := s.polder_meter g.world m n w
  exact ⟨x, hx, hw⟩
theorem elsewhere_wordDone (s : State) (g : Group) (i : Issue) : Elsewhere s (s.wordDone g i) g := by
  have retires := fun t : State => elsewhere_modGroup t g (fun h => h.retire i.len) fun h => h.retire_gid _
  unfold State.wordDone State.meterScalar
  split
  · exact (elsewhere_meter s g 8 1).trans (retires _)
  · exact retires _

/-- A word done in `s`: its group retires it. -/
theorem State.group_wordDone {s : State} {g h : Group} (i : Issue) (hg : s.group g.gid = some h) :
    (s.wordDone g i).group g.gid = some (h.retire i.len) := by
  unfold State.wordDone State.meterScalar
  rw [State.group_modGroup _ _ _ _ fun h => h.retire_gid _, if_pos rfl]
  split <;> simp [hg]

/-- Where a lane word leads that changes its group by `f` and counts `n` on meter `m` of its polder. -/
def State.laneEffect (s : State) (g : Group) (i : Issue) (m n : Nat) (f : Group → Group) : State :=
  ((s.modGroup g.gid f).meter g.world m n).wordDone g i

theorem laneEffect_elsewhere (s : State) (g : Group) (i : Issue) (m n : Nat) (f : Group → Group)
    (hf : ∀ h, (f h).gid = h.gid) : Elsewhere s (s.laneEffect g i m n f) g :=
  ((elsewhere_modGroup s g f hf).trans (elsewhere_meter _ g m n)).trans (elsewhere_wordDone _ g i)
theorem laneEffect_group {s : State} {g h : Group} (i : Issue) (m n : Nat) (f : Group → Group)
    (hf : ∀ h, (f h).gid = h.gid) (hg : s.group g.gid = some h) :
    (s.laneEffect g i m n f).group g.gid = some ((f h).retire i.len) :=
  State.group_wordDone i (by simp [State.group_modGroup _ _ _ _ hf, hg])

/-! ## The checks of a lane word and its queue sources -/

/-- What the pops of queue sources change of the word's group: its clock, and the entries popped (05 R124). -/
def PoppedOnly (g h : Group) : Prop := h = { g with lclock := h.lclock, popped := h.popped }

/-- A group from whose queue an entry has been popped. -/
def Group.takes (e : QEntry) (g : Group) : Group := { g.raise e.clock with popped := g.popped ++ [e] }

/-- A pop that finds an entry takes it from its queue and gives it to the group. -/
theorem State.pop_entry {s t : State} {g : Group} {k : Nat} {scalar : Bool} {e : QEntry}
    (hp : s.pop g k scalar = .entry t e) : ∃ gang obj f, t = (s.modQueue gang obj f).modGroup g.gid (Group.takes e) := by
  unfold State.pop at hp
  split at hp
  · exact nomatch hp
  split at hp
  · exact nomatch hp
  next q _ =>
  split at hp
  · exact nomatch hp
  split at hp
  · exact nomatch hp
  split at hp
  · injection hp with ht he
    subst he
    exact ⟨_, _, _, ht.symm⟩
  · generalize q.producer = x at hp
    generalize (s.groups.any fun h => h.gid != g.gid && s.gangOf h == q.gang) = c at hp
    clear * - hp
    cases x <;> cases c <;> exact nomatch hp
theorem State.pop_group {s t : State} {g h : Group} {k : Nat} {scalar : Bool} {e : QEntry}
    (hp : s.pop g k scalar = .entry t e) (ht : t.group g.gid = some h) :
    ∃ x, s.group g.gid = some x ∧ PoppedOnly x h := by
  obtain ⟨gang, obj, f, rfl⟩ := State.pop_entry hp
  rw [State.group_modGroup _ _ _ (Group.takes e) fun _ => rfl, if_pos rfl, Option.map_eq_some_iff] at ht
  obtain ⟨x, hx, rfl⟩ := ht
  exact ⟨x, hx, rfl⟩

/-- Queue sources that are all read leave their group as it was but for what pops change. -/
theorem takeQueues_group {i : Issue} {scalar : Bool} {g h : Group} {t : State} (qs : List Nat) (ps : List QEntry) (s : State)
    (k : State → List QEntry → Res) (hk : ∀ u l, k u l = .done t → u = t)
    (hq : takeQueues i scalar qs ps s g k = .done t) (ht : t.group g.gid = some h) :
    ∃ x, s.group g.gid = some x ∧ PoppedOnly x h := by
  induction qs generalizing ps s k with
  | nil => rw [hk s [] (by simpa [takeQueues] using hq)]; exact ⟨h, ht, rfl⟩
  | cons q qs ih =>
    cases ps with
    | cons e ps => exact ih ps s _ (fun u l => hk u (e :: l)) hq
    | nil =>
      simp only [takeQueues] at hq
      split at hq
      · cases hq
      · split at hq
        next u e hp =>
          obtain ⟨x, hx, hxh⟩ := ih [] u _ (fun u l => hk u (e :: l)) hq
          obtain ⟨y, hy, hyx⟩ := State.pop_group hp hx
          exact ⟨y, hy, by rw [PoppedOnly, hxh, hyx]⟩
        all_goals cases hq

theorem Pops.poppedOnly {s s' : State} {g g' : Group} {i : Issue} {scalar : Bool} {qs : List Nat} {es : List QEntry}
    (hp : Pops s g i scalar qs s' es) (hs : s.group g.gid = some g) (hg : s'.group g.gid = some g') : PoppedOnly g g' := by
  obtain ⟨x, hx, hxg⟩ := takeQueues_group qs g.popped s (fun u _ => .done u) (fun u _ h => by cases h; rfl) (hp _) hg
  cases hs.symm.trans hx
  exact hxg

theorem PoppedOnly.lane {g h : Group} (k : PoppedOnly g h) (l : Nat) : h.lane l = g.lane l := by rw [k]; rfl

/-- Registers that are in bounds in the lanes of a word. -/
theorem boundCond_none {g : Group} {ls rs : List Nat} (h : boundCond g ls rs = none) :
    ∀ l ∈ ls, ∀ r ∈ rs, r < g.declared l := by
  intro l hl r hr
  by_contra hn
  have mem : l ∈ ls.filter fun l => rs.any fun r => decide (g.declared l ≤ r) :=
    List.mem_filter.mpr ⟨hl, List.any_eq_true.mpr ⟨r, hr, by simpa using hn⟩⟩
  simp only [boundCond] at h
  split at h
  · next he => rw [he] at mem; cases mem
  · cases h
/-- A lane with a register in bounds has a frame. -/
theorem Group.chain_ne_of_declared {g : Group} {l r : Nat} (h : r < g.declared l) : (g.lane l).chain ≠ [] := by
  intro hc
  simp [Group.declared, hc] at h

/-- A lane word that may run, its queue sources popped, goes on to its effect. -/
theorem laneOp_runs {s s' : State} {g : Group} {i : Issue} {ls regs ss qs : List Nat} {es : List QEntry}
    (hr : LaneReady s g i ls regs ss) (hp : Pops s g i false qs s' es) (k : State → List QEntry → Res) :
    laneOp s g i ls regs ss qs k = k s' es := by
  rw [laneOp, hr.ready, hr.bound, hp]
  rfl

/-- The lanes of a word that may run have a frame in the group that its pops left. -/
theorem LaneReady.chain_ne {s s' : State} {g g' : Group} {i : Issue} {ls regs ss qs : List Nat} {es : List QEntry}
    (hr : LaneReady s g i ls regs ss) (hp : Pops s g i false qs s' es) (hg : s'.group g.gid = some g') {ds : List Nat}
    (hd : ∀ r ∈ ds, r ∈ regs) : ∀ l ∈ ls, ∀ r ∈ ds, (g'.lane l).chain ≠ [] := fun l hl r hr' => by
  rw [(hp.poppedOnly hr.word.here hg).lane]
  exact Group.chain_ne_of_declared (boundCond_none hr.bound l hl r (hd r hr'))

/-- A word whose effect on its group is a write of lane registers. -/
theorem laneWrites_of_effect {s s' : State} {g g' : Group} {i : Issue} {n : Instr} {ls ds : List Nat} {f : Nat → Nat → Reg}
    {m c : Nat} (he : exec n s = .next (s'.laneEffect g i m c fun h => h.writeV (lanesWrite ls ds f)))
    (hg : s'.group g.gid = some g') (hc : ∀ l ∈ ls, ∀ r ∈ ds, (g'.lane l).chain ≠ []) : LaneWrites s s' g g' n ls ds f :=
  ⟨_, _, he, laneEffect_group i m c _ (fun _ => rfl) hg, (g'.writeV_frame ls ds f hc).retire _,
    laneEffect_elsewhere s' g i m c _ fun _ => rfl⟩

/-- A lane word that gives each contributing lane's registers `dst` the values of `F` (06 R134, R137). -/
theorem laneWrite_writes {s s' : State} {g g' : Group} {i : Issue} {n : Instr} {gd : BitVec 4} {srcs : List VSrc}
    {dst sregs : List Nat} {m wt : Nat} {f : Group → Issue → Nat → List Reg → List (Nat × Reg)} {F : Nat → Nat → Reg}
    {es : List QEntry} (he : exec n s = laneWrite s gd srcs dst sregs m wt f)
    (hr : LaneReady s g i (g.contributing i gd) (vsrcRegs srcs ++ dst) sregs)
    (hp : Pops s g i false (vsrcQueues srcs) s' es) (hg : s'.group g.gid = some g')
    (hF : ∀ l ∈ g.contributing i gd, f g i l (vsrcVals (g.lane l) l srcs es) = dst.map fun r => (r, F l r)) :
    LaneWrites s s' g g' n (g.contributing i gd) dst F := by
  refine laneWrites_of_effect (m := m) (c := wt * (g.contributing i gd).length) (i := i) ?_ hg
    (hr.chain_ne hp hg fun r hd => List.mem_append_right _ hd)
  have writes : ((g.contributing i gd).map fun l => (l, f g i l (vsrcVals (g.lane l) l srcs es))) =
      lanesWrite (g.contributing i gd) dst F := List.map_congr_left fun l hl => by rw [hF l hl]
  rw [he, laneWrite, onGroup_at hr.word, laneResult, laneOp_runs hr hp, finish_done _ _ _ _ rfl, writes]
  rfl

/-! ## Lane words without queue sources -/

section plain
variable {s : State} {g : Group} {i : Issue} {n : Instr} {gd : BitVec 4}

/-- A lane word of V sources alone that gives each contributing lane's registers `dst` the values of `F`. -/
theorem laneWrite_plain {srcs : List VSrc} {dst sregs : List Nat} {m wt : Nat}
    {f : Group → Issue → Nat → List Reg → List (Nat × Reg)} {F : Nat → Nat → Reg}
    (he : exec n s = laneWrite s gd srcs dst sregs m wt f) (hq : vsrcQueues srcs = [])
    (hr : LaneReady s g i (g.contributing i gd) (vsrcRegs srcs ++ dst) sregs)
    (hF : ∀ l ∈ g.contributing i gd, f g i l (vsrcVals (g.lane l) l srcs []) = dst.map fun r => (r, F l r)) :
    LaneWrites s s g g n (g.contributing i gd) dst F :=
  laneWrite_writes he hr (fun _ => by rw [hq]; rfl) hr.word.here hF

/-- A word of one source register (06 R139, R151). -/
theorem laneUn_writes {a d : BitVec 7} {op : Word → Word} (he : exec n s = laneUn s gd a d op)
    (hr : LaneReady s g i (g.contributing i gd) [a.toNat, d.toNat] []) :
    LaneWrites s s g g n (g.contributing i gd) [d.toNat] fun l _ => ⟨op (vAt g a l), tagAt g [a.toNat] l⟩ :=
  laneWrite_plain he rfl hr fun _ _ => rfl

/-- A word of two source registers (06 R139, R148). -/
theorem laneBin_writes {a b d : BitVec 7} {wt : Nat} {op : Word → Word → Word} (he : exec n s = laneBin s gd b a d wt op)
    (hr : LaneReady s g i (g.contributing i gd) [a.toNat, b.toNat, d.toNat] []) :
    LaneWrites s s g g n (g.contributing i gd) [d.toNat] fun l _ =>
      ⟨op (vAt g a l) (vAt g b l), tagAt g [a.toNat, b.toNat] l⟩ :=
  laneWrite_plain he rfl hr fun _ _ => rfl

/-- The two registers of a pair (01 R18). -/
theorem pairRegs_eq (d : Nat) (v : DWord) (p : Bool) :
    pairRegs d v p = [d, d + 1].map fun r => (r, ⟨(v >>> (32 * (r - d))).setWidth 32, p⟩) := by
  simp [pairRegs]

/-- A word on pairs of registers (06 R139, R148). -/
theorem lane64_writes {a b d : BitVec 7} {m : Nat} {op : DWord → DWord → DWord} (he : exec n s = lane64 s gd b a d m op)
    (hr : LaneReady s g i (g.contributing i gd)
      ([a.toNat, a.toNat + 1, b.toNat, b.toNat + 1] ++ [d.toNat, d.toNat + 1]) []) :
    LaneWrites s s g g n (g.contributing i gd) [d.toNat, d.toNat + 1] fun l k =>
      ⟨(op (pairOf g a l) (pairOf g b l) >>> (32 * (k - d.toNat))).setWidth 32,
        tagAt g [a.toNat, a.toNat + 1, b.toNat, b.toNat + 1] l⟩ :=
  laneWrite_plain he rfl hr fun _ _ => pairRegs_eq _ _ _

/-- A word of two source registers of 16-bit elements under FTZ16 (04 R87, 06 R148). -/
theorem laneX2_writes {a b d : BitVec 7} {op : Bool → Nat → Nat → Nat} (he : exec n s = laneX2 s gd b a d op)
    (hr : LaneReady s g i (g.contributing i gd) [a.toNat, b.toNat, d.toNat] []) :
    LaneWrites s s g g n (g.contributing i gd) [d.toNat] fun l _ =>
      ⟨asX2 (op (ftzOf g)) (vAt g a l) (vAt g b l), tagAt g [a.toNat, b.toNat] l⟩ :=
  laneWrite_plain he rfl hr fun _ _ => rfl

end plain

/-! ## Rounding lane words and their draws (04 R94, R95) -/

/-- Two changes of lanes that do not meddle with each other may be made in either order. -/
theorem Group.mapLanes_comm (g : Group) (p q : Nat → Bool) (f k : Nat → Lane → Lane) (h : ∀ l x, f l (k l x) = k l (f l x)) :
    (g.mapLanes p f).mapLanes q k = (g.mapLanes q k).mapLanes p f := by
  simp only [Group.mapLanes, List.map_map]
  congr 1
  refine List.map_congr_left fun e _ => ?_
  simp only [Function.comp_apply]
  split <;> split <;> simp_all

/-- A change of lanes that does not meddle with where they stand may be made before or after the word retires. -/
theorem Group.mapLanes_retire (g : Group) (p : Nat → Bool) (f : Nat → Lane → Lane) (k : Nat)
    (hf : ∀ l x pc, f l { x with pcv := pc } = { f l x with pcv := pc }) :
    (g.mapLanes p f).retire k = (g.retire k).mapLanes p f := by
  unfold Group.retire
  rw [Group.mapLanes_issue]
  split
  · rfl
  · next i _ =>
    split
    · rfl
    · split
      · exact congrArg (fun h : Group => { h with issue := none, popped := [] })
          (Group.mapLanes_comm g p i.lanes.getLsbD f _ fun l x => hf l x i.after)
      · rfl

/-- The draws advance before or after the word retires. -/
theorem Group.drawn_retire (g : Group) (ls : List Nat) (mode n k : Nat) :
    (g.drawn ls mode n).retire k = (g.retire k).drawn ls mode n := by
  unfold Group.drawn
  split
  · exact Group.mapLanes_retire _ _ _ _ fun _ _ _ => rfl
  · rfl

/-- A seed of 0 draws 0 for ever: the state of a lane without a thread. -/
theorem srAfter_zero (n : Nat) : srAfter 0#32 n = 0#32 := by
  induction n with
  | zero => rfl
  | succ n ih => rw [srAfter, ih]; rfl

/-- A lane after the draws: in mode SR its SRS alone has changed, by the draws of the lanes that drew. -/
theorem Group.lane_drawn (g : Group) (ls : List Nat) (mode n l : Nat) :
    (g.drawn ls mode n).lane l =
      { g.lane l with srs := if mode = 4 ∧ ls.contains l = true then srAfter (g.lane l).srs n else (g.lane l).srs } := by
  unfold Group.drawn
  by_cases hm : mode = 4
  · rw [if_pos hm, Group.lane_mapLanes _ _ _ _ fun _ => by simp [Lane.none, srAfter_zero]]
    split <;> simp_all
  · simp [hm]
theorem Group.drawn_rest (g : Group) (ls : List Nat) (mode n : Nat) :
    g.drawn ls mode n = { g with lanes := (g.drawn ls mode n).lanes } := by
  unfold Group.drawn
  split <;> rfl

/-- A lane word that rounds `n` elements in a mode and gives its registers `dst` the values of `F`. -/
theorem laneRound_writes {s s' : State} {g g' : Group} {i : Issue} {n : Instr} {gd : BitVec 4} {srcs : List VSrc}
    {dst : List Nat} {m wt mode draws : Nat} {f : Group → Nat → List Reg → List (Nat × Reg)} {F : Nat → Nat → Reg}
    {es : List QEntry} (he : exec n s = laneRound s gd srcs dst m wt mode draws f)
    (hr : LaneReady s g i (g.contributing i gd) (vsrcRegs srcs ++ dst) [])
    (hp : Pops s g i false (vsrcQueues srcs) s' es) (hg : s'.group g.gid = some g')
    (hF : ∀ l ∈ g.contributing i gd, f g l (vsrcVals (g.lane l) l srcs es) = dst.map fun r => (r, F l r)) :
    RoundWrites s s' g g' n (g.contributing i gd) dst F mode draws := by
  let ls := g.contributing i gd
  have writes : (ls.map fun l => (l, f g l (vsrcVals (g.lane l) l srcs es))) = lanesWrite ls dst F :=
    List.map_congr_left fun l hl => by rw [hF l hl]
  have keeps : ∀ h : Group, ((h.writeV (lanesWrite ls dst F)).drawn ls mode draws).gid = h.gid := fun h => by
    rw [Group.drawn_rest]; rfl
  have runs : exec n s = .next (s'.laneEffect g i m (wt * ls.length) fun h =>
      (h.writeV (lanesWrite ls dst F)).drawn ls mode draws) := by
    rw [he, laneRound, onGroup_at hr.word]
    dsimp only
    rw [laneOp_runs hr hp, finish_done _ _ _ _ rfl, writes]
    rfl
  have frame := (g'.writeV_frame ls dst F (hr.chain_ne hp hg fun r hd => List.mem_append_right _ hd)).retire i.len
  refine ⟨_, _, (g'.writeV (lanesWrite ls dst F)).retire i.len, runs, laneEffect_group i _ _ _ keeps hg, frame,
    laneEffect_elsewhere s' g i _ _ _ keeps, fun l => ?_, fun l => ?_, ?_⟩
  · rw [Group.drawn_retire, Group.lane_drawn, frame.lanes l]
  · rw [Group.drawn_retire, Group.lane_drawn]
  · rw [Group.drawn_retire]; exact Group.drawn_rest _ _ _ _

end Sys2Proof.Machine

/-!
PROOFS. The cross-lane words (06 R155 to R158): reads of a source lane, ballots and their counts, scans and the tree sum.
-/
namespace Sys2Proof.Machine

/-! ## Masks and lists of lanes -/

/-- A mask holds the lanes of its list. -/
theorem laneMask_getLsbD (ls : List Nat) {j : Nat} (h : j < 64) : (laneMask ls).getLsbD j = ls.contains j := by
  have bits : ∀ m : Mask, (ls.foldl (fun m l => m ||| BitVec.ofNat 64 (2 ^ l)) m).getLsbD j =
      (m.getLsbD j || ls.contains j) := by
    induction ls with
    | nil => simp
    | cons l ls ih =>
      intro m
      rw [List.foldl_cons, ih, BitVec.getLsbD_or, BitVec.getLsbD_ofNat, Nat.testBit_two_pow, List.contains_cons]
      simp [h, eq_comm, Bool.or_assoc, Bool.beq_eq_decide_eq]
  simpa [laneMask] using bits 0#64

/-- The lanes of a mask made of some lanes of a mask, ascending. -/
theorem maskLanes_laneMask (m : Mask) (p : Nat → Bool) :
    maskLanes (laneMask ((maskLanes m).filter p)) = (maskLanes m).filter p := by
  simp only [maskLanes, List.filter_filter]
  refine List.filter_congr fun j hj => ?_
  have hj' : j < 64 := List.mem_range.mp hj
  rw [laneMask_getLsbD _ hj', Bool.eq_iff_iff]
  simp [hj']

/-! ## Cross-lane words (06 R155 to R158) -/

section crossLane
variable {s : State} {g : Group} {i : Issue} {n : Instr} {gd : BitVec 4}

/-- A read of `V[a]` in the source lane that `src` names for each contributing lane (06 R155). -/
theorem laneShuffle_writes {a d : BitVec 7} {extra : List Nat} {pick : Group → Nat → Nat} {src : Nat → Nat}
    (he : exec n s = laneShuffle s gd a d extra pick)
    (hr : LaneReady s g i (g.contributing i gd) (d.toNat :: extra) []) (hz : s.peekHazard g a.toNat = false)
    (hb : peekBound g (g.contributing i gd) ((g.contributing i gd).map src) (d.toNat :: extra) a.toNat = none)
    (hs : ∀ l ∈ g.contributing i gd, pick g l = src l) :
    LaneWrites s s g g n (g.contributing i gd) [d.toNat] fun l _ =>
      ⟨(g.peek (src l) a.toNat).val, (g.peek (src l) a.toNat).poison || tagAt g extra l⟩ := by
  refine laneWrites_of_effect (m := 6) (c := (g.contributing i gd).length) (i := i) ?_ hr.word.here
    (hr.chain_ne (qs := []) (fun _ => rfl) hr.word.here fun r h => by simp_all)
  have sources : (g.contributing i gd).map (pick g) = (g.contributing i gd).map src := List.map_congr_left hs
  have writes : ((g.contributing i gd).map fun l => (l, [(d.toNat, (⟨(g.peek (pick g l) a.toNat).val,
      (g.peek (pick g l) a.toNat).poison || extra.any fun r => ((g.lane l).vreg r).poison⟩ : Reg))])) =
      lanesWrite (g.contributing i gd) [d.toNat] fun l _ =>
        ⟨(g.peek (src l) a.toNat).val, (g.peek (src l) a.toNat).poison || tagAt g extra l⟩ :=
    List.map_congr_left fun l hl => by rw [hs l hl]; rfl
  rw [he, laneShuffle, onGroup_at hr.word]
  dsimp only
  rw [hz, hr.ready, sources, hb, writes]
  rfl

/-- `SHFL.B32` (06 R156). -/
theorem shfl_writes {b a d : BitVec 7} (hr : LaneReady s g i (g.contributing i gd) [d.toNat, b.toNat] [])
    (hz : s.peekHazard g a.toNat = false)
    (hb : peekBound g (g.contributing i gd)
      ((g.contributing i gd).map fun l => if (vAt g b l).toNat ≤ 63 then (vAt g b l).toNat else l)
      [d.toNat, b.toNat] a.toNat = none) :
    LaneWrites s s g g (.shflB32 gd b a d) (g.contributing i gd) [d.toNat] fun l _ =>
      let k := if (vAt g b l).toNat ≤ 63 then (vAt g b l).toNat else l
      ⟨(g.peek k a.toNat).val, (g.peek k a.toNat).poison || tagAt g [b.toNat] l⟩ := by
  refine laneShuffle_writes rfl hr hz hb fun l hl => ?_
  have inBounds : b.toNat < g.declared l := boundCond_none hr.bound l hl _ (by simp)
  simp only [inBounds, and_true]
  rfl

/-- `BCAST.B32` (06 R156). -/
theorem bcast_writes {a d : BitVec 7} {ln : BitVec 6} (hr : LaneReady s g i (g.contributing i gd) [d.toNat] [])
    (hz : s.peekHazard g a.toNat = false)
    (hb : peekBound g (g.contributing i gd) ((g.contributing i gd).map fun _ => ln.toNat) [d.toNat] a.toNat = none) :
    LaneWrites s s g g (.bcastB32 gd ln a d) (g.contributing i gd) [d.toNat] fun _ _ => g.peek ln.toNat a.toNat := by
  have := laneShuffle_writes (n := .bcastB32 gd ln a d) rfl hr hz hb fun _ _ => rfl
  simpa [tagAt] using this

/-- `BALLOT` (06 R157). -/
theorem ballot_writes {p : BitVec 3} {d : BitVec 7}
    (hr : LaneReady s g i (g.contributing i gd) [d.toNat, d.toNat + 1] []) :
    LaneWrites s s g g (.ballot gd p d) (g.contributing i gd) [d.toNat, d.toNat + 1] fun _ r =>
      ⟨(ballotMask g i gd p >>> (32 * (r - d.toNat))).setWidth 32, false⟩ :=
  laneWrite_plain (srcs := []) rfl rfl hr fun _ _ => pairRegs_eq _ _ _
theorem ballotMask_getLsbD (g : Group) (i : Issue) (gd : BitVec 4) (p : BitVec 3) {j : Nat} (h : j < 64) :
    (ballotMask g i gd p).getLsbD j = ((g.contributing i gd).contains j && (g.lane j).pred p.toNat) := by
  rw [ballotMask, laneMask_getLsbD _ h, Bool.eq_iff_iff]
  simp

/-- The lanes of a ballot. -/
theorem maskLanes_ballotMask (g : Group) (i : Issue) (gd : BitVec 4) (p : BitVec 3) :
    maskLanes (ballotMask g i gd p) = (g.contributing i gd).filter fun j => (g.lane j).pred p.toNat := by
  simp only [ballotMask, Group.contributing, List.filter_filter]
  exact maskLanes_laneMask _ _

/-- `POPC` (06 R157). -/
theorem popc_writes {m : BitVec 7} {p : BitVec 3} {d : BitVec 7}
    (hr : LaneReady s g i (g.contributing i gd) [d.toNat] []) :
    LaneWrites s s g g (.popc gd m p d) (g.contributing i gd) [d.toNat] fun l _ =>
      ⟨BitVec.ofNat 32 (((g.contributing i gd).filter fun j => (g.lane j).pred p.toNat &&
        (if m.toNat = 0 then true else if m.toNat = 1 then decide (j < l) else decide (j ≤ l))).length), false⟩ := by
  refine laneWrite_plain (srcs := []) rfl rfl hr fun l _ => ?_
  simp only [maskLanes_ballotMask, List.filter_filter, List.map_cons, List.map_nil]
  congr 5
  split
  · next h => simp [h]
  · next h => simp [h, Bool.and_comm]
  · next h0 h1 => simp only [if_neg h0, if_neg h1, Bool.and_comm]

/-- The sum of words is the sum of their values, modulo 2^32. -/
theorem foldl_add_word (l : List Nat) (f : Nat → Word) (w : Word) :
    l.foldl (fun n k => n + f k) w = BitVec.ofNat 32 (w.toNat + (l.map fun k => (f k).toNat).sum) := by
  induction l generalizing w with
  | nil => simp
  | cons k l ih =>
    rw [List.foldl_cons, ih]
    apply BitVec.eq_of_toNat_eq
    simp [Nat.add_assoc]

/-- `SCAN.ADD.B32` (06 R158). -/
theorem scanAdd_writes {a d : BitVec 7} (hr : LaneReady s g i (g.contributing i gd) [a.toNat, d.toNat] []) :
    LaneWrites s s g g (.scanAddB32 gd a d) (g.contributing i gd) [d.toNat] fun l _ =>
      let upto := (g.contributing i gd).filter fun j => decide (j ≤ l)
      ⟨BitVec.ofNat 32 ((upto.map fun j => (vAt g a j).toNat).sum), upto.any fun j => tagAt g [a.toNat] j⟩ := by
  refine laneWrite_plain rfl rfl hr fun l _ => ?_
  dsimp only
  rw [foldl_add_word]
  simp [anyPoison, tagAt, vAt]

/-- `SCAN.FADD.F32` (06 R158, 04 R100). -/
theorem scanFadd_writes {a d : BitVec 7} (hr : LaneReady s g i (g.contributing i gd) [a.toNat, d.toNat] []) :
    LaneWrites s s g g (.scanFaddF32 gd a d) (g.contributing i gd) [d.toNat] fun l _ =>
      ⟨BitVec.ofNat 32 (canonF32 ((prefixSum add32 (laneLeaves g (g.contributing i gd) a.toNat) 6 (l + 1) 0 none).getD 0)),
        ((g.contributing i gd).filter fun j => decide (j ≤ l)).any fun j => tagAt g [a.toNat] j⟩ :=
  laneWrite_plain rfl rfl hr fun l _ => by simp [anyPoison, tagAt]

/-- `VRED.FADD.F32` (06 R158, 04 R100). -/
theorem vredFadd_writes {a d : BitVec 7} (hr : LaneReady s g i (g.contributing i gd) [a.toNat, d.toNat] []) :
    LaneWrites s s g g (.vredFaddF32 gd a d) (g.contributing i gd) [d.toNat] fun _ _ =>
      ⟨BitVec.ofNat 32 (canonF32 ((treeRoot add32 6 (laneLeaves g (g.contributing i gd) a.toNat)).getD 0)),
        (g.contributing i gd).any fun j => tagAt g [a.toNat] j⟩ :=
  laneWrite_plain rfl rfl hr fun l _ => by simp [anyPoison, tagAt]

end crossLane

/-- Settles O13: each cross-lane word writes its result in the contributing lanes, by the rule of lane words. -/
theorem crossLane : Obligations.CrossLane := by
  intro s g i gd b a d ln m p
  exact ⟨fun hr hz hb => shfl_writes hr hz hb, fun hr hz hb => bcast_writes hr hz hb,
    fun hr => ⟨_, ballot_writes hr, fun j hj => ballotMask_getLsbD g i gd p hj⟩, fun hr _ => popc_writes hr,
    fun hr => ⟨scanAdd_writes hr, scanFadd_writes hr, vredFadd_writes hr⟩⟩

end Sys2Proof.Machine

/-!
SUPPORT. Rounding (04 R91): the values of codes, the one rounding as a choice between neighbours, and its range.
-/
namespace Sys2Proof.Machine

/-! ## The value of a code (04 R85) -/

section
variable (f : Fmt)

/-- The significand of magnitude bits `c`, in units of its last place. -/
def Fmt.sig (c : Nat) : Nat := if c / 2 ^ f.fw = 0 then c % 2 ^ f.fw else c % 2 ^ f.fw + 2 ^ f.fw
/-- That place, counted from the subnormals' `emin`. -/
def Fmt.place (c : Nat) : Nat := c / 2 ^ f.fw - 1

/-- The magnitude of bits `c` in units of 2^emin, the exponent range unbounded above. -/
def Fmt.units (c : Nat) : Nat := f.sig c * 2 ^ f.place c

theorem Fmt.place_add_sig (c : Nat) : f.place c * 2 ^ f.fw + f.sig c = c := by
  have hc := Nat.div_add_mod' c (2 ^ f.fw)
  unfold Fmt.place Fmt.sig
  split
  · next h => simp only [h] at hc ⊢; omega
  · next h =>
    obtain ⟨x, hx⟩ := Nat.exists_eq_succ_of_ne_zero h
    rw [hx, Nat.succ_mul] at hc
    simp only [hx, Nat.succ_sub_one]
    omega
theorem Fmt.sig_lt (c : Nat) : f.sig c < 2 ^ (f.fw + 1) := by
  have := Nat.mod_lt c (Nat.two_pow_pos f.fw)
  rw [Nat.pow_succ, Fmt.sig]
  split <;> omega
/-- A code is subnormal or holds its leading bit. -/
theorem Fmt.place_or_sig (c : Nat) : f.place c = 0 ∨ 2 ^ f.fw ≤ f.sig c := by
  unfold Fmt.place Fmt.sig
  split
  · next h => exact .inl (by rw [h])
  · exact .inr (by omega)

theorem Fmt.two_pow_eq_signBit : 2 ^ (f.ew + f.fw) = f.signBit := rfl
theorem Fmt.signBit_eq : f.signBit = 2 ^ f.ew * 2 ^ f.fw := Nat.pow_add ..
theorem Fmt.signBit_pos : 0 < f.signBit := Nat.two_pow_pos _

/-- A code stands for its sign, its significand and its exponent, or it is past the largest finite one. -/
theorem Fmt.decode_or (c : Nat) :
    f.decode c = .fin (c / f.signBit % 2 == 1) (f.sig (c % f.signBit)) (f.emin + f.place (c % f.signBit)) ∨
      (f.decode c).value = none ∧ (0 < f.ew → f.maxCode < c % f.signBit) := by
  have two_le : 0 < f.ew → 2 ≤ 2 ^ f.ew := fun h => Nat.le_self_pow h.ne' 2
  unfold Fmt.decode
  dsimp only
  split
  · next h =>
    obtain ⟨hk, hx⟩ := h
    refine .inr ⟨by split <;> rfl, fun hw => ?_⟩
    have := Nat.div_mul_le_self (c % f.signBit) (2 ^ f.fw)
    have : 0 < (2 ^ f.ew - 1) * 2 ^ f.fw := Nat.mul_pos (by have := two_le hw; omega) (Nat.two_pow_pos _)
    simp only [Fmt.maxCode, hk]
    rw [hx] at *
    omega
  · split
    · next h =>
      obtain ⟨hk, hx⟩ := h
      refine .inr ⟨rfl, fun hw => ?_⟩
      have : 2 ≤ f.signBit := Nat.le_self_pow (by omega) 2
      simp only [Fmt.maxCode, hk, f.two_pow_eq_signBit]
      omega
    · left
      unfold Fmt.sig Fmt.place
      split
      · next h => simp [h]
      · rfl

/-- The sign as a factor. -/
def signOf (neg : Bool) : ℚ := if neg = true then -1 else 1

/-- The value of a code that has one. -/
theorem Fmt.value_decode {c : Nat} {v : ℚ} (h : (f.decode c).value = some v) :
    v = signOf (c / f.signBit % 2 == 1) * (f.units (c % f.signBit) * 2 ^ f.emin) := by
  rcases f.decode_or c with hd | hd
  · rw [hd, Num.value, Option.some.injEq] at h
    rw [← h, signOf, Fmt.units, zpow_add₀ two_ne_zero, zpow_natCast]
    push_cast
    ring
  · rw [hd.1] at h; cases h

/-- A code of a magnitude with a sign put in. -/
theorem Fmt.code_mag {mag : Nat} (neg : Bool) (h : mag < f.signBit) :
    ((if neg then f.signBit else 0) + mag) % f.signBit = mag ∧
      (((if neg then f.signBit else 0) + mag) / f.signBit % 2 == 1) = neg := by
  cases neg
  · simp [Nat.mod_eq_of_lt h, Nat.div_eq_of_lt h]
  · simp [Nat.mod_eq_of_lt h, Nat.div_eq_of_lt h, Nat.add_div_left _ f.signBit_pos]

theorem Fmt.maxCode_lt : f.maxCode < f.signBit := by
  have hw := Nat.two_pow_pos f.ew
  have hf := Nat.two_pow_pos f.fw
  have he := f.signBit_pos
  have : (2 ^ f.ew - 1) * 2 ^ f.fw ≤ f.signBit := f.signBit_eq ▸ Nat.mul_le_mul_right _ (by omega)
  unfold Fmt.maxCode
  split
  · omega
  · rw [f.two_pow_eq_signBit]; omega
  · rw [f.two_pow_eq_signBit]; omega

/-- The code of an infinity, or past a format's largest finite value. -/
theorem Fmt.infCode_lt : (2 ^ f.ew - 1) * 2 ^ f.fw < f.signBit := by
  rw [f.signBit_eq]
  exact Nat.mul_lt_mul_of_pos_right (Nat.sub_lt (Nat.two_pow_pos _) Nat.one_pos) (Nat.two_pow_pos _)

end

/-! ## One rounding (04 R91) -/

/-- The neighbour that a mode takes of num / den. -/
def rounded (mode : Nat) (neg : Bool) (num den draw : Nat) : Nat :=
  if roundUp mode neg (num / den) (num % den) den draw then num / den + 1 else num / den

theorem rounded_cases (mode : Nat) (neg : Bool) (num den draw : Nat) :
    rounded mode neg num den draw = num / den ∨ rounded mode neg num den draw = num / den + 1 := by
  unfold rounded
  split
  · exact .inr rfl
  · exact .inl rfl

/-- What is on the grid is not moved, in any mode. -/
theorem rounded_one (mode : Nat) (neg : Bool) (n draw : Nat) : rounded mode neg n 1 draw = n := by
  have : roundUp mode neg n 0 1 draw = false := by
    unfold roundUp
    split <;> simp
  rw [rounded, Nat.div_one, Nat.mod_one, this]
  rfl

/-- Round-to-nearest takes a nearest integer. -/
theorem rounded_nearest (neg : Bool) (num : Nat) {den : Nat} (hd : 0 < den) (draw j : Nat) :
    |(rounded 0 neg num den draw : ℤ) * den - num| ≤ |(j : ℤ) * den - num| := by
  have hr := Nat.mod_lt num hd
  have hn : (num : ℤ) = (num / den : Nat) * den + (num % den : Nat) := by exact_mod_cast (Nat.div_add_mod' num den).symm
  set lo := num / den
  set r := num % den
  have away : (r : ℤ) ≤ |(j : ℤ) * den - num| ∧ j ≤ lo ∨ (den : ℤ) - r ≤ |(j : ℤ) * den - num| ∧ lo < j := by
    rcases le_or_gt j lo with h | h
    · have : (j : ℤ) * den ≤ lo * den := by exact_mod_cast Nat.mul_le_mul_right den h
      exact .inl ⟨le_trans (by omega) (neg_le_abs _), h⟩
    · have : ((lo + 1 : Nat) : ℤ) * den ≤ j * den := by exact_mod_cast Nat.mul_le_mul_right den h
      have : ((lo + 1 : Nat) : ℤ) * den = lo * den + den := by push_cast; ring
      exact .inr ⟨le_trans (by omega) (le_abs_self _), h⟩
  have up : roundUp 0 neg lo r den draw = true → den ≤ 2 * r := by
    simp only [roundUp, Bool.or_eq_true, Bool.and_eq_true, decide_eq_true_eq]; omega
  have down : roundUp 0 neg lo r den draw = false → 2 * r ≤ den := by
    simp only [roundUp, Bool.or_eq_false_iff, decide_eq_false_iff_not]; omega
  unfold rounded
  split
  · next h =>
    have := up h
    have near : ((lo + 1 : Nat) : ℤ) * den - num = den - r := by rw [hn]; push_cast; ring
    rw [near, abs_of_nonneg (by omega)]
    omega
  · next h =>
    have := down (by simpa using h)
    have near : (lo : ℤ) * den - num = -r := by rw [hn]; ring
    rw [near, abs_neg, abs_of_nonneg (by omega)]
    omega

/-- The exponent of the last place that `n` × 2^e is rounded to in `f`. -/
def Fmt.lastPlace (f : Fmt) (n : Nat) (e : Int) : Int := max f.emin ((Nat.log2 n : Int) + e - f.fw)

theorem ratLog_one {n : Nat} (hn : n ≠ 0) : ratLog n 1 = Nat.log2 n := by
  have log_one : Nat.log2 1 = 0 := by decide
  have notBelow : ¬ shl n (-((Nat.log2 n : Int) - Nat.log2 1)) < shl 1 ((Nat.log2 n : Int) - Nat.log2 1) := by
    have := Nat.log2_self_le hn
    simpa [shl, log_one] using this
  rw [ratLog, if_neg notBelow]
  simp [log_one]

/-- The magnitude bits of an exact value: its grid of last places, and the neighbour on it. -/
theorem roundMag_one (f : Fmt) (mode : Nat) (neg : Bool) {n : Nat} (hn : n ≠ 0) (e : Int) (draw : Nat)
    (h : ¬ (Nat.log2 n : Int) + e + 40 < f.emin) :
    roundMag f mode neg n 1 e draw = (f.lastPlace n e - f.emin).toNat * 2 ^ f.fw +
      rounded mode neg (shl n (e - f.lastPlace n e)) (shl 1 (f.lastPlace n e - e)) draw := by
  simp only [roundMag, ratLog_one hn, if_neg h]
  rfl

end Sys2Proof.Machine

/-!
PROOFS. Round-to-nearest is nearest, and rounding keeps what is representable (04 R85, R91).
-/
namespace Sys2Proof.Machine

/-! ## The grid of a format's magnitudes -/

section
variable (f : Fmt)

/-- Magnitude bits put together from a place and a significand, which may have just carried into the next exponent. -/
theorem Fmt.units_grid {k t : Nat} (hk : k ≤ 2 ^ (f.fw + 1)) (ht : t = 0 ∨ 2 ^ f.fw ≤ k) :
    f.units (t * 2 ^ f.fw + k) = k * 2 ^ t := by
  have hB := Nat.two_pow_pos f.fw
  rw [Nat.pow_succ] at hk
  have split : ∀ x r, r < 2 ^ f.fw → (x * 2 ^ f.fw + r) / 2 ^ f.fw = x ∧ (x * 2 ^ f.fw + r) % 2 ^ f.fw = r := fun x r hr =>
    ⟨by rw [Nat.add_comm, Nat.add_mul_div_right _ _ hB, Nat.div_eq_of_lt hr, Nat.zero_add],
      by rw [Nat.add_comm, Nat.add_mul_mod_self_right, Nat.mod_eq_of_lt hr]⟩
  unfold Fmt.units Fmt.sig Fmt.place
  rcases Nat.lt_or_ge k (2 ^ f.fw) with h | h
  · obtain rfl : t = 0 := by omega
    simp [Nat.div_eq_of_lt h, Nat.mod_eq_of_lt h]
  rcases hk.lt_or_eq with h2 | rfl
  · obtain ⟨hd, hm⟩ := split (t + 1) (k - 2 ^ f.fw) (by omega)
    rw [show t * 2 ^ f.fw + k = (t + 1) * 2 ^ f.fw + (k - 2 ^ f.fw) by rw [Nat.succ_mul]; omega, hd, hm, if_neg (by omega),
      Nat.sub_add_cancel h, Nat.add_sub_cancel]
  · obtain ⟨hd, hm⟩ := split (t + 2) 0 hB
    rw [show t * 2 ^ f.fw + 2 ^ f.fw * 2 = (t + 2) * 2 ^ f.fw + 0 by ring, hd, hm, if_neg (by omega)]
    simp only [Nat.zero_add, Nat.add_one_sub_one, pow_succ]
    ring

/-- The next code stands for a greater magnitude. -/
theorem Fmt.units_strictMono : StrictMono f.units := by
  refine strictMono_nat_of_lt_succ fun c => ?_
  have next := f.units_grid (k := f.sig c + 1) (f.sig_lt c) ((f.place_or_sig c).imp_right Nat.le_succ_of_le)
  rw [← Nat.add_assoc, f.place_add_sig] at next
  rw [next, Fmt.units]
  exact Nat.mul_lt_mul_of_pos_right (Nat.lt_succ_self _) (Nat.two_pow_pos _)

/-- A magnitude is a multiple of 2^t, or lies below every significand with that place. -/
theorem Fmt.units_multiple_or_below (c t : Nat) :
    (∃ j, f.units c = j * 2 ^ t) ∨ (t ≠ 0 ∧ f.units c < 2 ^ f.fw * 2 ^ t) := by
  rcases Nat.lt_or_ge (f.place c) t with h | h
  · right
    refine ⟨by omega, ?_⟩
    calc f.units c < 2 ^ (f.fw + 1) * 2 ^ f.place c := Nat.mul_lt_mul_of_pos_right (f.sig_lt c) (Nat.two_pow_pos _)
      _ = 2 ^ f.fw * 2 ^ (f.place c + 1) := by ring
      _ ≤ 2 ^ f.fw * 2 ^ t := Nat.mul_le_mul_left _ (Nat.pow_le_pow_right (by omega) h)
  · exact .inl ⟨f.sig c * 2 ^ (f.place c - t), by rw [Nat.mul_assoc, ← Nat.pow_add, Nat.sub_add_cancel h]; rfl⟩

end

/-! ## The nearest magnitude -/

/-- The exact value against its leading bit. -/
theorem leading_le {n : Nat} (hn : n ≠ 0) (e : Int) : (2 : ℚ) ^ ((Nat.log2 n : Int) + e) ≤ n * 2 ^ e := by
  rw [zpow_add₀ two_ne_zero, zpow_natCast]
  exact mul_le_mul_of_nonneg_right (by exact_mod_cast Nat.log2_self_le hn) (by positivity)
theorem lt_leading (n : Nat) (e : Int) : (n : ℚ) * 2 ^ e < 2 ^ ((Nat.log2 n : Int) + 1 + e) := by
  rw [zpow_add₀ two_ne_zero]
  exact mul_lt_mul_of_pos_right (by exact_mod_cast Nat.lt_log2_self) (by positivity)

/-- The exact value in units of 2^q is the quotient that is rounded. -/
theorem shl_ratio (n : Nat) (e q : Int) : (n : ℚ) * 2 ^ e * shl 1 (q - e) = shl n (e - q) * 2 ^ q := by
  have exps : e + ((q - e).toNat : Int) = ((e - q).toNat : Int) + q := by omega
  simp only [shl, Nat.one_mul, Nat.cast_mul, Nat.cast_pow, Nat.cast_ofNat, ← zpow_natCast, mul_assoc]
  rw [← zpow_add₀ two_ne_zero, ← zpow_add₀ two_ne_zero, exps]

section
variable (f : Fmt) {n : Nat} (hn : n ≠ 0) (e : Int)

theorem shl_one_pos (k : Int) : 0 < shl 1 k := by simp [shl]

/-- The quotient that is rounded has no more bits than a significand holds. -/
theorem quotient_lt : shl n (e - f.lastPlace n e) / shl 1 (f.lastPlace n e - e) < 2 ^ (f.fw + 1) := by
  set q := f.lastPlace n e with hq
  have top : (Nat.log2 n : Int) + 1 + e ≤ (f.fw + 1 : Nat) + q := by
    have : (Nat.log2 n : Int) + e - f.fw ≤ q := le_max_right _ _
    push_cast; omega
  rw [Nat.div_lt_iff_lt_mul (shl_one_pos _)]
  have : (shl n (e - q) : ℚ) * 2 ^ q < (2 ^ (f.fw + 1) * shl 1 (q - e) : Nat) * 2 ^ q := by
    calc (shl n (e - q) : ℚ) * 2 ^ q = n * 2 ^ e * shl 1 (q - e) := (shl_ratio n e q).symm
      _ < 2 ^ (((f.fw + 1 : Nat) : Int) + q) * shl 1 (q - e) :=
        mul_lt_mul_of_pos_right ((lt_leading n e).trans_le (zpow_le_zpow_right₀ one_le_two top))
          (by exact_mod_cast shl_one_pos _)
      _ = _ := by rw [zpow_add₀ two_ne_zero, zpow_natCast]; push_cast; ring
  exact_mod_cast lt_of_mul_lt_mul_right this (by positivity)

include hn in
/-- Above the subnormals it holds its leading bit. -/
theorem le_quotient (hq : f.lastPlace n e ≠ f.emin) :
    2 ^ f.fw ≤ shl n (e - f.lastPlace n e) / shl 1 (f.lastPlace n e - e) := by
  have top : ((f.fw : Nat) : Int) + f.lastPlace n e = (Nat.log2 n : Int) + e := by
    unfold Fmt.lastPlace at *; omega
  set q := f.lastPlace n e
  rw [Nat.le_div_iff_mul_le (shl_one_pos _)]
  have : ((2 ^ f.fw * shl 1 (q - e) : Nat) : ℚ) * 2 ^ q ≤ shl n (e - q) * 2 ^ q := by
    calc ((2 ^ f.fw * shl 1 (q - e) : Nat) : ℚ) * 2 ^ q = 2 ^ (((f.fw : Nat) : Int) + q) * shl 1 (q - e) := by
          rw [zpow_add₀ two_ne_zero, zpow_natCast]; push_cast; ring
      _ ≤ n * 2 ^ e * shl 1 (q - e) := by
          rw [top]; exact mul_le_mul_of_nonneg_right (leading_le hn e) (by positivity)
      _ = _ := shl_ratio n e q
  exact_mod_cast le_of_mul_le_mul_right this (by positivity)

/-- No integer multiple of the last place is nearer than the one round-to-nearest takes. -/
theorem rounded_nearest_multiple (neg : Bool) (q : Int) (draw j : Nat) :
    |(rounded 0 neg (shl n (e - q)) (shl 1 (q - e)) draw : ℚ) * 2 ^ q - n * 2 ^ e| ≤ |(j : ℚ) * 2 ^ q - n * 2 ^ e| := by
  set num := shl n (e - q)
  set den := shl 1 (q - e)
  have hd : (0 : ℚ) < den := by exact_mod_cast shl_one_pos _
  have scaled : ∀ k : Nat, |(k : ℚ) * 2 ^ q - n * 2 ^ e| * den = |(k : ℚ) * den - num| * 2 ^ q := fun k => by
    rw [← abs_of_pos hd, ← abs_mul, ← abs_of_pos (show (0 : ℚ) < 2 ^ q by positivity), ← abs_mul, abs_of_pos hd,
      abs_of_pos (show (0 : ℚ) < 2 ^ q by positivity), sub_mul, sub_mul, shl_ratio, mul_right_comm]
  refine le_of_mul_le_mul_right ?_ hd
  rw [scaled, scaled]
  exact mul_le_mul_of_nonneg_right (by exact_mod_cast rounded_nearest neg num (shl_one_pos _) draw j) (by positivity)

include hn in
/-- A value so far below the subnormals that it rounds to zero has zero nearest. -/
theorem roundMag_nearest_far (hfar : (Nat.log2 n : Int) + e + 40 < f.emin) (neg : Bool) (draw c : Nat) :
    |(f.units (roundMag f 0 neg n 1 e draw) : ℚ) * 2 ^ f.emin - n * 2 ^ e| ≤ |(f.units c : ℚ) * 2 ^ f.emin - n * 2 ^ e| := by
  have zero : f.units (roundMag f 0 neg n 1 e draw) = 0 := by
    simp [roundMag, ratLog_one hn, hfar, roundUp, Fmt.units, Fmt.sig]
  have half : (n : ℚ) * 2 ^ e * 2 ≤ 2 ^ f.emin := by
    calc (n : ℚ) * 2 ^ e * 2 ≤ 2 ^ ((Nat.log2 n : Int) + 1 + e) * 2 := by linarith [lt_leading n e]
      _ = 2 ^ ((Nat.log2 n : Int) + 1 + e + 1) := by rw [zpow_add_one₀ two_ne_zero]
      _ ≤ 2 ^ f.emin := zpow_le_zpow_right₀ one_le_two (by omega)
  have nonneg : (0 : ℚ) ≤ n * 2 ^ e := by positivity
  rw [zero, Nat.cast_zero, zero_mul, zero_sub, abs_neg, abs_of_nonneg nonneg]
  rcases Nat.eq_zero_or_pos (f.units c) with h | h
  · rw [h, Nat.cast_zero, zero_mul, zero_sub, abs_neg]
    exact le_abs_self _
  · have : (2 : ℚ) ^ f.emin ≤ f.units c * 2 ^ f.emin := le_mul_of_one_le_left (by positivity) (by exact_mod_cast h)
    exact le_trans (by linarith) (le_abs_self _)

/-- A count of last places as a count of the format's units. -/
theorem units_lastPlace (j : Nat) :
    ((j * 2 ^ (f.lastPlace n e - f.emin).toNat : Nat) : ℚ) * 2 ^ f.emin = j * 2 ^ f.lastPlace n e := by
  have emin_le : f.emin ≤ f.lastPlace n e := le_max_left _ _
  have grid : (2 : ℚ) ^ f.lastPlace n e = 2 ^ (f.lastPlace n e - f.emin).toNat * 2 ^ f.emin := by
    rw [← zpow_natCast, ← zpow_add₀ two_ne_zero]
    congr 1
    omega
  rw [grid]
  push_cast
  ring

include hn in
/-- The magnitude that a value rounds to is the count of last places that was taken. -/
theorem units_roundMag (hnear : ¬ (Nat.log2 n : Int) + e + 40 < f.emin) (mode : Nat) (neg : Bool) (draw : Nat) :
    f.units (roundMag f mode neg n 1 e draw) =
      rounded mode neg (shl n (e - f.lastPlace n e)) (shl 1 (f.lastPlace n e - e)) draw *
        2 ^ (f.lastPlace n e - f.emin).toNat := by
  have taken := rounded_cases mode neg (shl n (e - f.lastPlace n e)) (shl 1 (f.lastPlace n e - e)) draw
  rw [roundMag_one f mode neg hn e draw hnear]
  refine f.units_grid ?_ ?_
  · have := quotient_lt f (n := n) e
    omega
  · rcases eq_or_ne (f.lastPlace n e) f.emin with h | h
    · exact .inl (by omega)
    · have := le_quotient f hn e h
      exact .inr (by omega)

include hn in
/-- No magnitude of the format, its exponent unbounded above, is nearer to an exact value than the one that
round-to-nearest takes. -/
theorem roundMag_nearest (neg : Bool) (draw c : Nat) :
    |(f.units (roundMag f 0 neg n 1 e draw) : ℚ) * 2 ^ f.emin - n * 2 ^ e| ≤ |(f.units c : ℚ) * 2 ^ f.emin - n * 2 ^ e| := by
  by_cases hfar : (Nat.log2 n : Int) + e + 40 < f.emin
  · exact roundMag_nearest_far f hn e hfar neg draw c
  have near := rounded_nearest_multiple (n := n) e neg (f.lastPlace n e) draw
  rw [units_roundMag f hn e hfar, units_lastPlace]
  rcases f.units_multiple_or_below c (f.lastPlace n e - f.emin).toNat with ⟨j, hj⟩ | ⟨hpos, below⟩
  · rw [hj, units_lastPlace]
    exact near j
  · -- A smaller exponent: all its magnitudes lie below the value's leading bit, which is on the grid.
    set bottom : ℚ := (2 ^ f.fw : Nat) * 2 ^ f.lastPlace n e with hbottom
    have le_value : bottom ≤ n * 2 ^ e := by
      have exps : (f.fw : Int) + f.lastPlace n e = (Nat.log2 n : Int) + e := by unfold Fmt.lastPlace at *; omega
      have := leading_le hn e
      rwa [← exps, zpow_add₀ two_ne_zero, zpow_natCast, ← Nat.cast_ofNat (R := ℚ), ← Nat.cast_pow] at this
    have le_bottom : (f.units c : ℚ) * 2 ^ f.emin ≤ bottom := by
      rw [hbottom, ← units_lastPlace]
      exact mul_le_mul_of_nonneg_right (by exact_mod_cast below.le) (by positivity)
    refine (near (2 ^ f.fw)).trans ?_
    rw [abs_sub_comm, abs_of_nonneg (by linarith), abs_sub_comm, abs_of_nonneg (by linarith)]
    linarith

end

/-! ## The range (04 R91 step 5) -/

section
variable (f : Fmt)

@[simp] theorem Fmt.flush_false (c : Nat) : f.flush false c = c := by simp [Fmt.flush]

theorem rne_fin (neg : Bool) (m : Nat) (e : Int) :
    rne f (.fin neg m e) =
      if m = 0 then (if neg then f.signBit else 0) else finish f false neg (roundMag f 0 neg m 1 e 0) := by
  simp [rne, round, roundRat]

/-- The code of an infinity has no rational value, nor has the NaN of a format with one NaN. -/
theorem Fmt.value_infCode (hk : f.kind = 0) (neg : Bool) :
    (f.decode ((if neg then f.signBit else 0) + (2 ^ f.ew - 1) * 2 ^ f.fw)).value = none := by
  obtain ⟨hm, -⟩ := f.code_mag neg f.infCode_lt
  unfold Fmt.decode
  simp [hm, hk, Num.value]
theorem Fmt.value_nanCode (hk : f.kind = 1) : (f.decode f.nanCode).value = none := by
  have nan : f.nanCode = f.signBit - 1 := by simp [Fmt.nanCode, hk, Fmt.signBit]
  have := f.signBit_pos
  have hm : f.nanCode % f.signBit = f.signBit - 1 := by rw [nan]; exact Nat.mod_eq_of_lt (by omega)
  unfold Fmt.decode
  simp [hm, hk, Num.value]

/-- A rounded magnitude that has a value is the one rounded to, or a saturated one: the greatest of all. -/
theorem finish_value {neg : Bool} {mag : Nat} {r : ℚ} (h : (f.decode (finish f false neg mag)).value = some r) :
    ∃ c, r = signOf neg * (f.units c * 2 ^ f.emin) ∧ (c = mag ∨ c < mag ∧ c + 1 = f.signBit) := by
  have value : ∀ c < f.signBit, finish f false neg mag = (if neg then f.signBit else 0) + c →
      r = signOf neg * (f.units c * 2 ^ f.emin) := fun c hc hf => by
    obtain ⟨hm, hs⟩ := f.code_mag neg hc
    rw [hf] at h
    rw [f.value_decode h, hm, hs]
  by_cases hmax : mag ≤ f.maxCode
  · exact ⟨mag, value mag (hmax.trans_lt f.maxCode_lt) (by simp [finish, hmax]), .inl rfl⟩
  · by_cases h0 : f.kind = 0
    · rw [show finish f false neg mag = _ + _ by simp only [finish, hmax, h0]; rfl, f.value_infCode h0] at h
      cases h
    by_cases h1 : f.kind = 1
    · rw [show finish f false neg mag = f.nanCode by simp [finish, hmax, h1], f.value_nanCode h1] at h
      cases h
    · have top : f.maxCode + 1 = f.signBit := by
        have := f.signBit_pos
        simp only [Fmt.maxCode, f.two_pow_eq_signBit]
        omega
      refine ⟨f.maxCode, value _ f.maxCode_lt ?_, .inr ⟨by omega, top⟩⟩
      simp only [finish, hmax]
      simp

/-- Of the magnitudes that a format has, none is nearer than the one that round-to-nearest ends at. -/
theorem finish_nearest {neg : Bool} {m : Nat} (hm : m ≠ 0) (e : Int) {c : Nat}
    (hc : c = roundMag f 0 neg m 1 e 0 ∨ c < roundMag f 0 neg m 1 e 0 ∧ c + 1 = f.signBit) {d : Nat} (hd : d < f.signBit) :
    |(f.units c : ℚ) * 2 ^ f.emin - m * 2 ^ e| ≤ |(f.units d : ℚ) * 2 ^ f.emin - m * 2 ^ e| := by
  rcases hc with rfl | ⟨hlt, htop⟩
  · exact roundMag_nearest f hm e neg 0 d
  · have near := roundMag_nearest f hm e neg 0 c
    have le_c : (f.units d : ℚ) * 2 ^ f.emin ≤ f.units c * 2 ^ f.emin :=
      mul_le_mul_of_nonneg_right (by exact_mod_cast f.units_strictMono.monotone (by omega)) (by positivity)
    have c_lt : (f.units c : ℚ) * 2 ^ f.emin < f.units (roundMag f 0 neg m 1 e 0) * 2 ^ f.emin :=
      mul_lt_mul_of_pos_right (by exact_mod_cast f.units_strictMono hlt) (by positivity)
    have above : (f.units c : ℚ) * 2 ^ f.emin ≤ m * 2 ^ e := by
      by_contra hn
      rw [abs_of_pos (by linarith), abs_of_pos (by linarith)] at near
      linarith
    rw [abs_sub_comm, abs_of_nonneg (by linarith), abs_sub_comm, abs_of_nonneg (by linarith)]
    linarith

end

/-- Values of one sign are as far apart as their magnitudes, and of two signs no nearer. -/
theorem abs_signOf_sub (neg : Bool) (a b : ℚ) : |signOf neg * a - signOf neg * b| = |a - b| := by
  cases neg
  · simp [signOf]
  · simp only [signOf, if_true, neg_one_mul, neg_sub_neg]; exact abs_sub_comm b a
theorem abs_sub_le_signOf (s t : Bool) {a b : ℚ} (ha : 0 ≤ a) (hb : 0 ≤ b) :
    |a - b| ≤ |signOf s * a - signOf t * b| := by
  by_cases h : s = t
  · rw [h, abs_signOf_sub]
  · have apart : |signOf s * a - signOf t * b| = a + b := by
      have sum : |a + b| = a + b := abs_of_nonneg (add_nonneg ha hb)
      cases s <;> cases t <;> simp only [signOf, not_true, reduceCtorEq, if_true, if_false, one_mul, neg_one_mul,
        sub_neg_eq_add, not_false_eq_true] at h ⊢
      · exact sum
      · rw [abs_sub_comm, sub_neg_eq_add, add_comm]; exact sum
    rw [apart, abs_le]
    constructor <;> linarith

/-- Round-to-nearest is nearest: no code's value lies closer to the exact value than a finite result. -/
theorem rne_nearest (f : Fmt) (neg : Bool) (m : Nat) (e : Int) (c : Nat) {r v : ℚ}
    (hr : (f.decode (rne f (.fin neg m e))).value = some r) (hv : (f.decode c).value = some v) :
    |r - signOf neg * (m * 2 ^ e)| ≤ |v - signOf neg * (m * 2 ^ e)| := by
  rw [rne_fin] at hr
  by_cases hm : m = 0
  · rw [if_pos hm, ← Nat.add_zero (ite _ _ _)] at hr
    obtain ⟨hmod, -⟩ := f.code_mag neg f.signBit_pos
    have : r = 0 := by rw [f.value_decode hr, hmod]; simp [Fmt.units, Fmt.sig]
    simp [this, hm]
  · rw [if_neg hm] at hr
    obtain ⟨k, rfl, hk⟩ := finish_value f hr
    rw [f.value_decode hv, abs_signOf_sub]
    exact (finish_nearest f hm e hk (Nat.mod_lt c f.signBit_pos)).trans
      (abs_sub_le_signOf _ _ (by positivity) (by positivity))

/-! ## What is representable (04 R85) -/

section
variable (f : Fmt)

/-- A code is its sign bit and its magnitude. -/
theorem Fmt.code_eq {c : Nat} (h : c < 2 * f.signBit) :
    (if c / f.signBit % 2 == 1 then f.signBit else 0) + c % f.signBit = c := by
  have hlt : c / f.signBit < 2 := Nat.div_lt_of_lt_mul (by omega)
  have hc := Nat.div_add_mod c f.signBit
  rcases Nat.le_one_iff_eq_zero_or_eq_one.mp (Nat.le_of_lt_succ hlt) with h | h <;> rw [h] at hc ⊢
  · simpa using hc
  · simpa using hc

/-- The bits of a magnitude round to themselves. -/
theorem roundMag_sig (mode : Nat) (neg : Bool) (draw : Nat) {mag : Nat} (h : f.sig mag ≠ 0) :
    roundMag f mode neg (f.sig mag) 1 (f.emin + f.place mag) draw = mag := by
  have log_lt : Nat.log2 (f.sig mag) < f.fw + 1 := (Nat.log2_lt h).mpr (f.sig_lt mag)
  have last : f.lastPlace (f.sig mag) (f.emin + f.place mag) = f.emin + f.place mag := by
    unfold Fmt.lastPlace
    rcases f.place_or_sig mag with h0 | h0
    · omega
    · have := (Nat.le_log2 h).mpr h0
      omega
  rw [roundMag_one f mode neg h _ draw (by omega), last]
  simp [shl, rounded_one, f.place_add_sig]

/-- Every finite code decodes to a value that rounds to it in every mode. -/
theorem round_decode (hw : 0 < f.ew) (mode draw : Nat) (sat : Bool) {c : Nat} (hc : c < 2 * f.signBit)
    (hfin : c % f.signBit ≤ f.maxCode) : round f mode sat false draw (f.decode c) = c := by
  rcases f.decode_or c with hd | ⟨_, hd⟩
  · have code := f.code_eq hc
    rw [hd, round, Fmt.flush_false, roundRat]
    split
    · next h0 =>
      have place : f.place (c % f.signBit) = 0 := by
        have := Nat.two_pow_pos f.fw
        rcases f.place_or_sig (c % f.signBit) with h | h <;> omega
      have mag := f.place_add_sig (c % f.signBit)
      rw [h0, place, Nat.zero_mul] at mag
      rwa [← mag, Nat.add_zero] at code
    · next h0 => rw [roundMag_sig f mode _ draw h0, finish, if_pos hfin]; exact code
  · exact absurd hfin (Nat.not_le.mpr (hd hw))

end

/-- Settles O10: a result is a nearest multiple of its last place, no code of another place comes nearer, and a code's own
significand is such a multiple. -/
theorem roundToNearest : Obligations.RoundToNearest := by
  refine ⟨fun f _ neg m e c r v hr hv => ?_, fun f hf mode draw c sat hc hfin => ?_⟩
  · dsimp only
    rw [mul_assoc]
    exact rne_nearest f neg m e c hr hv
  · have widths : ∀ f ∈ [f64, f32, f16, bf16, e4m3, e5m2, e3m2, e2m3, e2m1], 0 < f.ew := by decide
    exact round_decode f (widths f hf) mode draw sat hc hfin

end Sys2Proof.Machine

/-!
PROOFS. The floating-point lane words and conversions (06 R148 to R154).
-/
namespace Sys2Proof.Machine

/-! ## The range of a rounded code -/

section
variable (f : Fmt)

theorem Fmt.nanCode_lt (hf : 0 < f.fw) : f.nanCode < f.signBit := by
  have he := f.signBit_pos
  have top : (2 ^ f.ew - 1) * 2 ^ f.fw + 2 ^ f.fw = f.signBit := by
    rw [f.signBit_eq, ← Nat.succ_mul, Nat.succ_eq_add_one, Nat.sub_add_cancel (Nat.two_pow_pos _)]
  have half : 2 ^ (f.fw - 1) < 2 ^ f.fw := Nat.pow_lt_pow_right (by omega) (by omega)
  unfold Fmt.nanCode
  split
  · omega
  · rw [f.two_pow_eq_signBit]; omega
  · exact he

/-- A code of a magnitude with a sign put in. -/
theorem Fmt.signed_lt (neg : Bool) {k : Nat} (hk : k < f.signBit) : (if neg then f.signBit else 0) + k < 2 * f.signBit := by
  split <;> omega

theorem finish_lt (hf : 0 < f.fw) (sat neg : Bool) (mag : Nat) : finish f sat neg mag < 2 * f.signBit := by
  unfold finish
  dsimp only
  split
  · next h => exact f.signed_lt neg (Nat.lt_of_le_of_lt h f.maxCode_lt)
  · split
    · exact f.signed_lt neg f.maxCode_lt
    · split
      · exact f.signed_lt neg f.infCode_lt
      · have := f.nanCode_lt hf; omega
      · exact f.signed_lt neg f.maxCode_lt

theorem Fmt.flush_lt (ftz : Bool) {c : Nat} (h : c < 2 * f.signBit) : f.flush ftz c < 2 * f.signBit := by
  have sign : c / f.signBit % 2 * f.signBit ≤ 1 * f.signBit := Nat.mul_le_mul_right _ (by omega)
  have := f.signBit_pos
  unfold Fmt.flush
  split <;> omega

/-- A rounded result is a code of its format. -/
theorem round_lt (hf : 0 < f.fw) (mode : Nat) (sat ftz : Bool) (draw : Nat) (x : Num) :
    round f mode sat ftz draw x < 2 * f.signBit := by
  cases x with
  | nan => have := f.nanCode_lt hf; simp only [round]; omega
  | inf neg =>
    simp only [round]
    split
    · exact f.signed_lt neg f.maxCode_lt
    · exact f.signed_lt neg f.infCode_lt
  | fin neg m e =>
    refine f.flush_lt ftz ?_
    unfold roundRat
    split
    · exact f.signed_lt neg f.signBit_pos
    · exact finish_lt f hf sat neg _

end

/-! ## Elements of a word -/

/-- Two 16-bit elements side by side. -/
theorem ofNat_append_ofNat {x y : Nat} (hx : x < 2 ^ 16) (hy : y < 2 ^ 16) :
    BitVec.ofNat 16 x ++ BitVec.ofNat 16 y = BitVec.ofNat 32 (y + 2 ^ 16 * x) := by
  apply BitVec.eq_of_toNat_eq
  rw [BitVec.toNat_append, BitVec.toNat_ofNat, BitVec.toNat_ofNat, BitVec.toNat_ofNat, Nat.mod_eq_of_lt hx,
    Nat.mod_eq_of_lt hy, ← Nat.shiftLeft_add_eq_or_of_lt hy, Nat.shiftLeft_eq, Nat.mod_eq_of_lt (by omega)]
  omega

/-- An operation on the elements of words whose results are elements. -/
theorem asX2_eq_onHalves {op : Nat → Nat → Nat} (h : ∀ p q, op p q < 2 ^ 16) (p q : Word) :
    asX2 op p q = onHalves op p q := by
  rw [onHalves, ofNat_append_ofNat (h _ _) (h _ _)]
  rfl

@[simp] theorem Fmt.read_false (f : Fmt) (c : Nat) : f.read false c = f.decode c := by rw [Fmt.read, f.flush_false]

/-- The sum, difference and product rounded to nearest (04 R91). -/
theorem fadd_rne (f : Fmt) (z : Bool) (p q : Nat) :
    fadd f 0 z 0 p q = round f 0 false z 0 ((f.read z p).add false (f.read z q)) := rfl
theorem fsub_rne (f : Fmt) (z : Bool) (p q : Nat) :
    fsub f z p q = round f 0 false z 0 ((f.read z p).add false (f.read z q).neg) := rfl
theorem fmul_rne (f : Fmt) (z : Bool) (p q : Nat) :
    fmul f z p q = round f 0 false z 0 ((f.read z p).mul (f.read z q)) := rfl

/-- `VFMA`'s element as 06 R150 states it: one rounding of the exact product and the addend. -/
theorem ffma_eq (f : Fmt) (rm : BitVec 3) (st ng ab : BitVec 1) (ftz : Bool) (draw a b c : Nat) :
    ffma f rm.toNat (st == 1#1) (ng == 1#1) (ab == 1#1) ftz draw a b c =
      round f rm.toNat (st == 1#1) ftz draw
        ((if ng = 1#1 then ((f.read ftz a).mul (f.read ftz b)).neg else (f.read ftz a).mul (f.read ftz b)).add
          (decide (rm.toNat = 3)) (if ab = 1#1 then (f.read ftz c).abs else f.read ftz c)) := by
  simp only [ffma, beq_iff_eq]
  rfl

/-- The whole word, and the two 16-bit elements, of a source. -/
theorem elemOf_word (vs : List Reg) (j : Nat) : elemOf vs j 0 32 = (vs.getD j ⟨0#32, false⟩).val.toNat := by
  simp only [elemOf, Nat.mul_zero, Nat.pow_zero, Nat.div_one]
  exact Nat.mod_eq_of_lt (BitVec.isLt _)
theorem elemOf_low (vs : List Reg) (j : Nat) : elemOf vs j 0 16 = (vs.getD j ⟨0#32, false⟩).val.toNat % 2 ^ 16 := by
  simp [elemOf]
theorem elemOf_high (vs : List Reg) (j : Nat) : elemOf vs j 1 16 = (vs.getD j ⟨0#32, false⟩).val.toNat / 2 ^ 16 := by
  have := (vs.getD j ⟨0#32, false⟩).val.isLt
  simp only [elemOf, Nat.mul_one]
  omega

/-! ## The words of 06 R148 to R151 -/

section lanes
variable {s s' : State} {g g' : Group} {i : Issue} {n : Instr} {gd : BitVec 4}

/-- A word that rounds one F32 result to nearest. -/
theorem laneSingle_writes {a b d : BitVec 7} {op : Nat → Nat → Nat} {num : Num → Num → Num}
    (he : exec n s = laneBin s gd b a d 1 (asWord2 op))
    (ho : ∀ p q, op p q = round f32 0 false false 0 (num (f32.decode p) (f32.decode q)))
    (hr : LaneReady s g i (g.contributing i gd) [a.toNat, b.toNat, d.toNat] []) :
    LaneWrites s s g g n (g.contributing i gd) [d.toNat] fun l _ =>
      ⟨BitVec.ofNat 32 (round f32 0 false false 0 (num (f32.decode (vAt g a l).toNat) (f32.decode (vAt g b l).toNat))),
        tagAt g [a.toNat, b.toNat] l⟩ := by
  have := laneBin_writes he hr
  simpa only [asWord2, ho] using this

/-- A word that rounds one F64 result to nearest. -/
theorem laneDouble_writes {a b d : BitVec 7} {op : Nat → Nat → Nat} {num : Num → Num → Num}
    (he : exec n s = lane64 s gd b a d 7 (asDWord2 op))
    (ho : ∀ p q, op p q = round f64 0 false false 0 (num (f64.decode p) (f64.decode q)))
    (hr : LaneReady s g i (g.contributing i gd)
      ([a.toNat, a.toNat + 1, b.toNat, b.toNat + 1] ++ [d.toNat, d.toNat + 1]) []) :
    LaneWrites s s g g n (g.contributing i gd) [d.toNat, d.toNat + 1] fun l k =>
      ⟨(BitVec.ofNat 64 (round f64 0 false false 0
          (num (f64.decode (pairOf g a l).toNat) (f64.decode (pairOf g b l).toNat))) >>> (32 * (k - d.toNat))).setWidth 32, tagAt g [a.toNat, a.toNat + 1, b.toNat, b.toNat + 1] l⟩ := by
  have := lane64_writes he hr
  simpa only [asDWord2, ho] using this

/-- A word that rounds two 16-bit results to nearest, under FTZ16. -/
theorem laneHalves_writes {a b d : BitVec 7} {f : Fmt} {op : Bool → Nat → Nat → Nat} {num : Num → Num → Num}
    (he : exec n s = laneX2 s gd b a d op) (hf : 0 < f.fw) (hw : 2 * f.signBit = 2 ^ 16)
    (ho : ∀ z p q, op z p q = round f 0 false z 0 (num (f.read z p) (f.read z q)))
    (hr : LaneReady s g i (g.contributing i gd) [a.toNat, b.toNat, d.toNat] []) :
    LaneWrites s s g g n (g.contributing i gd) [d.toNat] fun l _ =>
      ⟨onHalves (fun p q => round f 0 false (ftzOf g) 0 (num (f.read (ftzOf g) p) (f.read (ftzOf g) q)))
        (vAt g a l) (vAt g b l), tagAt g [a.toNat, b.toNat] l⟩ := by
  have op_eq : op (ftzOf g) = fun p q => round f 0 false (ftzOf g) 0 (num (f.read (ftzOf g) p) (f.read (ftzOf g) q)) :=
    funext₂ fun p q => ho _ p q
  have element : ∀ p q, op (ftzOf g) p q < 2 ^ 16 := fun p q => by rw [ho, ← hw]; exact round_lt f hf ..
  have writes := laneX2_writes he hr
  simp only [asX2_eq_onHalves element] at writes
  rwa [op_eq] at writes

/-- `VFMA`'s element of a lane, from the elements of its sources (06 R150). -/
def fmaElem (g : Group) (f : Fmt) (rm : BitVec 3) (st ng ab : BitVec 1) (l draw p q r : Nat) : Nat :=
  round f rm.toNat (st == 1#1) (ftzOf g) (laneDraw g l draw)
    ((if ng = 1#1 then ((f.read (ftzOf g) p).mul (f.read (ftzOf g) q)).neg
      else (f.read (ftzOf g) p).mul (f.read (ftzOf g) q)).add
      (decide (rm.toNat = 3)) (if ab = 1#1 then (f.read (ftzOf g) r).abs else f.read (ftzOf g) r))

section fma
variable {b a d c : BitVec 7} {qc qb qa ab ng st : BitVec 1} {rm : BitVec 3} {es : List QEntry}
  (hr : LaneReady s g i (g.contributing i gd) (vsrcRegs [vsrc qa a, vsrc qb b, vsrc qc c] ++ [d.toNat]) [])
  (hp : Pops s g i false (vsrcQueues [vsrc qa a, vsrc qb b, vsrc qc c]) s' es) (hg : s'.group g.gid = some g')
include hr hp hg

/-- `VFMA.F32`. -/
theorem vfmaF32_writes :
    let srcs := [vsrc qa a, vsrc qb b, vsrc qc c]
    let src := fun l k => (laneVal g es srcs l k).val.toNat
    RoundWrites s s' g g' (.vfmaF32 gd b a d qc qb qa ab ng st rm c) (g.contributing i gd) [d.toNat] (fun l _ =>
      ⟨BitVec.ofNat 32 (fmaElem g f32 rm st ng ab l 0 (src l 0) (src l 1) (src l 2)), laneTag' g es srcs l⟩) rm.toNat 1 := by
  have he : exec (.vfmaF32 gd b a d qc qb qa ab ng st rm c) s = vfma s f32 32 1 gd b a d qc qb qa ab ng st rm c := rfl
  refine laneRound_writes he hr hp hg fun l _ => ?_
  simp only [List.range_one, List.foldl_cons, List.foldl_nil, ffma_eq, elemOf_word, Nat.mul_zero, Nat.pow_zero,
    Nat.one_mul, Nat.zero_add]
  rfl

/-- `VFMA` of two 16-bit elements. -/
theorem vfmaHalves_writes {f : Fmt} (he : exec n s = vfma s f 16 2 gd b a d qc qb qa ab ng st rm c) (hf : 0 < f.fw)
    (hw : 2 * f.signBit = 2 ^ 16) :
    let srcs := [vsrc qa a, vsrc qb b, vsrc qc c]
    let src := fun l k => (laneVal g es srcs l k).val.toNat
    RoundWrites s s' g g' n (g.contributing i gd) [d.toNat] (fun l _ =>
      ⟨BitVec.ofNat 16 (fmaElem g f rm st ng ab l 1 (src l 0 / 2 ^ 16) (src l 1 / 2 ^ 16) (src l 2 / 2 ^ 16)) ++
        BitVec.ofNat 16 (fmaElem g f rm st ng ab l 0 (src l 0 % 2 ^ 16) (src l 1 % 2 ^ 16) (src l 2 % 2 ^ 16)),
        laneTag' g es srcs l⟩) rm.toNat 2 := by
  have element : ∀ l k p q r, fmaElem g f rm st ng ab l k p q r < 2 ^ 16 := fun l k p q r => by
    rw [← hw]; exact round_lt f hf ..
  refine laneRound_writes he hr hp hg fun l _ => ?_
  simp only [ofNat_append_ofNat (element _ _ _ _ _) (element _ _ _ _ _)]
  simp only [List.range_succ, List.range_zero, List.nil_append, List.cons_append, List.foldl_cons, List.foldl_nil, ffma_eq,
    elemOf_low, elemOf_high, Nat.mul_zero, Nat.pow_zero, Nat.one_mul, Nat.zero_add, Nat.mul_one]
  rfl

end fma

/-- `VFMA.F64`, on pairs. -/
theorem vfmaF64_writes {b a d c : BitVec 7} {ab ng st : BitVec 1} {rm : BitVec 3}
    (hr : LaneReady s g i (g.contributing i gd)
      ([a.toNat, a.toNat + 1, b.toNat, b.toNat + 1, c.toNat, c.toNat + 1] ++ [d.toNat, d.toNat + 1]) []) :
    RoundWrites s s g g (.vfmaF64 gd b a d ab ng st rm c) (g.contributing i gd) [d.toNat, d.toNat + 1] (fun l k =>
      let x := (f64.decode (pairOf g a l).toNat).mul (f64.decode (pairOf g b l).toNat)
      let y := f64.decode (pairOf g c l).toNat
      let r := round f64 rm.toNat (st == 1#1) false (laneDraw g l 0)
        ((if ng = 1#1 then x.neg else x).add (decide (rm.toNat = 3)) (if ab = 1#1 then y.abs else y))
      ⟨(BitVec.ofNat 64 r >>> (32 * (k - d.toNat))).setWidth 32,
        tagAt g [a.toNat, a.toNat + 1, b.toNat, b.toNat + 1, c.toNat, c.toNat + 1] l⟩) rm.toNat 1 := by
  have he : exec (.vfmaF64 gd b a d ab ng st rm c) s = execVfmaF64 gd b a d ab ng st rm c s := rfl
  refine laneRound_writes (es := []) he hr (fun _ => rfl) hr.word.here fun l _ => ?_
  rw [pairRegs_eq, ffma_eq]
  simp only [Fmt.read_false]
  rfl

/-! ## Conversions (06 R152 to R154) -/

theorem spanPack_length (t span : Nat) (es : List Nat) : (spanPack t span es).length = span := by simp [spanPack]

/-- The registers of a span with its words. -/
theorem span_zipIdx (d : Nat) (p : Bool) (ws : List Word) :
    (ws.zipIdx.map fun (w, k) => (d + k, (⟨w, p⟩ : Reg))) =
      ((List.range ws.length).map (d + ·)).map fun r => (r, ⟨ws.getD (r - d) 0#32, p⟩) := by
  refine List.ext_getElem (by simp) fun k hk _ => ?_
  have : k < ws.length := by simpa using hk
  simp [this]

/-- The elements that `VCVT` gives a lane from its source words (06 R154). -/
def vcvtElems (g : Group) (dst src : BitVec 4) (sat : BitVec 1) (rm : BitVec 3) (n l : Nat) (ws : List Word) : List Nat :=
  (List.range n).map fun j =>
    convert dst.toNat src.toNat rm.toNat (sat == 1#1) (ftzOf g) (laneDraw g l j) (spanElem src.toNat ws j)

/-- `VCVT` of an accepted pair of types is a rounding lane word over their spans. -/
theorem execVcvt_shape {a d : BitVec 7} {dst src : BitVec 4} {qa sat : BitVec 1} {rm : BitVec 3} {k sd ss : Nat}
    (shape : cvtShape dst.toNat src.toNat = some (k, sd, ss)) :
    execVcvt gd a d dst src qa sat rm s =
      laneRound s gd (if ss = 1 then [vsrc qa a] else (List.range ss).map fun j => VSrc.v (a.toNat + j))
        ((List.range sd).map (d.toNat + ·)) (if dst = 0#4 ∨ src = 0#4 then 7 else 6) 1 rm.toNat k fun h l vs =>
          (spanPack dst.toNat sd (vcvtElems h dst src sat rm k l (vs.map (·.val)))).zipIdx.map fun (w, j) =>
            (d.toNat + j, ⟨w, vs.any (·.poison)⟩) := by
  rw [execVcvt, shape]
  rfl

/-- `VCVT` (06 R154). -/
theorem vcvt_writes {a d : BitVec 7} {dst src : BitVec 4} {qa sat : BitVec 1} {rm : BitVec 3} {es : List QEntry}
    {k sd ss : Nat} (shape : cvtShape dst.toNat src.toNat = some (k, sd, ss)) :
    let srcs := if ss = 1 then [vsrc qa a] else (List.range ss).map fun j => VSrc.v (a.toNat + j)
    let ds := (List.range sd).map (d.toNat + ·)
    LaneReady s g i (g.contributing i gd) (vsrcRegs srcs ++ ds) [] → Pops s g i false (vsrcQueues srcs) s' es →
    s'.group g.gid = some g' →
    RoundWrites s s' g g' (.vcvt gd a d dst src qa sat rm) (g.contributing i gd) ds (fun l r =>
      ⟨(spanPack dst.toNat sd (vcvtElems g dst src sat rm k l ((vsrcVals (g.lane l) l srcs es).map (·.val)))).getD
        (r - d.toNat) 0#32, laneTag' g es srcs l⟩) rm.toNat k := by
  intro srcs ds hr hp hg
  have he : exec (.vcvt gd a d dst src qa sat rm) s = execVcvt gd a d dst src qa sat rm s := rfl
  refine laneRound_writes (he.trans (execVcvt_shape shape)) hr hp hg fun l _ => ?_
  rw [span_zipIdx, spanPack_length]
  rfl

end lanes

/-- Settles O9: each word writes the value of its element, a 16-bit result being an element of its half, and in mode SR its
lanes' draw states advance. -/
theorem laneFloatAndConvert : Obligations.LaneFloatAndConvert := by
  refine ⟨fun s s' g g' i gd b a d c qc qb qa ab ng st rm es => ?_, ?_⟩
  · refine ⟨fun hr => ⟨laneUn_writes (op := asWord1 frcp) rfl hr, laneUn_writes (op := asWord1 frsq) rfl hr,
      laneUn_writes (op := asWord1 fex2) rfl hr, laneUn_writes (op := asWord1 flg2) rfl hr⟩, fun hr => ?_, fun hr => ?_,
      fun hr hp hg => ?_, fun hr => vfmaF64_writes hr⟩
    · exact ⟨laneSingle_writes (num := Num.add false) rfl (fun p q => by simp only [fadd_rne, Fmt.read_false]) hr,
        laneSingle_writes (num := fun x y => x.add false y.neg) rfl (fun p q => by simp only [fsub_rne, Fmt.read_false]) hr,
        laneSingle_writes (num := Num.mul) rfl (fun p q => by simp only [fmul_rne, Fmt.read_false]) hr,
        laneBin_writes (op := asWord2 (fext f32 false)) rfl hr, laneBin_writes (op := asWord2 (fext f32 true)) rfl hr,
        laneHalves_writes (f := f16) (op := fun z => fadd f16 0 z 0) (num := Num.add false) rfl (by decide) (by decide)
          (fadd_rne f16) hr,
        laneHalves_writes (f := f16) (op := fmul f16) (num := Num.mul) rfl (by decide) (by decide) (fmul_rne f16) hr,
        laneHalves_writes (f := bf16) (op := fun z => fadd bf16 0 z 0) (num := Num.add false) rfl (by decide) (by decide)
          (fadd_rne bf16) hr,
        laneHalves_writes (f := bf16) (op := fmul bf16) (num := Num.mul) rfl (by decide) (by decide) (fmul_rne bf16) hr⟩
    · exact ⟨laneDouble_writes (num := Num.add false) rfl (fun p q => by simp only [fadd_rne, Fmt.read_false]) hr,
        laneDouble_writes (num := fun x y => x.add false y.neg) rfl (fun p q => by simp only [fsub_rne, Fmt.read_false]) hr,
        laneDouble_writes (num := Num.mul) rfl (fun p q => by simp only [fmul_rne, Fmt.read_false]) hr,
        lane64_writes (op := asDWord2 (fext f64 false)) rfl hr, lane64_writes (op := asDWord2 (fext f64 true)) rfl hr⟩
    · exact ⟨vfmaF32_writes hr hp hg, vfmaHalves_writes hr hp hg rfl (by decide) (by decide),
        vfmaHalves_writes hr hp hg rfl (by decide) (by decide)⟩
  · intro s s' g g' i gd a d dst src qa sat rm es k sd ss ls srcs ds _ shape hr hp hg
    exact vcvt_writes shape hr hp hg

end Sys2Proof.Machine

/-!
PROOFS. The scalar words (05 R113 to R117): what a write of a scalar register does to a group, what a scalar word does once
its registers are there and its queue sources popped, and the values of the arithmetic.
-/
namespace Sys2Proof.Machine

/-! ## A scalar register written -/

theorem Group.lane_setS (g : Group) (d : Nat) (v : SReg) (l : Nat) : (g.setS d v).lane l = g.lane l := by
  unfold Group.setS
  split <;> rfl

theorem Group.sreg_setS (g : Group) (d r : Nat) (v : SReg) :
    (g.setS d v).sreg r = if r = d ∧ d ≠ 0 then v else g.sreg r := by
  by_cases hd : d = 0
  · simp [Group.setS, hd]
  · by_cases hr : r = 0
    · simp [Group.sreg, hr, Ne.symm hd]
    · simp [Group.setS, Group.sreg, Group.stick, hd, hr]

theorem Group.gstat_setS (g : Group) (d : Nat) (v : SReg) :
    (g.setS d v).gstat = if d ≠ 0 ∧ v.poison = true then g.gstat ||| psnBit else g.gstat := by
  unfold Group.setS
  by_cases hd : d = 0 <;> simp [hd, Group.stick]

/-- A write of `S[d]` that then retires changes that register, PSN where the value is poisoned, and where the group stands
(05 R111). -/
theorem Group.setS_retire_frame (g : Group) (d : Nat) (v : SReg) (n : Nat) : ScalarFrame g ((g.setS d v).retire n) d v := by
  have lanes := (g.setS d v).retire_lane n
  refine ⟨fun r => ?_, ?_, fun l => ?_, ?_⟩
  · rw [← Group.sreg_setS, Group.retire_rest]; rfl
  · rw [Group.retire_gstat, Group.gstat_setS]
  · rw [← Group.lane_setS g d v l]; exact lanes l
  · rw [Group.retire_sregs, Group.retire_gstat]
    refine (Group.retire_rest _ n).trans ?_
    unfold Group.setS
    split <;> rfl

/-! ## Scalar words -/

/-- A scalar word that may run, its queue sources popped, goes on to its effect. -/
theorem scalarOp_runs {s s' : State} {g : Group} {i : Issue} {xs : List SSrc} {dst : List Nat} {es : List QEntry}
    (hr : Ready s g [] [] (ssrcRegs xs ++ dst)) (hp : Pops s g i true (ssrcQueues xs) s' es) (k : State → List SReg → Res) :
    scalarOp s g i xs dst k = k s' (ssrcVals g xs es) := by
  rw [scalarOp, hr, hp]
  rfl

section scalar
variable {s s' : State} {g g' : Group} {i : Issue} {n : Instr} {d : BitVec 5}

/-- A word whose effect on its group is a write of `S[d]`. -/
theorem scalarWrites_of_effect {f : Group → Group} {v : SReg} (he : exec n s = .next (s'.wordEffect g i f))
    (hf : ∀ h, (f h).gid = h.gid) (hg : s'.group g.gid = some g') (hv : f g' = g'.setS d.toNat v) :
    ScalarWrites s s' g g' n d v :=
  ⟨_, _, he, wordEffect_group s' g g' i f hf hg, hv ▸ g'.setS_retire_frame d.toNat v i.len, wordEffect_elsewhere s' g i f hf⟩

/-- A two-source scalar word writes the value of its operation and the tag of either source (05 R113). -/
theorem scalar2_writes {y x : BitVec 1} {b a : BitVec 5} {op : DWord → DWord → DWord} {es : List QEntry} {va vb : SReg}
    {r : DWord} (h : AtWord s g i) (hr : Ready s g [] [] (ssrcRegs [⟨x, a⟩, ⟨y, b⟩] ++ [d.toNat]))
    (hp : Pops s g i true (ssrcQueues [⟨x, a⟩, ⟨y, b⟩]) s' es) (hg : s'.group g.gid = some g')
    (hv : ssrcVals g [⟨x, a⟩, ⟨y, b⟩] es = [va, vb]) (he : exec n s = scalar2 s y x b a d op)
    (hop : op va.val vb.val = r) : ScalarWrites s s' g g' n d ⟨r, va.poison || vb.poison⟩ := by
  refine scalarWrites_of_effect (i := i) (f := fun h => h.setS d.toNat (join2 op [va, vb])) ?_
    (fun _ => Group.setS_gid _ _ _) hg (by rw [← hop]; rfl)
  rw [he, scalar2, onGroup_at h, scalarOp_runs hr hp, hv, finish_done _ _ _ _ rfl]
  rfl

/-- A scalar word of a register and an immediate writes the value of its operation and the register's tag (05 R114). -/
theorem scalar1_writes {a : BitVec 5} {op : DWord → DWord} {r : DWord} (h : AtWord s g i)
    (hr : Ready s g [] [] [a.toNat, d.toNat]) (he : exec n s = scalar1 s a d op) (hop : op (g.sreg a.toNat).val = r) :
    ScalarWrites s s g g n d ⟨r, (g.sreg a.toNat).poison⟩ := by
  refine scalarWrites_of_effect (i := i)
    (f := fun h => h.setS d.toNat ⟨op (h.sreg a.toNat).val, (h.sreg a.toNat).poison⟩) ?_
    (fun _ => Group.setS_gid _ _ _) h.here (by rw [← hop])
  rw [he, scalar1, onGroup_at h, scalarOp_runs (s' := s) (es := []) (xs := [⟨0#1, a⟩]) hr fun _ => rfl,
    finish_done _ _ _ _ rfl]
  rfl

/-- A scalar word without a source writes its value with a clear tag (05 R115). -/
theorem scalar0_writes {v : Group → Issue → DWord} {r : DWord} (h : AtWord s g i) (hr : Ready s g [] [] [d.toNat])
    (he : exec n s = scalar0 s d v) (hv : v g i = r) : ScalarWrites s s g g n d ⟨r, false⟩ := by
  refine scalarWrites_of_effect (i := i) (f := fun h => h.setS d.toNat ⟨v h i, false⟩) ?_
    (fun _ => Group.setS_gid _ _ _) h.here (by rw [← hv])
  rw [he, scalar0, onGroup_at h, scalarOp_runs (s' := s) (es := []) (xs := []) hr fun _ => rfl, finish_done _ _ _ _ rfl]
  rfl

end scalar

/-! ## The interlock -/

/-- A word that may name some S registers may name fewer. -/
theorem Ready.mono {s : State} {g : Group} {ls vs ss rs : List Nat} (h : Ready s g ls vs ss) (hs : ∀ r ∈ rs, r ∈ ss) :
    Ready s g ls vs rs := by
  simp only [Ready, State.hazard, Bool.or_eq_false_iff, List.any_eq_false, List.contains_iff_mem] at h ⊢
  exact ⟨h.1, fun r hr hm => h.2 r hr (hs r hm)⟩

/-! ## Values (05 R113 to R115) -/

theorem dword_add_eq (p q : DWord) : p + q = BitVec.ofNat 64 (p.toNat + q.toNat) := by simp [BitVec.ofNat_add]
theorem dword_sub_eq (p q : DWord) : p - q = BitVec.ofInt 64 (p.toNat - q.toNat) := by
  rw [BitVec.sub_eq_add_neg, sub_eq_add_neg, BitVec.ofInt_add, BitVec.ofInt_neg, BitVec.ofInt_natCast, BitVec.ofInt_natCast,
    BitVec.ofNat_toNat, BitVec.ofNat_toNat]
  simp
theorem dword_mul_eq (p q : DWord) : p * q = BitVec.ofNat 64 (p.toNat * q.toNat) := by simp [BitVec.ofNat_mul]
theorem dword_shiftLeft_eq (p : DWord) (k : Nat) : p <<< k = BitVec.ofNat 64 (p.toNat * 2 ^ k) := by
  apply BitVec.eq_of_toNat_eq
  simp [Nat.shiftLeft_eq]
theorem dword_ushiftRight_eq (p : DWord) (k : Nat) : p >>> k = BitVec.ofNat 64 (p.toNat / 2 ^ k) := by
  apply BitVec.eq_of_toNat_eq
  rw [BitVec.toNat_ushiftRight, Nat.shiftRight_eq_div_pow, BitVec.toNat_ofNat]
  exact (Nat.mod_eq_of_lt ((Nat.div_le_self _ _).trans_lt p.isLt)).symm
theorem dword_sshiftRight_eq (p : DWord) (k : Nat) : p.sshiftRight k = BitVec.ofInt 64 (p.toInt / 2 ^ k) := by
  rw [BitVec.sshiftRight, Int.shiftRight_eq_div_pow]
  rfl
theorem dword_addImm_eq (p : DWord) (m : BitVec 12) : p + m.signExtend 64 = BitVec.ofInt 64 (p.toInt + m.toInt) := by
  rw [BitVec.ofInt_add, BitVec.ofInt_toInt]
  rfl

/-- `SMIN`'s and `SMAX`'s choice by the order of the type. -/
theorem lessS_min (t : BitVec 1) (a b : DWord) : (if lessS t b a then b else a) =
    if t = 0#1 then BitVec.ofInt 64 (min a.toInt b.toInt) else BitVec.ofNat 64 (min a.toNat b.toNat) := by
  unfold lessS
  split
  · simp [min_comm a.toInt, min_def_lt, apply_ite (BitVec.ofInt 64), BitVec.slt]
  · simp [min_comm a.toNat, min_def_lt, apply_ite (BitVec.ofNat 64), BitVec.ult]
theorem lessS_max (t : BitVec 1) (a b : DWord) : (if lessS t a b then b else a) =
    if t = 0#1 then BitVec.ofInt 64 (max a.toInt b.toInt) else BitVec.ofNat 64 (max a.toNat b.toNat) := by
  unfold lessS
  split
  · simp [max_def_lt, apply_ite (BitVec.ofInt 64), BitVec.slt]
  · simp [max_def_lt, apply_ite (BitVec.ofNat 64), BitVec.ult]

/-- The displacement of `SLUI` and `SAPC`. -/
theorem upper20_eq (u : BitVec 20) : upper20 u = BitVec.ofInt 64 (u.toInt * 2 ^ 12) := by
  have value : (u ++ 0#12 : BitVec 32).toInt = u.toInt * 2 ^ 12 := by
    rw [BitVec.toInt_append]
    simp [mul_comm]
  rw [upper20, BitVec.signExtend, value]

/-! ## The select (05 R117) -/

/-- `SSEL` writes the source that its C predicate chooses, with that source's own tag. -/
theorem ssel_writes {s s' : State} {g g' : Group} {i : Issue} {y x : BitVec 1} {c : BitVec 2} {b a d : BitVec 5}
    {es : List QEntry} {va vb : SReg} (h : AtWord s g i)
    (hr : Ready s g [] [] (ssrcRegs [⟨x, a⟩, ⟨y, b⟩] ++ [d.toNat]))
    (hp : Pops s g i true (ssrcQueues [⟨x, a⟩, ⟨y, b⟩]) s' es) (hg : s'.group g.gid = some g')
    (hv : ssrcVals g [⟨x, a⟩, ⟨y, b⟩] es = [va, vb]) :
    ScalarWrites s s' g g' (.ssel y x c b a d) d (if g.creg c.toNat = true then va else vb) := by
  have creg : g'.creg c.toNat = g.creg c.toNat := by rw [hp.poppedOnly h.here hg]; rfl
  refine scalarWrites_of_effect (i := i)
    (f := fun h => h.setS d.toNat ([va, vb].getD (if h.creg c.toNat then 0 else 1) ⟨0#64, false⟩)) ?_
    (fun _ => Group.setS_gid _ _ _) hg ?_
  · show execSsel y x c b a d s = _
    rw [execSsel, onGroup_at h, scalarOp_runs hr hp, hv, finish_done _ _ _ _ rfl]
    rfl
  · rw [creg]
    split <;> rfl

/-- Settles O1: each word by the rule of its form, and the value of its operation. -/
theorem scalarArithmetic : Obligations.ScalarArithmetic := by
  unfold Obligations.ScalarArithmetic
  refine ⟨fun s s' g g' i y x t c b a d es va vb h hr hp hg hv => ?_, fun s g i m n u a d h hr => ?_⟩
  · have two := fun n op r => scalar2_writes (n := n) (op := op) (r := r) h hr hp hg hv
    exact ⟨two _ _ _ rfl (dword_add_eq _ _), two _ _ _ rfl (dword_sub_eq _ _), two _ _ _ rfl rfl, two _ _ _ rfl rfl,
      two _ _ _ rfl rfl, two _ _ _ rfl (dword_shiftLeft_eq _ _), two _ _ _ rfl (dword_ushiftRight_eq _ _),
      two _ _ _ rfl (dword_sshiftRight_eq _ _), two _ _ _ rfl (dword_mul_eq _ _), two _ _ _ rfl rfl,
      two _ _ _ rfl (lessS_min _ _ _), two _ _ _ rfl (lessS_max _ _ _), ssel_writes h hr hp hg hv⟩
  · have one := fun n op r => scalar1_writes (n := n) (op := op) (r := r) h hr
    have none := fun n v r => scalar0_writes (n := n) (v := v) (r := r) h (hr.mono (rs := [d.toNat]) (by simp))
    refine ⟨one _ (· + m.signExtend 64) _ rfl (dword_addImm_eq _ _), one _ (· &&& m.signExtend 64) _ rfl rfl,
      one _ (· ||| m.signExtend 64) _ rfl rfl, one _ (· ^^^ m.signExtend 64) _ rfl rfl,
      one _ (· <<< n.toNat) _ rfl (dword_shiftLeft_eq _ _), one _ (· >>> n.toNat) _ rfl (dword_ushiftRight_eq _ _),
      one _ (·.sshiftRight n.toNat) _ rfl (dword_sshiftRight_eq _ _), none _ (fun _ _ => upper20 u) _ rfl (upper20_eq u),
      none _ (fun _ c => c.hdr + upper20 u) _ rfl ?_⟩
    rw [upper20_eq, BitVec.ofInt_add, BitVec.ofInt_toInt]

end Sys2Proof.Machine

/-!
PROOFS. Scalar accesses (05 R120): the checks of a word's operands, and an operation that a word leaves in flight (02 R37).
-/
namespace Sys2Proof.Machine

/-! ## Checks -/

/-- A word that raises a condition ends in its trap. -/
theorem finish_trap (g : Group) (i : Issue) (s : State) {c : Cond} (h : c.cause ≠ 0) :
    (Res.trap s c).finish g.gid g i = s.raise g.gid i.len c := by
  rw [Res.finish, if_neg h]

/-- Operands without poison raise nothing. -/
theorem sPoison_clean {g : Group} {rs : List Nat} (detail : Nat) (h : ∀ r ∈ rs, (g.sreg r).poison = false) :
    sPoison g detail rs = none := by
  rw [sPoison, findBy_eq_find?, List.find?_eq_none.mpr fun r hr => by simp [h r hr]]
  rfl
/-- The first poisoned operand raises POISON_USE (05 R111). -/
theorem sPoison_first {g : Group} {pre post : List Nat} {r : Nat} (detail : Nat)
    (hpre : ∀ q ∈ pre, (g.sreg q).poison = false) (hr : (g.sreg r).poison = true) :
    sPoison g detail (pre ++ r :: post) =
      some (poisonCond detail r (if detail = 0 then (g.sreg r).val.toNat else 0)) := by
  rw [sPoison, findBy_eq_find?, List.find?_append, List.find?_eq_none.mpr fun q hq => by simp [hpre q hq]]
  simp [hr]

/-! ## Operations in flight -/

theorem Group.lane_countFlag (g : Group) (k : Option Nat) (l : Nat) : (g.countFlag k).lane l = g.lane l := by
  rw [Group.lane, Group.countFlag_lanes]
  rfl
theorem Group.flag_countFlag (g : Group) (f : Option Nat) (k : Nat) :
    (g.countFlag f).flag k = if f = some k then g.flag k + 1 else g.flag k := by
  cases f with
  | none => rfl
  | some j =>
    by_cases h : k = j
    · simp [Group.countFlag, Group.flag, h]
    · simp [Group.countFlag, Group.flag, h, Ne.symm h]

/-- A word that has issued an operation and is done leaves it in flight (02 R37). -/
theorem issued_wordDone (s : State) (g : Group) (i : Issue) (flag : Option Nat) (kind : OpKind) (done : Bool) :
    Issued s ((s.issueOp g flag kind done).wordDone g i) g flag kind done := by
  have rest := elsewhere_wordDone (s.issueOp g flag kind done) g i
  have group := fun k => State.group_modGroup
    { s.newId with ops := s.ops ++ [(⟨s.ids, g.gid, g.core, g.world, g.team, flag, kind, done, 0⟩ : Op)] } g.gid k
    (fun h => h.countFlag flag) fun h => h.countFlag_gid flag
  refine ⟨by rw [rest.rest]; rfl, rest.bytes, fun k hk => ?_, rest.polder, fun g' hg => ?_, ?_⟩
  · rw [rest.others k hk, State.issueOp, group k, if_neg hk]
    rfl
  · have counted : (s.issueOp g flag kind done).group g.gid = some (g'.countFlag flag) := by
      rw [State.issueOp, group g.gid, if_pos rfl]
      exact congrArg (Option.map _) hg
    refine ⟨_, State.group_wordDone i counted, fun k => ?_, fun l => ?_, ?_⟩
    · rw [Group.flag, Group.retire_flags]
      exact g'.flag_countFlag flag k
    · rw [← g'.lane_countFlag flag l]
      exact Group.retire_lane _ _ _
    · rw [Group.retire_flags]
      refine (Group.retire_rest _ _).trans ?_
      cases flag <;> rfl
  · refine rest.rest.trans ?_
    rw [show ((s.issueOp g flag kind done).wordDone g i).ops = (s.issueOp g flag kind done).ops by rw [rest.rest]]
    rfl

/-! ## Places outside the frame window -/

/-- A change of a group that changes nothing. -/
theorem State.modGroup_same (s : State) (gid : Nat) (f : Group → Group) (h : ∀ g, f g = g) : s.modGroup gid f = s := by
  have same : ∀ l : List Group, updBy (fun g => g.gid == gid) f l = l := fun l => by
    induction l with
    | nil => rfl
    | cons a l ih => rw [updBy, ih, h, ite_self]
  rw [State.modGroup, same]

section place
variable {p : Place} (hp : ∀ l c r b, p ≠ .win l c r b)
include hp

theorem loadAcc_outside (g : Group) (n l fid : Nat) (ls : List Loc) : loadAcc g n l fid p ls = ⟨l, fid, ls, [], false⟩ := by
  cases p with
  | win l c r b => exact absurd rfl (hp l c r b)
  | _ => rfl
theorem windowHazard_outside (s : State) (gid : Nat) : s.windowHazard gid [p] = false := by
  cases p with
  | win l c r b => exact absurd rfl (hp l c r b)
  | _ => rfl
theorem windowStores_outside (g : Group) (a : LaneAcc) : g.windowStores [(p, a)] = g := by
  cases p with
  | win l c r b => exact absurd rfl (hp l c r b)
  | _ => rfl

end place

/-! ## `SLD` and `SST` -/

theorem scalarAddr_eq (g : Group) (a : BitVec 5) (m : BitVec 12) :
    scalarAddr g a m = ((g.sreg a.toNat).val + m.signExtend 64).toNat := (BitVec.toNat_add _ _).symm

section access
variable {s s' : State} {g : Group} {i : Issue} {w : BitVec 3} {m : BitVec 12} {a d : BitVec 5} {f : BitVec 1} {p : Place}
  {ls : List Loc}

theorem sPoison_base (hb : (g.sreg a.toNat).poison = true) : sPoison g 0 [a.toNat] =
    some { cause := poisonUse, detail := 0, index := a.toNat, addr := (g.sreg a.toNat).val.toNat } :=
  sPoison_first (pre := []) (post := []) 0 (by simp) hb

variable (h : AtWord s g i) (hr : Ready s g [] [] [a.toNat, d.toNat]) (hf : g.flagFree (i.flag f) = true)
include h hr hf

/-- A poisoned base raises POISON_USE (05 R120). -/
theorem sld_poisoned (hb : (g.sreg a.toNat).poison = true) : exec (.sld w m a d f) s = .next (s.raise g.gid i.len
    { cause := poisonUse, detail := 0, index := a.toNat, addr := (g.sreg a.toNat).val.toNat }) := by
  show execSld w m a d f s = _
  rw [execSld, onGroup_at h]
  simp only [hr, hf, Bool.not_true, Bool.or_false, Bool.false_eq_true, if_false, sPoison_base hb, Res.unless]
  rw [finish_trap _ _ _ (show poisonUse ≠ 0 by decide)]
theorem sst_poisoned (hb : (g.sreg a.toNat).poison = true) : exec (.sst w m a d f) s = .next (s.raise g.gid i.len
    { cause := poisonUse, detail := 0, index := a.toNat, addr := (g.sreg a.toNat).val.toNat }) := by
  show execSst w m a d f s = _
  rw [execSst, onGroup_at h]
  simp only [hr, hf, Bool.not_true, Bool.or_false, Bool.false_eq_true, if_false, sPoison_base hb, Res.unless]
  rw [finish_trap _ _ _ (show poisonUse ≠ 0 by decide)]

variable (hb : (g.sreg a.toNat).poison = false) (hp : ∀ l c r b, p ≠ .win l c r b)
include hb hp

/-- An `SLD` whose address resolves outside the frame window leaves its load in flight. -/
theorem sld_issues (ha : s.access g (pathsLoad (widthBytes w.toNat)) true 0 (widthBytes w.toNat)
      [(64, scalarAddr g a m)] = (s', .ok [(64, p, ls)])) :
    exec (.sld w m a d f) s = .next ((s'.issueOp g (i.flag f)
      (.load d.toNat (widthBytes w.toNat) (4 ≤ w.toNat) true [⟨64, 0, ls, [], false⟩]) false).wordDone g i) := by
  show execSld w m a d f s = _
  rw [execSld, onGroup_at h]
  simp only [hr, hf, Bool.not_true, Bool.or_false, Bool.false_eq_true, if_false, Res.unless, ha, List.map_cons, List.map_nil,
    sPoison_clean 0 (rs := [a.toNat]) (by simpa using hb), windowHazard_outside hp, loadAcc_outside hp]
  rw [finish_done _ _ _ _ rfl]

/-- An `SST` whose address resolves outside the frame window leaves its store in flight, of the low bytes of `S[SD]`. -/
theorem sst_issues (hl : ls ≠ []) (ha : s.access g (pathsStore (widthBytes w.toNat)) true 1 (widthBytes w.toNat)
      [(64, scalarAddr g a m)] = (s', .ok [(64, p, ls)])) :
    exec (.sst w m a d f) s = .next ((s'.issueOp g (i.flag f) (.store (widthBytes w.toNat)
      [⟨64, 0, ls, toBytes (widthBytes w.toNat) (g.sreg d.toNat).val.toNat, (g.sreg d.toNat).poison⟩]) false).wordDone g i) := by
  have kept : ∀ x : LaneAcc, (s'.modGroup g.gid fun h => h.windowStores [(p, x)]) = s' := fun x =>
    State.modGroup_same _ _ _ fun h => windowStores_outside hp h x
  have named : ([(64, p, ls)].filter fun e : Nat × Place × List Loc => e.2.2 != []) = [(64, p, ls)] := by simp [hl]
  show execSst w m a d f s = _
  rw [execSst, onGroup_at h]
  simp only [hr, hf, Bool.not_true, Bool.or_false, Bool.false_eq_true, if_false, Res.unless, ha, List.map_cons, List.map_nil,
    sPoison_clean 0 (rs := [a.toNat]) (by simpa using hb), windowHazard_outside hp, kept, named]
  rw [finish_done _ _ _ _ rfl]

end access

/-- Settles O4: each word traps on its base or leaves its one access in flight. -/
theorem scalarAccess : Obligations.ScalarAccess := by
  unfold Obligations.ScalarAccess
  intro s s' g i w m a d f p ls h hr hf n adr
  refine ⟨fun hb => ⟨sld_poisoned h hr hf hb, sst_poisoned h hr hf hb⟩, fun hb ha hp => ?_, fun hb ha hp hl => ?_⟩
  · exact ⟨_, sld_issues h hr hf hb hp (by rw [scalarAddr_eq]; exact ha), issued_wordDone _ _ _ _ _ _⟩
  · exact ⟨_, sst_issues h hr hf hb hp hl (by rw [scalarAddr_eq]; exact ha), issued_wordDone _ _ _ _ _ _⟩

end Sys2Proof.Machine

/-!
SUPPORT. Maintenance of the L2's dirty lines (05 R131, R132): what each line written back or discarded leaves of memory, and
what maintenance over many lines leaves of each.
-/
namespace Sys2Proof.Machine

/-! ## Bytes put in memory -/

theorem mapGet_putBytes_replicate (m : List Host.Cell) (a n : Nat) (b : Byte) (p : Nat) :
    mapGet 0#8 (putBytes m a (List.replicate n b)) p = if a ≤ p ∧ p < a + n then b else mapGet 0#8 m p := by
  induction n generalizing m a with
  | zero => simp [putBytes]
  | succ n ih =>
    rw [List.replicate_succ, putBytes, ih, mapGet_mapSet]
    by_cases h : p = a
    · rw [if_pos h, ite_self, if_pos (by omega)]
    · rw [if_neg h]
      exact if_congr (by omega) rfl rfl

/-- A later cell of a list hides an earlier one of its address. -/
theorem lastAt_cons (e : Host.Cell) (l : List Host.Cell) (p : Nat) :
    lastAt (e :: l) p = (lastAt l p).or (if e.1 = p then some e.2 else none) := by
  simp only [lastAt, List.reverse_cons, List.find?_append]
  cases l.reverse.find? fun c => c.1 == p with
  | some c => rfl
  | none => by_cases h : e.1 = p <;> simp [h]

theorem mapGet_putCells (m : List Host.Cell) (l : List Host.Cell) (p : Nat) :
    mapGet 0#8 (putCells m l) p = (lastAt l p).getD (mapGet 0#8 m p) := by
  induction l generalizing m with
  | nil => rfl
  | cons e l ih =>
    rw [putCells, ih, mapGet_mapSet, lastAt_cons]
    cases lastAt l p with
    | some b => rfl
    | none => by_cases h : e.1 = p <;> simp [h, eq_comm (a := p)]

/-- An address that no cell of a list names. -/
theorem lastAt_none {l : List Host.Cell} {p : Nat} (h : ∀ c ∈ l, c.1 ≠ p) : lastAt l p = none := by
  rw [lastAt, List.find?_eq_none.mpr fun c hc => by simpa using h c (List.mem_reverse.mp hc)]
  rfl

theorem mapDel_eq_filter {α : Type} (m : List (Nat × α)) (k : Nat) : mapDel m k = m.filter fun e => !(e.1 == k) := by
  induction m with
  | nil => rfl
  | cons e m ih =>
    rw [mapDel, ih]
    by_cases h : e.1 = k <;> simp [h, eq_comm (a := k)]

/-! ## What maintenance leaves alone -/

/-- Maintenance changes memory and what stands beside it, logical times and the polders' counts; no atom, no range and no
group. -/
def Maintained (s t : State) : Prop :=
  t = { s with mem := t.mem, lines := t.lines, lkeys := t.lkeys, dirty := t.dirty, stamps := t.stamps, pldrs := t.pldrs }

theorem Maintained.refl (s : State) : Maintained s s := rfl
theorem Maintained.trans {s t u : State} (h : Maintained s t) (k : Maintained t u) : Maintained s u := by
  unfold Maintained at *
  refine k.trans ?_
  rw [h]
theorem Maintained.foldl {α : Type} (l : List α) (f : State → α → State) (hf : ∀ s a, Maintained s (f s a)) (s : State) :
    Maintained s (l.foldl f s) := by
  induction l generalizing s with
  | nil => exact .refl s
  | cons a l ih => exact (hf s a).trans (ih _)
theorem Maintained.lineSkipped {s t : State} (h : Maintained s t) (ln : Nat) : t.lineSkipped ln = s.lineSkipped ln := by
  rw [h]; rfl
theorem Maintained.owner {s t : State} (h : Maintained s t) (pa : Nat) : t.owner pa = s.owner pa := by rw [h]; rfl
theorem Maintained.group {s t : State} (h : Maintained s t) (k : Nat) : t.group k = s.group k := by rw [h]; rfl

/-- Only logical times and the polders' counts have changed. -/
def TimesOnly (s t : State) : Prop := t = { s with stamps := t.stamps, pldrs := t.pldrs }

theorem TimesOnly.trans {s t u : State} (h : TimesOnly s t) (k : TimesOnly t u) : TimesOnly s u := by
  unfold TimesOnly at *
  refine k.trans ?_
  rw [h]
theorem TimesOnly.foldl {α : Type} (l : List α) (f : State → α → State) (hf : ∀ s a, TimesOnly s (f s a)) (s : State) :
    TimesOnly s (l.foldl f s) := by
  induction l generalizing s with
  | nil => rfl
  | cons a l ih => exact (hf s a).trans (ih _)
theorem timesOnly_meter (s : State) (w m n : Nat) : TimesOnly s (s.meter w m n) := by
  unfold State.meter
  split <;> rfl

/-- A line written back is no longer dirty, and no byte of memory and no codeword changes. -/
theorem cleanLine_timesOnly (s : State) (ln : Nat) :
    TimesOnly { s with dirty := s.dirty.filter fun e => !(e.1 == ln) } (s.cleanLine ln) := by
  have written : TimesOnly { s with dirty := s.dirty.filter fun e => !(e.1 == ln) } (s.writeBack (· == ln)) :=
    TimesOnly.trans (TimesOnly.foldl _ _ (fun _ _ => timesOnly_meter _ _ _ _) _) rfl
  exact written.trans (TimesOnly.foldl _ (fun s a => s.setStamp a ((s.stamp a).2 + 1, (s.stamp a).2 + 1)) (fun _ _ => rfl) _)

/-! ## One line -/

theorem State.dirtyLine_none {s : State} {ln : Nat} : s.dirtyLine ln = none ↔ ln ∉ s.dirty.map Prod.fst := by
  rw [State.dirtyLine, findBy_eq_find?, Option.map_eq_none_iff, List.find?_eq_none]
  simp only [beq_iff_eq, List.mem_map, not_exists, not_and]
theorem State.dirtyLine_mem {s : State} {ln : Nat} {d : DirtyLine} (h : s.dirtyLine ln = some d) : (ln, d) ∈ s.dirty := by
  rw [State.dirtyLine, findBy_eq_find?, Option.map_eq_some_iff] at h
  obtain ⟨e, he, rfl⟩ := h
  have hk : e.1 = ln := by simpa using List.find?_some he
  exact hk ▸ List.mem_of_find?_eq_some he

theorem State.discardLine_dirty (s : State) (ln : Nat) :
    (s.discardLine ln).dirty = s.dirty.filter fun e => !(e.1 == ln) := by
  unfold State.discardLine
  split
  · next h =>
    refine (List.filter_eq_self.mpr fun e he => ?_).symm
    have : e.1 ≠ ln := fun hk => State.dirtyLine_none.mp h (hk ▸ List.mem_map_of_mem he)
    simpa using this
  · exact mapDel_eq_filter _ _
theorem discardLine_maintained (s : State) (ln : Nat) : Maintained s (s.discardLine ln) := by
  unfold State.discardLine
  split <;> rfl

/-- The bytes that the L2 keeps of each dirty line, as HBM holds them, are of that line (log entry 35). -/
def State.Placed (s : State) : Prop := ∀ e ∈ s.dirty, ∀ c ∈ e.2.cells, c.1 / 128 = e.1

/-- A discarded line reads what HBM holds of it (05 R131). -/
theorem State.byte_discardLine {s : State} {ln : Nat} {d : DirtyLine} (hs : s.Placed) (hd : s.dirtyLine ln = some d) (p : Nat) :
    (s.discardLine ln).byte p = if p / 128 = ln then (lastAt d.cells p).getD 0#8 else s.byte p := by
  have cells : ∀ c ∈ d.cells, c.1 / 128 = ln := hs _ (State.dirtyLine_mem hd)
  rw [State.discardLine, hd, State.byte]
  show mapGet 0#8 (putCells (putBytes s.mem (ln * 128) (List.replicate 128 0#8)) d.cells) p = _
  rw [mapGet_putCells, mapGet_putBytes_replicate]
  by_cases h : p / 128 = ln
  · rw [if_pos h, if_pos (by omega)]
  · rw [if_neg h, if_neg (by omega), lastAt_none fun c hc e => h (by rw [← e]; exact cells c hc)]
    rfl
theorem State.line_discardLine {s : State} {ln : Nat} {d : DirtyLine} (hd : s.dirtyLine ln = some d) (k : Nat) :
    (s.discardLine ln).line k = if k = ln then d.was else s.line k := by
  rw [State.discardLine, hd]
  exact State.line_setLine _ _ _ _

/-- A line stands as it did: what the L2 holds of it, its codeword and its bytes. -/
structure LineSame (k : Nat) (s t : State) : Prop where
  dirty : t.dirtyLine k = s.dirtyLine k
  line  : t.line k = s.line k
  bytes : ∀ p, p / 128 = k → t.byte p = s.byte p

theorem LineSame.refl (k : Nat) (s : State) : LineSame k s s := ⟨rfl, rfl, fun _ _ => rfl⟩
theorem LineSame.trans {k : Nat} {s t u : State} (h : LineSame k s t) (j : LineSame k t u) : LineSame k s u :=
  ⟨j.dirty.trans h.dirty, j.line.trans h.line, fun p hp => (j.bytes p hp).trans (h.bytes p hp)⟩

/-- What the L2 holds of a line once another is no longer dirty. -/
theorem State.dirtyLine_filter {s t : State} {ln k : Nat} (h : t.dirty = s.dirty.filter fun e => !(e.1 == ln)) (hk : k ≠ ln) :
    t.dirtyLine k = s.dirtyLine k := by
  rw [State.dirtyLine, State.dirtyLine, h, findBy_eq_find?, findBy_eq_find?, List.find?_filter]
  congr 2
  funext e
  by_cases he : e.1 = k <;> simp [he, hk]

/-! ## Maintenance over lines -/

/-- Maintenance of one dirty line. -/
def State.maintainLine (op : Nat) (pick : Nat → Bool) (s : State) (ln : Nat) : State :=
  if !pick ln || s.lineSkipped ln then s
  else if op = 2 ∧ 48 ≤ s.owner (ln * 128) then s.discardLine ln
  else s.cleanLine ln

theorem State.maintain_eq (s : State) (op : Nat) (pick : Nat → Bool) :
    s.maintain op pick = (s.dirty.map Prod.fst).foldl (State.maintainLine op pick) s := rfl

section line
variable (op : Nat) (pick : Nat → Bool) (s : State) (ln : Nat)

/-- A line that the test does not pick, or that maintenance skips, is left as it is. -/
theorem State.maintainLine_skips (h : pick ln = true → s.lineSkipped ln = true) : s.maintainLine op pick ln = s := by
  rw [State.maintainLine, if_pos]
  cases hp : pick ln <;> simp_all
theorem State.maintainLine_discards (hp : pick ln = true) (hk : s.lineSkipped ln = false) (ho : 48 ≤ s.owner (ln * 128)) :
    s.maintainLine 2 pick ln = s.discardLine ln := by
  simp [State.maintainLine, hp, hk, ho]
theorem State.maintainLine_cleans (hp : pick ln = true) (hk : s.lineSkipped ln = false)
    (ho : ¬ (op = 2 ∧ 48 ≤ s.owner (ln * 128))) : s.maintainLine op pick ln = s.cleanLine ln := by
  rw [State.maintainLine, if_neg (by simp [hp, hk]), if_neg ho]

/-- A line is left as it is, discarded or written back. -/
theorem State.maintainLine_cases :
    (s.maintainLine op pick ln = s ∧ (pick ln = true → s.lineSkipped ln = true)) ∨
    (op = 2 ∧ s.maintainLine op pick ln = s.discardLine ln) ∨ s.maintainLine op pick ln = s.cleanLine ln := by
  by_cases h : pick ln = true → s.lineSkipped ln = true
  · exact .inl ⟨s.maintainLine_skips op pick ln h, h⟩
  · obtain ⟨hp, hk⟩ := Classical.not_imp.mp h
    replace hk := Bool.eq_false_iff.mpr hk
    by_cases ho : op = 2 ∧ 48 ≤ s.owner (ln * 128)
    · obtain ⟨rfl, ho⟩ := ho
      exact .inr (.inl ⟨rfl, s.maintainLine_discards pick ln hp hk ho⟩)
    · exact .inr (.inr (s.maintainLine_cleans op pick ln hp hk ho))

theorem maintainLine_maintained : Maintained s (s.maintainLine op pick ln) := by
  obtain ⟨e, -⟩ | ⟨-, e⟩ | e := s.maintainLine_cases op pick ln <;> rw [e]
  · exact .refl s
  · exact discardLine_maintained s ln
  · exact Maintained.trans (t := { s with dirty := s.dirty.filter fun e => !(e.1 == ln) }) rfl
      (by rw [cleanLine_timesOnly s ln]; rfl)

/-- The dirty lines left: the line itself goes where it is picked and not skipped. -/
theorem State.maintainLine_dirty : (pick ln = true → s.lineSkipped ln = true) ∧ (s.maintainLine op pick ln).dirty = s.dirty ∨
    (s.maintainLine op pick ln).dirty = s.dirty.filter fun e => !(e.1 == ln) := by
  obtain ⟨e, h⟩ | ⟨-, e⟩ | e := s.maintainLine_cases op pick ln <;> rw [e]
  · exact .inl ⟨h, rfl⟩
  · exact .inr (s.discardLine_dirty ln)
  · exact .inr (by rw [cleanLine_timesOnly s ln])

theorem cleanLine_byte (p : Nat) : (s.cleanLine ln).byte p = s.byte p := by rw [cleanLine_timesOnly s ln]; rfl
theorem cleanLine_line (k : Nat) : (s.cleanLine ln).line k = s.line k := by rw [cleanLine_timesOnly s ln]; rfl

variable {op pick s ln}

theorem State.Placed.maintainLine (hs : s.Placed) : (s.maintainLine op pick ln).Placed := by
  obtain ⟨-, e⟩ | e := s.maintainLine_dirty op pick ln
  · rw [State.Placed, e]; exact hs
  · rw [State.Placed, e]; exact fun x hx => hs x (List.mem_of_mem_filter hx)

/-- Maintenance of one line leaves every other as it is. -/
theorem maintainLine_lineSame (hs : s.Placed) {k : Nat} (hk : k ≠ ln) : LineSame k s (s.maintainLine op pick ln) := by
  have gone : ∀ {t : State}, t.dirty = s.dirty.filter (fun e => !(e.1 == ln)) → t.dirtyLine k = s.dirtyLine k :=
    fun h => State.dirtyLine_filter h hk
  obtain ⟨e, -⟩ | ⟨-, e⟩ | e := s.maintainLine_cases op pick ln <;> rw [e]
  · exact .refl k s
  · cases hd : s.dirtyLine ln with
    | none => rw [State.discardLine, hd]; exact .refl k s
    | some d =>
      refine ⟨gone (s.discardLine_dirty ln), ?_, fun p hp => ?_⟩
      · rw [State.line_discardLine hd, if_neg hk]
      · rw [State.byte_discardLine hs hd, if_neg (hp ▸ hk)]
  · exact ⟨gone (by rw [cleanLine_timesOnly s ln]), cleanLine_line s ln k, fun p _ => cleanLine_byte s ln p⟩

end line

section lines
variable {op : Nat} {pick : Nat → Bool}

theorem maintain_maintained (s : State) (op : Nat) (pick : Nat → Bool) : Maintained s (s.maintain op pick) :=
  .foldl _ _ (maintainLine_maintained op pick) s

/-- A line that is dirty after maintenance was so before, and was skipped where it was picked. -/
theorem foldl_maintainLine_dirty (l : List Nat) (s : State) {ln : Nat}
    (h : ln ∈ (l.foldl (State.maintainLine op pick) s).dirty.map Prod.fst) :
    ln ∈ s.dirty.map Prod.fst ∧ (ln ∈ l → pick ln = true → s.lineSkipped ln = true) := by
  induction l generalizing s with
  | nil => exact ⟨h, fun hl => nomatch hl⟩
  | cons a l ih =>
    obtain ⟨hd, hl⟩ := ih _ h
    rw [(maintainLine_maintained op pick s a).lineSkipped] at hl
    obtain ⟨ha, e⟩ | e := s.maintainLine_dirty op pick a <;> rw [e] at hd
    · exact ⟨hd, fun hm hp => (List.mem_cons.mp hm).elim (fun ea => ea ▸ ha (ea ▸ hp)) fun hm => hl hm hp⟩
    · obtain ⟨x, hx, rfl⟩ := List.mem_map.mp hd
      obtain ⟨hx, hne⟩ := List.mem_filter.mp hx
      exact ⟨List.mem_map_of_mem hx, fun hm hp => (List.mem_cons.mp hm).elim (fun ea => absurd ea (by simpa using hne))
        fun hm => hl hm hp⟩
theorem maintain_dirty (s : State) {ln : Nat} (h : ln ∈ (s.maintain op pick).dirty.map Prod.fst) :
    ln ∈ s.dirty.map Prod.fst ∧ (pick ln = true → s.lineSkipped ln = true) := by
  obtain ⟨hd, hl⟩ := foldl_maintainLine_dirty _ s h
  exact ⟨hd, hl hd⟩

/-- Maintenance that discards nothing changes no byte (05 R131). -/
theorem maintain_byte (s : State) (h : op ≠ 2) (p : Nat) : (s.maintain op pick).byte p = s.byte p := by
  rw [s.maintain_eq]
  refine foldl_keeps (State.byte · p) _ _ (fun t a => ?_) s
  obtain ⟨e, -⟩ | ⟨h2, -⟩ | e := t.maintainLine_cases op pick a
  · rw [e]
  · exact absurd h2 h
  · rw [e]; exact cleanLine_byte t a p

/-- Lines that maintenance does not visit are left as they are. -/
theorem foldl_maintainLine_lineSame {l : List Nat} {s : State} (hs : s.Placed) {k : Nat} (hk : k ∉ l) :
    LineSame k s (l.foldl (State.maintainLine op pick) s) := by
  induction l generalizing s with
  | nil => exact .refl k s
  | cons a l ih =>
    rw [List.mem_cons, not_or] at hk
    exact (maintainLine_lineSame hs hk.1).trans (ih hs.maintainLine hk.2)
theorem foldl_maintainLine_placed {l : List Nat} {s : State} (hs : s.Placed) :
    (l.foldl (State.maintainLine op pick) s).Placed := by
  induction l generalizing s with
  | nil => exact hs
  | cons a l ih => exact ih hs.maintainLine

/-- Each dirty line is visited once, when it still stands as it did, and is left as that visit leaves it. -/
theorem maintain_visits {s : State} (hn : (s.dirty.map Prod.fst).Nodup) (hs : s.Placed) {ln : Nat} {d : DirtyLine}
    (hd : s.dirtyLine ln = some d) : ∃ t, Maintained s t ∧ t.Placed ∧ LineSame ln s t ∧
      LineSame ln (t.maintainLine op pick ln) (s.maintain op pick) := by
  obtain ⟨a, b, e⟩ := List.append_of_mem (List.mem_map_of_mem (f := Prod.fst) (State.dirtyLine_mem hd))
  rw [e] at hn
  obtain ⟨-, hb, hab⟩ := List.nodup_append.mp hn
  refine ⟨a.foldl (State.maintainLine op pick) s, .foldl _ _ (maintainLine_maintained op pick) s,
    foldl_maintainLine_placed hs,
    foldl_maintainLine_lineSame hs fun ha => hab _ ha _ List.mem_cons_self rfl, ?_⟩
  rw [s.maintain_eq, e, List.foldl_append, List.foldl_cons]
  exact foldl_maintainLine_lineSame (foldl_maintainLine_placed hs).maintainLine (List.nodup_cons.mp hb).1

/-- An INV discards the lines of worlds of 48 or more that it names, and writes a polder's back (05 R131). -/
theorem maintain_discards {s : State} (hn : (s.dirty.map Prod.fst).Nodup) (hs : s.Placed) {ln : Nat} {d : DirtyLine}
    (hd : s.dirtyLine ln = some d) :
    (pick ln = true → s.lineSkipped ln = false → 48 ≤ s.owner (ln * 128) →
      (s.maintain 2 pick).line ln = d.was ∧
        ∀ p, p / 128 = ln → (s.maintain 2 pick).byte p = (lastAt d.cells p).getD 0#8) ∧
    (pick ln = false ∨ s.lineSkipped ln = true ∨ s.owner (ln * 128) < 48 →
      ∀ p, p / 128 = ln → (s.maintain 2 pick).byte p = s.byte p) := by
  obtain ⟨t, hst, ht, before, after⟩ := maintain_visits (op := 2) (pick := pick) hn hs hd
  rw [← hst.lineSkipped, ← hst.owner]
  rw [← before.dirty] at hd
  refine ⟨fun hp hk ho => ?_, fun hno p hp => ?_⟩
  · rw [t.maintainLine_discards pick ln hp hk ho] at after
    refine ⟨?_, fun p hpl => ?_⟩
    · rw [after.line, State.line_discardLine hd, if_pos rfl]
    · rw [after.bytes p hpl, State.byte_discardLine ht hd, if_pos hpl]
  · rw [after.bytes p hp, ← before.bytes p hp]
    by_cases hk : pick ln = true → t.lineSkipped ln = true
    · rw [t.maintainLine_skips 2 pick ln hk]
    · obtain ⟨hp, hk⟩ := Classical.not_imp.mp hk
      have ho : t.owner (ln * 128) < 48 := (hno.resolve_left (by simp [hp])).resolve_left hk
      rw [t.maintainLine_cleans 2 pick ln hp (Bool.eq_false_iff.mpr hk) fun h => absurd h.2 (Nat.not_le.mpr ho), cleanLine_byte]

end lines

end Sys2Proof.Machine

/-!
PROOFS. Translation and cache maintenance (05 R129 to R132, 17 R391).
-/
namespace Sys2Proof.Machine

/-! ## Words of a group's counts -/

/-- A group read after a change of its own. -/
theorem State.group_modGroup_own {s : State} {gid : Nat} {g : Group} {f : Group → Group} (hg : s.group gid = some g)
    (hf : ∀ h, (f h).gid = h.gid) : (s.modGroup gid f).group gid = some (f g) := by
  rw [State.group_modGroup _ _ _ _ hf, if_pos rfl, hg]
  rfl

/-- A group whose counts and flags change and whose word then retires. -/
theorem groupOnly_retire {g k : Group} {x y : Nat} {z : List (Nat × Nat)} (n : Nat)
    (h : k = { g with tlbinv := x, cmaint := y, flags := z }) : GroupOnly g (k.retire n) x y z := by
  subst h
  exact ⟨fun l => Group.retire_lane _ n l, Group.retire_rest _ n⟩

section word
variable {s : State} {g : Group} {i : Issue} (h : AtWord s g i)
include h

/-- A word that is done with no effect goes on (02 R37). -/
theorem wordDone_groupOnly : ∃ k, (s.wordDone g i).group g.gid = some k ∧ GroupOnly g k g.tlbinv g.cmaint g.flags :=
  ⟨_, State.group_wordDone i h.here, groupOnly_retire _ rfl⟩

/-! ## Translations (05 R129, R130) -/

theorem tlbsync_goes (h0 : g.tlbinv = 0) : ∃ t k, exec .tlbsync s = .next t ∧ t.group g.gid = some k ∧
    GroupOnly g k 0 g.cmaint g.flags ∧ Elsewhere s t g := by
  obtain ⟨k, hk, hg⟩ := wordDone_groupOnly h
  refine ⟨s.wordDone g i, k, ?_, hk, h0 ▸ hg, elsewhere_wordDone s g i⟩
  show execTlbsync s = _
  rw [execTlbsync, onGroup_at h, if_pos h0, finish_done _ _ _ _ rfl]
theorem tlbsync_waits (h0 : g.tlbinv ≠ 0) : exec .tlbsync s = .next s := by
  show execTlbsync s = _
  rw [execTlbsync, onGroup_at h, if_neg h0]
  rfl

/-- The registers that a `TLBINV` of a KIND reads. -/
def tlbinvReads (k : BitVec 2) (b a : BitVec 5) : List Nat :=
  if k = 2#2 then [] else if k = 1#2 then [b.toNat] else [a.toNat, b.toNat]

/-- The poisoned operands of a `TLBINV` raise POISON_USE, the first of them. -/
theorem tlbinv_poisoned {sf k : BitVec 2} {b a : BitVec 5} {pre post : List Nat} {r : Nat}
    (hl : tlbinvReads k b a = pre ++ r :: post) (hr : Ready s g [] [] (pre ++ r :: post))
    (hpre : ∀ q ∈ pre, (g.sreg q).poison = false) (hp : (g.sreg r).poison = true) :
    exec (.tlbinv sf k b a) s = .next (s.raise g.gid i.len { cause := poisonUse, detail := 1, index := r }) := by
  rw [tlbinvReads] at hl
  show execTlbinv sf k b a s = _
  rw [execTlbinv, onGroup_at h]
  simp only [hl, hr, Bool.false_eq_true, if_false, sPoison_first 1 hpre hp, Res.unless]
  rw [finish_trap _ _ _ (show poisonUse ≠ 0 by decide)]
  rfl

/-- The machine once a `TLBINV` of `g` has marked the translations it names: those of every world, or of a world that is
there. -/
def State.tlbinvMarked (s : State) (g : Group) (sf k : BitVec 2) (b a : BitVec 5) : State :=
  if k = 2#2 ∨ ((g.sreg b.toNat).val.toNat % 64 < 48 ∧ (s.polder ((g.sreg b.toNat).val.toNat % 64)).state ≠ .free) then
    s.invalidate g.gid k.toNat sf.toNat (g.sreg a.toNat).val.toNat ((g.sreg b.toNat).val.toNat % 64)
  else s

omit h in
theorem State.tlbinvMarked_rest (sf k : BitVec 2) (b a : BitVec 5) :
    s.tlbinvMarked g sf k b a = { s with tlb := (s.tlbinvMarked g sf k b a).tlb } := by
  unfold State.tlbinvMarked
  split <;> rfl
omit h in
theorem State.tlbinvMarked_tlb (sf k : BitVec 2) (b a : BitVec 5) : (s.tlbinvMarked g sf k b a).tlb = s.tlb.map fun e =>
    if (k = 2#2 ∨ ((g.sreg b.toNat).val.toNat % 64 < 48 ∧ (s.polder ((g.sreg b.toNat).val.toNat % 64)).state ≠ .free)) ∧
      e.named k.toNat sf.toNat (g.sreg a.toNat).val.toNat ((g.sreg b.toNat).val.toNat % 64) = true then
        { e with stale := true, marks := g.gid :: e.marks } else e := by
  unfold State.tlbinvMarked
  split
  · next here => simp only [here, true_and]; rfl
  · next here => simp [here]

/-- A `TLBINV` marks the translations it names and counts one invalidation (05 R129). -/
theorem tlbinv_runs {sf k : BitVec 2} {b a : BitVec 5} (hr : Ready s g [] [] [a.toNat, b.toNat])
    (ha : (g.sreg a.toNat).poison = false) (hb : (g.sreg b.toNat).poison = false) :
    exec (.tlbinv sf k b a) s = .next ((s.tlbinvMarked g sf k b a).wordEffect g i fun g =>
      { g with tlbinv := g.tlbinv + 1 }) := by
  have reads : ∀ r ∈ tlbinvReads k b a, r ∈ [a.toNat, b.toNat] := by
    intro r hm
    unfold tlbinvReads at hm
    split at hm
    · exact nomatch hm
    · split at hm
      · exact List.mem_cons_of_mem _ hm
      · exact hm
  have clean : sPoison g 1 (tlbinvReads k b a) = none := sPoison_clean 1 fun r hm => by
    obtain rfl | rfl : r = a.toNat ∨ r = b.toNat := by simpa using reads r hm
    · exact ha
    · exact hb
  have ready := hr.mono reads
  unfold tlbinvReads at clean ready
  show execTlbinv sf k b a s = _
  rw [execTlbinv, onGroup_at h]
  simp only [ready, Bool.false_eq_true, if_false, clean, Res.unless]
  rw [finish_done _ _ _ _ rfl]
  rfl
theorem tlbinv_marks {sf k : BitVec 2} {b a : BitVec 5} (hr : Ready s g [] [] [a.toNat, b.toNat])
    (ha : (g.sreg a.toNat).poison = false) (hb : (g.sreg b.toNat).poison = false) :
    ∃ t x, exec (.tlbinv sf k b a) s = .next t ∧ t.group g.gid = some x ∧
      GroupOnly g x (g.tlbinv + 1) g.cmaint g.flags ∧ (∀ p, t.byte p = s.byte p) ∧
      t.tlb = (s.tlbinvMarked g sf k b a).tlb := by
  let u := s.tlbinvMarked g sf k b a
  have marked : u = { s with tlb := u.tlb } := s.tlbinvMarked_rest sf k b a
  have rest := wordEffect_elsewhere u g i (fun g => { g with tlbinv := g.tlbinv + 1 }) fun _ => rfl
  refine ⟨_, _, tlbinv_runs h hr ha hb, wordEffect_group u g g i _ (fun _ => rfl) ?_, groupOnly_retire _ rfl,
    fun p => (rest.bytes p).trans ?_, ?_⟩
  · rw [marked]; exact h.here
  · rw [marked]; rfl
  · rw [rest.rest]

end word

/-- The translations that remain are those that were not marked. -/
theorem mem_dropStale (s : State) (m w : Nat) (e : TlbEntry) :
    e ∈ (s.dropStale m w).tlb ↔ e ∈ s.tlb ∧ e.markedBy m w = false := by
  simp [State.dropStale]

/-- INVCTL written with GO (17 R391). -/
theorem writeInvctl_go {s : State} {w : Nat} (h : (s.polder w).invgo = false) (kind : Bool) :
    s.writeInvctl w true kind = (s.setPolder w { s.polder w with invkind := kind, invgo := true }).invalidate 0
      (if kind then 1 else 0) 1 (s.polder w).invaddr.toNat w := by
  simp [State.writeInvctl, h]

/-! ## Caches (05 R131, R132) -/

/-- What an INV of the lines that a test names does: a dirty line of a world of 48 or more reads what it held before it became
dirty, any other reads as before (05 R131; log entry 35). -/
def State.Discards (s t : State) (pick : Nat → Prop) : Prop :=
  (s.dirty.map Prod.fst).Nodup → s.Placed → (∀ p, s.dirtyLine (p / 128) = none → t.byte p = s.byte p) ∧
    ∀ ln e, s.dirtyLine ln = some e →
      (pick ln → s.lineSkipped ln = false → t.dirtyLine ln = none) ∧
      (pick ln → s.lineSkipped ln = false → 48 ≤ s.owner (ln * 128) →
        t.line ln = e.was ∧ ∀ p, p / 128 = ln → t.byte p = (lastAt e.cells p).getD 0#8) ∧
      (¬ pick ln ∨ s.lineSkipped ln = true ∨ s.owner (ln * 128) < 48 → ∀ p, p / 128 = ln → t.byte p = s.byte p)

theorem maintain_Discards (s : State) (pick : Nat → Bool) : s.Discards (s.maintain 2 pick) (pick · = true) := by
  intro hn hs
  refine ⟨fun p hp => ?_, fun ln e hd => ?_⟩
  · exact (foldl_maintainLine_lineSame hs (State.dirtyLine_none.mp hp)).bytes p rfl
  · obtain ⟨gone, kept⟩ := maintain_discards (pick := pick) hn hs hd
    refine ⟨fun hp hk => ?_, gone, fun hno => kept (hno.imp_left Bool.eq_false_iff.mpr)⟩
    refine State.dirtyLine_none.mpr fun hm => ?_
    rw [(maintain_dirty s hm).2 hp] at hk
    cases hk

/-- What a maintenance word leaves, of an operation and the lines that a test names. -/
structure Maintains (s t : State) (g : Group) (o : BitVec 2) (pick : Nat → Bool) : Prop where
  group : ∃ k, t.group g.gid = some k ∧ GroupOnly g k g.tlbinv (g.cmaint + 1) g.flags
  clean : o ≠ 2#2 → (∀ p, t.byte p = s.byte p) ∧ ∀ ln ∈ t.dirty.map Prod.fst, ln ∈ s.dirty.map Prod.fst ∧
    (pick ln = true → s.lineSkipped ln = true)
  inv   : o = 2#2 → s.Discards t (pick · = true)

/-- A word whose effect is maintenance and one more of it counted. -/
theorem maintains_wordEffect {s : State} {g : Group} (i : Issue) (hg : s.group g.gid = some g) (o : BitVec 2)
    (pick : Nat → Bool) : Maintains s ((s.maintain o.toNat pick).wordEffect g i fun g => { g with cmaint := g.cmaint + 1 })
      g o pick := by
  let u := s.maintain o.toNat pick
  have group := wordEffect_group u g g i (fun g => { g with cmaint := g.cmaint + 1 }) (fun _ => rfl)
    (by rw [(maintain_maintained s o.toNat pick).group, hg])
  have rest := wordEffect_elsewhere u g i (fun g => { g with cmaint := g.cmaint + 1 }) fun _ => rfl
  show Maintains s (u.wordEffect g i fun g => { g with cmaint := g.cmaint + 1 }) g o pick
  generalize (u.wordEffect g i fun g => { g with cmaint := g.cmaint + 1 }) = t at group rest ⊢
  have dirty : t.dirty = u.dirty := by rw [rest.rest]
  refine ⟨⟨_, group, groupOnly_retire _ rfl⟩,
    fun ho => ⟨fun p => ?_, fun ln hm => ?_⟩, ?_⟩
  · rw [rest.bytes]
    exact maintain_byte s (fun e => ho (BitVec.eq_of_toNat_eq e)) p
  · rw [dirty] at hm
    exact maintain_dirty s hm
  · rintro rfl hn hs
    obtain ⟨clean, lines⟩ := maintain_Discards s pick hn hs
    have dirtyLine : ∀ ln, t.dirtyLine ln = u.dirtyLine ln := fun ln => by rw [State.dirtyLine, dirty]; rfl
    have line : ∀ ln, t.line ln = u.line ln := fun ln => by rw [rest.rest]; rfl
    refine ⟨fun p hp => (rest.bytes p).trans (clean p hp), fun ln e hd => ?_⟩
    simp only [dirtyLine, line, rest.bytes]
    exact lines ln e hd

section cache
variable {s : State} {g : Group} {i : Issue} {o : BitVec 2} {b a : BitVec 5} (h : AtWord s g i)
include h

/-- The lines that overlap the physical range of a `CMAINT`. -/
def Group.inRange (g : Group) (b a : BitVec 5) (ln : Nat) : Bool :=
  (g.sreg b.toNat).val.toNat != 0 && (g.sreg a.toNat).val.toNat < (ln + 1) * 128 &&
    ln * 128 < (g.sreg a.toNat).val.toNat + (g.sreg b.toNat).val.toNat

theorem cmaint_maintains (hr : Ready s g [] [] [a.toNat, b.toNat]) (ha : (g.sreg a.toNat).poison = false)
    (hb : (g.sreg b.toNat).poison = false) : ∃ t, exec (.cmaint o b a) s = .next t ∧ Maintains s t g o (g.inRange b a) := by
  refine ⟨_, ?_, maintains_wordEffect i h.here o _⟩
  have clean : sPoison g 1 [a.toNat, b.toNat] = none := sPoison_clean 1 (by simp [ha, hb])
  show execCmaint o b a s = _
  rw [execCmaint, onGroup_at h]
  simp only [hr, Bool.false_eq_true, if_false, clean, Res.unless]
  rw [finish_done _ _ _ _ rfl]
  rfl
theorem cmaintW_maintains (hr : Ready s g [] [] [a.toNat]) (ha : (g.sreg a.toNat).poison = false) :
    ∃ t, exec (.cmaintW o a) s = .next t ∧ Maintains s t g o (s.inWays ((g.sreg a.toNat).val.toNat % 64)) := by
  refine ⟨_, ?_, maintains_wordEffect i h.here o _⟩
  have clean : sPoison g 1 [a.toNat] = none := sPoison_clean 1 (by simp [ha])
  show execCmaintW o a s = _
  rw [execCmaintW, onGroup_at h]
  simp only [hr, Bool.false_eq_true, if_false, clean, Res.unless]
  rw [finish_done _ _ _ _ rfl]
  rfl

theorem cmaint_poisoned {pre post : List Nat} {r : Nat} (hl : [a.toNat, b.toNat] = pre ++ r :: post)
    (hr : Ready s g [] [] [a.toNat, b.toNat]) (hpre : ∀ q ∈ pre, (g.sreg q).poison = false) (hp : (g.sreg r).poison = true) :
    exec (.cmaint o b a) s = .next (s.raise g.gid i.len { cause := poisonUse, detail := 1, index := r }) := by
  show execCmaint o b a s = _
  rw [execCmaint, onGroup_at h]
  simp only [hl, hl ▸ hr, Bool.false_eq_true, if_false, sPoison_first 1 hpre hp, Res.unless]
  rw [finish_trap _ _ _ (show poisonUse ≠ 0 by decide)]
  rfl
theorem cmaintW_poisoned (hr : Ready s g [] [] [a.toNat]) (hp : (g.sreg a.toNat).poison = true) :
    exec (.cmaintW o a) s = .next (s.raise g.gid i.len { cause := poisonUse, detail := 1, index := a.toNat }) := by
  have poisoned := sPoison_first (pre := []) (post := []) 1 (by simp) hp
  rw [List.nil_append] at poisoned
  show execCmaintW o a s = _
  rw [execCmaintW, onGroup_at h]
  simp only [hr, Bool.false_eq_true, if_false, poisoned, Res.unless]
  rw [finish_trap _ _ _ (show poisonUse ≠ 0 by decide)]
  rfl

theorem csync_goes (h0 : g.cmaint = 0) : ∃ t k, exec .csync s = .next t ∧ t.group g.gid = some k ∧
    GroupOnly g k g.tlbinv 0 g.flags ∧ Elsewhere s t g := by
  obtain ⟨k, hk, hg⟩ := wordDone_groupOnly h
  refine ⟨s.wordDone g i, k, ?_, hk, h0 ▸ hg, elsewhere_wordDone s g i⟩
  show execCsync s = _
  rw [execCsync, onGroup_at h, if_pos h0, finish_done _ _ _ _ rfl]
theorem csync_waits (h0 : g.cmaint ≠ 0) : exec .csync s = .next s := by
  show execCsync s = _
  rw [execCsync, onGroup_at h, if_neg h0]
  rfl

end cache

theorem Group.inRange_iff (g : Group) (b a : BitVec 5) (ln : Nat) : g.inRange b a ln = true ↔
    (g.sreg b.toNat).val.toNat ≠ 0 ∧ (g.sreg a.toNat).val.toNat < (ln + 1) * 128 ∧
      ln * 128 < (g.sreg a.toNat).val.toNat + (g.sreg b.toNat).val.toNat := by
  simp [Group.inRange, and_assoc]

/-- Settles O21: each word by the rule of its effect, translations by their marks and lines by what maintenance leaves. -/
theorem maintenance : Obligations.Maintenance := by
  unfold Obligations.Maintenance
  refine ⟨⟨fun s g i sf k b a h => ⟨fun hr ha hb _ => ?_, fun pre r post hl hr hpre hp => tlbinv_poisoned h hl hr hpre hp,
    tlbsync_goes h, tlbsync_waits h⟩, fun s gid g hg hn hu => ?_, fun s w hi => ⟨?_, ?_⟩, fun s w hi hu => ?_⟩,
    fun s g i o b a h => ?_, fun s gid g hg => ?_⟩
  · obtain ⟨t, x, he, hx, hg, hm, htlb⟩ := tlbinv_marks (sf := sf) (k := k) h hr ha hb
    exact ⟨t, x, he, hx, hg, hm, htlb.trans (s.tlbinvMarked_tlb sf k b a)⟩
  · refine ⟨(s.dropStale gid 0).modGroup gid fun g => { g with tlbinv := 0 }, ?_, ?_, mem_dropStale s gid 0, fun _ => rfl⟩
    · show execTlbinvCompletion gid s = _
      simp [execTlbinvCompletion, hg, hn, hu]
    · exact State.group_modGroup_own (s := s.dropStale gid 0) hg fun _ => rfl
  · refine ⟨s.writeInvctl w true false, rfl, ?_⟩
    rw [writeInvctl_go hi]
    exact ⟨congrArg Polder.invgo ((State.polder_setPolder s w w _).trans (if_pos rfl)), rfl, rfl⟩
  · refine ⟨s.writeInvctl w true true, rfl, ?_⟩
    rw [writeInvctl_go hi]
    refine ⟨congrArg Polder.invgo ((State.polder_setPolder s w w _).trans (if_pos rfl)), rfl, ?_⟩
    simp [State.invalidate, TlbEntry.named, State.setPolder]
  · refine ⟨(s.dropStale 0 w).setPolder w { s.polder w with invgo := false }, ?_, by simp, rfl, mem_dropStale s 0 w⟩
    show execInvctlCompletion w s = _
    simp [execInvctlCompletion, hi, hu]
  · refine ⟨fun hr r hp => ?_, fun hr hp => cmaintW_poisoned h hr hp, fun hr ha hb => ?_, fun hr ha => ?_, csync_goes h,
      csync_waits h⟩
    · obtain ⟨hp, rfl⟩ | ⟨ha, hp, rfl⟩ := hp
      · exact cmaint_poisoned h (pre := []) rfl hr (by simp) hp
      · exact cmaint_poisoned h (pre := [a.toNat]) rfl hr (by simpa using ha) hp
    · obtain ⟨t, he, ⟨k, hk, hg⟩, clean, inv⟩ := cmaint_maintains (o := o) h hr ha hb
      simp only [g.inRange_iff] at clean inv
      refine ⟨t, k, he, hk, hg, fun ho => ⟨(clean ho).1, fun ln hm => ?_⟩, inv⟩
      obtain ⟨hd, hs⟩ := (clean ho).2 ln hm
      exact ⟨hd, fun hn hlo hhi => hs ⟨hn, hlo, hhi⟩⟩
    · obtain ⟨t, he, ⟨k, hk, hg⟩, clean, inv⟩ := cmaintW_maintains (o := o) h hr ha
      exact ⟨t, k, he, hk, hg, clean, inv⟩
  · exact ⟨s.modGroup gid fun g => { g with cmaint := 0 }, rfl, State.group_modGroup_own hg fun _ => rfl, rfl⟩

end Sys2Proof.Machine

/-!
PROOFS. Queues and parked lanes (05 R124, 08 R210 to R214): the pop of a Q register, the bindings that `QBIND` and `QCLOSE`
make and end, and the return of a J register's lanes.
-/
namespace Sys2Proof.Machine

/-! ## Queue objects -/

/-- A queue object read after a change of its own, by a change that keeps its gang and number. -/
theorem State.queue_modQueue {s : State} {gang obj : Nat} {q : Queue} (f : Queue → Queue)
    (hf : ∀ q, (f q).gang = q.gang ∧ (f q).obj = q.obj) (hq : s.queue gang obj = some q) :
    (s.modQueue gang obj f).queue gang obj = some (f q) := by
  unfold State.queue State.modQueue at *
  rw [findBy_updBy _ _ _ _ fun a _ => by rw [(hf a).1, (hf a).2], hq, Option.map_some, if_pos (findBy_some hq)]
theorem State.queue_names {s : State} {gang obj : Nat} {q : Queue} (hq : s.queue gang obj = some q) :
    q.gang = gang ∧ q.obj = obj := by
  simpa using findBy_some hq

/-! ## Reads of a Q register (08 R211) -/

/-- A source that may be read of its object: no scalar read of a vector object (01 R21). -/
theorem Queue.reads {q : Queue} {scalar : Bool} (h : scalar = true → q.vector = false) : (scalar && q.vector) = false := by
  cases scalar
  · rfl
  · exact h rfl

section pop
variable {s : State} {g : Group} {k : Nat} {b : QBind} {q : Queue} {scalar : Bool}
  (hb : findBy (fun e => e.1 == k) g.qregs = some (k, b)) (hc : b.producer = false)
  (hq : s.queue (s.gangOf g) b.obj = some q) (hv : scalar = true → q.vector = false)
include hb hc hq hv

/-- A read where an entry is there takes the head. -/
theorem State.pop_head {e : QEntry} {es : List QEntry} (he : q.entries = e :: es) : s.pop g k scalar =
    .entry ((s.modQueue (s.gangOf g) b.obj fun q => { q with entries := es }).modGroup g.gid (Group.takes e)) e := by
  obtain ⟨hgang, hobj⟩ := State.queue_names hq
  simp only [State.pop, hb, hq, hc, Queue.reads hv, he, hgang, hobj, Bool.false_eq_true, if_false]
  rfl

/-- A pop takes the head from its queue and raises its group's clock to the entry's (05 R124). -/
theorem State.pop_takes (hg : s.group g.gid = some g) {e : QEntry} {es : List QEntry} (he : q.entries = e :: es) :
    ∃ t h, s.pop g k scalar = .entry t e ∧ t.queue (s.gangOf g) b.obj = some { q with entries := es } ∧
      t.group g.gid = some h ∧ h = { g with lclock := max g.lclock e.clock, popped := g.popped ++ [e] } ∧ t.mem = s.mem :=
  ⟨_, _, s.pop_head hb hc hq hv he, State.queue_modQueue _ (fun _ => ⟨rfl, rfl⟩) hq,
    State.group_modGroup_own (s := s.modQueue _ _ _) hg fun _ => rfl, rfl, rfl⟩
/-- An empty queue stalls while its producer lives. -/
theorem State.pop_stalls (he : q.entries = []) (hl : q.live = true) : s.pop g k scalar = .stall := by
  unfold Queue.live at hl
  cases hp : q.producer with
  | group _ | stream _ | replies _ => simp [State.pop, hb, hq, hc, Queue.reads hv, he, hp]
  | never | closed | faulted _ => simp [hp] at hl
/-- It raises QUEUE_ORPHAN once its producer has closed or faulted, with the record of the fault. -/
theorem State.pop_closed (he : q.entries = []) (hp : q.producer = .closed) : s.pop g k scalar = .orphan 0#32 := by
  simp [State.pop, hb, hq, hc, Queue.reads hv, he, hp]
theorem State.pop_faulted {r : BitVec 32} (he : q.entries = []) (hp : q.producer = .faulted r) :
    s.pop g k scalar = .orphan r := by
  simp [State.pop, hb, hq, hc, Queue.reads hv, he, hp]

end pop

/-! ## Bindings (08 R210, R212) -/

/-- A fold of changes of queue objects changes no more than those. -/
theorem foldl_modQueue_rest {α : Type} (l : List α) (gang : Nat) (obj : α → Nat) (f : α → Queue → Queue) (s : State) :
    ∃ qs, l.foldl (fun s e => s.modQueue gang (obj e) (f e)) s = { s with queues := qs } := by
  induction l generalizing s with
  | nil => exact ⟨s.queues, rfl⟩
  | cons a l ih =>
    obtain ⟨qs, h⟩ := ih (s.modQueue gang (obj a) (f a))
    exact ⟨qs, h.trans rfl⟩

/-- The end of one binding changes queue objects and the Q registers of its group. -/
theorem State.closeQ_eq (s : State) (g : Group) (k : Nat) : ∃ qs, s.closeQ g k =
    (({ s with queues := qs }.modGroup g.gid fun h => { h with qregs := [] }).modGroup g.gid fun h =>
      { h with qregs := g.qregs.filter fun e => e.1 != k }) := by
  unfold State.closeQ State.endBindings
  obtain ⟨qs, h⟩ := foldl_modQueue_rest (g.qregs.filter fun e => e.1 == k) (s.gangOf g) (fun e => e.2.obj) _ s
  exact ⟨qs, by rw [← h]; rfl⟩
theorem State.mem_closeQ (s : State) (g : Group) (k : Nat) : (s.closeQ g k).mem = s.mem := by
  obtain ⟨qs, h⟩ := s.closeQ_eq g k
  rw [h]
  rfl
theorem State.group_closeQ {s : State} {g : Group} (k : Nat) (hg : s.group g.gid = some g) :
    (s.closeQ g k).group g.gid = some { g with qregs := g.qregs.filter fun e => e.1 != k } := by
  obtain ⟨qs, h⟩ := s.closeQ_eq g k
  rw [h]
  have ended := State.group_modGroup_own (s := { s with queues := qs }) (f := fun h => { h with qregs := [] }) hg fun _ => rfl
  exact State.group_modGroup_own (g := { g with qregs := [] }) ended fun _ => rfl

/-- The entry just listed is the first of its key. -/
theorem findBy_mapIns {α : Type} (m : List (Nat × α)) (k : Nat) (v : α) :
    findBy (fun e => e.1 == k) (mapIns m k v) = some (k, v) := by
  induction m with
  | nil => simp [mapIns, findBy]
  | cons e m ih =>
    rw [mapIns]
    split
    · simp [findBy]
    · next hne =>
      split
      · simp [findBy]
      · simp [findBy, ih, Ne.symm hne]

theorem State.queue_wordDone (s : State) (g : Group) (i : Issue) (gang obj : Nat) :
    (s.wordDone g i).queue gang obj = s.queue gang obj := by
  rw [(elsewhere_wordDone s g i).rest]
  rfl
theorem State.mem_wordDone (s : State) (g : Group) (i : Issue) : (s.wordDone g i).mem = s.mem := by
  rw [(elsewhere_wordDone s g i).rest]

section word
variable {s : State} {g : Group} {i : Issue} (h : AtWord s g i)
include h

/-- `QCLOSE` ends the register's binding. -/
theorem qclose_unbinds (q : BitVec 2) : ∃ t x, exec (.qclose q) s = .next t ∧ t.mem = s.mem ∧ t.group g.gid = some x ∧
    x.qregs = g.qregs.filter fun e => e.1 != q.toNat := by
  refine ⟨(s.closeQ g q.toNat).wordDone g i, _, ?_, (State.mem_wordDone _ _ _).trans (s.mem_closeQ g _),
    State.group_wordDone i (State.group_closeQ _ h.here), Group.retire_qregs _ _⟩
  show execQclose q s = _
  rw [execQclose, onGroup_at h, finish_done _ _ _ _ rfl]

/-- `QBIND` refuses an object that is not there, that has a consumer, or that cannot take this producer (08 R210). -/
theorem qbind_refused {r : BitVec 1} {q : BitVec 2} {o : BitVec 4}
    (hno : (s.closeQ g q.toNat).queue (s.gangOf g) o.toNat = none ∨
      ∃ u, (s.closeQ g q.toNat).queue (s.gangOf g) o.toNat = some u ∧
        ((r = 0#1 ∧ u.consumer.isSome = true) ∨ (r = 1#1 ∧ (u.live = true ∨ u.vector = true)))) :
    exec (.qbind r q o) s = .next (s.raise g.gid i.len { cause := queueBind, index := o.toNat }) := by
  show execQbind r q o s = _
  rw [execQbind, onGroup_at h]
  obtain hno | ⟨u, hu, hno⟩ := hno
  · simp only [hno]
    rw [finish_trap _ _ _ (show queueBind ≠ 0 by decide)]
  · simp only [hu, if_pos hno]
    rw [finish_trap _ _ _ (show queueBind ≠ 0 by decide)]

/-- An object with its new consumer or producer. -/
def Queue.bound (gid : Nat) (r : BitVec 1) (u : Queue) : Queue :=
  if r = 0#1 then { u with consumer := some gid, drained := false } else { u with producer := .group gid }

/-- `QBIND` binds the register to an object that can take it. -/
theorem qbind_binds {r : BitVec 1} {q : BitVec 2} {o : BitVec 4} {u : Queue}
    (hu : (s.closeQ g q.toNat).queue (s.gangOf g) o.toNat = some u) (h0 : r = 0#1 → u.consumer = none)
    (h1 : r = 1#1 → u.live = false ∧ u.vector = false) :
    ∃ t x, exec (.qbind r q o) s = .next t ∧ t.mem = s.mem ∧ t.group g.gid = some x ∧
      t.queue (s.gangOf g) o.toNat = some (u.bound g.gid r) ∧
      findBy (fun e => e.1 == q.toNat) x.qregs = some (q.toNat, ⟨o.toNat, r == 1#1⟩) := by
  let c := s.closeQ g q.toNat
  let t := (c.modQueue (s.gangOf g) o.toNat (Queue.bound g.gid r)).modGroup g.gid fun g =>
    { g with qregs := mapIns g.qregs q.toNat ⟨o.toNat, r == 1#1⟩ }
  have free : ¬ ((r = 0#1 ∧ u.consumer.isSome = true) ∨ (r = 1#1 ∧ (u.live = true ∨ u.vector = true))) := by
    rintro (⟨e, hs⟩ | ⟨e, hs⟩)
    · simp [h0 e] at hs
    · simp [h1 e] at hs
  have queue : t.queue (s.gangOf g) o.toNat = some (u.bound g.gid r) :=
    State.queue_modQueue (s := c) _ (fun u => by unfold Queue.bound; split <;> exact ⟨rfl, rfl⟩) hu
  refine ⟨t.wordDone g i, _, ?_, (State.mem_wordDone _ _ _).trans (s.mem_closeQ g _),
    State.group_wordDone i (State.group_modGroup_own (s := c.modQueue _ _ _) (State.group_closeQ _ h.here) fun _ => rfl),
    (State.queue_wordDone _ _ _ _ _).trans queue, ?_⟩
  · show execQbind r q o s = _
    rw [execQbind, onGroup_at h]
    simp only [hu, if_neg free]
    rw [finish_done _ _ _ _ rfl]
    rfl
  · rw [Group.retire_qregs]
    exact findBy_mapIns _ _ _

end word

/-! ## Parked lanes (08 R214) -/

/-- A lane that is there, after the lanes a test picks are changed. -/
theorem Group.lane_mapLanes_listed (g : Group) (p : Nat → Bool) (f : Nat → Lane → Lane) {l : Nat} (h : g.lane l ≠ Lane.none) :
    (g.mapLanes p f).lane l = if p l then f l (g.lane l) else g.lane l := by
  simp only [Group.lane, Group.mapLanes] at h ⊢
  generalize g.lanes = m at h ⊢
  induction m with
  | nil => exact absurd rfl h
  | cons e m ih =>
    obtain ⟨j, u⟩ := e
    by_cases hj : l = j
    · subst hj
      simp only [List.map_cons, mapGet, if_true]
      cases p l <;> simp
    · simp only [mapGet, if_neg hj] at h
      have := ih h
      simp only [List.map_cons]
      cases p j <;> simpa [mapGet, hj] using this

/-- A lane after the lanes a test picks are changed is as it was or is changed. -/
theorem Group.lane_mapLanes_or (g : Group) (p : Nat → Bool) (f : Nat → Lane → Lane) (l : Nat) :
    (g.mapLanes p f).lane l = g.lane l ∨ (g.mapLanes p f).lane l = f l (g.lane l) := by
  simp only [Group.lane, Group.mapLanes]
  induction g.lanes with
  | nil => exact .inl rfl
  | cons e m ih =>
    obtain ⟨j, u⟩ := e
    by_cases hj : l = j
    · subst hj
      simp only [List.map_cons]
      cases p l <;> simp [mapGet]
    · simp only [List.map_cons]
      cases p j <;> simpa [mapGet, hj] using ih

/-- A lane that stands at the next clause still stands there when its group's word retires (02 R41). -/
theorem Group.retire_pcv {g : Group} {i : Issue} (hi : g.issue = some i) {l : Nat} (hl : (g.lane l).pcv = i.after) (n : Nat) :
    ((g.retire n).lane l).pcv = i.after := by
  unfold Group.retire
  rw [hi]
  dsimp only
  split
  · exact hl
  · split
    · obtain e | e := g.lane_mapLanes_or i.lanes.getLsbD (fun _ n => { n with pcv := i.after }) l
      · exact (congrArg Lane.pcv e).trans hl
      · exact congrArg Lane.pcv e
    · exact hl

theorem State.repliesIn_iff (s : State) (gid k : Nat) : s.repliesIn gid k = true ↔
    ∀ b ∈ s.blocks, b.gid = gid → b.parked = some k → b.stage = .delivered := by
  simp [State.repliesIn]

/-- A group whose parked lanes of a J register have gone on to `pc`. -/
def Group.rejoined (g : Group) (j : Nat) (pc : DWord) : Group :=
  { g.mapLanes (g.jreg j).getLsbD (fun _ n => { n with pcv := pc }) with jregs := mapSet 0#64 g.jregs j 0#64, since := none }

/-- `REJOIN` waits for the replies of its lanes. -/
theorem rejoin_waits {s : State} {g : Group} {i : Issue} (h : AtWord s g i) {j : BitVec 2}
    (hno : s.repliesIn g.gid j.toNat = false) : exec (.rejoin j) s = .next (s.noteWait g.gid) := by
  show execRejoin j s = _
  rw [execRejoin, onWaiting, onGroup_at h]
  simp [hno, Res.finish]

/-- `REJOIN` sends the lanes of its J register, whose replies are in, to the next clause. -/
theorem rejoin_goes {s : State} {g : Group} {i : Issue} (h : AtWord s g i) {j : BitVec 2}
    (hin : s.repliesIn g.gid j.toNat = true) :
    ∃ t x, exec (.rejoin j) s = .next t ∧ t.mem = s.mem ∧ t.group g.gid = some x ∧ x.jreg j.toNat = 0#64 ∧
      ∀ l, (g.lane l).live = true → (g.jreg j.toNat).getLsbD l = true → (x.lane l).pcv = i.after := by
  let sent := s.modGroup g.gid fun g =>
    { g.mapLanes (g.jreg j.toNat).getLsbD (fun _ n => { n with pcv := i.after }) with
      jregs := mapSet 0#64 g.jregs j.toNat 0#64 }
  let t := sent.modGroup g.gid fun h => { h with since := none }
  have group : t.group g.gid = some (g.rejoined j.toNat i.after) := by
    have moved : sent.group g.gid = some { g.rejoined j.toNat i.after with since := g.since } :=
      State.group_modGroup_own h.here fun _ => rfl
    exact State.group_modGroup_own (g := { g.rejoined j.toNat i.after with since := g.since }) moved fun _ => rfl
  refine ⟨t.wordDone g i, _, ?_, State.mem_wordDone _ _ _, State.group_wordDone i group, ?_, fun l hl hj => ?_⟩
  · show execRejoin j s = _
    rw [execRejoin, onWaiting, onGroup_at h]
    simp only [hin, Bool.not_true, Bool.false_eq_true, if_false]
    rw [finish_done _ _ _ _ rfl]
  · rw [Group.jreg, Group.retire_jregs]
    simp [Group.rejoined]
  · have listed : g.lane l ≠ Lane.none := fun e => by rw [e] at hl; exact absurd hl (by decide)
    refine Group.retire_pcv (g := g.rejoined j.toNat i.after) h.clause ?_ _
    have lane : (g.rejoined j.toNat i.after).lane l = _ :=
      Group.lane_mapLanes_listed g (g.jreg j.toNat).getLsbD (fun _ n => { n with pcv := i.after }) listed
    rw [lane, if_pos hj]

/-- With no lane left to issue, lanes whose replies are in return to their own PCV. -/
theorem implicitRejoin_returns {s : State} {g : Group} {k : Nat} (hg : s.group g.gid = some g) (hr : g.ready = [])
    (hi : g.issue = none) (hin : s.repliesIn g.gid k = true) :
    ∃ t x, exec (.implicitRejoin g.gid k) s = .next t ∧ t.mem = s.mem ∧ t.group g.gid = some x ∧ x.lanes = g.lanes ∧
      x.jreg k = 0#64 := by
  refine ⟨s.modGroup g.gid fun g => { g with jregs := mapSet 0#64 g.jregs k 0#64 }, _, ?_, rfl,
    State.group_modGroup_own hg fun _ => rfl, rfl, by simp [Group.jreg]⟩
  show execImplicitRejoin g.gid k s = _
  simp [execImplicitRejoin, hg, hr, hi, hin]

/-- Settles O30: each read by the entry or the producer it finds, each binding by the object it names, and each return by the
replies that are in. -/
theorem queuesAndRejoin : Obligations.QueuesAndRejoin := by
  unfold Obligations.QueuesAndRejoin
  refine ⟨fun s g k b q scalar hg hb hc hq hv => ⟨fun e es he => s.pop_takes hb hc hq hv hg he,
    s.pop_stalls hb hc hq hv, s.pop_closed hb hc hq hv, fun r => s.pop_faulted hb hc hq hv⟩,
    fun s g i r q j o h => ⟨qclose_unbinds h q, qbind_refused h, fun u hu h0 h1 => ?_, fun hno => rejoin_waits h ?_,
      fun hin => rejoin_goes h ((s.repliesIn_iff _ _).mpr hin),
      fun s g k hg hr hi hin => implicitRejoin_returns hg hr hi ((s.repliesIn_iff _ _).mpr hin)⟩⟩
  · obtain ⟨t, x, he, hm, hx, hu', hf⟩ := qbind_binds h hu h0 h1
    refine ⟨t, x, _, he, hm, hx, hu', hf, ?_⟩
    unfold Queue.bound
    split <;> rfl
  · obtain ⟨b, hb, hgid, hp, hs⟩ := hno
    exact Bool.eq_false_iff.mpr fun hin => hs ((s.repliesIn_iff _ _).mp hin b hb hgid hp)

end Sys2Proof.Machine

/-!
PROOFS. The integer, bit and move words of the lanes (06 R139 to R146), and the match of lanes (06 R159).
-/
namespace Sys2Proof.Machine

/-! ## Arithmetic of words (06 R139, R144, R146) -/

/-- A difference as the integer difference of the values, at every width. -/
theorem sub_eq_ofInt {w : Nat} (p q : BitVec w) : p - q = BitVec.ofInt w (p.toNat - q.toNat) := by
  rw [BitVec.sub_eq_add_neg, sub_eq_add_neg, BitVec.ofInt_add, BitVec.ofInt_neg, BitVec.ofInt_natCast,
    BitVec.ofInt_natCast, BitVec.ofNat_toNat, BitVec.ofNat_toNat, BitVec.setWidth_eq, BitVec.setWidth_eq]
theorem word_mulAdd_eq (p q r : Word) : p * q + r = BitVec.ofNat 32 (p.toNat * q.toNat + r.toNat) := by
  simp [BitVec.ofNat_add, BitVec.ofNat_mul]
theorem word_addImm_eq (p : Word) (m : BitVec 16) : p + m.signExtend 32 = BitVec.ofInt 32 (p.toInt + m.toInt) := by
  rw [BitVec.ofInt_add, BitVec.ofInt_toInt]
  rfl

/-- The lesser and the greater of two words, signed and unsigned. -/
theorem pickWord_slt (p q : Word) : pickWord BitVec.slt p q = BitVec.ofInt 32 (min p.toInt q.toInt) := by
  simp [pickWord, BitVec.slt, min_comm p.toInt, min_def_lt, apply_ite (BitVec.ofInt 32)]
theorem pickWord_sgt (p q : Word) : pickWord (fun a b => b.slt a) p q = BitVec.ofInt 32 (max p.toInt q.toInt) := by
  simp [pickWord, BitVec.slt, max_def_lt, apply_ite (BitVec.ofInt 32)]
theorem pickWord_ult (p q : Word) : pickWord BitVec.ult p q = BitVec.ofNat 32 (min p.toNat q.toNat) := by
  simp [pickWord, BitVec.ult, min_comm p.toNat, min_def_lt, apply_ite (BitVec.ofNat 32)]
theorem pickWord_ugt (p q : Word) : pickWord (fun a b => b.ult a) p q = BitVec.ofNat 32 (max p.toNat q.toNat) := by
  simp [pickWord, BitVec.ult, max_def_lt, apply_ite (BitVec.ofNat 32)]

/-- A shift to the left, by 32 or more too. -/
theorem word_shl_eq (p : Word) (k : Nat) : (if k < 32 then p <<< k else 0#32) = BitVec.ofNat 32 (p.toNat * 2 ^ k) := by
  apply BitVec.eq_of_toNat_eq
  split
  · simp [Nat.shiftLeft_eq]
  · next h =>
    obtain ⟨j, rfl⟩ := Nat.exists_eq_add_of_le (Nat.le_of_not_lt h)
    simp [Nat.pow_add, Nat.mul_left_comm p.toNat]

/-- A logical shift to the right, by 32 or more too. -/
theorem word_shr_eq (p : Word) (k : Nat) : (if k < 32 then p >>> k else 0#32) = BitVec.ofNat 32 (p.toNat / 2 ^ k) := by
  have value : p >>> k = BitVec.ofNat 32 (p.toNat / 2 ^ k) := by
    apply BitVec.eq_of_toNat_eq
    rw [BitVec.toNat_ushiftRight, Nat.shiftRight_eq_div_pow, BitVec.toNat_ofNat]
    exact (Nat.mod_eq_of_lt ((Nat.div_le_self _ _).trans_lt p.isLt)).symm
  split
  · exact value
  · next h => rw [← value, BitVec.ushiftRight_eq_zero (Nat.le_of_not_lt h)]

/-- An arithmetic shift to the right: from 31 up only the sign is left. -/
theorem word_sar_eq (p : Word) (k : Nat) : p.sshiftRight (min k 31) = BitVec.ofInt 32 (p.toInt / 2 ^ k) := by
  have value : p.sshiftRight (min k 31) = BitVec.ofInt 32 (p.toInt / 2 ^ min k 31) := by
    rw [BitVec.sshiftRight, Int.shiftRight_eq_div_pow]
    rfl
  rw [value]
  congr 1
  rcases Nat.le_total k 31 with h | h
  · rw [Nat.min_eq_left h]
  · have low : -2 ^ 31 ≤ p.toInt := p.le_toInt
    have high : p.toInt < 2 ^ 31 := BitVec.toInt_lt
    have grows : (2 : Int) ^ 31 ≤ 2 ^ k := pow_le_pow_right₀ (by decide) h
    rw [Nat.min_eq_right h]
    rcases Int.lt_or_le p.toInt 0 with neg | pos
    · rw [Int.ediv_eq_neg_one_of_neg_of_le neg (by omega), Int.ediv_eq_neg_one_of_neg_of_le neg (by omega)]
    · rw [Int.ediv_eq_zero_of_lt pos high, Int.ediv_eq_zero_of_lt pos (by omega)]

/-! ## Words put together bit by bit (06 R140, R143) -/

/-- A bit added where there is none. -/
theorem getLsbD_add_two_pow {n a j : Nat} (h : (BitVec.ofNat 32 n).getLsbD a = false) (ha : a < 32) :
    (BitVec.ofNat 32 (n + 2 ^ a)).getLsbD j = ((BitVec.ofNat 32 n).getLsbD j || decide (a = j)) := by
  have bit : BitVec.ofNat 32 (2 ^ a) = BitVec.twoPow 32 a := BitVec.eq_of_toNat_eq (by rw [BitVec.toNat_twoPow]; rfl)
  rw [BitVec.ofNat_add, bit, BitVec.add_eq_or_of_and_eq_zero _ _ (by simp [BitVec.and_twoPow, h]), BitVec.getLsbD_or,
    BitVec.getLsbD_twoPow]
  simp [ha]

/-- The word whose bits `e k` are those of `p k`, added to a word that has none of them. -/
theorem getLsbD_foldl_bits (e : Nat → Nat) (p : Nat → Bool) (j : Nat) (ks : List Nat) (n : Nat) (hd : (ks.map e).Nodup)
    (he : ∀ k ∈ ks, e k < 32) (hn : ∀ k ∈ ks, (BitVec.ofNat 32 n).getLsbD (e k) = false) :
    (BitVec.ofNat 32 (ks.foldl (fun n k => n + if p k then 2 ^ e k else 0) n)).getLsbD j =
      ((BitVec.ofNat 32 n).getLsbD j || ks.any fun k => p k && decide (e k = j)) := by
  induction ks generalizing n with
  | nil => simp
  | cons k ks ih =>
    obtain ⟨fresh, distinct⟩ := List.nodup_cons.mp hd
    have added : ∀ i, (BitVec.ofNat 32 (n + if p k then 2 ^ e k else 0)).getLsbD i =
        ((BitVec.ofNat 32 n).getLsbD i || (p k && decide (e k = i))) := fun i => by
      cases p k with
      | false => simp
      | true => exact getLsbD_add_two_pow (hn k (by simp)) (he k (by simp))
    have clear : ∀ i ∈ ks, (BitVec.ofNat 32 (n + if p k then 2 ^ e k else 0)).getLsbD (e i) = false := fun i hi => by
      have differs : e k ≠ e i := fun h => fresh (h ▸ List.mem_map_of_mem hi)
      rw [added, hn i (by simp [hi])]
      simp [differs]
    rw [List.foldl_cons, ih _ distinct (fun i hi => he i (by simp [hi])) clear, added, List.any_cons, Bool.or_assoc]

/-- Where the 32 places are exchanged in pairs, bit `j` of the word is that of the place exchanged for `j`. -/
theorem getLsbD_bits {e : Nat → Nat} (he : ∀ k < 32, e k < 32) (hi : ∀ k < 32, e (e k) = k) (p : Nat → Bool) {j : Nat}
    (hj : j < 32) :
    (BitVec.ofNat 32 ((List.range 32).foldl (fun n k => n + if p k then 2 ^ e k else 0) 0)).getLsbD j = p (e j) := by
  have distinct : ((List.range 32).map e).Nodup := List.nodup_range.map_on fun x hx y hy h => by
    rw [← hi x (List.mem_range.mp hx), h, hi y (List.mem_range.mp hy)]
  rw [getLsbD_foldl_bits e p j _ 0 distinct (fun k hk => he k (List.mem_range.mp hk)) (by simp), Bool.eq_iff_iff]
  simp only [BitVec.getLsbD_zero, Bool.false_or, List.any_eq_true, List.mem_range, Bool.and_eq_true, decide_eq_true_eq]
  constructor
  · rintro ⟨k, hk, hp, rfl⟩
    rwa [hi k hk]
  · exact fun hp => ⟨e j, he j hj, hp, hi j hj⟩

theorem bitReverse_getLsbD (v : Word) {j : Nat} (hj : j < 32) : (bitReverse v).getLsbD j = v.getLsbD (31 - j) :=
  getLsbD_bits (e := (31 - ·)) (by omega) (by omega) v.getLsbD hj

/-- The lookup of 06 R143 reads of `lut` the bit that the three sources' bits number. -/
theorem lop3_getLsbD (lut : BitVec 8) (a b c : Word) {j : Nat} (hj : j < 32) : (lop3 lut a b c).getLsbD j =
    lut.getLsbD (4 * (a.getLsbD j).toNat + 2 * (b.getLsbD j).toNat + (c.getLsbD j).toNat) := by
  refine (getLsbD_bits (e := id) (fun _ h => h) (fun _ _ => rfl) _ hj).trans ?_
  cases h : a.getLsbD j <;> cases h' : b.getLsbD j <;> cases h'' : c.getLsbD j <;> simp [h, h', h'']

/-! ## Counts of bits (06 R140) -/

theorem bitCount_lt (v : Word) : bitCount v < 2 ^ 32 := by
  have : bitCount v ≤ (List.range 32).length := List.length_filter_le _ _
  simp only [List.length_range] at this
  omega

/-- No bit of a word is set above the place of its value's logarithm, and that one is. -/
theorem leadZeros_eq (v : Word) : leadZeros v = if v = 0#32 then 32 else 31 - Nat.log2 v.toNat := by
  unfold leadZeros
  rw [List.takeWhile_eq_take_findIdx_not, List.length_take, List.length_range]
  split
  · next h =>
    subst h
    decide
  · next h =>
    have nonzero : v.toNat ≠ 0 := fun hv => h (BitVec.eq_of_toNat_eq hv)
    have inWord : Nat.log2 v.toNat < 32 := (Nat.log2_lt nonzero).mpr v.isLt
    have place : (List.range 32).findIdx (fun k => !!v.getLsbD (31 - k)) = 31 - Nat.log2 v.toNat := by
      rw [List.findIdx_eq (by simp; omega)]
      refine ⟨?_, fun k hk => ?_⟩
      · have top := Nat.testBit_log2 nonzero
        rw [List.getElem_range, Nat.sub_sub_self (by omega), Bool.not_not]
        exact top
      · have above : v.toNat < 2 ^ (31 - k) := (Nat.log2_lt nonzero).mp (by omega)
        rw [List.getElem_range, Bool.not_not]
        exact Nat.testBit_lt_two_pow above
    rw [place]
    omega

/-! ## Fields (06 R141, R142) -/

/-- The bits of a field of a word. -/
theorem testBit_field (v pos w k : Nat) : (v / 2 ^ pos % 2 ^ w).testBit k = (decide (k < w) && v.testBit (pos + k)) := by
  rw [Nat.testBit_mod_two_pow, Nat.testBit_div_two_pow, Nat.add_comm]

/-- `VBFE.N32`. -/
theorem bitField_unsigned_getLsbD (a c : Word) {k : Nat} (hk : k < 32) :
    let pos := c.toNat % 32
    let w := min (c.toNat / 256 % 64) (32 - pos)
    (bitField false a c).getLsbD k = (decide (k < w) && a.getLsbD (pos + k)) := by
  intro pos w
  simp only [bitField, Bool.false_and, Bool.false_eq_true, if_false]
  split
  · next h =>
    have : w = 0 := h
    simp [this]
  · rw [BitVec.getLsbD_ofNat, testBit_field]
    simp only [hk, decide_true, Bool.true_and]
    rfl

/-- The highest bit of a field says whether its value is in the upper half. -/
theorem testBit_top {f w : Nat} (hw : w ≠ 0) (hf : f < 2 ^ w) : f.testBit (w - 1) = decide (2 ^ (w - 1) ≤ f) := by
  by_cases h : 2 ^ (w - 1) ≤ f
  · rw [Nat.testBit_of_two_pow_le_and_two_pow_add_one_gt h (by rwa [Nat.sub_add_cancel (by omega)]), decide_eq_true h]
  · rw [Nat.testBit_lt_two_pow (by omega), decide_eq_false h]

/-- A field with every bit from `w` to 31 set above it. -/
theorem getLsbD_signed {f w : Nat} (hw : w ≤ 32) (hf : f < 2 ^ w) {k : Nat} (hk : k < 32) :
    (BitVec.ofNat 32 (f + 2 ^ 32 - 2 ^ w)).getLsbD k = (decide (w ≤ k) || f.testBit k) := by
  have ones : f + 2 ^ 32 - 2 ^ w = 2 ^ w * (2 ^ (32 - w) - 1) + f := by
    have : 2 ^ w * 2 ^ (32 - w) = 2 ^ 32 := by rw [← Nat.pow_add, Nat.add_sub_cancel' hw]
    have : 2 ^ w ≤ 2 ^ 32 := Nat.pow_le_pow_right (by decide) hw
    rw [Nat.mul_sub]
    omega
  rw [BitVec.getLsbD_ofNat, ones, Nat.testBit_two_pow_mul_add _ hf, Nat.testBit_two_pow_sub_one]
  by_cases h : k < w
  · simp [h, hk]
  · simp [h, hk, Nat.le_of_not_lt h]
    omega

/-- `VBFE.S32`: from the field's highest bit up, that bit. -/
theorem bitField_signed_getLsbD (a c : Word) {k : Nat} (hk : k < 32) :
    let pos := c.toNat % 32
    let w := min (c.toNat / 256 % 64) (32 - pos)
    (bitField true a c).getLsbD k = (decide (w ≠ 0) && a.getLsbD (pos + min k (w - 1))) := by
  intro pos w
  have unfolded : bitField true a c = if w = 0 then 0#32 else
      if 2 ^ (w - 1) ≤ a.toNat / 2 ^ pos % 2 ^ w then BitVec.ofNat 32 (a.toNat / 2 ^ pos % 2 ^ w + 2 ^ 32 - 2 ^ w)
      else BitVec.ofNat 32 (a.toNat / 2 ^ pos % 2 ^ w) := by simp [bitField, pos, w]
  rw [unfolded]
  by_cases hw : w = 0
  · simp [hw]
  have inWord : w ≤ 32 := by omega
  have field : a.toNat / 2 ^ pos % 2 ^ w < 2 ^ w := Nat.mod_lt _ (Nat.two_pow_pos w)
  have bits : ∀ j < w, (a.toNat / 2 ^ pos % 2 ^ w).testBit j = a.getLsbD (pos + j) := fun j hj => by
    rw [testBit_field, decide_eq_true hj, Bool.true_and]
    rfl
  have top := testBit_top hw field
  rw [bits _ (by omega)] at top
  rw [if_neg hw, decide_eq_true hw, Bool.true_and]
  rcases Nat.lt_or_ge k w with h | h
  · rw [Nat.min_eq_left (by omega), ← bits k h]
    split
    · rw [getLsbD_signed inWord field hk, decide_eq_false (by omega), Bool.false_or]
    · simp only [BitVec.getLsbD_ofNat, hk, decide_true, Bool.true_and]
  · rw [Nat.min_eq_right (by omega), top]
    split
    · next hs => rw [getLsbD_signed inWord field hk, decide_eq_true h, decide_eq_true hs, Bool.true_or]
    · next hs =>
      rw [BitVec.getLsbD_ofNat, testBit_field, decide_eq_false hs, decide_eq_false (Nat.not_lt.mpr h), Bool.false_and,
        Bool.and_false]

/-- `VBFI`: the field from the second source, the rest from the first. A length past bit 31 reaches bit 31. -/
theorem bitInsert_getLsbD (a b : Word) (pos len : Nat) {k : Nat} (hk : k < 32) :
    (bitInsert a b pos len).getLsbD k =
      if pos ≤ k ∧ k < pos + len then b.getLsbD (k - pos) else a.getLsbD k := by
  have mask : (BitVec.ofNat 32 ((2 ^ min len (32 - pos) - 1) * 2 ^ pos)).getLsbD k =
      decide (pos ≤ k ∧ k < pos + len) := by
    rw [BitVec.getLsbD_ofNat, Nat.testBit_mul_two_pow, Nat.testBit_two_pow_sub_one, Bool.eq_iff_iff]
    simp only [Bool.and_eq_true, decide_eq_true_eq]
    omega
  simp only [bitInsert, BitVec.getLsbD_or, BitVec.getLsbD_and, BitVec.getLsbD_not, BitVec.getLsbD_shiftLeft, mask]
  by_cases h : pos ≤ k ∧ k < pos + len
  · simp [h, hk]
  · simp only [h, hk, decide_false, decide_true, if_false, Bool.not_false, Bool.and_true, Bool.and_false, Bool.or_false]

/-! ## The words in their lanes -/

section word
variable {s s' : State} {g g' : Group} {i : Issue} {n : Instr} {gd : BitVec 4}

/-- A word of two source registers whose result in each lane is `F`. -/
theorem laneBin_gives {a b d : BitVec 7} {op : Word → Word → Word} {F : Nat → Word}
    (hr : LaneReady s g i (g.contributing i gd) [a.toNat, b.toNat, d.toNat] [])
    (he : exec n s = laneBin s gd b a d 1 op) (ho : ∀ l, op (vAt g a l) (vAt g b l) = F l) :
    LaneWrites s s g g n (g.contributing i gd) [d.toNat] fun l _ => ⟨F l, tagAt g [a.toNat, b.toNat] l⟩ :=
  funext ho ▸ laneBin_writes he hr

/-- A word on pairs whose result in each lane is `F`. -/
theorem lane64_gives {a b d : BitVec 7} {op : DWord → DWord → DWord} {F : Nat → DWord}
    (hr : LaneReady s g i (g.contributing i gd)
      ([a.toNat, a.toNat + 1, b.toNat, b.toNat + 1] ++ [d.toNat, d.toNat + 1]) [])
    (he : exec n s = lane64 s gd b a d 6 op) (ho : ∀ l, op (pairOf g a l) (pairOf g b l) = F l) :
    LaneWrites s s g g n (g.contributing i gd) [d.toNat, d.toNat + 1] fun l k =>
      ⟨(F l >>> (32 * (k - d.toNat))).setWidth 32, tagAt g [a.toNat, a.toNat + 1, b.toNat, b.toNat + 1] l⟩ :=
  funext ho ▸ lane64_writes he hr

/-- A word of one result register whose sources may be queues. -/
theorem lane1_writes {srcs : List VSrc} {d : BitVec 7} {wt : Nat} {op : List Word → Word} {es : List QEntry}
    {F : Nat → Word} (hr : LaneReady s g i (g.contributing i gd) (vsrcRegs srcs ++ [d.toNat]) [])
    (hp : Pops s g i false (vsrcQueues srcs) s' es) (hg : s'.group g.gid = some g')
    (he : exec n s = lane1 s gd srcs d wt op)
    (ho : ∀ l, op ((vsrcVals (g.lane l) l srcs es).map (·.val)) = F l) :
    LaneWrites s s' g g' n (g.contributing i gd) [d.toNat] fun l _ => ⟨F l, laneTag' g es srcs l⟩ :=
  laneWrite_writes he hr hp hg fun l _ => by rw [← ho l]; rfl

/-- The value of a lane's source by its place. -/
theorem laneVal_val (g : Group) (es : List QEntry) (srcs : List VSrc) (l k : Nat) :
    ((vsrcVals (g.lane l) l srcs es).map (·.val)).getD k 0#32 = (laneVal g es srcs l k).val :=
  List.getD_map _ (⟨0#32, false⟩ : Reg) (·.val)

/-- `VSEL`: a write in every active lane (06 R145). -/
theorem vsel_writes {a b d : BitVec 7} (hr : LaneReady s g i (maskLanes i.lanes) [a.toNat, b.toNat, d.toNat] []) :
    LaneWrites s s g g (.vselB32 gd b a d) (maskLanes i.lanes) [d.toNat] fun l _ =>
      (g.lane l).vreg (if (g.lane l).guard gd then a.toNat else b.toNat) := by
  refine laneWrites_of_effect (i := i) (m := 6) (c := (maskLanes i.lanes).length) ?_ hr.word.here
    (hr.chain_ne (qs := []) (fun _ => rfl) hr.word.here (by simp))
  show execVselB32 gd b a d s = _
  rw [execVselB32, onGroup_at hr.word]
  dsimp only
  rw [laneOp_runs hr fun _ => rfl, finish_done _ _ _ _ rfl]
  rfl

/-- `VMOVI` of an immediate (06 R146). -/
theorem vmovi_imm_writes {a d : BitVec 7} {m : BitVec 16} (hr : LaneReady s g i (g.contributing i gd) [d.toNat] []) :
    LaneWrites s s g g (.vmoviB32 gd a d m 0#2) (g.contributing i gd) [d.toNat] fun _ _ =>
      ⟨BitVec.ofInt 32 m.toInt, false⟩ :=
  laneWrite_plain (srcs := []) rfl rfl hr fun _ _ => rfl

theorem append_low_eq (m : BitVec 16) (v : Word) :
    (m ++ v.truncate 16 : BitVec 32) = BitVec.ofNat 32 (m.toNat * 2 ^ 16 + v.toNat % 2 ^ 16) := by
  have halves := ofNat_append_ofNat (x := m.toNat) (y := v.toNat % 2 ^ 16) m.isLt (Nat.mod_lt _ (by decide))
  have low : v.truncate 16 = BitVec.ofNat 16 (v.toNat % 2 ^ 16) := BitVec.eq_of_toNat_eq (by simp)
  have high : m = BitVec.ofNat 16 m.toNat := BitVec.eq_of_toNat_eq (by simp)
  rw [Nat.add_comm (m.toNat * _), Nat.mul_comm m.toNat, ← halves, ← low, ← high]

/-- `VMOVI` of an immediate over the low half of `V[a]` (06 R146). -/
theorem vmovi_upper_writes {a d : BitVec 7} {m : BitVec 16}
    (hr : LaneReady s g i (g.contributing i gd) [a.toNat, d.toNat] []) :
    LaneWrites s s g g (.vmoviB32 gd a d m 1#2) (g.contributing i gd) [d.toNat] fun l _ =>
      ⟨BitVec.ofNat 32 (m.toNat * 2 ^ 16 + (vAt g a l).toNat % 2 ^ 16), tagAt g [a.toNat] l⟩ :=
  lane1_writes (s' := s) (srcs := [.v a.toNat]) (es := []) hr (fun _ => rfl) hr.word.here rfl fun _ => append_low_eq m _

/-- `VMOVI` of the low and of the high half of an S register (06 R146). -/
theorem vmovi_low_writes {a d : BitVec 7} {m : BitVec 16}
    (hr : LaneReady s g i (g.contributing i gd) [d.toNat] [a.toNat % 32]) :
    LaneWrites s s g g (.vmoviB32 gd a d m 2#2) (g.contributing i gd) [d.toNat] fun _ _ =>
      ⟨(g.sreg (a.toNat % 32)).val.setWidth 32, (g.sreg (a.toNat % 32)).poison⟩ :=
  laneWrite_plain (srcs := []) rfl rfl hr fun _ _ => rfl
theorem vmovi_high_writes {a d : BitVec 7} {m : BitVec 16}
    (hr : LaneReady s g i (g.contributing i gd) [d.toNat] [a.toNat % 32]) :
    LaneWrites s s g g (.vmoviB32 gd a d m 3#2) (g.contributing i gd) [d.toNat] fun _ _ =>
      ⟨((g.sreg (a.toNat % 32)).val >>> 32).setWidth 32, (g.sreg (a.toNat % 32)).poison⟩ :=
  laneWrite_plain (srcs := []) rfl rfl hr fun _ _ => rfl

/-- The lanes that `MATCH` finds equal to a lane (06 R159). -/
def equalLanes (g : Group) (i : Issue) (gd : BitVec 4) (a : BitVec 7) (l : Nat) : Mask :=
  laneMask ((g.contributing i gd).filter fun j => vAt g a j == vAt g a l)

theorem equalLanes_getLsbD (g : Group) (i : Issue) (gd : BitVec 4) (a : BitVec 7) (l : Nat) {j : Nat} (hj : j < 64) :
    (equalLanes g i gd a l).getLsbD j = ((g.contributing i gd).contains j && vAt g a j == vAt g a l) := by
  rw [equalLanes, laneMask_getLsbD _ hj, Bool.eq_iff_iff]
  simp

/-- `MATCH` (06 R159). -/
theorem match_writes {a d : BitVec 7}
    (hr : LaneReady s g i (g.contributing i gd) [a.toNat, d.toNat, d.toNat + 1] []) :
    LaneWrites s s g g (.matchB32 gd a d) (g.contributing i gd) [d.toNat, d.toNat + 1] fun l k =>
      ⟨(equalLanes g i gd a l >>> (32 * (k - d.toNat))).setWidth 32,
        (g.contributing i gd).any fun j => tagAt g [a.toNat] j⟩ := by
  refine laneWrite_plain rfl rfl hr fun l _ => ?_
  have tags : anyPoison g (g.contributing i gd) a.toNat = (g.contributing i gd).any fun j => tagAt g [a.toNat] j := by
    simp [anyPoison, tagAt]
  rw [← tags]
  exact pairRegs_eq _ _ _

end word

/-- Settles O5: each word by the rule of two-source words, and the value of its operation. -/
theorem laneInteger : Obligations.LaneInteger := by
  intro s g i gd b a d
  refine ⟨fun hr => ?_, fun hr =>
    ⟨lane64_gives hr rfl fun _ => dword_add_eq _ _, lane64_gives hr rfl fun _ => dword_sub_eq _ _⟩⟩
  exact ⟨laneBin_gives hr rfl fun _ => BitVec.add_def _ _, laneBin_gives hr rfl fun _ => sub_eq_ofInt _ _,
    laneBin_gives hr rfl fun _ => BitVec.mul_def,
    laneBin_writes (op := fun p q => BitVec.ofInt 32 (p.toInt * q.toInt / 2 ^ 32)) rfl hr,
    laneBin_writes (op := fun p q => BitVec.ofNat 32 (p.toNat * q.toNat / 2 ^ 32)) rfl hr,
    laneBin_gives hr rfl fun _ => pickWord_slt _ _, laneBin_gives hr rfl fun _ => pickWord_sgt _ _,
    laneBin_gives hr rfl fun _ => pickWord_ult _ _, laneBin_gives hr rfl fun _ => pickWord_ugt _ _,
    laneBin_gives (op := fun p q => if q.toNat < 32 then p <<< q.toNat else 0#32) hr rfl fun _ => word_shl_eq _ _,
    laneBin_gives (op := fun p q => if q.toNat < 32 then p >>> q.toNat else 0#32) hr rfl fun _ => word_shr_eq _ _,
    laneBin_gives (op := fun p q => p.sshiftRight (min q.toNat 31)) hr rfl fun _ => word_sar_eq _ _⟩

/-- Settles O6: the words write a field and a lookup whose bits the rules give. -/
theorem bitFieldsAndLogic : Obligations.BitFieldsAndLogic := by
  refine ⟨fun s g i gd b a d => ?_, fun s s' g g' i gd b a d c lut qc qb qa es => ?_⟩
  · intro ls hr pos w
    exact ⟨fun l => bitField false (vAt g a l) (vAt g b l), fun l => bitField true (vAt g a l) (vAt g b l),
      laneBin_gives hr rfl fun _ => rfl, laneBin_gives hr rfl fun _ => rfl,
      fun l k hk => bitField_unsigned_getLsbD _ _ hk, fun l k hk => bitField_signed_getLsbD _ _ hk⟩
  · intro ls srcs hr hp hg
    exact ⟨fun l => lop3 lut (laneVal g es srcs l 0).val (laneVal g es srcs l 1).val (laneVal g es srcs l 2).val,
      lane1_writes hr hp hg rfl fun l => by simp only [laneVal_val], fun l k hk => lop3_getLsbD lut _ _ _ hk⟩

/-- Settles O7: the register that the guard chooses, with its own tag. -/
theorem laneSelect : Obligations.LaneSelect := by
  intro s g i gd b a d ls hr
  have writes := vsel_writes (gd := gd) hr
  simpa only [apply_ite] using writes

/-- Settles O8: each word by the rule of its form, and the bits or the value of its result. -/
theorem laneMoves : Obligations.LaneMoves := by
  intro s s' g g' i gd b a d c len pos m qc qb qa es ls v
  refine ⟨fun hr => ?_, vmovi_imm_writes, fun hr => ⟨vmovi_low_writes hr, vmovi_high_writes hr⟩,
    fun hr hp hg => ?_, fun hr hp hg => ?_, fun hr hp hg => ?_⟩
  · refine ⟨fun l => BitVec.ofNat 32 (bitCount (vAt g a l)), fun l => BitVec.ofNat 32 (leadZeros (vAt g a l)),
      fun l => bitReverse (vAt g a l), ?_,
      laneUn_writes (op := fun v => BitVec.ofNat 32 (bitCount v)) rfl hr,
      laneUn_writes (op := fun v => BitVec.ofNat 32 (leadZeros v)) rfl hr, laneUn_writes (op := bitReverse) rfl hr,
      vmovi_upper_writes hr, fun l => ?_, fun l => ?_, fun l k hk => bitReverse_getLsbD _ hk⟩
    · have writes := laneUn_writes (n := .vmovB32 gd a d) (op := id) rfl hr
      simpa [vAt, tagAt] using writes
    · exact Nat.mod_eq_of_lt (bitCount_lt _)
    · rw [← leadZeros_eq]
      refine Nat.mod_eq_of_lt ?_
      rw [leadZeros_eq]
      split <;> omega
  · exact lane1_writes hr hp hg rfl fun l => by rw [laneVal_val]; exact word_addImm_eq _ m
  · exact ⟨fun l => bitInsert (v _ l 0) (v _ l 1) pos.toNat len.toNat,
      lane1_writes hr hp hg rfl fun l => by simp only [laneVal_val, v],
      fun l k hk => bitInsert_getLsbD _ _ _ _ hk⟩
  · exact lane1_writes hr hp hg rfl fun l => by simp only [laneVal_val]; exact word_mulAdd_eq _ _ _

/-- Settles O12: the mask of a lane by its bits. -/
theorem matchMask : Obligations.MatchMask := by
  intro s g i gd a d ls hr
  exact ⟨equalLanes g i gd a, match_writes hr, fun l j _ hj => equalLanes_getLsbD g i gd a l hj⟩

end Sys2Proof.Machine

/-!
PROOFS. The tag table (07 R185 to R187): a key inserted is found, and each word runs its lanes over the core's table.
-/
namespace Sys2Proof.Machine

/-! ## The table (R185, R186) -/

theorem findBy_congr {α : Type} {p q : α → Bool} {l : List α} (h : ∀ a ∈ l, p a = q a) : findBy p l = findBy q l := by
  induction l with
  | nil => rfl
  | cons a l ih => rw [findBy, findBy, h a (by simp), ih fun b hb => h b (by simp [hb])]

/-- The one entry of a list that a test picks is found. -/
theorem findBy_unique {α : Type} {p : α → Bool} {l : List α} {a : α} (ha : a ∈ l) (hp : p a = true)
    (hu : ∀ b ∈ l, p b = true → b = a) : findBy p l = some a := by
  rw [findBy_eq_find?]
  cases h : l.find? p with
  | none => exact absurd hp (by simpa using List.find?_eq_none.mp h a ha)
  | some b => rw [hu b (List.mem_of_find?_eq_some h) (List.find?_some h)]

theorem findBy_none {α : Type} {p : α → Bool} {l : List α} (h : findBy p l = none) : ∀ a ∈ l, p a = false := by
  rw [findBy_eq_find?] at h
  simpa using h
theorem findBy_mem {α : Type} {p : α → Bool} {l : List α} {a : α} (h : findBy p l = some a) : a ∈ l := by
  rw [findBy_eq_find?] at h
  exact List.mem_of_find?_eq_some h

section table
variable {core grid : Nat} {m : List (Nat × TagEntry)} {k v : Word}

/-- Whether way `w` of a key's set holds the launch's entry for the key. -/
def TagEntry.holds (e : TagEntry) (grid : Nat) (k : Word) : Bool := e.valid && e.grid == grid && e.key == k

theorem tagWay_eq (m : List (Nat × TagEntry)) (core grid : Nat) (k : Word) :
    tagWay m core grid k = findBy (fun w => (mapGet TagEntry.empty m (tagSlot core k w)).holds grid k) (List.range 4) := rfl

/-- A way of a set read after another or the same way of it is written. -/
theorem tagSlot_mapSet (e : TagEntry) (w j : Nat) :
    mapGet TagEntry.empty (mapSet TagEntry.empty m (tagSlot core k w) e) (tagSlot core k j) =
      if j = w then e else mapGet TagEntry.empty m (tagSlot core k j) := by
  simp [tagSlot]

/-- What an insertion that found room leaves: the key stands at a way of its set, with its slot. -/
theorem tagStep_insert (hv : v ≠ 0xFFFFFFFF#32) (hr : (tagStep 1 core grid m k v).2 ≠ 0xFFFFFFFF#32) :
    ∃ w, tagWay (tagStep 1 core grid m k v).1 core grid k = some w ∧
      (mapGet TagEntry.empty (tagStep 1 core grid m k v).1 (tagSlot core k w)).slot = v := by
  cases he : tagWay m core grid k with
  | some w =>
    have step : (tagStep 1 core grid m k v).1 = mapSet TagEntry.empty m (tagSlot core k w)
        { mapGet TagEntry.empty m (tagSlot core k w) with slot := v } := by simp [tagStep, hv, he]
    refine ⟨w, ?_, by rw [step, tagSlot_mapSet, if_pos rfl]⟩
    rw [step, ← he, tagWay_eq, tagWay_eq]
    refine findBy_congr fun j _ => ?_
    rw [tagSlot_mapSet]
    split
    · next h => rw [h]; rfl
    · rfl
  | none =>
    cases hf : tagFree m core k with
    | none => simp [tagStep, hv, he, hf] at hr
    | some w =>
      have step : (tagStep 1 core grid m k v).1 = mapSet TagEntry.empty m (tagSlot core k w) ⟨true, k, v, grid⟩ := by
        simp [tagStep, hv, he, hf]
      refine ⟨w, ?_, by rw [step, tagSlot_mapSet, if_pos rfl]⟩
      rw [step, tagWay_eq]
      refine findBy_unique (findBy_mem hf) (by simp [TagEntry.holds]) fun j hj h => ?_
      by_contra hne
      have vacant : (mapGet TagEntry.empty m (tagSlot core k j)).holds grid k = false := findBy_none he j hj
      rw [tagSlot_mapSet, if_neg hne, vacant] at h
      exact absurd h (by decide)

/-- A key found answers its slot to TLOOK and to TINV. -/
theorem tagStep_found {w : Nat} (op : Nat) (ho : op = 0 ∨ op = 2) (u : Word) (h : tagWay m core grid k = some w) :
    (tagStep op core grid m k u).2 = (mapGet TagEntry.empty m (tagSlot core k w)).slot := by
  rcases ho with rfl | rfl <;> simp [tagStep, h]

end table

/-! ## The words (R186, R187) -/

/-- The contributing lanes are told apart. -/
theorem contributing_nodup (g : Group) (i : Issue) (gd : BitVec 4) : (g.contributing i gd).Nodup :=
  (List.nodup_range.filter _).filter _

/-- The result of a lane, the first listed; `z` where none is. -/
def resultOf {β : Type} (z : β) (rs : List (Nat × β)) (l : Nat) : β := ((findBy (fun e => e.1 == l) rs).map Prod.snd).getD z

/-- Results of lanes written to registers `ds`: the writes that give each lane's registers what its result gives them. -/
theorem results_lanesWrite {β : Type} {rs : List (Nat × β)} (hn : (rs.map Prod.fst).Nodup) (ds : List Nat) (F : Nat → β → Reg)
    (z : β) : rs.map (fun e => (e.1, ds.map fun r => (r, F r e.2))) =
      lanesWrite (rs.map Prod.fst) ds fun l r => F r (resultOf z rs l) := by
  rw [lanesWrite, List.map_map]
  refine List.map_congr_left fun (e : Nat × β) he => ?_
  have found : findBy (fun x : Nat × β => x.1 == e.1) rs = some e :=
    findBy_unique he (by simp) fun b hb h => List.inj_on_of_nodup_map hn hb he (by simpa using h)
  simp [resultOf, found]

/-- Each lane has one result, in order. -/
theorem tagRun_lanes (op : Nat) (g : Group) (a b : BitVec 7) (ls : List Nat) (m : List (Nat × TagEntry)) :
    (tagRun op g a b ls m).2.map Prod.fst = ls := by
  induction ls generalizing m with
  | nil => rfl
  | cons l ls ih => simp [tagRun, ih]

/-- Registers without poison raise nothing. -/
theorem vPoison_clean {g : Group} {ls rs : List Nat} (detail : Nat) (h : ∀ l ∈ ls, tagAt g rs l = false) :
    vPoison g ls detail rs = none := by
  have none_bad : (ls.filter fun l => rs.any fun r => ((g.lane l).vreg r).poison) = [] :=
    List.filter_eq_nil_iff.mpr fun l hl => by simpa [tagAt] using h l hl
  rw [vPoison, none_bad]

/-- A tag-table word whose registers are there and unpoisoned, and, for TINS, whose group's stores to scratchpad have been
performed. -/
theorem laneTag_runs {s : State} {g : Group} {i : Issue} {gd : BitVec 4} {op : Nat} {b a d : BitVec 7} {srcs : List Nat}
    (hr : LaneReady s g i (g.contributing i gd) (d.toNat :: srcs) []) (hp : ∀ l ∈ g.contributing i gd, tagAt g srcs l = false)
    (ho : op = 1 → s.performed g.gid (fun o => o.storesOn 2 || o.storesOn 3) = true) :
    laneTag s gd op b a d srcs =
      .next (({ s with tags := (tagRun op g a b (g.contributing i gd) s.tags).1 }.modGroup g.gid fun h =>
        h.writeV (lanesWrite (g.contributing i gd) [d.toNat] fun l _ =>
          ⟨resultOf 0#32 (tagRun op g a b (g.contributing i gd) s.tags).2 l, false⟩)).wordDone g i) := by
  have lanes := tagRun_lanes op g a b (g.contributing i gd) s.tags
  have writes := results_lanesWrite (by rw [lanes]; exact contributing_nodup g i gd) [d.toNat] (fun _ v => (⟨v, false⟩ : Reg))
    0#32
  have waits : ¬ (op = 1 ∧ s.performed g.gid (fun o => o.storesOn 2 || o.storesOn 3) = false) := fun h => by
    rw [ho h.1] at h
    exact absurd h.2 (by decide)
  rw [lanes] at writes
  rw [laneTag, onGroup_at hr.word]
  simp only [show s.hazard g _ _ _ = false from hr.ready, Bool.false_eq_true, if_false, hr.bound, vPoison_clean 1 hp,
    firstCond, Res.unless, waits]
  rw [finish_done _ _ _ _ rfl, ← writes]
  rfl

/-- Settles O19: a key inserted stands at a way of its set, and a word runs its lanes over the table. -/
theorem tagTable : Obligations.TagTable := by
  unfold Obligations.TagTable
  refine ⟨fun core grid m k v u hv hr => ?_, ?_⟩
  · obtain ⟨w, found, slot⟩ := tagStep_insert hv hr
    exact ⟨(tagStep_found 0 (.inl rfl) u found).trans slot, (tagStep_found 2 (.inr rfl) u found).trans slot⟩
  · intro s g i gd b a d n op rb srcs hn ls run hr hp ho
    have runs : exec n s = laneTag s gd op rb a d srcs := by
      rcases hn with ⟨rfl, rfl, rfl, rfl⟩ | ⟨rfl, rfl, rfl, rfl⟩ | ⟨rfl, rfl, rfl, rfl⟩ <;> rfl
    have here : { s with tags := run.1 }.group g.gid = some g := hr.word.here
    have chain : ∀ l ∈ ls, ∀ r ∈ [d.toNat], (g.lane l).chain ≠ [] := fun l hl r h =>
      Group.chain_ne_of_declared (boundCond_none hr.bound l hl r (by simp_all))
    have rest := (elsewhere_modGroup { s with tags := run.1 } g (fun h => h.writeV (lanesWrite ls [d.toNat] fun l _ =>
      ⟨resultOf 0#32 run.2 l, false⟩)) fun _ => rfl).trans
      (elsewhere_wordDone _ g i)
    exact ⟨_, _, runs.trans (laneTag_runs hr hp ho), by rw [rest.rest],
      State.group_wordDone i (State.group_modGroup_own here fun _ => rfl), rest.bytes, rest.others,
      (Group.writeV_frame g ls [d.toNat] _ chain).retire i.len⟩

end Sys2Proof.Machine

/-!
SUPPORT. The checks of an access (07 R163 to R169): lanes' addresses, the operands' checks, and how steps 3 to 6 of R169 end.
-/
namespace Sys2Proof.Machine

/-! ## Addresses and operands (R163, R169 steps 1 and 2) -/

theorem laneAddr_eq (g : Group) (sc : BitVec 2) (b : BitVec 5) (o : BitVec 7) (disp : BitVec 16) (l : Nat) :
    laneAddr g sc b o disp l = laneAddress g sc b o disp l := by
  simp [laneAddr, laneAddress, addrAdd, sext64, vAt, BitVec.toNat_add, BitVec.toNat_shiftLeft, Nat.shiftLeft_eq]

/-- The lanes of a word with their addresses. -/
theorem laneAddrs_eq (g : Group) (ls : List Nat) (sc : BitVec 2) (b : BitVec 5) (o : BitVec 7) (disp : BitVec 16) :
    laneAddrs g ls sc b o disp = ls.map fun l => (l, laneAddress g sc b o disp l) :=
  List.map_congr_left fun l _ => by rw [laneAddr_eq]

section checks
variable {g : Group} {ls regs : List Nat} {b : BitVec 5} {o : BitVec 7}

theorem addrChecks_clean (hb : boundCond g ls (o.toNat :: regs) = none) (hs : (g.sreg b.toNat).poison = false)
    (ho : ∀ l ∈ ls, ((g.lane l).vreg o.toNat).poison = false) : addrChecks g ls b o regs = none := by
  have base : sPoison g 0 [b.toNat] = none := sPoison_clean 0 (by simpa using hs)
  have offset : vPoison g ls 0 [o.toNat] = none := vPoison_clean 0 fun l hl => by simpa [tagAt] using ho l hl
  rw [addrChecks, hb, base, offset]
  exact ite_self _

/-- The registers of a word that passes its operands' checks are there. -/
theorem addrChecks_bound (h : addrChecks g ls b o regs = none) : ∀ l ∈ ls, ∀ r ∈ o.toNat :: regs, r < g.declared l := by
  intro l hl
  have some_lane : ls ≠ [] := List.ne_nil_of_mem hl
  rw [addrChecks, if_neg some_lane] at h
  refine boundCond_none ?_ l hl
  cases hb : boundCond g ls (o.toNat :: regs) with
  | none => rfl
  | some c => simp [hb, firstCond] at h

end checks

/-! ## Places (R164, R169 step 3) -/

section place
variable {s : State} {g : Group} {legal : Nat → Bool} {width a : Nat}

/-- Only path 0x4 names the frame window. -/
theorem State.place_outside {p : Place} (h : s.place g legal width a = some p) (hp : pathOf a ≠ 4) :
    ∀ l c r k, p ≠ .win l c r k := by
  rintro l c r k rfl
  unfold State.place at h
  simp only [hp, if_false] at h
  split at h
  · cases h
  · split at h
    · split at h
      · split at h <;> cases h
      · cases h
    · split at h <;> cases h

theorem Group.winBound_outside {p : Place} (hp : ∀ l c r k, p ≠ .win l c r k) : g.winBound p = none := by
  cases p with
  | win l c r k => exact absurd rfl (hp l c r k)
  | _ => rfl

end place

/-! ## How an access ends (R169 steps 3 to 6) -/

section access
variable {s : State} {g : Group} {legal : Nat → Bool} {host : Bool} {need width : Nat}

/-- The accesses whose address names no place. -/
def State.strays (s : State) (g : Group) (legal : Nat → Bool) (width : Nat) (as : List (Nat × Nat)) : List (Nat × Nat) :=
  as.filter fun e => decide (s.place g legal width e.2 = none)

theorem strays_eq (as : List (Nat × Nat)) :
    ((as.map fun e => (e.1, e.2, s.place g legal width e.2)).filter fun e => e.2.2.isNone).map (fun e => (e.1, e.2.1)) =
      s.strays g legal width as := by
  rw [List.filter_map, List.map_map]
  refine (List.map_id _).trans (List.filter_congr fun e _ => ?_)
  show (s.place g legal width e.2).isNone = decide (s.place g legal width e.2 = none)
  cases s.place g legal width e.2 <;> rfl

/-- A path that its instruction may not use raises ADDR_PATH, of every lane that names one. -/
theorem access_stray {as : List (Nat × Nat)} {l a : Nat} {r : List (Nat × Nat)}
    (h : s.strays g legal width as = (l, a) :: r) : s.access g legal host need width as =
      (s, .error { cause := addrPath, mask := laneMask ((s.strays g legal width as).map Prod.fst), addr := a }) := by
  unfold State.access
  simp only [strays_eq, h, failCond]

section placed
variable {as : List (Nat × Nat)} (hp : ∀ e ∈ as, ∃ p, s.place g legal width e.2 = some p ∧ g.winBound p = none)
include hp

theorem strays_nil : s.strays g legal width as = [] := by
  refine List.filter_eq_nil_iff.mpr fun e he => ?_
  obtain ⟨p, hs, -⟩ := hp e he
  simp [hs]
/-- No access outside the frame window exceeds a declared count. -/
theorem bounds_nil : (as.map fun e => (e.1, e.2, s.place g legal width e.2)).filterMap (fun e => e.2.2.bind fun p =>
    (g.winBound p).map fun d => (e.1, e.2.1, d)) = [] := by
  rw [List.filterMap_map]
  refine List.filterMap_eq_nil_iff.mpr fun e he => ?_
  obtain ⟨p, hs, hw⟩ := hp e he
  simp [hs, hw]

/-- Addresses that are no multiple of the width raise ADDR_ALIGN, once every path is legal. -/
theorem access_skew {l a : Nat} {r : List (Nat × Nat)} (h : (as.filter fun e => decide (e.2 % width ≠ 0)) = (l, a) :: r) :
    s.access g legal host need width as = (s, .error
      { cause := addrAlign, mask := laneMask ((as.filter fun e => decide (e.2 % width ≠ 0)).map Prod.fst), addr := a }) := by
  unfold State.access
  simp only [strays_eq, strays_nil hp, bounds_nil hp, h, failCond, List.map_nil]

end placed

/-- Translations that leave the machine as it is and all find their bytes. -/
theorem reachAll_ok {ls : List Nat} {A : Nat → Nat} {P : Nat → Place} {loc : Nat → List Loc}
    (hr : ∀ l ∈ ls, s.reach g.core g.world host need width (P l) = (s, .ok (loc l))) :
    s.reachAll g host need width (ls.map fun l => (l, A l, P l)) = (s, ls.map fun l => (l, A l, .ok (loc l))) := by
  induction ls with
  | nil => rfl
  | cons l ls ih => simp [State.reachAll, hr l (by simp), ih fun k hk => hr k (by simp [hk])]

/-- Lanes whose aligned addresses each name a place outside the frame window whose bytes are found. -/
theorem access_ok {ls : List Nat} {A : Nat → Nat} {P : Nat → Place} {loc : Nat → List Loc}
    (hp : ∀ l ∈ ls, s.place g legal width (A l) = some (P l)) (hw : ∀ l ∈ ls, g.winBound (P l) = none)
    (ha : ∀ l ∈ ls, A l % width = 0)
    (hr : ∀ l ∈ ls, s.reach g.core g.world host need width (P l) = (s, .ok (loc l))) :
    s.access g legal host need width (ls.map fun l => (l, A l)) = (s, .ok (ls.map fun l => (l, P l, loc l))) := by
  have placed : ∀ e ∈ ls.map fun l => (l, A l), ∃ p, s.place g legal width e.2 = some p ∧ g.winBound p = none := by
    simpa using fun l hl => ⟨P l, hp l hl, hw l hl⟩
  have skew : ((ls.map fun l => (l, A l)).filter fun e => decide (e.2 % width ≠ 0)) = [] :=
    List.filter_eq_nil_iff.mpr (by simpa using ha)
  have named : ((ls.map fun l => (l, A l)).map fun e => (e.1, e.2, s.place g legal width e.2)).filterMap
      (fun e => e.2.2.map fun p => (e.1, e.2.1, p)) = ls.map fun l => (l, A l, P l) := by
    rw [List.map_map, List.filterMap_map, ← List.filterMap_eq_map]
    refine List.filterMap_congr fun l hl => ?_
    simp [hp l hl]
  unfold State.access
  simp only [strays_eq, strays_nil placed, bounds_nil placed, skew, named, reachAll_ok hr, failCond, List.map_nil]
  simp [List.any_map, List.filterMap_map, List.zip_map', Function.comp_def]

theorem reachAll_length (xs : List (Nat × Nat × Place)) (s : State) :
    (s.reachAll g host need width xs).2.length = xs.length := by
  induction xs generalizing s with
  | nil => rfl
  | cons x xs ih => simp [State.reachAll, ih]

theorem failCond_none {cause : Nat} {bad : List (Nat × Nat)} {f : Nat → Cond → Cond} (h : failCond cause bad f = none) :
    bad = [] := by
  cases bad with
  | nil => rfl
  | cons e bad => cases h

/-- An access that reaches its bytes does so lane by lane. -/
theorem access_lanes {s' : State} {as : List (Nat × Nat)} {ps : List (Nat × Place × List Loc)}
    (h : s.access g legal host need width as = (s', .ok ps)) : ps.map Prod.fst = as.map Prod.fst := by
  unfold State.access at h
  dsimp only at h
  split at h
  · cases h
  · cases h
  · cases h
  next stray _ _ =>
    split at h
    · cases h
    split at h
    · cases h
    · cases h
    have placed : ∀ e ∈ as, (s.place g legal width e.2).isSome := fun e he => by
      have none_lost := List.filter_eq_nil_iff.mp (strays_eq as ▸ failCond_none stray) e he
      simpa [Option.isSome_iff_ne_none] using none_lost
    have named : ((as.map fun e => (e.1, e.2, s.place g legal width e.2)).filterMap
        (fun e => e.2.2.map fun p => (e.1, e.2.1, p))).map Prod.fst = as.map Prod.fst := by
      rw [List.map_filterMap, List.filterMap_map, ← List.filterMap_eq_map]
      refine List.filterMap_congr fun e he => ?_
      obtain ⟨p, hs⟩ := Option.isSome_iff_exists.mp (placed e he)
      simp [hs]
    cases Except.ok.inj (Prod.mk.inj h).2
    refine Eq.trans ?_ named
    rw [List.map_map]
    refine (List.map_map (f := Prod.fst) (g := Prod.fst)).symm.trans (congrArg (List.map Prod.fst) ?_)
    exact List.map_fst_zip (by rw [reachAll_length])

end access

/-! ## Addresses read off the state (R164, 05 R120) -/

/-- What an address that `Direct` resolves names. -/
def directPlace (g : Group) (a : Nat) : Place := if pathOf a = 2 then .scr false g.team (a % 2 ^ 20) else .va 0 a

theorem directPlace_outside (g : Group) (a : Nat) (l c r k : Nat) : directPlace g a ≠ .win l c r k := by
  unfold directPlace
  split <;> simp

section direct
variable {s : State} {g : Group} {width a : Nat} {ls : List Loc} (h : Direct s g width a ls)
include h

theorem Direct.path : pathOf a = 2 ∨ pathOf a = 0 := by
  rcases h.names with ⟨t, -, hp, -⟩ | ⟨-, ha, -⟩
  · exact .inl hp
  · exact .inr (Nat.div_eq_of_lt (by omega))
theorem Direct.length : ls.length = width := by
  rcases h.names with ⟨t, -, -, -, -, rfl⟩ | ⟨-, -, -, -, rfl⟩ <;> simp
theorem Direct.near : (∀ l ∈ ls, ∃ p, l = .mem p) ∨ ∀ l ∈ ls, ∃ o, l = .scr false g.team o := by
  rcases h.names with ⟨t, ht, -, -, -, rfl⟩ | ⟨-, -, -, -, rfl⟩
  · have key : t.key = g.team := by simpa using findBy_some ht
    exact .inr fun l hl => by
      obtain ⟨k, -, rfl⟩ := List.mem_map.mp hl
      exact ⟨_, by rw [key]⟩
  · exact .inl fun l hl => by
      obtain ⟨k, -, rfl⟩ := List.mem_map.mp hl
      exact ⟨_, rfl⟩

/-- Its path being legal, it names its place. -/
theorem Direct.place {legal : Nat → Bool} (hl : legal (pathOf a) = true) :
    s.place g legal width a = some (directPlace g a) := by
  rcases h.names with ⟨t, ht, hp, hz, hb, -⟩ | ⟨hw, ha, hok, -⟩
  · have key : t.key = g.team := by simpa using findBy_some ht
    have team : s.scratchTeam g.core g.team a = some t := by rw [State.scratchTeam, if_pos hp, if_pos hz, ht]
    rw [hp] at hl
    simp [-Nat.reducePow, State.place, directPlace, hp, hl, team, hb, key]
  · have path : pathOf a = 0 := Nat.div_eq_of_lt (by omega)
    have high : bitsAt a 56 4 = 0 := by rw [bitsAt, Nat.div_eq_of_lt ha]; rfl
    rw [path] at hl
    simp [-Nat.reducePow, State.place, directPlace, path, hl, hw, Nat.mod_eq_of_lt ha, hok, high]

/-- Its bytes are found with no translation table read. -/
theorem Direct.reach (host : Bool) (need : Nat) :
    s.reach g.core g.world host need width (directPlace g a) = (s, .ok ls) := by
  rcases h.names with ⟨t, ht, hp, -, -, rfl⟩ | ⟨hw, ha, hok, hh, rfl⟩
  · have key : t.key = g.team := by simpa using findBy_some ht
    simp [directPlace, hp, State.reach, key]
  · have path : pathOf a = 0 := Nat.div_eq_of_lt (by omega)
    have found : s.xlate g.core g.world a need false = (s, .ok ⟨a, a, true, true, true, false, false, 39, 39, 39⟩) := by
      simp [State.xlate, State.translate, hw, hok]
    simp [directPlace, path, State.reach, found, hh]

end direct

section plain
variable {s : State} {g : Group} {i : Issue} {ls regs : List Nat} {sc : BitVec 2} {b : BitVec 5} {o : BitVec 7}
  {f : BitVec 1} {disp : BitVec 16} {width : Nat} {loc : Nat → List Loc}

/-- What a plain word reaches: the place of each lane's address. -/
def plainPlaces (g : Group) (ls : List Nat) (sc : BitVec 2) (b : BitVec 5) (o : BitVec 7) (disp : BitVec 16)
    (loc : Nat → List Loc) : List (Nat × Place × List Loc) :=
  ls.map fun l => (l, directPlace g (laneAddress g sc b o disp l), loc l)

/-- A plain word passes its checks, its paths being legal, and leaves the machine as it is. -/
theorem Plain.reached (h : Plain s g i ls regs sc b o f disp width loc) {legal : Nat → Bool} (host : Bool) (need : Nat)
    (hl : ∀ l ∈ ls, legal (pathOf (laneAddress g sc b o disp l)) = true) :
    Reached s s g i ls regs sc b o f disp legal host need width (plainPlaces g ls sc b o disp loc) where
  word := h.word
  ready := h.ready
  flag := h.flag
  checks := addrChecks_clean h.bound h.base h.offset
  access := access_ok (fun l hm => (h.direct l hm).place (hl l hm))
    (fun l _ => Group.winBound_outside (directPlace_outside g _)) (fun l hm => (h.direct l hm).aligned)
    fun l hm => (h.direct l hm).reach host need
  plain := by
    intro e he
    obtain ⟨l, -, rfl⟩ := List.mem_map.mp he
    exact directPlace_outside g _

/-- Where scratchpad and device memory are both legal. -/
theorem Plain.reached_both (h : Plain s g i ls regs sc b o f disp width loc) {legal : Nat → Bool} (host : Bool) (need : Nat)
    (h0 : legal 0 = true) (h2 : legal 2 = true) :
    Reached s s g i ls regs sc b o f disp legal host need width (plainPlaces g ls sc b o disp loc) :=
  h.reached host need fun l hm => by rcases (h.direct l hm).path with hp | hp <;> rw [hp] <;> assumption

end plain

theorem Reached.lanes {s s' : State} {g : Group} {i : Issue} {ls regs : List Nat} {sc : BitVec 2} {b : BitVec 5}
    {o : BitVec 7} {f : BitVec 1} {disp : BitVec 16} {legal : Nat → Bool} {host : Bool} {need width : Nat}
    {ps : List (Nat × Place × List Loc)} (h : Reached s s' g i ls regs sc b o f disp legal host need width ps) :
    ps.map Prod.fst = ls := by
  rw [access_lanes h.access, List.map_map]
  exact List.map_id _

end Sys2Proof.Machine

/-!
PROOFS. Lane loads and stores as issued (07 R169 to R171).
-/
namespace Sys2Proof.Machine

/-! ## Places outside the frame window -/

section outside
variable {ps : List (Nat × Place × List Loc)} (hp : ∀ e ∈ ps, ∀ l c r k, e.2.1 ≠ .win l c r k)
include hp

theorem windowHazard_places (s : State) (gid : Nat) : s.windowHazard gid (ps.map (·.2.1)) = false := by
  induction ps with
  | nil => rfl
  | cons e ps ih =>
    have split : s.windowHazard gid (e.2.1 :: ps.map (·.2.1)) =
        (s.windowHazard gid [e.2.1] || s.windowHazard gid (ps.map (·.2.1))) := by simp [State.windowHazard]
    rw [List.map_cons, split, windowHazard_outside (hp e (by simp)), ih fun k hk => hp k (by simp [hk])]
    rfl

theorem loadAccs_places (g : Group) (width : Nat) :
    ps.map (fun e => loadAcc g width e.1 (g.lane e.1).fid e.2.1 e.2.2) =
      ps.map fun e => ⟨e.1, (g.lane e.1).fid, e.2.2, [], false⟩ :=
  List.map_congr_left fun e he => loadAcc_outside (hp e he) _ _ _ _ _

theorem windowStores_places (h : Group) (x : Nat × Place × List Loc → LaneAcc) :
    h.windowStores (ps.map fun e => (e.2.1, x e)) = h := by
  induction ps generalizing h with
  | nil => rfl
  | cons e ps ih =>
    have one := windowStores_outside (hp e (by simp)) h (x e)
    rw [Group.windowStores, List.foldl_cons, List.foldl_nil] at one
    rw [List.map_cons, Group.windowStores, List.foldl_cons, one]
    exact ih (fun k hk => hp k (by simp [hk])) h

end outside

/-! ## Loads and stores issued (R170, R171) -/

section word
variable {s s' : State} {g : Group} {i : Issue} {n : Instr} {gd : BitVec 4} {sc : BitVec 2} {b : BitVec 5} {o d : BitVec 7}
  {f : BitVec 1} {w : Nat} {signed : Bool} {ps : List (Nat × Place × List Loc)}

/-- A lane load whose accesses resolve leaves them in flight. -/
theorem laneLoad_issues (he : exec n s = laneLoad s gd sc b o d f w signed)
    (h : Reached s s' g i (g.contributing i gd) (regSpan d (widthRegs w)) sc b o f 0#16 (pathsLoad w) true 0 w ps) :
    ∃ t, exec n s = .next t ∧ Issued s' t g (i.flag f)
      (.load d.toNat w signed false (ps.map fun e => ⟨e.1, (g.lane e.1).fid, e.2.2, [], false⟩)) (ps == []) := by
  refine ⟨_, ?_, issued_wordDone _ _ i _ _ _⟩
  rw [he, laneLoad, onGroup_at h.word]
  simp only [show s.hazard g _ _ _ = false from h.ready, h.flag, Bool.not_true, Bool.or_false, Bool.false_eq_true, if_false,
    h.checks, Res.unless, laneAddrs_eq, h.access, windowHazard_places h.plain, loadAccs_places h.plain]
  rw [finish_done _ _ _ _ rfl]

/-- The bytes and the tag of a lane's data. -/
theorem storeData_eq (g : Group) (d : BitVec 7) (w l : Nat) : storeData (g.lane l) d w =
    (((regSpan d (widthRegs w)).flatMap fun r => toBytes 4 ((g.lane l).vreg r).val.toNat).take w,
      tagAt g (regSpan d (widthRegs w)) l) := by
  simp [storeData, tagAt, List.flatMap_map, List.any_map, Function.comp_def]

/-- A lane's part of a store, with the bytes and the tag of its registers. -/
def storeAcc (g : Group) (d : BitVec 7) (w : Nat) (e : Nat × Place × List Loc) : LaneAcc :=
  ⟨e.1, 0, e.2.2, ((regSpan d (widthRegs w)).flatMap fun r => toBytes 4 ((g.lane e.1).vreg r).val.toNat).take w,
    tagAt g (regSpan d (widthRegs w)) e.1⟩

/-- A lane store whose accesses resolve leaves them in flight, with the bytes of its registers. -/
theorem laneStore_issues (he : exec n s = laneStore s gd sc b o d f w)
    (h : Reached s s' g i (g.contributing i gd) (regSpan d (widthRegs w)) sc b o f 0#16 (pathsStore w) true 1 w ps)
    (hl : ∀ e ∈ ps, e.2.2 ≠ []) :
    ∃ t, exec n s = .next t ∧ Issued s' t g (i.flag f) (.store w (ps.map (storeAcc g d w))) (ps == []) := by
  refine ⟨_, ?_, issued_wordDone _ _ i _ _ _⟩
  have kept : (s'.modGroup g.gid fun k => k.windowStores (ps.map fun e => (e.2.1, storeAcc g d w e))) = s' :=
    State.modGroup_same _ _ _ fun k => windowStores_places h.plain k _
  have far : ((ps.map fun e => (e.2.1, storeAcc g d w e)).map Prod.snd).filter (fun a => a.locs != []) =
      ps.map (storeAcc g d w) := by
    rw [List.map_map]
    refine List.filter_eq_self.mpr fun a ha => ?_
    obtain ⟨e, he, rfl⟩ := List.mem_map.mp ha
    simpa [storeAcc] using hl e he
  have nothing : (ps.map (storeAcc g d w) == []) = (ps == []) := by cases ps <;> rfl
  rw [he, laneStore, onGroup_at h.word]
  simp only [show s.hazard g _ _ _ = false from h.ready, h.flag, Bool.not_true, Bool.or_false, Bool.false_eq_true, if_false,
    h.checks, Res.unless, laneAddrs_eq, h.access, windowHazard_places h.plain, storeData_eq]
  rw [finish_done _ _ _ _ rfl, ← nothing, ← far]
  exact congrArg (fun u => Host.Outcome.next ((State.issueOp u g _ _ _).wordDone g i)) kept

/-! ## Plain words -/

/-- The lanes of a plain word are those that contribute. -/
theorem plainPlaces_empty {g : Group} {ls : List Nat} {disp : BitVec 16} {loc : Nat → List Loc} :
    (plainPlaces g ls sc b o disp loc == []) = (ls == []) := by cases ls <;> rfl

theorem laneLoad_plain {loc : Nat → List Loc} (he : exec n s = laneLoad s gd sc b o d f w signed)
    (h : Plain s g i (g.contributing i gd) (regSpan d (widthRegs w)) sc b o f 0#16 w loc) :
    ∃ t, exec n s = .next t ∧ Issued s t g (i.flag f) (.load d.toNat w signed false
      ((g.contributing i gd).map fun l => ⟨l, (g.lane l).fid, loc l, [], false⟩)) (g.contributing i gd == []) := by
  have issues := laneLoad_issues he (h.reached_both true 0 rfl rfl)
  rwa [plainPlaces_empty, plainPlaces, List.map_map] at issues

theorem laneStore_plain {loc : Nat → List Loc} (he : exec n s = laneStore s gd sc b o d f w) (hw : w ≠ 0)
    (h : Plain s g i (g.contributing i gd) (regSpan d (widthRegs w)) sc b o f 0#16 w loc) :
    ∃ t, exec n s = .next t ∧ Issued s t g (i.flag f) (.store w ((g.contributing i gd).map fun l => ⟨l, 0, loc l,
      ((regSpan d (widthRegs w)).flatMap fun r => toBytes 4 ((g.lane l).vreg r).val.toNat).take w,
      tagAt g (regSpan d (widthRegs w)) l⟩)) (g.contributing i gd == []) := by
  have issues := laneStore_issues he (h.reached_both true 1 rfl rfl) fun e hm => by
    obtain ⟨l, hl, rfl⟩ := List.mem_map.mp hm
    exact List.ne_nil_of_length_pos (by rw [(h.direct l hl).length]; exact Nat.pos_of_ne_zero hw)
  rwa [plainPlaces_empty, plainPlaces, List.map_map] at issues

/-! ## Refusals (R169) -/

section refused
variable {c : Cond} (h : AtWord s g i) (hf : g.flagFree (i.flag f) = true) (hc : c.cause ≠ 0)
  (hr : Ready s g (g.contributing i gd) (o.toNat :: regSpan d (widthRegs w)) [b.toNat])
  (ha : addrChecks g (g.contributing i gd) b o (regSpan d (widthRegs w)) = none)
include h hf hc hr ha

/-- A lane load or store whose access is refused traps, and does nothing else. -/
theorem laneLoad_refused (he : exec n s = laneLoad s gd sc b o d f w signed)
    (hx : s.access g (pathsLoad w) true 0 w ((g.contributing i gd).map fun l => (l, laneAddress g sc b o 0#16 l)) =
      (s, .error c)) : exec n s = .next (s.raise g.gid i.len c) := by
  rw [he, laneLoad, onGroup_at h]
  simp only [show s.hazard g _ _ _ = false from hr, hf, Bool.not_true, Bool.or_false, Bool.false_eq_true, if_false, ha,
    Res.unless, laneAddrs_eq, hx, finish_trap g i s hc]
theorem laneStore_refused (he : exec n s = laneStore s gd sc b o d f w)
    (hx : s.access g (pathsStore w) true 1 w ((g.contributing i gd).map fun l => (l, laneAddress g sc b o 0#16 l)) =
      (s, .error c)) : exec n s = .next (s.raise g.gid i.len c) := by
  rw [he, laneStore, onGroup_at h]
  simp only [show s.hazard g _ _ _ = false from hr, hf, Bool.not_true, Bool.or_false, Bool.false_eq_true, if_false, ha,
    Res.unless, laneAddrs_eq, hx, finish_trap g i s hc]

end refused

end word

/-- A word that is refused by the path or the alignment of its lanes' addresses, and then does nothing else. -/
def RefusesAddresses (s : State) (g : Group) (i : Issue) (n : Instr) (legal : Nat → Bool) (w : Nat) (as : List (Nat × Nat)) :
    Prop :=
  let off := fun e : Nat × Nat => s.place g legal w e.2 = none
  let skew := as.filter fun e => decide (e.2 % w ≠ 0)
  (∀ l a r, as.filter (fun e => decide (off e)) = (l, a) :: r → exec n s = .next (s.raise g.gid i.len
    { cause := addrPath, mask := laneMask ((as.filter fun e => decide (off e)).map Prod.fst), addr := a })) ∧
  (∀ l a r, (∀ e ∈ as, ¬ off e) → (∀ e ∈ as, pathOf e.2 ≠ 4) → skew = (l, a) :: r → exec n s = .next (s.raise g.gid
    i.len { cause := addrAlign, mask := laneMask (skew.map Prod.fst), addr := a }))

/-- Accesses none of which strays, on another path than the frame window's. -/
theorem placed_of_named {s : State} {g : Group} {legal : Nat → Bool} {w : Nat} {as : List (Nat × Nat)}
    (hn : ∀ e ∈ as, ¬ s.place g legal w e.2 = none) (hp : ∀ e ∈ as, pathOf e.2 ≠ 4) :
    ∀ e ∈ as, ∃ p, s.place g legal w e.2 = some p ∧ g.winBound p = none := fun e he => by
  obtain ⟨p, hs⟩ := Option.ne_none_iff_exists'.mp (hn e he)
  exact ⟨p, hs, Group.winBound_outside (State.place_outside hs (hp e he))⟩

theorem refusesAddresses_of_access {s : State} {g : Group} {i : Issue} {n : Instr} {legal : Nat → Bool} {host : Bool}
    {need w : Nat} {as : List (Nat × Nat)} (h : ∀ c : Cond, c.cause ≠ 0 →
      s.access g legal host need w as = (s, .error c) → exec n s = .next (s.raise g.gid i.len c)) :
    RefusesAddresses s g i n legal w as :=
  ⟨fun _ _ _ hs => h _ (show addrPath ≠ 0 by decide) (access_stray (width := w) (as := as) hs),
    fun _ _ _ hn hp hs => h _ (show addrAlign ≠ 0 by decide) (access_skew (placed_of_named hn hp) hs)⟩

/-- Settles O15: each word by the rule of its checks, and an access refused by the first check that fails. -/
theorem laneAccessAndFaults : Obligations.LaneAccessAndFaults := by
  unfold Obligations.LaneAccessAndFaults
  refine ⟨?_, ?_, ?_, ?_⟩
  · intro s s' g i gd sc b o d f ps ls span ld data st
    exact ⟨laneLoad_issues rfl, laneLoad_issues rfl, laneLoad_issues rfl, laneLoad_issues rfl, laneLoad_issues rfl,
      laneLoad_issues rfl, laneLoad_issues rfl, laneStore_issues rfl, laneStore_issues rfl, laneStore_issues rfl,
      laneStore_issues rfl, laneStore_issues rfl⟩
  · intro s g i gd sc b o d f loc ls span data ld st
    exact ⟨laneLoad_plain rfl, laneLoad_plain rfl, laneLoad_plain rfl, laneLoad_plain rfl, laneLoad_plain rfl,
      laneLoad_plain rfl, laneLoad_plain rfl, laneStore_plain rfl (by decide), laneStore_plain rfl (by decide),
      laneStore_plain rfl (by decide), laneStore_plain rfl (by decide), laneStore_plain rfl (by decide)⟩
  · intro s g legal host need width as off skew
    exact ⟨fun _ _ _ => access_stray (width := width) (as := as), fun _ _ _ hn hp => access_skew (placed_of_named hn hp)⟩
  · intro s g i gd sc b o d f ls span as fails ld st
    have load : ∀ {n w signed}, exec n s = laneLoad s gd sc b o d f w signed → ld n w := fun he h hr hf ha =>
      refusesAddresses_of_access fun _ hc hx => laneLoad_refused h hf hc hr ha he hx
    have store : ∀ {n w}, exec n s = laneStore s gd sc b o d f w → st n w := fun he h hr hf ha =>
      refusesAddresses_of_access fun _ hc hx => laneStore_refused h hf hc hr ha he hx
    exact ⟨load rfl, load rfl, load rfl, load rfl, load rfl, load rfl, load rfl, store rfl, store rfl, store rfl,
      store rfl, store rfl⟩

end Sys2Proof.Machine

/-!
SUPPORT. Reads at the homes of sound bytes (11 R273, R276): what a group reads of device memory and of scratchpads where no line is
wrong, none is of another key, no atom is in U state and its core holds no copy.
-/
namespace Sys2Proof.Machine

/-! ## Addresses -/

theorem mem_distinct {l : List Nat} {a : Nat} : a ∈ distinct l ↔ a ∈ l := by
  induction l with
  | nil => rfl
  | cons b l ih =>
    rw [distinct, dropBy_eq_filter, List.mem_cons, List.mem_filter, ih, List.mem_cons]
    by_cases h : a = b <;> simp [h]
theorem mem_atomsOf {pas : List Nat} {a : Nat} : a ∈ atomsOf pas ↔ ∃ p ∈ pas, p / 32 = a := by
  rw [atomsOf, mem_distinct, List.mem_map]
theorem mem_addrs {a n p : Nat} : p ∈ addrs a n ↔ a ≤ p ∧ p < a + n := by
  simp only [addrs, List.mem_map, List.mem_range]
  exact ⟨fun ⟨k, hk, e⟩ => by omega, fun h => ⟨p - a, by omega, by omega⟩⟩

/-- The value of an address in a list of values by address. -/
theorem findBy_map_pair {β : Type} {l : List Nat} {a : Nat} (f : Nat → β) (h : a ∈ l) :
    findBy (fun e => e.1 == a) (l.map fun b => (b, f b)) = some (a, f a) :=
  findBy_unique (List.mem_map.mpr ⟨a, h, rfl⟩) (by simp) fun b hb e => by
    obtain ⟨c, -, rfl⟩ := List.mem_map.mp hb
    simp_all

/-! ## Sound lines -/

theorem Clean.mono {s : State} {ps qs : List Nat} (h : Clean s qs) (hs : ∀ a ∈ ps, a ∈ qs) : Clean s ps :=
  ⟨fun a ha => h.lines a (hs a ha), fun a ha => h.keyed a (hs a ha), fun a ha => h.merged a (hs a ha)⟩
theorem Sound.clean {s : State} {w : Nat} {pas : List Nat} (h : Sound s w pas) : Clean s pas := ⟨h.lines, h.keyed, h.merged⟩

/-- A line whose codeword is right and bound to its owner's key reads clean. -/
theorem lineRead_clean {s : State} {ln : Nat} (hl : s.line ln = ⟨false, []⟩) (ha : s.alien ln = false) :
    s.lineRead ln = ⟨.clean, false⟩ := by
  simp [State.lineRead, hl, ha, LineState.read]

/-- A read of clean lines delivers their bytes and counts nothing. -/
theorem homeRead_clean {s : State} {pas : List Nat} (hl : ∀ a ∈ pas, s.line (a / 128) = ⟨false, []⟩)
    (ha : ∀ a ∈ pas, s.alien (a / 128) = false) : s.homeRead pas = (s, pas.map fun a => (s.byte a, false), none) := by
  have lines : ∀ ln ∈ distinct (pas.map (· / 128)), s.lineRead ln = ⟨.clean, false⟩ := fun ln h => by
    obtain ⟨a, hm, rfl⟩ := List.mem_map.mp (mem_distinct.mp h)
    exact lineRead_clean (hl a hm) (ha a hm)
  have counted : ∀ l : List Nat, (∀ ln ∈ l, s.lineRead ln = ⟨.clean, false⟩) → l.foldl (fun t ln =>
      let r := s.lineRead ln; if r.bad then t else t.countLine ln r.kind) s = s := fun l h => by
    induction l with
    | nil => rfl
    | cons ln l ih =>
      have stays : s.countLine ln .clean = s := by
        unfold State.countLine
        exact ite_self _
      simp only [List.foldl_cons, h ln (by simp), stays]
      exact ih fun k hk => h k (by simp [hk])
  have good : findBy (fun ln => (s.lineRead ln).bad) (distinct (pas.map (· / 128))) = none := by
    rw [findBy_eq_find?, List.find?_eq_none]
    intro ln h
    simp [lines ln h]
  have bytes : pas.map (fun pa => match ((s.line (pa / 128)).read).kind with
      | .uncorrectable => (0#8, true) | .marked => (s.byte pa, true) | _ => (s.byte pa, false)) =
      pas.map fun a => (s.byte a, false) := List.map_congr_left fun a h => by rw [hl a h]; rfl
  unfold State.homeRead
  simp only [counted _ lines, good]
  exact congrArg (fun x => (s, x, none)) bytes

/-- No atom in U state, nothing to merge. -/
theorem mergeAll_merged {s : State} {atoms : List Nat} (h : ∀ a ∈ atoms, s.uatom a = none) (c : Nat) (u : Option Nat) :
    s.mergeAll atoms c u = s := by
  induction atoms with
  | nil => rfl
  | cons a l ih =>
    have one : s.mergeAtom a c u = s := by rw [State.mergeAtom, h a (by simp)]
    rw [State.mergeAll, List.foldl_cons, one]
    exact ih fun b hb => h b (by simp [hb])
theorem Clean.mergeAll {s : State} {pas : List Nat} (h : Clean s pas) (c : Nat) (u : Option Nat) :
    s.mergeAll (atomsOf pas) c u = s :=
  mergeAll_merged (fun a ha => by
    obtain ⟨p, hp, rfl⟩ := mem_atomsOf.mp ha
    exact h.merged p hp) c u

/-! ## Copies filled (11 R276) -/

/-- A coherent read leaves copies in the L1, leases, draws and counts of traffic; no time of a write changes. -/
structure Filled (s t : State) : Prop where
  rest  : t = { s with l1 := t.l1, stamps := t.stamps, fresh := t.fresh, pldrs := t.pldrs }
  times : ∀ e ∈ s.stamps, ∃ k ∈ t.stamps, k.2.1 = e.2.1

theorem Filled.refl (s : State) : Filled s s := ⟨rfl, fun e he => ⟨e, he, rfl⟩⟩
theorem Filled.trans {s t u : State} (h : Filled s t) (k : Filled t u) : Filled s u := by
  refine ⟨by rw [k.rest, h.rest], fun e he => ?_⟩
  obtain ⟨x, hx, e1⟩ := h.times e he
  obtain ⟨y, hy, e2⟩ := k.times x hx
  exact ⟨y, hy, e2.trans e1⟩

theorem Filled.byte {s t : State} (h : Filled s t) (a : Nat) : t.byte a = s.byte a := by rw [h.rest]; rfl
theorem Filled.line {s t : State} (h : Filled s t) (ln : Nat) : t.line ln = s.line ln := by rw [h.rest]; rfl
theorem Filled.alien {s t : State} (h : Filled s t) (ln : Nat) : t.alien ln = s.alien ln := by rw [h.rest]; rfl
theorem Filled.teams {s t : State} (h : Filled s t) : t.teams = s.teams := by rw [h.rest]
theorem Filled.group {s t : State} (h : Filled s t) (k : Nat) : t.group k = s.group k := by rw [h.rest]; rfl

/-- An insertion replaces the entry that its key reads, and leaves the others. -/
theorem mem_mapIns {α : Type} {d : α} {m : List (Nat × α)} {k : Nat} {v : α} {e : Nat × α} (h : e ∈ m) :
    e ∈ mapIns m k v ∨ (e.1 = k ∧ e.2 = mapGet d m k) := by
  induction m with
  | nil => cases h
  | cons x m ih =>
    obtain ⟨j, u⟩ := x
    rw [mapIns]
    split
    · next hk =>
      rcases List.mem_cons.mp h with rfl | h
      · exact .inr ⟨hk.symm, by simp [mapGet, hk]⟩
      · exact .inl (by simp [h])
    · next hk =>
      split
      · exact .inl (List.mem_cons_of_mem _ h)
      · rcases List.mem_cons.mp h with rfl | h
        · exact .inl (by simp)
        · rcases ih h with h | ⟨e1, e2⟩
          · exact .inl (by simp [h])
          · exact .inr ⟨e1, by rw [e2, mapGet, if_neg hk]⟩
theorem mem_mapIns_self {α : Type} (m : List (Nat × α)) (k : Nat) (v : α) : (k, v) ∈ mapIns m k v := by
  induction m with
  | nil => simp [mapIns]
  | cons x m ih =>
    rw [mapIns]
    split
    · simp
    · split
      · simp
      · simp [ih]

theorem timesOnly_passL2 (s : State) (core m n ln : Nat) : TimesOnly s (s.passL2 core m n ln) := by
  unfold State.passL2
  dsimp only
  split
  · exact timesOnly_meter _ _ _ _
  · exact (timesOnly_meter _ _ _ _).trans (timesOnly_meter _ _ _ _)
theorem passL2_stamps (s : State) (core m n ln : Nat) : (s.passL2 core m n ln).stamps = s.stamps := by
  unfold State.passL2
  dsimp only
  split <;> simp

theorem TimesOnly.filled {s t : State} (h : TimesOnly s t) (hs : t.stamps = s.stamps) : Filled s t :=
  ⟨by rw [h], fun e he => ⟨e, hs ▸ he, rfl⟩⟩
theorem passL2_filled (s : State) (core m n ln : Nat) : Filled s (s.passL2 core m n ln) :=
  (timesOnly_passL2 s core m n ln).filled (passL2_stamps s core m n ln)

/-- An atom's lease renewed to `r` and its copy filled, the traffic not yet counted. -/
def State.leaseAtom (s : State) (core r a : Nat) (bs : List (Byte × Bool)) : State :=
  { s.draw.setStamp a ((s.stamp a).1, r) with
    l1 := mapSet none s.l1 (copyKey core a) (some ⟨bs.map Prod.fst, bs.any Prod.snd, (s.stamp a).1, r⟩) }
theorem fillAtom_eq (s : State) (core t a : Nat) (bs : List (Byte × Bool)) : s.fillAtom core t a bs =
    (s.leaseAtom core (max (s.stamp a).2 (t + 1 + Config.freeNat s.fresh)) a bs).passL2 core 16 32 (a / 4) := rfl

theorem leaseAtom_filled (s : State) (core r a : Nat) (bs : List (Byte × Bool)) (hr : r ≠ 0) :
    Filled s (s.leaseAtom core r a bs) := by
  have kept : ((s.stamp a).1, r) ≠ (0, 0) := fun h => hr (Prod.mk.inj h).2
  refine ⟨rfl, fun e he => ?_⟩
  show ∃ k ∈ mapSet (0, 0) s.stamps a ((s.stamp a).1, r), _
  rw [mapSet, if_neg kept]
  rcases mem_mapIns (d := (0, 0)) (k := a) (v := ((s.stamp a).1, r)) he with h | ⟨-, h⟩
  · exact ⟨e, h, rfl⟩
  · exact ⟨_, mem_mapIns_self _ _ _, by rw [h]; rfl⟩
theorem fillAtom_filled (s : State) (core t a : Nat) (bs : List (Byte × Bool)) : Filled s (s.fillAtom core t a bs) := by
  rw [fillAtom_eq]
  exact (leaseAtom_filled s core _ a bs (by omega)).trans (passL2_filled _ core 16 32 (a / 4))

/-- Atoms of clean lines read at their homes. -/
theorem fillAll_clean {atoms : List Nat} {s : State} (core c : Nat) (hl : ∀ a ∈ atoms, s.line (a / 4) = ⟨false, []⟩)
    (ha : ∀ a ∈ atoms, s.alien (a / 4) = false) : ∃ t, Filled s t ∧ s.fillAll core c atoms =
      (t, atoms.map fun a => (a, (addrs (a * 32) 32).map fun p => (s.byte p, false)), none) := by
  induction atoms generalizing s with
  | nil => exact ⟨s, .refl s, rfl⟩
  | cons a l ih =>
    have inside : ∀ p ∈ addrs (a * 32) 32, p / 128 = a / 4 := fun p hp => by
      have := mem_addrs.mp hp
      omega
    have read := homeRead_clean (s := s) (pas := addrs (a * 32) 32) (fun p hp => by rw [inside p hp, hl a (by simp)])
      fun p hp => by rw [inside p hp, ha a (by simp)]
    have filled := fillAtom_filled s core c a ((addrs (a * 32) 32).map fun p => (s.byte p, false))
    obtain ⟨t, ht, rest⟩ := ih (s := s.fillAtom core c a ((addrs (a * 32) 32).map fun p => (s.byte p, false)))
      (fun b hb => by rw [filled.line, hl b (by simp [hb])]) fun b hb => by rw [filled.alien, ha b (by simp [hb])]
    refine ⟨t, filled.trans ht, ?_⟩
    simp only [State.fillAll, read, rest, filled.byte, List.map_cons]

/-! ## Coherent reads (11 R276) -/

/-- Where the core holds no copy, every atom is read at its home. -/
theorem pickCopies_none {s : State} {core : Nat} (c : Nat) {atoms : List Nat}
    (h : ∀ a ∈ atoms, mapGet none s.l1 (copyKey core a) = none) : s.pickCopies core c atoms = (s, atoms.map fun a => (a, none)) := by
  induction atoms with
  | nil => rfl
  | cons a l ih => simp only [State.pickCopies, h a (by simp), ih fun b hb => h b (by simp [hb]), List.map_cons]

/-- The byte of an address among the atoms read. -/
theorem atomByte_read {s : State} {pas : List Nat} {a : Nat} (h : a ∈ pas) :
    ((findBy (fun e => e.1 == a / 32) ((atomsOf pas).map fun x => (x, (addrs (x * 32) 32).map fun p => (s.byte p, false)))).bind
      fun e => e.2[a % 32]?).getD (0#8, false) = (s.byte a, false) := by
  have small : a % 32 < 32 := Nat.mod_lt _ (by decide)
  have whole : a / 32 * 32 + a % 32 = a := by omega
  rw [findBy_map_pair _ (mem_atomsOf.mpr ⟨a, h, rfl⟩)]
  simp [addrs, small, whole]

theorem cohRead_clean {s : State} {core : Nat} (c : Nat) {pas : List Nat} (h : Clean s pas)
    (hl : ∀ a ∈ pas, mapGet none s.l1 (copyKey core (a / 32)) = none) :
    ∃ t time, s.cohRead core c pas = (t, pas.map fun a => (s.byte a, false), none, time) ∧ Filled s t := by
  have copies : ∀ a ∈ atomsOf pas, mapGet none s.l1 (copyKey core a) = none := fun a ha => by
    obtain ⟨p, hp, rfl⟩ := mem_atomsOf.mp ha
    exact hl p hp
  have lined : ∀ a ∈ atomsOf pas, s.line (a / 4) = ⟨false, []⟩ ∧ s.alien (a / 4) = false := fun a ha => by
    obtain ⟨p, hp, rfl⟩ := mem_atomsOf.mp ha
    rw [Nat.div_div_eq_div_mul]
    exact ⟨h.lines p hp, h.keyed p hp⟩
  have homes : ((((atomsOf pas).map fun a => (a, (none : Option Copied))).filter fun p => p.2.isNone).map Prod.fst) = atomsOf pas := by
    simp [List.filter_map, Function.comp_def]
  have unused : (((atomsOf pas).map fun a => (a, (none : Option Copied))).filterMap
      fun p => p.2.map fun k => (p.1, k.bytes.map fun b => (b, k.poison))) = [] := by simp
  obtain ⟨t, filled, read⟩ := fillAll_clean (s := s) core (s.readTime c ((atomsOf pas).map fun a => (a, (none : Option Copied))))
    (fun a ha => (lined a ha).1) fun a ha => (lined a ha).2
  refine ⟨t, s.readTime c ((atomsOf pas).map fun a => (a, (none : Option Copied))), ?_, filled⟩
  unfold State.cohRead
  simp only [pickCopies_none c copies, homes, h.mergeAll, ite_self, read, unused, List.nil_append]
  exact congrArg (fun x => (t, x, none, _)) (List.map_congr_left fun a ha => atomByte_read ha)

/-! ## What the accesses of a group read -/

/-- Near accesses name no byte of the host window, of path 0x6, of path 0x1 or of a view. -/
theorem pickBytes_nil {f : Loc → Option Nat} {accs : List LaneAcc} (h : ∀ a ∈ accs, ∀ l ∈ a.locs, f l = none) :
    pickBytes f accs = [] :=
  List.flatMap_eq_nil_iff.mpr fun a ha => List.filterMap_eq_nil_iff.mpr (h a ha)
theorem Near.locs {accs : List LaneAcc} (h : Near accs) :
    ∀ a ∈ accs, ∀ l ∈ a.locs, (∃ p, l = .mem p ∧ hostWindow p = false) ∨ ∃ x t o, l = .scr x t o := fun a ha l hl => by
  rcases h a ha with h | ⟨x, t, h⟩
  · exact .inl (h l hl)
  · obtain ⟨o, e⟩ := h l hl
    exact .inr ⟨x, t, o, e⟩
theorem Near.host {accs : List LaneAcc} (h : Near accs) : pickBytes hostLoc accs = [] := pickBytes_nil fun a ha l hl => by
  rcases h.locs a ha l hl with ⟨p, rfl, hp⟩ | ⟨x, t, o, rfl⟩
  · simp [hostLoc, hp]
  · rfl
theorem Near.raw {accs : List LaneAcc} (h : Near accs) : pickBytes rawByte accs = [] := pickBytes_nil fun a ha l hl => by
  rcases h.locs a ha l hl with ⟨p, rfl, -⟩ | ⟨x, t, o, rfl⟩ <;> rfl
theorem Near.ro {accs : List LaneAcc} (h : Near accs) : pickBytes roByte accs = [] := pickBytes_nil fun a ha l hl => by
  rcases h.locs a ha l hl with ⟨p, rfl, -⟩ | ⟨x, t, o, rfl⟩ <;> rfl

/-- A byte of a coherent access is among its device bytes. -/
theorem mem_near {accs : List LaneAcc} {a : LaneAcc} {p : Nat} (ha : a ∈ accs) (hl : .mem p ∈ a.locs)
    (hp : hostWindow p = false) : p ∈ pickBytes cohByte accs :=
  List.mem_flatMap.mpr ⟨a, ha, List.mem_filterMap.mpr ⟨_, hl, by simp [cohByte, hp]⟩⟩
theorem near_sub {accs : List LaneAcc} : ∀ p ∈ pickBytes cohByte accs, p ∈ devBytes accs := fun p hp => by
  simp [devBytes, hp]

/-- The values of a location, by its place. -/
def locRead (s : State) : Loc → List (Byte × Bool)
  | .mem p => [(s.byte p, false)]
  | .scr _ t o => s.scratchBytes t [o]
  | _ => []

/-- An access with what its bytes hold. -/
def readAcc (s : State) (a : LaneAcc) : LaneAcc := { a with bytes := locBytes s a, poison := locPoison s a }

/-- A location's values, found where the bytes have been read. -/
theorem readLocs_near {s t : State} {core c : Nat} {fs : Found} {ls : List Loc} (ht : t.teams = s.teams)
    (h : ∀ l ∈ ls, (∃ p, l = .mem p ∧ foundAt fs 0 p = (s.byte p, false)) ∨ ∃ x k o, l = .scr x k o) :
    t.readLocs core c fs ls = (t, ls.flatMap (locRead s), none) := by
  induction ls with
  | nil => rfl
  | cons l ls ih =>
    have rest := ih fun k hk => h k (by simp [hk])
    have pads : ∀ k o, t.scratchBytes k o = s.scratchBytes k o := fun k o => by
      simp only [State.scratchBytes, State.team, ht]
    rcases h l (by simp) with ⟨p, rfl, hf⟩ | ⟨x, k, o, rfl⟩
    · simp only [State.readLocs, hf, rest, List.flatMap_cons, locRead]
    · simp only [State.readLocs, rest, List.flatMap_cons, locRead, pads]

/-- The values of one access are its bytes and their poison. -/
theorem locRead_acc (s : State) (a : LaneAcc) (h : ∀ l ∈ a.locs, (∃ p, l = .mem p) ∨ ∃ x k o, l = .scr x k o) :
    (a.locs.flatMap (locRead s)).map Prod.fst = locBytes s a ∧ (a.locs.flatMap (locRead s)).any Prod.snd = locPoison s a := by
  unfold locBytes locPoison
  generalize a.locs = ls at h
  induction ls with
  | nil => exact ⟨rfl, rfl⟩
  | cons l ls ih =>
    obtain ⟨bytes, poison⟩ := ih fun k hk => h k (by simp [hk])
    rcases h l (by simp) with ⟨p, rfl⟩ | ⟨x, k, o, rfl⟩
    · simp [locRead, bytes, poison]
    · cases hk : s.team k <;> simp [locRead, State.scratchBytes, Team.scratchByte, hk, bytes, poison]

theorem readAccs_near {s t : State} {core c : Nat} {fs : Found} {accs : List LaneAcc} (ht : t.teams = s.teams)
    (hne : ∀ a ∈ accs, a.locs ≠ [])
    (h : ∀ a ∈ accs, ∀ l ∈ a.locs, (∃ p, l = .mem p ∧ foundAt fs 0 p = (s.byte p, false)) ∨ ∃ x k o, l = .scr x k o) :
    t.readAccs core c fs accs = (t, accs.map (readAcc s), none) := by
  induction accs with
  | nil => rfl
  | cons a as ih =>
    have rest := ih (fun b hb => hne b (by simp [hb])) fun b hb => h b (by simp [hb])
    have first := readLocs_near (core := core) (c := c) ht (h a (by simp))
    obtain ⟨bytes, poison⟩ := locRead_acc s a fun l hl => by
      rcases h a (by simp) l hl with ⟨p, e, -⟩ | scr
      · exact .inl ⟨p, e⟩
      · exact .inr scr
    simp only [State.readAccs, if_neg (hne a (by simp)), first, rest, List.map_cons, readAcc, bytes, poison]

/-- A byte read is found by its path and address. -/
theorem foundAt_read {s : State} {ps : List Nat} {p : Nat} (h : p ∈ ps) :
    foundAt ((List.zip ps (ps.map fun a => (s.byte a, false))).map fun e => (0, e.1, e.2)) 0 p = (s.byte p, false) := by
  have listed : (List.zip ps (ps.map fun a => (s.byte a, false))).map (fun e => (0, e.1, e.2)) =
      ps.map fun a => (0, a, (s.byte a, false)) := by
    rw [List.zip_eq_zipWith, List.zipWith_map_right]
    simp
  rw [foundAt, listed, findBy_unique (a := (0, p, (s.byte p, false))) (List.mem_map.mpr ⟨p, h, rfl⟩) (by simp) fun b hb e => by
    obtain ⟨q, -, rfl⟩ := List.mem_map.mp hb
    have : q = p := by simpa using e
    rw [this]]
  rfl

/-- Near accesses of sound bytes, the core holding no copy of them, read what memory and the scratchpads hold. -/
theorem readGroup_near {s : State} {core : Nat} (c : Nat) {accs : List LaneAcc} (hn : Near accs) (h : Clean s (devBytes accs))
    (hl : ∀ a ∈ devBytes accs, mapGet none s.l1 (copyKey core (a / 32)) = none) (hne : ∀ a ∈ accs, a.locs ≠ []) :
    ∃ t time, s.readGroup core c accs = (t, accs.map (readAcc s), none, time) ∧ Filled s t := by
  obtain ⟨t, time, near, filled⟩ : ∃ t time, (if pickBytes cohByte accs = [] then (s, [], none, 0) else
      s.cohRead core c (pickBytes cohByte accs)) = (t, (pickBytes cohByte accs).map (fun a => (s.byte a, false)), none, time) ∧
      Filled s t := by
    split
    · next e => exact ⟨s, 0, by rw [e]; rfl, .refl s⟩
    · exact cohRead_clean c (h.mono near_sub) fun a ha => hl a (near_sub a ha)
  refine ⟨t, time, ?_, filled⟩
  have values := readAccs_near (t := t) (core := core) (c := c) filled.teams hne (fs := (List.zip (pickBytes cohByte accs)
      ((pickBytes cohByte accs).map fun a => (s.byte a, false))).map fun e => (0, e.1, e.2)) fun a ha l hl => by
    rcases hn.locs a ha l hl with ⟨p, rfl, hp⟩ | scr
    · exact .inl ⟨p, rfl, foundAt_read (mem_near ha hl hp)⟩
    · exact .inr scr
  unfold State.readGroup
  simp only [near, hn.host, hn.raw, hn.ro, if_true, List.zip_nil_left, List.map_nil, List.append_nil]
  exact congrArg (fun x : State × List LaneAcc × Option Nat => (x.1, x.2.1, x.2.2, time)) values

end Sys2Proof.Machine

/-!
SUPPORT. Writes at the homes of sound bytes (11 R273, R276, R282): what a store leaves of device memory, of the scratchpads and
of the rest of the machine.
-/
namespace Sys2Proof.Machine

/-! ## The last value of an address -/

/-- Of two lists of cells the later hides the earlier. -/
theorem lastAt_append (l m : List Host.Cell) (p : Nat) : lastAt (l ++ m) p = (lastAt m p).or (lastAt l p) := by
  rw [lastAt, lastAt, lastAt, List.reverse_append, List.find?_append]
  cases m.reverse.find? fun c => c.1 == p <;> rfl
/-- The cells of an address's own line give its last value. -/
theorem lastAt_line (cells : List Host.Cell) (p : Nat) :
    lastAt (cells.filter fun c => c.1 / 128 == p / 128) p = lastAt cells p := by
  rw [lastAt, lastAt, ← List.filter_reverse, List.find?_filter]
  congr 2
  funext c
  by_cases h : c.1 = p <;> simp [h]

/-! ## Lines that a write may put (20 R431) -/

/-- A line that is read right, under its owner's key. -/
def State.lineOk (s : State) (ln : Nat) : Prop := (s.lineRead ln).bad = false ∧ (s.lineRead ln).kind ≠ .uncorrectable

theorem Clean.lineOk {s : State} {pas : List Nat} (h : Clean s pas) {a : Nat} (ha : a ∈ pas) : s.lineOk (a / 128) := by
  rw [State.lineOk, lineRead_clean (h.lines a ha) (h.keyed a ha)]
  exact ⟨rfl, nofun⟩

/-- Only what the L2 holds of dirty lines and the polders' counts have changed. -/
def CountsOnly (s t : State) : Prop := t = { s with dirty := t.dirty, pldrs := t.pldrs }

theorem countsOnly_soil (s : State) (ln : Nat) : CountsOnly s (s.soil ln) := by
  unfold State.soil
  split
  · rfl
  · split <;> rfl
theorem countsOnly_countLine (s : State) (ln : Nat) (k : LineKind) : CountsOnly s (s.countLine ln k) := by
  unfold State.countLine
  dsimp only
  split
  · split <;> rfl
  · rfl
theorem CountsOnly.trans {s t u : State} (h : CountsOnly s t) (k : CountsOnly t u) : CountsOnly s u := by
  unfold CountsOnly at *
  refine k.trans ?_
  rw [h]

/-- A line's bytes put with a codeword that is right but for its mark, and the line enciphered. -/
def State.putLine (s : State) (ln : Nat) (cells : List Host.Cell) (mark : Bool) : State :=
  ({ s with mem := putCells s.mem cells }.setLine ln ⟨mark, []⟩).encipher ln

/-- A write to a line that is read right puts its bytes. -/
theorem writeLine_puts {s : State} {ln : Nat} (h : s.lineOk ln) (cells : List Host.Cell) (p : Bool) :
    ∃ u mark, CountsOnly s u ∧ s.writeLine ln cells p = u.putLine ln cells mark := by
  obtain ⟨good, kind⟩ := h
  have counted := (countsOnly_soil s ln).trans (countsOnly_countLine (s.soil ln) ln (s.lineRead ln).kind)
  unfold State.writeLine
  simp only [good, Bool.false_eq_true, if_false]
  split
  · exact ⟨_, p, countsOnly_soil s ln, rfl⟩
  · exact ⟨_, _, counted, rfl⟩

theorem encipher_maintained (s : State) (ln : Nat) : Maintained s (s.encipher ln) := by
  unfold State.encipher
  dsimp only
  split <;> rfl
theorem putLine_maintained (s : State) (ln : Nat) (cells : List Host.Cell) (mark : Bool) :
    Maintained s (s.putLine ln cells mark) := by
  have put : Maintained s ({ s with mem := putCells s.mem cells }.setLine ln ⟨mark, []⟩) := rfl
  exact put.trans (encipher_maintained _ ln)
theorem CountsOnly.maintained {s t : State} (h : CountsOnly s t) : Maintained s t := by
  unfold Maintained
  rw [h]

@[simp] theorem encipher_lines (s : State) (ln : Nat) : (s.encipher ln).lines = s.lines := by
  unfold State.encipher
  dsimp only
  split <;> rfl
@[simp] theorem encipher_lkeys (s : State) (ln : Nat) : (s.encipher ln).lkeys =
    mapSet (mapGet (0, 0) s.pckeys (ln / 2 ^ 23)).1 s.lkeys ln (s.keyNow ln) := by
  unfold State.encipher
  dsimp only
  split <;> rfl
@[simp] theorem encipher_pckeys (s : State) (ln : Nat) : (s.encipher ln).pckeys = s.pckeys := by
  unfold State.encipher
  dsimp only
  split <;> rfl

section putLine
variable (s : State) (ln : Nat) (cells : List Host.Cell) (mark : Bool)

theorem putLine_mem : (s.putLine ln cells mark).mem = putCells s.mem cells := by simp [State.putLine]
theorem putLine_line (k : Nat) : (s.putLine ln cells mark).line k = if k = ln then ⟨mark, []⟩ else s.line k := by
  rw [State.putLine, State.line, encipher_lines]
  exact State.line_setLine { s with mem := putCells s.mem cells } ln k ⟨mark, []⟩
theorem putLine_alien (k : Nat) : (s.putLine ln cells mark).alien k = if k = ln then false else s.alien k := by
  have keys : (s.putLine ln cells mark).pckeys = s.pckeys := encipher_pckeys _ _
  have now : (s.putLine ln cells mark).keyNow k = s.keyNow k := by rw [State.keyNow, State.keyNow, keys]
  have held : (s.putLine ln cells mark).lkeys = mapSet (mapGet (0, 0) s.pckeys (ln / 2 ^ 23)).1 s.lkeys ln (s.keyNow ln) :=
    encipher_lkeys _ _
  have old : (s.putLine ln cells mark).keyThen k = if k = ln then s.keyNow ln else s.keyThen k := by
    rw [State.keyThen, State.keyThen, keys, held]
    by_cases h : k = ln
    · subst h
      rw [mapGet_mapSet]
    · have other : ∀ d, mapGet d (mapSet (mapGet (0, 0) s.pckeys (ln / 2 ^ 23)).1 s.lkeys ln (s.keyNow ln)) k =
          mapGet d s.lkeys k := fun d => by
        unfold mapSet
        split <;> simp [h]
      simp only [if_neg h, other]
  rw [State.alien, now, old, State.alien]
  by_cases h : k = ln
  · simp [h]
  · simp [h]

theorem putLine_lineOk {k : Nat} (h : s.lineOk k) : (s.putLine ln cells mark).lineOk k := by
  unfold State.lineOk State.lineRead at *
  simp only [putLine_line, putLine_alien]
  by_cases e : k = ln
  · cases mark <;> simp [e, LineState.read]
  · simpa only [if_neg e] using h

end putLine

/-! ## A write of cells, line by line -/

/-- What a write at the homes leaves: memory as `f` gives it, and the lines right that were so. -/
structure Written (s t : State) (f : Nat → Byte) : Prop where
  rest  : Maintained s t
  bytes : ∀ a, t.byte a = f a
  lines : ∀ k, s.lineOk k → t.lineOk k

theorem CountsOnly.lineOk {s t : State} (h : CountsOnly s t) {k : Nat} (hk : s.lineOk k) : t.lineOk k := by
  rw [h]
  exact hk

theorem writeLine_written {s : State} {ln : Nat} (h : s.lineOk ln) (cells : List Host.Cell) (p : Bool) :
    Written s (s.writeLine ln cells p) fun a => (lastAt cells a).getD (s.byte a) := by
  obtain ⟨u, mark, counted, e⟩ := writeLine_puts h cells p
  rw [e]
  refine ⟨counted.maintained.trans (putLine_maintained u ln cells mark), fun a => ?_, fun k hk =>
    putLine_lineOk u ln cells mark (counted.lineOk hk)⟩
  rw [State.byte, putLine_mem, mapGet_putCells, counted]
  rfl

/-- The line-by-line write over the lines of a list. -/
theorem writeLines_written {lns : List Nat} (cells : List Host.Cell) (poisoned : List Nat) {s : State}
    (h : ∀ ln ∈ lns, s.lineOk ln) :
    Written s (lns.foldl (fun t ln => t.writeLine ln (cells.filter fun c => c.1 / 128 == ln) (poisoned.contains ln)) s)
      fun a => if a / 128 ∈ lns then (lastAt cells a).getD (s.byte a) else s.byte a := by
  induction lns generalizing s with
  | nil => exact ⟨.refl s, fun _ => rfl, fun _ h => h⟩
  | cons ln lns ih =>
    have one := writeLine_written (h ln (by simp)) (cells.filter fun c => c.1 / 128 == ln) (poisoned.contains ln)
    have rest := ih fun k hk => one.lines k (h k (by simp [hk]))
    refine ⟨one.rest.trans rest.rest, fun a => ?_, fun k hk => rest.lines k (one.lines k hk)⟩
    rw [List.foldl_cons, rest.bytes, one.bytes]
    by_cases e : a / 128 = ln
    · subst e
      rw [lastAt_line]
      cases lastAt cells a <;> simp
    · have none_here : lastAt (cells.filter fun c => c.1 / 128 == ln) a = none := lastAt_none fun c hc ha => by
        have := (List.mem_filter.mp hc).2
        simp only [beq_iff_eq] at this
        exact e (by rw [← this, ha])
      simp [none_here, e]

/-- A write to lines that are read right leaves in memory exactly its cells. -/
theorem homeWrite_written {s : State} {cells : List Host.Cell} (poisoned : List Nat)
    (h : ∀ c ∈ cells, s.lineOk (c.1 / 128)) :
    Written s (s.homeWrite cells poisoned) fun a => (lastAt cells a).getD (s.byte a) := by
  have named : ∀ ln, ln ∈ distinct (cells.map fun c => c.1 / 128) ↔ ∃ c ∈ cells, c.1 / 128 = ln := fun ln => by
    rw [mem_distinct, List.mem_map]
  obtain ⟨rest, bytes, lines⟩ := writeLines_written cells poisoned (s := s) (lns := distinct (cells.map fun c => c.1 / 128))
    fun ln hl => by
      obtain ⟨c, hc, rfl⟩ := (named ln).mp hl
      exact h c hc
  refine ⟨rest, fun a => (bytes a).trans ?_, lines⟩
  by_cases e : a / 128 ∈ distinct (cells.map fun c => c.1 / 128)
  · rw [if_pos e]
  · rw [if_neg e, lastAt_none fun c hc ha => e ((named _).mpr ⟨c, hc, by rw [ha]⟩)]
    rfl

/-- No write to lines that are read right meets a failed MAC. -/
theorem badWrite_none {s : State} {cells : List Host.Cell} (h : ∀ c ∈ cells, s.lineOk (c.1 / 128)) : s.badWrite cells = none := by
  rw [State.badWrite, State.badLine, findBy_eq_find?, List.find?_eq_none]
  intro ln hl
  obtain ⟨a, ha, rfl⟩ := List.mem_map.mp (mem_distinct.mp hl)
  obtain ⟨c, hc, rfl⟩ := List.mem_map.mp (List.mem_filter.mp ha).1
  simp [(h c hc).1]

/-! ## Writes at one time (11 R276, R293) -/

/-- A property of each entry that a change keeps. -/
theorem map_updBy {α β : Type} (proj : α → β) (p : α → Bool) (f : α → α) (hf : ∀ a, proj (f a) = proj a) (l : List α) :
    (updBy p f l).map proj = l.map proj := by
  induction l with
  | nil => rfl
  | cons a l ih =>
    rw [updBy, List.map_cons, List.map_cons, ih]
    split
    · rw [hf]
    · rfl

theorem mem_updBy {α : Type} {p : α → Bool} {f : α → α} {l : List α} {a : α} (ha : a ∈ l) (hp : p a = true) :
    f a ∈ updBy p f l := by
  induction l with
  | nil => cases ha
  | cons b l ih =>
    rcases List.mem_cons.mp ha with rfl | ha
    · rw [updBy, if_pos hp]
      exact List.mem_cons_self
    · exact List.mem_cons_of_mem _ (ih ha)

/-- What an access at the home may change: memory and what stands beside it, copies in the L1, writers of sync variables,
scratchpads and bytes put out to the host. -/
structure Wrote (s t : State) : Prop where
  rest  : t = { s with mem := t.mem, lines := t.lines, lkeys := t.lkeys, dirty := t.dirty, stamps := t.stamps, vars := t.vars,
                       pldrs := t.pldrs, l1 := t.l1, outbox := t.outbox, teams := t.teams }
  vars  : t.vars.map (·.atom) = s.vars.map (·.atom)
  slots : ∀ k, (t.team k).map (·.slot) = (s.team k).map (·.slot)

theorem Wrote.refl (s : State) : Wrote s s := ⟨rfl, rfl, fun _ => rfl⟩
theorem Wrote.trans {s t u : State} (h : Wrote s t) (k : Wrote t u) : Wrote s u :=
  ⟨by rw [k.rest, h.rest], k.vars.trans h.vars, fun x => (k.slots x).trans (h.slots x)⟩
theorem Maintained.wrote {s t : State} (h : Maintained s t) : Wrote s t := by
  rw [h]
  exact ⟨rfl, rfl, fun _ => rfl⟩

section wrote
variable {s t : State} (h : Wrote s t)
include h
theorem Wrote.group (k : Nat) : t.group k = s.group k := by rw [h.rest]; rfl
theorem Wrote.groups : t.groups = s.groups := by rw [h.rest]
theorem Wrote.ops : t.ops = s.ops := by rw [h.rest]
theorem Wrote.ids : t.ids = s.ids := by rw [h.rest]
theorem Wrote.ranges : t.ranges = s.ranges := by rw [h.rest]
theorem Wrote.writerOf (g : Group) : t.writerOf g = s.writerOf g := by
  rw [State.writerOf, State.writerOf, State.teamWriter, State.teamWriter, h.slots]
end wrote

/-- A write put in memory: its frame, the bytes after and the lines that are read right. -/
structure Put (s t : State) (f : Nat → Byte) : Prop where
  wrote : Wrote s t
  teams : t.teams = s.teams
  merged : t.uatoms = s.uatoms
  bytes : ∀ a, t.byte a = f a
  lines : ∀ k, s.lineOk k → t.lineOk k

theorem Put.refl (s : State) : Put s s s.byte := ⟨.refl s, rfl, rfl, fun _ => rfl, fun _ h => h⟩
theorem Put.trans {s t u : State} {f e : Nat → Byte} (h : Put s t f) (k : Put t u e) : Put s u e :=
  ⟨h.wrote.trans k.wrote, k.teams.trans h.teams, k.merged.trans h.merged, k.bytes, fun x hx => k.lines x (h.lines x hx)⟩
/-- A step that changes no byte after a write. -/
theorem Put.aside {s t u : State} {f : Nat → Byte} (h : Put s t f) (k : Put t u t.byte) : Put s u f :=
  have both := h.trans k
  ⟨both.wrote, both.teams, both.merged, fun a => (k.bytes a).trans (h.bytes a), both.lines⟩
theorem Written.put {s t : State} {f : Nat → Byte} (h : Written s t f) : Put s t f :=
  ⟨h.rest.wrote, by rw [h.rest], by rw [h.rest], h.bytes, h.lines⟩

/-- Times, copies in the L1, writers and counts change no byte and no line. -/
theorem put_aside {s t : State} (h : t = { s with stamps := t.stamps, vars := t.vars, l1 := t.l1, pldrs := t.pldrs })
    (hv : t.vars.map (·.atom) = s.vars.map (·.atom)) : Put s t s.byte := by
  refine ⟨⟨by rw [h], hv, fun k => by rw [h]; rfl⟩, by rw [h], by rw [h], fun a => by rw [h]; rfl, fun k hk => ?_⟩
  rw [h]
  exact hk
theorem TimesOnly.put {s t : State} (h : TimesOnly s t) : Put s t s.byte :=
  put_aside (by rw [h]) (by rw [h])

theorem noteWriter_put (s : State) (atoms : List Nat) (w : BitVec 16) (sc : Option (BitVec 2)) :
    Put s (s.noteWriter atoms w sc) s.byte :=
  put_aside rfl (map_updBy (fun v : SyncVar => v.atom) _ _ (by intro v; rfl) _)
theorem passBytes_put (s : State) (core m : Nat) (pas : List Nat) : Put s (s.passBytes core m pas) s.byte :=
  (TimesOnly.foldl _ _ (fun _ _ => timesOnly_passL2 _ _ _ _ _) s).put
theorem stampAll_put (s : State) (atoms : List Nat) (t : Nat) : Put s (s.stampAll atoms t) s.byte :=
  (TimesOnly.foldl atoms (fun u a => u.setStamp a (t, t)) (by intro u a; rfl) s).put

theorem copies_put (s : State) (m : List (Nat × Option Copied)) : Put s { s with l1 := m } s.byte := put_aside rfl rfl

/-- The cells of a write to sound bytes. -/
theorem Clean.cells {s : State} {cells : List Host.Cell} (h : Clean s (cells.map Prod.fst)) :
    ∀ c ∈ cells, s.lineOk (c.1 / 128) := fun _ hc => h.lineOk (List.mem_map_of_mem hc)

/-- A coherent write of sound bytes leaves in memory exactly its cells. -/
theorem cohWrite_clean {s : State} (core c : Nat) (writer : BitVec 16) {cells : List Host.Cell} (poisoned : List Nat)
    (h : Clean s (cells.map Prod.fst)) : ∃ t time, s.cohWrite core c writer cells poisoned = (t, none, time) ∧
      Put s t fun a => (lastAt cells a).getD (s.byte a) := by
  unfold State.cohWrite
  simp only [h.mergeAll, badWrite_none h.cells]
  refine ⟨_, _, rfl, ?_⟩
  exact ((((homeWrite_written poisoned h.cells).put.aside (stampAll_put _ _ _)).aside (noteWriter_put _ _ _ _)).aside
    (copies_put _ _)).aside (passBytes_put _ _ _ _)

/-- A write of sound bytes at their present time leaves in memory exactly its cells (11 R293). -/
theorem writeHome_clean {s : State} (after c : Nat) (unit : Option Nat) (writer : BitVec 16) (scope : Option (BitVec 2))
    {cells : List Host.Cell} (poisoned : List Nat) (hm : ∀ e ∈ cells, s.uatom (e.1 / 32) = none)
    (hl : ∀ e ∈ cells, s.lineOk (e.1 / 128)) :
    Put s (s.writeHome after c unit cells poisoned writer scope) fun a => (lastAt cells a).getD (s.byte a) := by
  have merged : s.mergeAll (atomsOf (cells.map Prod.fst)) c unit = s := mergeAll_merged (fun a ha => by
    obtain ⟨p, hp, rfl⟩ := mem_atomsOf.mp ha
    obtain ⟨e, he, rfl⟩ := List.mem_map.mp hp
    exact hm e he) c unit
  unfold State.writeHome
  simp only [merged]
  have timed := (TimesOnly.foldl (atomsOf (cells.map Prod.fst)) (fun t a =>
    t.setStamp a (max ((t.stamp a).2 + 1) after, max ((t.stamp a).2 + 1) after)) (by intro u a; rfl) s).put
  have written := (homeWrite_written poisoned fun e he => timed.lines _ (hl e he)).put
  simp only [timed.bytes] at written
  exact (timed.trans written).aside (noteWriter_put _ _ _ _)

/-! ## The writes of a list of accesses -/

/-- The bytes that accesses store are among those they name. -/
theorem storeCells_named {f : Loc → Option Nat} {accs : List LaneAcc} {e : Host.Cell} (he : e ∈ (storeCells f accs).1) :
    e.1 ∈ pickBytes f accs := by
  obtain ⟨a, ha, he⟩ := List.mem_flatMap.mp he
  obtain ⟨⟨l, b⟩, hl, he⟩ := List.mem_filterMap.mp he
  obtain ⟨p, hp, rfl⟩ := Option.map_eq_some_iff.mp he
  exact List.mem_flatMap.mpr ⟨a, ha, List.mem_filterMap.mpr ⟨l, (List.of_mem_zip hl).1, hp⟩⟩

theorem hostWrite_put (s : State) (cells : List Host.Cell) : Put s (s.hostWrite cells) s.byte :=
  ⟨⟨rfl, rfl, fun _ => rfl⟩, rfl, rfl, fun _ => rfl, fun _ h => h⟩

/-- The writes of accesses of sound bytes all end, with memory holding exactly what they store; the scratchpads are written
last. -/
theorem writeAccs_clean {s : State} (core team clock : Nat) {accs : List LaneAcc} (h : Clean s (devBytes accs)) :
    ∃ t time, s.writeAccs core team clock accs = (t.scratchAccs accs, none, time) ∧
      Put s t fun a => (lastAt (stored accs) a).getD (s.byte a) := by
  have near : ∀ e ∈ (storeCells cohByte accs).1, e.1 ∈ devBytes accs := fun e he => near_sub _ (storeCells_named he)
  have raw : ∀ e ∈ (storeCells rawByte accs).1, e.1 ∈ devBytes accs := fun e he => by
    simp [devBytes, storeCells_named he]
  obtain ⟨t, time, written, put⟩ : ∃ t time, (if (storeCells cohByte accs).1 = [] then (s, none, 0) else
      s.cohWrite core clock (s.teamWriter core team) (storeCells cohByte accs).1 (storeCells cohByte accs).2) = (t, none, time) ∧
      Put s t fun a => (lastAt (storeCells cohByte accs).1 a).getD (s.byte a) := by
    split
    · next e => exact ⟨s, 0, rfl, by rw [e]; exact .refl s⟩
    · exact cohWrite_clean core clock _ _ (h.mono fun p hp => by
        obtain ⟨e, he, rfl⟩ := List.mem_map.mp hp
        exact near e he)
  unfold State.writeAccs
  simp only [badWrite_none fun e he => h.lineOk (raw e he), written]
  refine ⟨_, time, rfl, Put.aside ?_ (hostWrite_put _ _)⟩
  have both : ∀ a, (lastAt (stored accs) a).getD (s.byte a) =
      (lastAt (storeCells rawByte accs).1 a).getD ((lastAt (storeCells cohByte accs).1 a).getD (s.byte a)) := fun a => by
    rw [stored, lastAt_append]
    cases lastAt (storeCells rawByte accs).1 a <;> rfl
  simp only [both]
  split
  · next e =>
    rw [e]
    exact put
  · have homes := writeHome_clean 0 clock (some (core / 4)) (t.teamWriter core team) none (s := t) (storeCells rawByte accs).2
      (fun e he => by
        rw [State.uatom, put.merged]
        exact h.merged _ (raw e he)) fun e he => put.lines _ (h.lineOk (raw e he))
    simp only [put.bytes] at homes
    exact (put.trans homes).aside (passBytes_put _ _ _ _)

/-! ## Stores to scratchpads (11 R282) -/

/-- A team read after a change of one, by a change that keeps its number. -/
theorem State.team_modTeam_at (s : State) (key k : Nat) (f : Team → Team) (hf : ∀ t, (f t).key = t.key) :
    (s.modTeam key f).team k = if k = key then (s.team k).map f else s.team k := by
  unfold State.team State.modTeam
  rw [findBy_updBy _ _ _ _ (fun a _ => by rw [hf])]
  cases h : findBy (fun t => t.key == k) s.teams with
  | none => simp
  | some t =>
    have hk : t.key = k := by simpa using findBy_some h
    by_cases e : k = key <;> simp [hk, e]

/-- A store to a team's scratchpad leaves exactly its cells. -/
theorem Team.scratchStore_byte (t : Team) (cells : List Host.Cell) (poison : Bool) (p : Nat) :
    mapGet 0#8 (t.scratchStore cells poison).scratch p = (lastAt cells p).getD (mapGet 0#8 t.scratch p) := by
  have puts : ∀ (l m : List Host.Cell), l.foldl (fun m c => mapSet 0#8 m c.1 c.2) m = putCells m l := fun l => by
    induction l with
    | nil => exact fun _ => rfl
    | cons e l ih => exact fun m => ih _
  rw [← mapGet_putCells, ← puts]
  rfl

theorem scratchStore_wrote (s : State) (team : Nat) (cells : List Host.Cell) (poison : Bool) :
    Wrote s (s.scratchStore team cells poison) := by
  refine ⟨rfl, rfl, fun k => ?_⟩
  rw [State.scratchStore, State.team_modTeam_at s team k (·.scratchStore cells poison) (fun _ => rfl)]
  split
  · cases s.team k <;> rfl
  · rfl

/-- The scratchpad store of one access. -/
def State.scratchAcc (s : State) (a : LaneAcc) : State :=
  match a.locs with
  | .scr _ t _ :: _ => s.scratchStore t ((List.zip a.locs a.bytes).filterMap fun (l, b) =>
      match l with | .scr _ _ o => some (o, b) | _ => none) a.poison
  | _ => s
theorem scratchAccs_eq (s : State) (accs : List LaneAcc) : s.scratchAccs accs = accs.foldl State.scratchAcc s := rfl

theorem scratchAcc_wrote (s : State) (a : LaneAcc) : Wrote s (s.scratchAcc a) := by
  unfold State.scratchAcc
  split
  · exact scratchStore_wrote _ _ _ _
  · exact .refl s
theorem scratchAcc_mem (s : State) (a : LaneAcc) : (s.scratchAcc a).mem = s.mem := by
  unfold State.scratchAcc
  split <;> rfl
theorem scratchAccs_wrote (s : State) (accs : List LaneAcc) : Wrote s (s.scratchAccs accs) := by
  rw [scratchAccs_eq]
  induction accs generalizing s with
  | nil => exact .refl s
  | cons a l ih => exact (scratchAcc_wrote s a).trans (ih _)
theorem scratchAccs_byte (s : State) (accs : List LaneAcc) (a : Nat) : (s.scratchAccs accs).byte a = s.byte a := by
  rw [scratchAccs_eq]
  exact foldl_keeps (State.byte · a) _ _ (fun t b => by rw [State.byte, scratchAcc_mem]; rfl) s

/-- The scratchpad bytes that an access stores, whatever their team. -/
def padCells (a : LaneAcc) : List Host.Cell := (List.zip a.locs a.bytes).filterMap fun (l, b) =>
  match l with | .scr _ _ o => some (o, b) | _ => none

theorem scratchAcc_scr (s : State) {a : LaneAcc} {x : Bool} {t o : Nat} {ls : List Loc} (h : a.locs = .scr x t o :: ls) :
    s.scratchAcc a = s.scratchStore t (padCells a) a.poison := by
  rw [State.scratchAcc, h]
  simp only [padCells, h]
/-- An access that names no byte of a team stores none in its scratchpad. -/
theorem padStored_nil {k : Nat} {a : LaneAcc} (h : ∀ l ∈ a.locs, ∀ x o, l ≠ .scr x k o) : padStored k [a] = [] := by
  simp only [padStored, List.flatMap_cons, List.flatMap_nil, List.append_nil]
  refine List.filterMap_eq_nil_iff.mpr fun e he => ?_
  have named := h e.1 (List.of_mem_zip he).1
  cases hl : e.1 with
  | scr x t o =>
    have other : t ≠ k := fun ht => named x o (by rw [hl, ht])
    exact if_neg other
  | _ => rfl
theorem padStored_own {k : Nat} {x : Bool} {a : LaneAcc} (h : ∀ l ∈ a.locs, ∃ o, l = .scr x k o) : padStored k [a] = padCells a := by
  simp only [padStored, padCells, List.flatMap_cons, List.flatMap_nil, List.append_nil]
  refine List.filterMap_congr fun e he => ?_
  obtain ⟨o, ho⟩ := h e.1 (List.of_mem_zip he).1
  obtain ⟨l, b⟩ := e
  cases ho
  exact if_pos rfl

/-- An access to one team's scratchpad, or to device memory, leaves in every scratchpad exactly its bytes. -/
theorem scratchAcc_team {s : State} {a : LaneAcc}
    (h : (∀ l ∈ a.locs, ∃ p, l = .mem p ∧ hostWindow p = false) ∨ ∃ x t, ∀ l ∈ a.locs, ∃ o, l = .scr x t o)
    {k : Nat} {tm : Team} (hk : s.team k = some tm) :
    ∃ tm', (s.scratchAcc a).team k = some tm' ∧
      ∀ p, mapGet 0#8 tm'.scratch p = (lastAt (padStored k [a]) p).getD (mapGet 0#8 tm.scratch p) := by
  have stays : (∀ l ∈ a.locs, ∀ x o, l ≠ .scr x k o) → ∀ p, mapGet 0#8 tm.scratch p =
      (lastAt (padStored k [a]) p).getD (mapGet 0#8 tm.scratch p) := fun hl p => by
    rw [padStored_nil hl]
    rfl
  cases hlocs : a.locs with
  | nil => exact ⟨tm, by rw [State.scratchAcc, hlocs]; exact hk, stays (by simp [hlocs])⟩
  | cons l ls =>
    rcases h with h | ⟨x, t, h⟩
    · obtain ⟨p, rfl, -⟩ := h l (by simp [hlocs])
      refine ⟨tm, by rw [State.scratchAcc, hlocs]; exact hk, stays fun y hy z o e => ?_⟩
      obtain ⟨q, rfl, -⟩ := h y hy
      cases e
    · obtain ⟨o, rfl⟩ := h l (by simp [hlocs])
      rw [scratchAcc_scr s hlocs, State.scratchStore, State.team_modTeam_at s t k (·.scratchStore _ _) (fun _ => rfl), hk]
      by_cases e : k = t
      · subst e
        rw [if_pos rfl, padStored_own h]
        exact ⟨_, rfl, Team.scratchStore_byte tm _ _⟩
      · rw [if_neg e]
        refine ⟨tm, rfl, stays fun y hy z o hz => ?_⟩
        obtain ⟨q, rfl⟩ := h y hy
        cases hz
        exact e rfl

theorem scratchAccs_team {accs : List LaneAcc} (h : Near accs) {s : State} {k : Nat} {tm : Team} (hk : s.team k = some tm) :
    ∃ tm', (s.scratchAccs accs).team k = some tm' ∧
      ∀ p, mapGet 0#8 tm'.scratch p = (lastAt (padStored k accs) p).getD (mapGet 0#8 tm.scratch p) := by
  rw [scratchAccs_eq]
  induction accs generalizing s tm with
  | nil => exact ⟨tm, hk, fun _ => rfl⟩
  | cons a l ih =>
    obtain ⟨ta, ha, one⟩ := scratchAcc_team (h a (by simp)) hk
    obtain ⟨tm', hl, rest⟩ := ih (fun b hb => h b (by simp [hb])) ha
    refine ⟨tm', hl, fun p => ?_⟩
    have split_first : padStored k (a :: l) = padStored k [a] ++ padStored k l := by simp [padStored]
    rw [rest, one, split_first, lastAt_append]
    cases lastAt (padStored k l) p <;> rfl

end Sys2Proof.Machine

/-!
SUPPORT. The result of a load in the registers of its frames (07 R170, 05 R121): what it writes, and what it leaves of a group.
-/
namespace Sys2Proof.Machine

/-! ## Little-endian numbers -/

theorem ofBytes_drop (l : List Byte) (n : Nat) : ofBytes l / 2 ^ (8 * n) = ofBytes (l.drop n) := by
  induction n generalizing l with
  | zero => simp
  | succ n ih =>
    cases l with
    | nil => simp [ofBytes]
    | cons b l =>
      have small := b.isLt
      rw [List.drop_succ_cons, ← ih, ofBytes, show 2 ^ (8 * (n + 1)) = 256 * 2 ^ (8 * n) by rw [Nat.mul_add, pow_add]; omega,
        ← Nat.div_div_eq_div_mul]
      congr 1
      omega
theorem ofBytes_take (l : List Byte) (n : Nat) : ofBytes (l.take n) = ofBytes l % 2 ^ (8 * n) := by
  induction n generalizing l with
  | zero => simp [ofBytes, Nat.mod_one]
  | succ n ih =>
    cases l with
    | nil => simp [ofBytes]
    | cons b l =>
      have small := b.isLt
      rw [List.take_succ_cons, ofBytes, ofBytes, ih, show 2 ^ (8 * (n + 1)) = 256 * 2 ^ (8 * n) by rw [Nat.mul_add, pow_add]; omega,
        Nat.mod_mul, show (b.toNat + 256 * ofBytes l) / 256 = ofBytes l by omega]
      omega
/-- Word `k` of a little-endian value. -/
theorem ofBytes_word (l : List Byte) (k : Nat) :
    BitVec.ofNat 32 (ofBytes l / 2 ^ (32 * k)) = BitVec.ofNat 32 (ofBytes ((l.drop (4 * k)).take 4)) := by
  rw [ofBytes_take, ← ofBytes_drop, show 8 * (4 * k) = 32 * k by omega]
  apply BitVec.eq_of_toNat_eq
  simp

/-! ## Registers of a frame of the chain -/

theorem Group.windowReg_eq (g : Group) (l fid r : Nat) : g.windowReg l fid r = (g.lane l).vregAt fid r := rfl

/-- A register of a frame read after a write to one of a frame. -/
theorem Lane.vregAt_setVAt (n : Lane) (fid r : Nat) (v : Reg) (x k : Nat) : (n.setVAt fid r v).vregAt x k =
    if x = fid ∧ k = r ∧ n.chain.any (fun c => c.fid == fid) = true then v else n.vregAt x k := by
  unfold Lane.vregAt Lane.setVAt
  dsimp only
  rw [findBy_updBy _ _ _ _ (by intros; rfl)]
  cases h : findBy (fun c => c.fid == x) n.chain with
  | none =>
    have absent : x = fid → n.chain.any (fun c => c.fid == fid) ≠ true := fun e ha => by
      subst e
      obtain ⟨c, hc, hx⟩ := List.any_eq_true.mp ha
      have := findBy_eq_find? (fun c : LaneFrame => c.fid == x) n.chain ▸ h
      exact List.find?_eq_none.mp this c hc hx
    rw [if_neg fun hh => absent hh.1 hh.2.2]
    rfl
  | some c =>
    have hc : c.fid = x := by simpa using findBy_some h
    by_cases e : x = fid
    · have there : n.chain.any (fun c => c.fid == fid) = true :=
        List.any_eq_true.mpr ⟨c, findBy_mem h, by simp [hc, e]⟩
      by_cases hk : k = r <;> simp [hc, e, hk, there, LaneFrame.set]
    · simp [hc, e]

/-- Registers of a frame written from `d` on. -/
def Lane.setRun (n : Lane) (fid d count : Nat) (f : Nat → Reg) : Lane :=
  ((List.range count).map fun k => (d + k, f k)).foldl (fun n w => n.setVAt fid w.1 w.2) n

theorem Lane.setRun_succ (n : Lane) (fid d count : Nat) (f : Nat → Reg) :
    n.setRun fid d (count + 1) f = (n.setRun fid d count f).setVAt fid (d + count) (f count) := by
  simp [Lane.setRun, List.range_succ, List.foldl_append]

section setRun
variable (n : Lane) (fid d count : Nat) (f : Nat → Reg)

theorem Lane.setVAt_fids (r : Nat) (v : Reg) : (n.setVAt fid r v).chain.map (·.fid) = n.chain.map (·.fid) :=
  map_updBy (fun c : LaneFrame => c.fid) _ _ (by intro c; rfl) _
theorem Lane.setRun_fids : (n.setRun fid d count f).chain.map (·.fid) = n.chain.map (·.fid) := by
  induction count with
  | zero => rfl
  | succ c ih => rw [Lane.setRun_succ, Lane.setVAt_fids, ih]
theorem Lane.setRun_rest : n.setRun fid d count f = { n with chain := (n.setRun fid d count f).chain } := by
  induction count with
  | zero => rfl
  | succ c ih =>
    rw [Lane.setRun_succ, Lane.setVAt]
    rw [ih]
theorem Lane.setRun_none : Lane.none.setRun fid d count f = Lane.none := by
  induction count with
  | zero => rfl
  | succ c ih => rw [Lane.setRun_succ, ih]; rfl

theorem Lane.setRun_any (x : Nat) :
    (n.setRun fid d count f).chain.any (fun c => c.fid == x) = n.chain.any fun c => c.fid == x := by
  have := congrArg (fun l : List Nat => l.any (· == x)) (n.setRun_fids fid d count f)
  simpa [List.any_map, Function.comp_def] using this

/-- A register of a frame read after registers of a frame of the chain are written. -/
theorem Lane.vregAt_setRun (x r : Nat) : (n.setRun fid d count f).vregAt x r =
    if x = fid ∧ (d ≤ r ∧ r < d + count) ∧ n.chain.any (fun c => c.fid == fid) = true then f (r - d) else n.vregAt x r := by
  induction count with
  | zero => simp [Lane.setRun, show ¬ (d ≤ r ∧ r < d) by omega]
  | succ c ih =>
    rw [Lane.setRun_succ, Lane.vregAt_setVAt, ih, Lane.setRun_any]
    by_cases hr : r = d + c
    · subst hr
      by_cases hx : x = fid <;> by_cases ha : n.chain.any (fun c => c.fid == fid) = true <;> simp [hx, ha]
    · rw [if_neg fun h => hr h.2.1]
      exact if_congr (by constructor <;> (rintro ⟨h1, h2, h3⟩; exact ⟨h1, by omega, h3⟩)) rfl rfl

end setRun

/-! ## Loads -/


/-- Register `k` of a load's result (07 R170). -/
def loadWord (width : Nat) (signed : Bool) (a : LaneAcc) (k : Nat) : Reg :=
  ⟨if width < 4 then (if signed = true then (BitVec.ofNat (8 * width) (ofBytes a.bytes)).signExtend 32
      else BitVec.ofNat 32 (ofBytes a.bytes))
    else BitVec.ofNat 32 (ofBytes ((a.bytes.drop (4 * k)).take 4)), a.poison⟩

theorem loadRegs_eq (dst width : Nat) (signed : Bool) (a : LaneAcc) :
    loadRegs dst width signed a = (List.range (widthRegs width)).map fun k => (dst + k, loadWord width signed a k) := by
  unfold loadRegs widthRegs
  by_cases h : width < 4
  · rw [if_pos h, if_pos (show width ≤ 4 by omega)]
    cases signed <;> simp [loadWord, h]
  · have count : (if width ≤ 4 then 1 else width / 4) = width / 4 := by
      split <;> omega
    simp only [if_neg h, count, loadWord, ofBytes_word]

/-- A vector load's write to its frame. -/
def Group.loadLane (g : Group) (dst width : Nat) (signed : Bool) (a : LaneAcc) : Group :=
  (g.mapLanes (· == a.lane) fun _ n => n.setRun a.fid dst (widthRegs width) (loadWord width signed a)).stick psnBit a.poison
theorem Group.loadInto_lanes (g : Group) (dst width : Nat) (signed : Bool) (accs : List LaneAcc) :
    g.loadInto dst width signed false accs = accs.foldl (fun g a => g.loadLane dst width signed a) g := by
  simp only [Group.loadInto, Bool.false_eq_true, if_false, loadRegs_eq]
  rfl

section lanes
variable (dst width : Nat) (signed : Bool)

theorem Group.lane_loadLane (g : Group) (a : LaneAcc) (l : Nat) : (g.loadLane dst width signed a).lane l =
    if l = a.lane then (g.lane l).setRun a.fid dst (widthRegs width) (loadWord width signed a) else g.lane l := by
  rw [Group.loadLane, Group.lane_stick, Group.lane_mapLanes _ _ _ _ fun _ => Lane.setRun_none _ _ _ _]
  by_cases h : l = a.lane <;> simp [h]

/-- A lane that no access names stands, and each other takes its own access's registers. -/
theorem Group.lane_loadInto {accs : List LaneAcc} (hn : (accs.map (·.lane)).Nodup) (g : Group) (l : Nat) :
    (∀ a ∈ accs, a.lane = l → (g.loadInto dst width signed false accs).lane l =
      (g.lane l).setRun a.fid dst (widthRegs width) (loadWord width signed a)) ∧
    (l ∉ accs.map (·.lane) → (g.loadInto dst width signed false accs).lane l = g.lane l) := by
  rw [Group.loadInto_lanes]
  induction accs generalizing g with
  | nil => exact ⟨nofun, fun _ => rfl⟩
  | cons a as ih =>
    obtain ⟨fresh, hn⟩ := List.nodup_cons.mp hn
    obtain ⟨hit, miss⟩ := ih hn (g.loadLane dst width signed a)
    rw [Group.lane_loadLane] at hit miss
    refine ⟨fun b hb hl => ?_, fun hl => ?_⟩
    · rcases List.mem_cons.mp hb with rfl | hb
      · subst hl
        rw [if_pos rfl] at miss
        exact miss fresh
      · have other : l ≠ a.lane := fun e => fresh (List.mem_map.mpr ⟨b, hb, hl.trans e⟩)
        rw [if_neg other] at hit
        exact hit b hb hl
    · obtain ⟨ha, hl⟩ : l ≠ a.lane ∧ l ∉ as.map (·.lane) := by simpa using hl
      rw [if_neg ha] at miss
      exact miss hl

/-- A vector load changes of its group only its lanes and PSN. -/
theorem Group.loadInto_rest (g : Group) (accs : List LaneAcc) : g.loadInto dst width signed false accs =
    { g with lanes := (g.loadInto dst width signed false accs).lanes, gstat := (g.loadInto dst width signed false accs).gstat } := by
  rw [Group.loadInto_lanes]
  induction accs generalizing g with
  | nil => rfl
  | cons a as ih =>
    rw [List.foldl_cons]
    exact ih _

/-- A scalar load changes of its group only its S registers and PSN (05 R121). -/
theorem Group.loadInto_scalar (g : Group) (accs : List LaneAcc) : g.loadInto dst width signed true accs =
    { g with sregs := (g.loadInto dst width signed true accs).sregs, gstat := (g.loadInto dst width signed true accs).gstat } := by
  simp only [Group.loadInto, if_true]
  induction accs generalizing g with
  | nil => rfl
  | cons a as ih =>
    rw [List.foldl_cons]
    refine (ih _).trans ?_
    unfold Group.setS
    split <;> rfl

theorem Group.loadInto_gid (scalar : Bool) (g : Group) (accs : List LaneAcc) :
    (g.loadInto dst width signed scalar accs).gid = g.gid := by
  cases scalar with
  | false => rw [Group.loadInto_rest]
  | true => rw [Group.loadInto_scalar]

/-- What a load leaves of a lane: the registers of its frames. -/
theorem Group.loadInto_chain {accs : List LaneAcc} (hn : (accs.map (·.lane)).Nodup) (g : Group) (l : Nat) :
    (g.loadInto dst width signed false accs).lane l =
      { g.lane l with chain := ((g.loadInto dst width signed false accs).lane l).chain } ∧
    ((g.loadInto dst width signed false accs).lane l).chain.map (·.fid) = (g.lane l).chain.map (·.fid) := by
  obtain ⟨hit, miss⟩ := Group.lane_loadInto dst width signed hn g l
  by_cases h : l ∈ accs.map (·.lane)
  · obtain ⟨a, ha, hl⟩ := List.mem_map.mp h
    rw [hit a ha hl]
    exact ⟨Lane.setRun_rest _ _ _ _ _, Lane.setRun_fids _ _ _ _ _⟩
  · rw [miss h]
    exact ⟨rfl, rfl⟩

end lanes

end Sys2Proof.Machine

/-!
PROOFS. Loads and stores performed at their homes (07 R170 to R172, 11 R273).
-/
namespace Sys2Proof.Machine

/-! ## Operations by number -/

theorem State.op_modOp {s : State} {id : Nat} {o : Op} (f : Op → Op) (hf : ∀ o, (f o).id = o.id) (h : s.op id = some o) :
    (s.modOp id f).op id = some (f o) := by
  have hid : o.id = id := by simpa using findBy_some h
  unfold State.op State.modOp at *
  rw [findBy_updBy _ _ _ _ (fun a _ => by rw [hf]), h]
  simp [hid]

/-! ## A load at its home -/

section load
variable {s : State} {id : Nat} {o : Op} {g : Group} {dst w : Nat} {signed scalar : Bool} {accs : List LaneAcc}

/-- A load of sound bytes, none copied in its core's L1, is performed with what memory and the scratchpads hold. -/
theorem performLoad_reads (hg : s.group o.gid = some g) (hk : o.kind = .load dst w signed scalar accs) (hd : o.done = false)
    (hm : s.mayPerform o = true) (hn : Near accs) (hs : Sound s o.world (devBytes accs))
    (hl : ∀ a ∈ devBytes accs, mapGet none s.l1 (copyKey g.core (a / 32)) = none) (hne : ∀ a ∈ accs, a.locs ≠ []) :
    ∃ t time, Filled s t ∧ s.performLoad o =
      (t.modGroup o.gid fun g => (g.loadInto dst w signed scalar (accs.map (readAcc s))).raise time).modOp o.id
        fun o => { o with done := true, time := time, kind := .load dst w signed scalar [] } := by
  obtain ⟨t, time, read, filled⟩ := readGroup_near g.lclock hn hs.clean hl hne
  refine ⟨t, time, filled, ?_⟩
  unfold State.performLoad
  simp only [hk, hg, hd, hm, hs.free, hs.owned, read, Bool.not_true, Bool.or_self, Bool.false_eq_true, if_false]

end load

/-- What a vector load leaves of its group's frames. -/
theorem vectorLoaded {s : State} {g h : Group} {dst w time : Nat} {signed : Bool} {accs : List LaneAcc}
    (hn : (accs.map (·.lane)).Nodup) (hh : h = (g.loadInto dst w signed false (accs.map (readAcc s))).raise time) :
    (∀ a ∈ accs, (g.lane a.lane).chain.any (fun c => c.fid == a.fid) = true → ∀ k, k < widthRegs w →
      h.windowReg a.lane a.fid (dst + k) = loadWord w signed (readAcc s a) k) ∧
    (∀ l fid r, (∀ a ∈ accs, a.lane = l → a.fid = fid → r < dst ∨ dst + widthRegs w ≤ r) →
      h.windowReg l fid r = g.windowReg l fid r) ∧
    (∀ l, h.lane l = { g.lane l with chain := (h.lane l).chain } ∧
      (h.lane l).chain.map (·.fid) = (g.lane l).chain.map (·.fid)) ∧
    h = { g with lanes := h.lanes, gstat := h.gstat, lclock := h.lclock } := by
  have lanes : (accs.map (readAcc s)).map (·.lane) = accs.map (·.lane) := by
    rw [List.map_map]
    rfl
  have nodup : ((accs.map (readAcc s)).map (·.lane)).Nodup := lanes ▸ hn
  have lane : ∀ l, h.lane l = (g.loadInto dst w signed false (accs.map (readAcc s))).lane l := fun l => by rw [hh]; rfl
  refine ⟨fun a ha hc k hk => ?_, fun l fid r hr => ?_, fun l => ?_, ?_⟩
  · rw [Group.windowReg_eq, lane, (Group.lane_loadInto dst w signed nodup g a.lane).1 (readAcc s a) (List.mem_map_of_mem ha) rfl,
      Lane.vregAt_setRun, if_pos ⟨rfl, by omega, hc⟩]
    simp
  · rw [Group.windowReg_eq, Group.windowReg_eq, lane]
    obtain ⟨hit, miss⟩ := Group.lane_loadInto dst w signed nodup g l
    by_cases hl : l ∈ (accs.map (readAcc s)).map (·.lane)
    · obtain ⟨b, hb, e⟩ := List.mem_map.mp hl
      obtain ⟨a, ha, rfl⟩ := List.mem_map.mp hb
      rw [hit _ hb e, Lane.vregAt_setRun, if_neg]
      rintro ⟨rfl, ⟨lo, hi⟩, -⟩
      have := hr a ha e rfl
      omega
    · rw [miss hl]
  · rw [lane]
    exact Group.loadInto_chain dst w signed nodup g l
  · rw [hh]
    unfold Group.raise
    rw [Group.loadInto_rest]

/-- What a scalar load leaves of its group. -/
theorem scalarLoaded {s : State} {g h : Group} {dst w time : Nat} {signed : Bool} {accs : List LaneAcc}
    (hh : h = (g.loadInto dst w signed true (accs.map (readAcc s))).raise time) : (∀ l, h.lane l = g.lane l) ∧
    h = { g with lanes := h.lanes, sregs := h.sregs, gstat := h.gstat, lclock := h.lclock } ∧
    ∀ a, accs = [a] → ∀ r, h.sreg r = if r = dst ∧ r ≠ 0 then loadS w signed (readAcc s a) else g.sreg r := by
  have rest := Group.loadInto_scalar dst w signed g (accs.map (readAcc s))
  refine ⟨fun l => ?_, ?_, ?_⟩
  · rw [hh, rest]
    rfl
  · rw [hh, rest]
    rfl
  · rintro a rfl r
    have sreg : h.sreg r = (g.setS dst (loadS w signed (readAcc s a))).sreg r := by
      rw [hh]
      rfl
    rw [sreg, Group.sreg_setS]
    exact if_congr (by constructor <;> (rintro ⟨rfl, h0⟩; exact ⟨rfl, h0⟩)) rfl rfl

/-! ## A store at its home -/

/-- A store of sound bytes is performed with exactly its bytes. -/
theorem performStore_writes {s : State} {o : Op} {w : Nat} {accs : List LaneAcc} (hk : o.kind = .store w accs)
    (hd : o.done = false) (hm : s.mayPerform o = true) (hs : Sound s o.world (devBytes accs)) :
    ∃ t time late, Put s t (fun a => (lastAt (stored accs) a).getD (s.byte a)) ∧ s.performStore o =
      ((t.scratchAccs accs).modGroup o.gid fun g => g.raise time).modOp o.id fun o => { o with done := true, time := late } := by
  obtain ⟨t, time, written, put⟩ := writeAccs_clean o.core o.team (s.opClock o) hs.clean
  refine ⟨t, time, max time ((t.scratchAccs accs).rawTime accs), put, ?_⟩
  unfold State.performStore
  simp only [hk, hd, hm, hs.free, hs.owned, written, Bool.not_true, Bool.or_self, Bool.false_eq_true, if_false]

/-- Settles O16: a load performed reads the bytes at its homes into the registers of its frames, and a store leaves there exactly
its own. -/
theorem loadAndStorePerformed : Obligations.LoadAndStorePerformed := by
  unfold Obligations.LoadAndStorePerformed
  constructor
  · intro s id o g dst w signed scalar accs ho hg hk hd hm hn hs hl hnd hlen hw
    have nonempty : ∀ a ∈ accs, a.locs ≠ [] := fun a ha e => by
      have := hlen a ha
      rw [e, List.length_nil] at this
      omega
    have hid : o.id = id := by simpa using findBy_some ho
    obtain ⟨t, time, filled, done⟩ := performLoad_reads hg hk hd hm hn hs hl nonempty
    have loaded : ((t.modGroup o.gid fun g => (g.loadInto dst w signed scalar (accs.map (readAcc s))).raise time).group o.gid) =
        some ((g.loadInto dst w signed scalar (accs.map (readAcc s))).raise time) := by
      rw [State.group_modGroup _ _ _ _ (by intro h; exact Group.loadInto_gid dst w signed scalar h _), if_pos rfl, filled.group, hg]
      rfl
    refine ⟨s.performLoad o, (g.loadInto dst w signed scalar (accs.map (readAcc s))).raise time, ?_, ?_, fun a => ?_, fun k hk => ?_,
      ?_, fun hsc => ?_, fun hsc => ?_, fun hsc => ?_⟩
    · show Host.Outcome.next _ = _
      rw [ho]
    · rw [done]
      exact loaded
    · rw [done]
      exact filled.byte a
    · rw [done]
      show (t.modGroup _ _).group k = _
      rw [State.group_modGroup _ _ _ _ (by intro h; exact Group.loadInto_gid dst w signed scalar h _), if_neg hk, filled.group]
    · have found : t.op id = some o := by
        rw [filled.rest]
        exact ho
      exact ⟨_, by rw [done, hid]; exact State.op_modOp _ (fun _ => rfl) found, rfl⟩
    · subst hsc
      exact scalarLoaded rfl
    · subst hsc
      exact (vectorLoaded hnd rfl).1
    · subst hsc
      exact (vectorLoaded hnd rfl).2
  · intro s id o w accs ho hk hd hm hs
    have hid : o.id = id := by simpa using findBy_some ho
    obtain ⟨t, time, late, put, done⟩ := performStore_writes hk hd hm hs
    have frame := put.wrote.trans (scratchAccs_wrote t accs)
    refine ⟨s.performStore o, ?_, fun a => ?_, fun hn k tm hk => ?_, ?_, fun k hk => ?_, fun g hg => ?_⟩
    · show Host.Outcome.next _ = _
      rw [ho]
    · rw [done]
      exact (scratchAccs_byte t accs a).trans (put.bytes a)
    · rw [done]
      exact scratchAccs_team hn (by rw [State.team, put.teams]; exact hk)
    · have found : (t.scratchAccs accs).op id = some o := by
        rw [State.op, frame.ops]
        exact ho
      exact ⟨_, by rw [done, hid]; exact State.op_modOp _ (fun _ => rfl) found, rfl⟩
    · rw [done]
      show ((t.scratchAccs accs).modGroup _ _).group k = _
      rw [State.group_modGroup _ _ _ _ (by intro g; rfl), if_neg hk, frame.group]
    · refine ⟨max g.lclock time, Nat.le_max_left _ _, ?_⟩
      rw [done]
      show ((t.scratchAccs accs).modGroup _ _).group o.gid = _
      rw [State.group_modGroup _ _ _ _ (by intro g; rfl), if_pos rfl, frame.group, hg]
      rfl

end Sys2Proof.Machine

/-!
SUPPORT. Words that are performed as they execute (07 R176 to R183): what the effect of such a word leaves of its group, and how
it leaves its operation to complete (02 R37).
-/
namespace Sys2Proof.Machine

/-! ## The effect of a word on its group -/

/-- A word's effect on its group: registers `ds` of lanes `ls` take their values and the clock does not fall. -/
structure Effect (g k : Group) (ls ds : List Nat) (f : Nat → Nat → Reg) : Prop where
  clock   : g.lclock ≤ k.lclock
  written : ∀ l r, (k.lane l).vreg r = if ls.contains l && ds.contains r then f l r else (g.lane l).vreg r
  lanes   : ∀ l, k.lane l = { g.lane l with pcv := (k.lane l).pcv, chain := (k.lane l).chain }
  rest    : k = { g with lanes := k.lanes, gstat := k.gstat, lclock := k.lclock, issue := k.issue, popped := k.popped }

/-- A group whose clock alone is raised. -/
theorem Effect.raise {g k : Group} {ls ds : List Nat} {f : Nat → Nat → Reg} (h : Effect g k ls ds f) (t : Nat) :
    Effect g (k.raise t) ls ds f :=
  ⟨h.clock.trans (Nat.le_max_left _ _), h.written, h.lanes, by unfold Group.raise; rw [h.rest]⟩
theorem Effect.refl (g : Group) (ls : List Nat) (f : Nat → Nat → Reg) : Effect g g ls [] f :=
  ⟨Nat.le_refl _, fun l r => by simp, fun _ => rfl, rfl⟩
theorem LaneFrameOf.effect {g k : Group} {ls ds : List Nat} {f : Nat → Nat → Reg} (h : LaneFrameOf g k ls ds f) :
    Effect g k ls ds f :=
  ⟨Nat.le_of_eq (by rw [h.rest]), h.written, h.lanes, by rw [h.rest]⟩

/-! ## The end of such a word -/

/-- A word whose bytes no check-out holds and its world may reach, and that nothing of its group precedes, need not wait. -/
theorem mustWait_free {s : State} {g : Group} {kind : OpKind} {accs : List LaneAcc} (hf : s.held (devBytes accs) none = false)
    (ho : s.reaches g.world (devBytes accs) = true)
    (hm : s.mayPerform ⟨s.ids, g.gid, g.core, g.world, g.team, none, kind, false, 0⟩ = true) :
    s.mustWait g kind accs = false := by
  rw [State.mustWait, hf, ho, hm]
  rfl

/-- Where a word that is performed as it executes leads: its operation is left to complete and the group goes on. -/
def State.completes (s : State) (g : Group) (flag : Option Nat) (i : Issue) : State :=
  ((s.issueOp g flag .plain true).modGroup g.gid fun h => { h with passed := none, atoms := [] }).wordDone g i

theorem doneChecked_finish (s : State) (g : Group) (flag : Option Nat) (i : Issue) :
    (doneChecked s g flag).finish g.gid g i = s.completes g flag i := rfl

section completes
variable (u : State) (g : Group) (flag : Option Nat) (i : Issue)

theorem completes_rest : u.completes g flag i =
    { u with ops := u.ops ++ [⟨u.ids, g.gid, g.core, g.world, g.team, flag, .plain, true, 0⟩], ids := u.ids + 1,
             groups := (u.completes g flag i).groups, pldrs := (u.completes g flag i).pldrs } :=
  (elsewhere_wordDone _ g i).rest.trans rfl
theorem completes_byte (a : Nat) : (u.completes g flag i).byte a = u.byte a := (elsewhere_wordDone _ g i).bytes a
theorem completes_others (k : Nat) (hk : k ≠ g.gid) : (u.completes g flag i).group k = u.group k := by
  refine ((elsewhere_wordDone _ g i).others k hk).trans ?_
  rw [State.group_modGroup _ _ _ _ (by intro h; rfl), if_neg hk, State.issueOp,
    State.group_modGroup _ _ _ _ (fun h => h.countFlag_gid flag), if_neg hk]
  rfl
theorem completes_team (k : Nat) : (u.completes g flag i).team k = u.team k := by rw [completes_rest]; rfl

/-- The group after: its flag counts the operation, and the word retires. -/
theorem completes_group {k : Group} (hk : u.group g.gid = some k) :
    (u.completes g flag i).group g.gid = some ({ k.countFlag flag with passed := none, atoms := [] }.retire i.len) := by
  refine State.group_wordDone i (State.group_modGroup_own (g := k.countFlag flag) ?_ (by intro h; rfl))
  exact State.group_modGroup_own (g := k) (by exact hk) fun h => h.countFlag_gid flag
theorem completes_clock {k : Group} (hk : u.group g.gid = some k) :
    ∀ h, (u.completes g flag i).group g.gid = some h → h.lclock = k.lclock := fun h e => by
  rw [completes_group u g flag i hk] at e
  cases e
  rw [Group.retire_lclock]
  cases flag <;> rfl

variable {u g flag i}

/-- A word whose effect on memory and on its group is done has been performed. -/
theorem performed_completes {s : State} {k : Group} {mem : Nat → Byte} {ls ds : List Nat} {f : Nat → Nat → Reg}
    (hg : u.group g.gid = some k) (he : Effect g k ls ds f) (hb : ∀ a, u.byte a = mem a) (ho : u.ops = s.ops)
    (hk : ∀ j, j ≠ g.gid → u.group j = s.group j) : Performed s (u.completes g flag i) g flag mem ls ds f where
  bytes a := (completes_byte u g flag i a).trans (hb a)
  op := ⟨_, by rw [completes_rest, ho], rfl, rfl, rfl, rfl⟩
  others j hj := (completes_others u g flag i j hj).trans (hk j hj)
  group := by
    have lane : ∀ l, ({ k.countFlag flag with passed := none, atoms := [] }.retire i.len).lane l =
        { k.lane l with pcv := (({ k.countFlag flag with passed := none, atoms := [] }.retire i.len).lane l).pcv } := fun l => by
      rw [← k.lane_countFlag flag l]
      exact Group.retire_lane _ _ _
    have flags : ∀ x, k.flag x = g.flag x := fun x => by rw [he.rest]; rfl
    have rest := he.rest
    refine ⟨_, completes_group u g flag i hg, ?_, fun l r => ?_, fun l => ?_, fun x => ?_, ?_⟩
    · rw [Group.retire_lclock]
      refine he.clock.trans (Nat.le_of_eq ?_)
      cases flag <;> rfl
    · rw [lane, ← he.written l r]
      rfl
    · rw [lane, he.lanes l]
    · rw [Group.flag, Group.retire_flags, ← flags]
      exact k.flag_countFlag flag x
    · rw [Group.retire_sregs, Group.retire_cregs, Group.retire_frames, Group.retire_qregs, Group.retire_jregs, rest]
      cases flag <;> exact ⟨rfl, rfl, rfl, rfl, rfl⟩

end completes

end Sys2Proof.Machine

/-!
PROOFS. ATOM (07 R176, R177): the lanes' run over the values at their homes, and what it leaves of memory, of the scratchpads and of
the lanes' registers.
-/
namespace Sys2Proof.Machine

/-! ## The run of the lanes -/

section run
variable {x w : Nat} {g : Group} {c d : BitVec 7}

/-- The run reads the value of a location only where a lane names it. -/
theorem atomRun_congr {ps : List AtomLane} {m : List (List Loc × Nat)} {p q : List Loc → Nat} (h : ∀ e ∈ ps, p e.2 = q e.2) :
    atomRun x w g c d ps m p = atomRun x w g c d ps m q := by
  induction ps generalizing m with
  | nil => rfl
  | cons e ps ih =>
    obtain ⟨l, loc⟩ := e
    simp only [atomRun, h _ List.mem_cons_self, ih fun e he => h e (by simp [he])]

/-- Each lane has one old value, in order. -/
theorem atomRun_lanes (ps : List AtomLane) (m : List (List Loc × Nat)) (base : List Loc → Nat) :
    (atomRun x w g c d ps m base).1.map Prod.fst = ps.map Prod.fst := by
  induction ps generalizing m with
  | nil => rfl
  | cons e ps ih =>
    obtain ⟨l, loc⟩ := e
    simp [atomRun, ih]

/-- Final values stand at locations that the lanes name. -/
theorem atomRun_named (ps : List AtomLane) (m : List (List Loc × Nat)) (base : List Loc → Nat) :
    ∀ e ∈ (atomRun x w g c d ps m base).2, e ∈ m ∨ e.1 ∈ ps.map Prod.snd := by
  induction ps generalizing m with
  | nil => exact fun e he => .inl he
  | cons p ps ih =>
    obtain ⟨l, loc⟩ := p
    intro e he
    rcases ih _ e he with he | he
    · rcases List.mem_cons.mp he with rfl | he
      · exact .inr (by simp)
      · rw [dropBy_eq_filter] at he
        exact .inl (List.mem_filter.mp he).1
    · exact .inr (List.mem_cons_of_mem _ he)

end run

/-- The value of a location among the accesses read. -/
theorem locNum_read {s : State} {ps : List AtomLane} {loc : List Loc} (h : loc ∈ ps.map Prod.snd) :
    locNum ((ps.map fun e => (⟨e.1, 0, e.2, [], false⟩ : LaneAcc)).map (readAcc s)) loc =
      ofBytes (locBytes s ⟨0, 0, loc, [], false⟩) := by
  obtain ⟨e, he, rfl⟩ := List.mem_map.mp h
  have some_read : ∃ a, findBy (fun a : LaneAcc => a.locs == e.2)
      ((ps.map fun e => (⟨e.1, 0, e.2, [], false⟩ : LaneAcc)).map (readAcc s)) = some a := by
    rw [findBy_eq_find?]
    refine Option.isSome_iff_exists.mp (List.find?_isSome.mpr ⟨readAcc s ⟨e.1, 0, e.2, [], false⟩, ?_, by simp [readAcc]⟩)
    exact List.mem_map_of_mem (List.mem_map_of_mem he)
  obtain ⟨a, ha⟩ := some_read
  obtain ⟨b, hb, rfl⟩ := List.mem_map.mp (findBy_mem ha)
  have same : b.locs = e.2 := by simpa [readAcc] using findBy_some ha
  rw [locNum, ha]
  show ofBytes (locBytes s b) = _
  unfold locBytes
  rw [same]

/-! ## Steps before and after the run -/

/-- Registers and memory words without poison raise nothing. -/
theorem atomPoison_clean {g : Group} {srcs : List Nat} {addr : Nat → Nat} {rs : List LaneAcc}
    (h : ∀ a ∈ rs, a.poison = false ∧ tagAt g srcs a.lane = false) : atomPoison g srcs addr rs = none := by
  have none_bad : rs.filter (fun a => a.poison || (srcs.filter fun r => ((g.lane a.lane).vreg r).poison) != []) = [] :=
    List.filter_eq_nil_iff.mpr fun a ha => by
      obtain ⟨hp, ht⟩ := h a ha
      have regs : srcs.filter (fun r => ((g.lane a.lane).vreg r).poison) = [] :=
        List.filter_eq_nil_iff.mpr fun r hr => by simpa using List.any_eq_false.mp ht r hr
      simp [hp, regs]
  rw [atomPoison, none_bad]
  rfl

theorem places_named {ps : List AtomLane} : ∀ p ∈ places ps, p ∈ ps.map Prod.snd := by
  induction ps with
  | nil => exact fun p hp => hp
  | cons e ps ih =>
    intro p hp
    rw [places, dropBy_eq_filter] at hp
    rcases List.mem_cons.mp hp with rfl | hp
    · simp
    · exact List.mem_cons_of_mem _ (ih p (List.mem_filter.mp hp).1)
/-- Places that are all one are listed once. -/
theorem places_one {ps : List AtomLane} {c : List Loc} (h : ∀ e ∈ ps, e.2 = c) : (places ps).length ≤ 1 := by
  cases ps with
  | nil => simp [places]
  | cons e ps =>
    have same : ∀ p ∈ places ps, p = e.2 := fun p hp => by
      obtain ⟨q, hq, rfl⟩ := List.mem_map.mp (places_named p hp)
      exact (h q (by simp [hq])).trans (h e (by simp)).symm
    rw [places, dropBy_eq_filter, List.filter_eq_nil_iff.mpr fun p hp => by simp [same p hp]]
    simp

/-- Lanes that name one word of scratchpad at most are performed together. -/
theorem atomStage_one {s : State} {ps : List AtomLane} {c : List Loc}
    (h : ∀ e ∈ ps, (∃ l ∈ e.2, ∃ x t o, l = .scr x t o) → e.2 = c) : atomStage s ps = (s, ps) := by
  have one : (places (ps.filter fun e => e.2.any fun l => match l with | .scr _ _ _ => true | _ => false)).length ≤ 1 :=
    places_one fun e he => by
      obtain ⟨he, hs⟩ := List.mem_filter.mp he
      obtain ⟨l, hl, hx⟩ := List.any_eq_true.mp hs
      cases l with
      | scr x t o => exact h e he ⟨_, hl, x, t, o, rfl⟩
      | _ => cases hx
  exact if_pos one

/-- Accesses at locations of others name no byte that those do not. -/
theorem devBytes_sub {as bs : List LaneAcc} (h : ∀ a ∈ as, ∃ b ∈ bs, b.locs = a.locs) : ∀ p ∈ devBytes as, p ∈ devBytes bs := by
  have pick : ∀ (f : Loc → Option Nat) p, p ∈ pickBytes f as → p ∈ pickBytes f bs := fun f p hp => by
    obtain ⟨a, ha, hp⟩ := List.mem_flatMap.mp hp
    obtain ⟨b, hb, e⟩ := h a ha
    exact List.mem_flatMap.mpr ⟨b, hb, e ▸ hp⟩
  have view : ∀ p, p ∈ viewBytes as → p ∈ viewBytes bs := fun p hp => by
    obtain ⟨a, ha, hp⟩ := List.mem_flatMap.mp hp
    obtain ⟨b, hb, e⟩ := h a ha
    exact List.mem_flatMap.mpr ⟨b, hb, e ▸ hp⟩
  intro p hp
  simp only [devBytes, List.mem_append] at hp ⊢
  rcases hp with ((hp | hp) | hp) | hp
  · exact .inl (.inl (.inl (pick _ p hp)))
  · exact .inl (.inl (.inr (pick _ p hp)))
  · exact .inl (.inr (pick _ p hp))
  · exact .inr (view p hp)

theorem Near.sub {as bs : List LaneAcc} (h : Near bs) (hs : ∀ a ∈ as, ∃ b ∈ bs, b.locs = a.locs) : Near as := fun a ha => by
  obtain ⟨b, hb, e⟩ := hs a ha
  exact e ▸ h b hb

/-! ## The word -/

/-- The accesses of a word's lanes. -/
def atomAccs (ps : List (Nat × Place × List Loc)) : List LaneAcc := ps.map fun e => ⟨e.1, 0, e.2.2, [], false⟩

theorem atomAccs_eq (ps : List (Nat × Place × List Loc)) :
    (ps.map fun e => (e.1, e.2.2)).map (fun e => (⟨e.1, 0, e.2, [], false⟩ : LaneAcc)) = atomAccs ps := by
  rw [List.map_map]
  rfl

/-- Lanes whose values an `ATOM` may take at once: sound bytes of memory, or one word of scratchpad, with nothing of the group
that must come first. -/
structure AtomReady (s : State) (g : Group) (w : Nat) (ps : List (Nat × Place × List Loc)) : Prop where
  passed : g.passed = none
  fresh  : g.atoms = []
  near   : Near (atomAccs ps)
  sound  : Sound s g.world (devBytes (atomAccs ps))
  some   : ∀ e ∈ ps, e.2.2 ≠ []
  plain  : ∀ e ∈ ps, e.2.2.map Loc.plain = e.2.2
  clean  : ∀ e ∈ ps, locPoison s ⟨e.1, 0, e.2.2, [], false⟩ = false
  word   : ∃ c, ∀ e ∈ ps, (∃ l ∈ e.2.2, ∃ x t o, l = .scr x t o) → e.2.2 = c
  order  : s.mayPerform ⟨s.ids, g.gid, g.core, g.world, g.team, none, .store w (atomAccs ps), false, 0⟩ = true

/-- The run of a word's lanes over the values at their homes. -/
def atomRead (s : State) (g : Group) (c d : BitVec 7) (x : BitVec 4) (w : Nat) (ps : List (Nat × Place × List Loc)) :
    List (Nat × Nat) × List (List Loc × Nat) :=
  atomRun x.toNat (8 * w) g c d (ps.map fun e => (e.1, e.2.2)) [] fun loc => ofBytes (locBytes s ⟨0, 0, loc, [], false⟩)

/-- What the lanes' registers take: the words of their old values. -/
def oldWord (d : BitVec 7) (olds : List (Nat × Nat)) (l r : Nat) : Reg :=
  ⟨BitVec.ofNat 32 (resultOf 0 olds l / 2 ^ (32 * (r - d.toNat))), false⟩

section ready
variable {s : State} {g : Group} {w : Nat} {ps : List (Nat × Place × List Loc)} (h : AtomReady s g w ps)
include h

theorem AtomReady.free : s.mustWait g (.store w (atomAccs ps)) (atomAccs ps) = false := mustWait_free h.sound.free h.sound.owned h.order
/-- The lanes' locations are named as their banks are. -/
theorem AtomReady.rest : (ps.map fun e => (e.1, e.2.2)).map (fun e => (e.1, e.2.map Loc.plain)) = ps.map fun e => (e.1, e.2.2) := by
  rw [List.map_map]
  exact List.map_congr_left fun e he => by simp [h.plain e he]
theorem AtomReady.home : s.homeRead (devBytes (atomAccs ps)) =
    (s, (devBytes (atomAccs ps)).map fun a => (s.byte a, false), none) := homeRead_clean h.sound.lines h.sound.keyed
theorem AtomReady.read (core c : Nat) : s.readAccs core c ((List.zip (devBytes (atomAccs ps))
      ((devBytes (atomAccs ps)).map fun a => (s.byte a, false))).map fun e => (0, e.1, e.2)) (atomAccs ps) =
    (s, (atomAccs ps).map (readAcc s), none) :=
  readAccs_near rfl (fun a ha => by
    obtain ⟨e, he, rfl⟩ := List.mem_map.mp ha
    exact h.some e he) fun a ha l hl => by
      rcases h.near.locs a ha l hl with ⟨p, rfl, hp⟩ | scr
      · exact .inl ⟨p, rfl, foundAt_read (near_sub p (mem_near ha hl hp))⟩
      · exact .inr scr
theorem AtomReady.stage : atomStage s (ps.map fun e => (e.1, e.2.2)) = (s, ps.map fun e => (e.1, e.2.2)) := by
  obtain ⟨c, hc⟩ := h.word
  refine atomStage_one (c := c) fun e he => ?_
  obtain ⟨p, hp, rfl⟩ := List.mem_map.mp he
  exact hc p hp
omit h in
theorem atomRead_eq (c d : BitVec 7) (x : BitVec 4) : atomRun x.toNat (8 * w) g c d (ps.map fun e => (e.1, e.2.2)) []
    (locNum ((atomAccs ps).map (readAcc s))) = atomRead s g c d x w ps := atomRun_congr fun e he => by
  rw [← atomAccs_eq]
  exact locNum_read (List.mem_map_of_mem he)
omit h in
/-- Final values stand at locations of the lanes. -/
theorem finalAccs_named (c d : BitVec 7) (x : BitVec 4) :
    ∀ a ∈ finalAccs w (atomRead s g c d x w ps).2, ∃ b ∈ atomAccs ps, b.locs = a.locs := fun a ha => by
  obtain ⟨e, he, rfl⟩ := List.mem_map.mp ha
  obtain ⟨q, hq, e1⟩ := List.mem_map.mp ((atomRun_named _ _ _ e he).resolve_left nofun)
  obtain ⟨r, hr, rfl⟩ := List.mem_map.mp hq
  exact ⟨_, List.mem_map_of_mem hr, e1⟩
theorem AtomReady.poison {srcs : List Nat} (addr : Nat → Nat) (ht : ∀ e ∈ ps, tagAt g srcs e.1 = false) :
    atomPoison g srcs addr ((atomAccs ps).map (readAcc s)) = none := atomPoison_clean fun a ha => by
  obtain ⟨b, hb, rfl⟩ := List.mem_map.mp ha
  obtain ⟨e, he, rfl⟩ := List.mem_map.mp hb
  exact ⟨h.clean e he, ht e he⟩

end ready

section word
variable {s s' : State} {g : Group} {i : Issue} {n : Instr} {gd : BitVec 4} {sc : BitVec 2} {b : BitVec 5} {o d c : BitVec 7}
  {f : BitVec 1} {disp : BitVec 16} {x : BitVec 4} {w : Nat} {ps : List (Nat × Place × List Loc)}

/-- The old values written to the lanes' registers. -/
theorem oldWords_write {olds : List (Nat × Nat)} (hn : (olds.map Prod.fst).Nodup) (d : BitVec 7) (count : Nat) :
    olds.map (fun e => (e.1, (List.range count).map fun k =>
      (d.toNat + k, (⟨BitVec.ofNat 32 (e.2 / 2 ^ (32 * k)), false⟩ : Reg)))) =
    lanesWrite (olds.map Prod.fst) (regSpan d count) (oldWord d olds) := by
  refine Eq.trans ?_ (results_lanesWrite hn (regSpan d count)
    (fun r v => ⟨BitVec.ofNat 32 (v / 2 ^ (32 * (r - d.toNat))), false⟩) 0)
  refine List.map_congr_left fun e _ => ?_
  rw [regSpan, List.map_map]
  refine congrArg (Prod.mk e.1) (List.map_congr_left fun k _ => ?_)
  simp

/-- An ATOM whose lanes are ready is performed as it executes. -/
theorem laneAtom_runs (he : exec n s = laneAtom s gd sc b o d f disp x c w)
    (h : Reached s s' g i (g.contributing i gd) (regSpan d (widthRegs w) ++ regSpan c (widthRegs w)) sc b o f disp pathsAtom
      false 1 w ps)
    (hw : walkCond g (8 ≤ x.toNat) = none)
    (ht : ∀ l ∈ g.contributing i gd, tagAt g (regSpan c (widthRegs w) ++
      if x = 9#4 then regSpan d (widthRegs w) else []) l = false)
    (hr : AtomReady s' g w ps) :
    ∃ t time, Put s' t (fun a => (lastAt (stored (finalAccs w (atomRead s' g c d x w ps).2)) a).getD (s'.byte a)) ∧
      exec n s = .next (((t.scratchAccs (finalAccs w (atomRead s' g c d x w ps).2)).modGroup g.gid fun k =>
        (k.writeV (lanesWrite (g.contributing i gd) (regSpan d (widthRegs w))
          (oldWord d (atomRead s' g c d x w ps).1))).raise time).completes g (i.flag f) i) := by
  have lanes : (atomRead s' g c d x w ps).1.map Prod.fst = g.contributing i gd := by
    rw [atomRead, atomRun_lanes, List.map_map, ← h.lanes]
    rfl
  have tags : ∀ e ∈ ps, tagAt g (regSpan c (widthRegs w) ++ if x = 9#4 then regSpan d (widthRegs w) else []) e.1 = false :=
    fun e he => ht _ (h.lanes ▸ List.mem_map_of_mem he)
  have words := oldWords_write (olds := (atomRead s' g c d x w ps).1) (by rw [lanes]; exact contributing_nodup g i gd) d
    (widthRegs w)
  obtain ⟨t, time, written, put⟩ := writeAccs_clean g.core g.team g.lclock
    (hr.sound.clean.mono (devBytes_sub (finalAccs_named (s := s') (g := g) (w := w) (ps := ps) c d x)))
  refine ⟨t, time, put, ?_⟩
  rw [lanes] at words
  rw [he, laneAtom, onGroup_at h.word]
  simp only [show s.hazard g _ _ _ = false from h.ready, h.flag, Bool.not_true, Bool.or_false, Bool.false_eq_true, if_false,
    checkedOnce, hr.passed, hr.fresh, hw, h.checks, firstCond, Res.unless, laneAddrs_eq, h.access, atomAccs_eq, hr.free,
    and_false, List.any_nil, Bool.not_false, List.filter_true, hr.rest, hr.sound.clean.mergeAll, hr.home, hr.read, if_true,
    hr.poison _ tags, hr.stage, atomRead_eq, written, Nat.lt_irrefl, List.nil_append, words, doneChecked_finish]

/-- What an ATOM of a width leaves of memory, of its group and of the scratchpads. -/
theorem laneAtom_performed
    (he : (w = 4 ∧ n = .atomB32 gd sc b o d f disp x c) ∨ (w = 8 ∧ n = .atomB64 gd sc b o d f disp x c))
    (h : Reached s s' g i (g.contributing i gd) (regSpan d (w / 4) ++ regSpan c (w / 4)) sc b o f disp pathsAtom false 1 w ps)
    (hw : walkCond g (8 ≤ x.toNat) = none)
    (ht : ∀ l ∈ g.contributing i gd, tagAt g (regSpan c (w / 4) ++ if x = 9#4 then regSpan d (w / 4) else []) l = false)
    (hr : AtomReady s' g w ps) (hg : s'.group g.gid = some g) :
    ∃ t, exec n s = .next t ∧ Performed s' t g (i.flag f)
        (fun a => (lastAt (stored (finalAccs w (atomRead s' g c d x w ps).2)) a).getD (s'.byte a)) (g.contributing i gd)
        (regSpan d (w / 4)) (oldWord d (atomRead s' g c d x w ps).1) ∧
      ∀ k tm, s'.team k = some tm → ∃ tm', t.team k = some tm' ∧ ∀ p, mapGet 0#8 tm'.scratch p =
        (lastAt (padStored k (finalAccs w (atomRead s' g c d x w ps).2)) p).getD (mapGet 0#8 tm.scratch p) := by
  have means : exec n s = laneAtom s gd sc b o d f disp x c w := by rcases he with ⟨rfl, rfl⟩ | ⟨rfl, rfl⟩ <;> rfl
  have regs : w / 4 = widthRegs w := by rcases he with ⟨rfl, -⟩ | ⟨rfl, -⟩ <;> rfl
  rw [regs] at h ht ⊢
  obtain ⟨t, time, put, runs⟩ := laneAtom_runs means h hw ht hr
  have frame := put.wrote.trans (scratchAccs_wrote t (finalAccs w (atomRead s' g c d x w ps).2))
  have chain : ∀ l ∈ g.contributing i gd, ∀ r ∈ regSpan d (widthRegs w), (g.lane l).chain ≠ [] := fun l hl r hr =>
    Group.chain_ne_of_declared (addrChecks_bound h.checks l hl r (by simp [hr]))
  refine ⟨_, runs, performed_completes ?_ ((Group.writeV_frame g _ _ _ chain).effect.raise time) (fun a => ?_) ?_
    fun j hj => ?_, fun k tm hk => ?_⟩
  · exact State.group_modGroup_own (by rw [frame.group, hg]) (by intro h; rfl)
  · exact (scratchAccs_byte t _ a).trans (put.bytes a)
  · exact frame.ops
  · rw [State.group_modGroup _ _ _ _ (by intro h; rfl), if_neg hj, frame.group]
  · rw [completes_team]
    refine scratchAccs_team (hr.near.sub (finalAccs_named c d x)) ?_
    rw [State.team, put.teams]
    exact hk

end word

/-! ## Lanes that are ready -/

section ready
variable {s : State} {g : Group} {w : Nat} {ps : List (Nat × Place × List Loc)}

/-- Lanes of sound bytes of device memory. -/
theorem AtomReady.of_coherent (hp : g.passed = none) (ha : g.atoms = []) (hc : Coherent (atomAccs ps))
    (hs : Sound s g.world (devBytes (atomAccs ps))) (hne : ∀ e ∈ ps, e.2.2 ≠ [])
    (hm : s.mayPerform ⟨s.ids, g.gid, g.core, g.world, g.team, none, .store w (atomAccs ps), false, 0⟩ = true) :
    AtomReady s g w ps := by
  have memory : ∀ e ∈ ps, ∀ l ∈ e.2.2, ∃ p, l = .mem p := fun e he l hl => by
    obtain ⟨p, rfl, -⟩ := hc _ (List.mem_map_of_mem he) l hl
    exact ⟨p, rfl⟩
  refine ⟨hp, ha, fun a ha => .inl (hc a ha), hs, hne, fun e he => ?_, fun e he => ?_, ⟨[], fun e he h => ?_⟩, hm⟩
  · refine (List.map_congr_left fun l hl => ?_).trans (List.map_id _)
    obtain ⟨p, rfl⟩ := memory e he l hl
    rfl
  · refine List.any_eq_false.mpr fun l hl => ?_
    obtain ⟨p, rfl⟩ := memory e he l hl
    exact Bool.false_ne_true
  · obtain ⟨l, hl, x, t, o, rfl⟩ := h
    obtain ⟨p, hp⟩ := memory e he _ hl
    cases hp

/-- Accesses to scratchpads name no byte of device memory. -/
theorem devBytes_pads {accs : List LaneAcc} (h : ∀ a ∈ accs, ∀ l ∈ a.locs, ∃ x t o, l = .scr x t o) : devBytes accs = [] := by
  have pick : ∀ f : Loc → Option Nat, (∀ x t o, f (.scr x t o) = none) → pickBytes f accs = [] := fun f hf =>
    pickBytes_nil fun a ha l hl => by
      obtain ⟨x, t, o, rfl⟩ := h a ha l hl
      exact hf x t o
  have views : viewBytes accs = [] := List.flatMap_eq_nil_iff.mpr fun a ha => List.flatMap_eq_nil_iff.mpr fun l hl => by
    obtain ⟨x, t, o, rfl⟩ := h a ha l hl
    rfl
  rw [devBytes, pick cohByte (fun _ _ _ => rfl), pick rawByte (fun _ _ _ => rfl), pick roByte (fun _ _ _ => rfl), views]
  rfl
theorem stored_pads {accs : List LaneAcc} (h : ∀ a ∈ accs, ∀ l ∈ a.locs, ∃ x t o, l = .scr x t o) : stored accs = [] := by
  have empty : ∀ f : Loc → Option Nat, (∀ x t o, f (.scr x t o) = none) → (storeCells f accs).1 = [] := fun f hf =>
    List.flatMap_eq_nil_iff.mpr fun a ha => List.filterMap_eq_nil_iff.mpr fun e he => by
      obtain ⟨x, t, o, hl⟩ := h a ha e.1 (List.of_mem_zip he).1
      simp [hl, hf]
  rw [stored, empty cohByte fun _ _ _ => rfl, empty rawByte fun _ _ _ => rfl]
  rfl
/-- No byte of device memory, nothing to be sound. -/
theorem sound_nil (s : State) (w : Nat) : Sound s w [] := by
  refine ⟨nofun, nofun, nofun, ?_, rfl⟩
  simp [State.held]

/-- Lanes that all name one unpoisoned word of their team's scratchpad. -/
theorem AtomReady.of_pad {team : Nat} {word : List Loc} (hp : g.passed = none) (ha : g.atoms = [])
    (hl : ∀ e ∈ ps, ∀ l ∈ e.2.2, ∃ o, l = .scr false team o) (h1 : ∀ e ∈ ps, e.2.2 = word)
    (hc : ∀ a ∈ atomAccs ps, locPoison s a = false) (hne : ∀ e ∈ ps, e.2.2 ≠ [])
    (hm : s.mayPerform ⟨s.ids, g.gid, g.core, g.world, g.team, none, .store w (atomAccs ps), false, 0⟩ = true) :
    AtomReady s g w ps := by
  have pads : ∀ a ∈ atomAccs ps, ∀ l ∈ a.locs, ∃ o, l = .scr false team o := fun a ha => by
    obtain ⟨e, he, rfl⟩ := List.mem_map.mp ha
    exact hl e he
  refine ⟨hp, ha, fun a ha => .inr ⟨false, team, pads a ha⟩, ?_, hne, fun e he => ?_, fun e he => hc _ (List.mem_map_of_mem he),
    ⟨word, fun e he _ => h1 e he⟩, hm⟩
  · rw [devBytes_pads fun a ha l hl => ⟨false, team, pads a ha l hl⟩]
    exact sound_nil s _
  · refine (List.map_congr_left fun l hm => ?_).trans (List.map_id _)
    obtain ⟨o, rfl⟩ := hl e he l hm
    rfl

end ready

section plain
variable {s : State} {g : Group} {ls : List Nat} {sc : BitVec 2} {b : BitVec 5} {o : BitVec 7} {disp : BitVec 16}
  {loc : Nat → List Loc}

theorem atomAccs_plain : atomAccs (plainPlaces g ls sc b o disp loc) = ls.map fun l => ⟨l, 0, loc l, [], false⟩ := by
  rw [atomAccs, plainPlaces, List.map_map]
  rfl
theorem atomRead_plain (c d : BitVec 7) (x : BitVec 4) (w : Nat) : atomRead s g c d x w (plainPlaces g ls sc b o disp loc) =
    atomRun x.toNat (8 * w) g c d (ls.map fun l => (l, loc l)) [] fun loc => ofBytes (locBytes s ⟨0, 0, loc, [], false⟩) := by
  rw [atomRead, plainPlaces, List.map_map]
  rfl

end plain

theorem headD_mem {l : List Nat} {a : Nat} (h : a ∈ l) : l.headD 0 ∈ l := by
  cases l with
  | nil => cases h
  | cons b l => exact List.mem_cons_self

/-- Settles O17: the lanes' run starts from the bytes at their homes, and its final values alone are stored. -/
theorem atomics : Obligations.Atomics := by
  unfold Obligations.Atomics
  refine ⟨fun w m v e _ _ _ => ⟨rfl, rfl, rfl, rfl, rfl, rfl, rfl, rfl, rfl, rfl, rfl⟩, ?_, ?_⟩
  · intro s s' g i gd sc b o d c f disp x w n ps hn ls span accs run h hw ht hc hs hg hlen hp ha hm
    have pos : w ≠ 0 := by rcases hn with ⟨rfl, -⟩ | ⟨rfl, -⟩ <;> decide
    have ready : AtomReady s' g w ps := .of_coherent hp ha hc hs (fun e he e0 => pos (by rw [← hlen e he, e0]; rfl)) hm
    have lanes : run.1.map Prod.fst = ls := (atomRun_lanes _ _ _).trans ((List.map_map ..).trans h.lanes)
    rw [lanes]
    obtain ⟨t, ht, done, -⟩ := laneAtom_performed hn h hw ht ready hg
    exact ⟨t, ht, done⟩
  · intro s g i gd sc b o d c f disp x w n loc hn ls span accs run old h hw ht hp ha hm
    have pos : 0 < w := by rcases hn with ⟨rfl, -⟩ | ⟨rfl, -⟩ <;> decide
    have reached := h.reached_both (legal := pathsAtom) false 1 rfl rfl
    have some_loc : ∀ e ∈ plainPlaces g ls sc b o disp loc, e.2.2 ≠ [] := fun e he => by
      obtain ⟨l, hl, rfl⟩ := List.mem_map.mp he
      exact List.ne_nil_of_length_pos (by rw [(h.direct l hl).length]; exact pos)
    have named : atomAccs (plainPlaces g ls sc b o disp loc) = accs := atomAccs_plain
    have reads : atomRead s g c d x w (plainPlaces g ls sc b o disp loc) = run := atomRead_plain c d x w
    refine ⟨fun hc hs => ?_, fun tm htm h1 h2 hpo => ?_⟩
    · have ready : AtomReady s g w (plainPlaces g ls sc b o disp loc) :=
        .of_coherent hp ha (named ▸ hc) (named ▸ hs) some_loc (named ▸ hm)
      obtain ⟨t, ht, done, -⟩ := laneAtom_performed hn reached hw ht ready h.word.here
      rw [reads] at done
      exact ⟨t, ht, done⟩
    · have pads : ∀ l ∈ ls, ∀ q ∈ loc l, ∃ o, q = .scr false g.team o := fun l hl q hq => by
        rcases (h.direct l hl).near with mem | scr
        · obtain ⟨p, rfl⟩ := mem q hq
          cases h2 _ (List.mem_map_of_mem hl) _ hq
        · exact scr q hq
      have ready : AtomReady s g w (plainPlaces g ls sc b o disp loc) := by
        refine .of_pad (team := g.team) (word := loc (ls.headD 0)) hp ha (fun e he => ?_) (fun e he => ?_) (named ▸ hpo) some_loc
          (named ▸ hm)
        · obtain ⟨l, hl, rfl⟩ := List.mem_map.mp he
          exact pads l hl
        · obtain ⟨l, hl, rfl⟩ := List.mem_map.mp he
          exact h1 l hl _ (headD_mem hl)
      obtain ⟨t, ht, done, scratch⟩ := laneAtom_performed hn reached hw ht ready h.word.here
      rw [reads] at done scratch
      obtain ⟨tm', htm', bytes⟩ := scratch g.team tm htm
      have nothing : stored (finalAccs w run.2) = [] := stored_pads fun a hfin q hq => by
        obtain ⟨e, he, rfl⟩ := List.mem_map.mp hfin
        obtain ⟨p, hp, e1⟩ := List.mem_map.mp ((atomRun_named _ _ _ e he).resolve_left nofun)
        obtain ⟨l, hl, rfl⟩ := List.mem_map.mp hp
        have same : loc l = e.1 := e1
        obtain ⟨k, rfl⟩ := pads l hl q (by rw [same]; exact hq)
        exact ⟨_, _, _, rfl⟩
      rw [nothing] at done
      exact ⟨t, tm', ht, done, htm', bytes⟩

end Sys2Proof.Machine

/-!
PROOFS. Releases, acquires and fences (07 R181 to R184, 11 R284).
-/
namespace Sys2Proof.Machine

/-! ## Sync variables and the clocks that a release carries -/

/-- A sync variable made or renewed changes only the entries and the numbers given. -/
theorem syncVar_rest (s : State) (w : Nat) (writer : BitVec 16) (scope : BitVec 2) (a : Nat) :
    s.syncVar w writer scope a = { s with ids := s.ids + 1, vars := (s.syncVar w writer scope a).vars } := by
  unfold State.syncVar
  dsimp only
  split
  · rfl
  · split <;> rfl

/-- An entry that stood, or that its polder has room for, names its writer and its scope. -/
theorem syncVar_entry {s : State} {w a : Nat} (writer : BitVec 16) (scope : BitVec 2)
    (h : (∃ v ∈ s.vars, v.atom = a) ∨ s.varShare w a ≠ 0) :
    ∃ v ∈ (s.syncVar w writer scope a).vars, v.atom = a ∧ v.writer = writer ∧ v.scope = scope := by
  unfold State.syncVar
  dsimp only
  split
  · next hv =>
    obtain ⟨v, hv, ha⟩ := List.any_eq_true.mp hv
    exact ⟨_, mem_updBy hv ha, by simpa using ha, rfl, rfl⟩
  · next hv =>
    have room : s.varShare w a ≠ 0 := h.resolve_left fun ⟨v, hm, ha⟩ => hv (List.any_eq_true.mpr ⟨v, hm, by simp [ha]⟩)
    have room' : s.newId.varShare w a ≠ 0 := room
    rw [if_neg room']
    exact ⟨_, List.mem_cons_self, rfl, rfl, rfl⟩

/-- The clocks carried to scratchpad words change no byte of a scratchpad. -/
theorem carryClock_rest (s : State) (accs : List LaneAcc) (c : Nat) :
    s.carryClock accs c = { s with teams := (s.carryClock accs c).teams } := by
  unfold State.carryClock
  induction scratchWords accs generalizing s with
  | nil => rfl
  | cons w l ih =>
    rw [List.foldl_cons]
    exact ih _
theorem carryClock_team (accs : List LaneAcc) (c : Nat) {s : State} {k : Nat} {tm : Team} (h : s.team k = some tm) :
    ∃ tm', (s.carryClock accs c).team k = some tm' ∧ tm'.scratch = tm.scratch := by
  unfold State.carryClock
  induction scratchWords accs generalizing s tm with
  | nil => exact ⟨tm, h, rfl⟩
  | cons w l ih =>
    rw [List.foldl_cons]
    have one : ∃ tm', (s.modTeam w.1 fun t => { t with rels := mapSet 0 t.rels w.2 (max (mapGet 0 t.rels w.2) c) }).team k =
        some tm' ∧ tm'.scratch = tm.scratch := by
      rw [State.team_modTeam_at s w.1 k _ (by intro t; rfl), h]
      split
      · exact ⟨_, rfl, rfl⟩
      · exact ⟨tm, rfl, rfl⟩
    obtain ⟨ta, ha, e⟩ := one
    obtain ⟨tm', ht, e'⟩ := ih ha
    exact ⟨tm', ht, e'.trans e⟩

/-! ## REL (R181) -/

/-- A plain word's places are those of its lanes' addresses. -/
theorem reached_or_plain {s s' : State} {g : Group} {i : Issue} {ls regs : List Nat} {sc : BitVec 2} {b : BitVec 5}
    {o : BitVec 7} {f : BitVec 1} {disp : BitVec 16} {legal : Nat → Bool} {host : Bool} {need width : Nat}
    {ps : List (Nat × Place × List Loc)} (h0 : legal 0 = true) (h2 : legal 2 = true)
    (h : Reached s s' g i ls regs sc b o f disp legal host need width ps ∨ ∃ loc, Plain s g i ls regs sc b o f disp width loc ∧
      s' = s ∧ ps = plainPlaces g ls sc b o disp loc) :
    Reached s s' g i ls regs sc b o f disp legal host need width ps := by
  rcases h with h | ⟨loc, h, rfl, rfl⟩
  · exact h
  · exact h.reached_both host need h0 h2

/-- The entries that a release leaves of the atoms it wrote. -/
def State.syncVars (s : State) (g : Group) (scope : BitVec 2) (atoms : List Nat) : State :=
  atoms.foldl (fun s a => s.syncVar g.world (s.writerOf g) scope a) s
theorem syncVars_rest (s : State) (g : Group) (scope : BitVec 2) (atoms : List Nat) :
    s.syncVars g scope atoms = { s with ids := (s.syncVars g scope atoms).ids, vars := (s.syncVars g scope atoms).vars } := by
  unfold State.syncVars
  induction atoms generalizing s with
  | nil => rfl
  | cons a l ih =>
    rw [List.foldl_cons]
    refine (ih _).trans ?_
    rw [syncVar_rest]

/-- The entries and the carried clocks that a release leaves. -/
def State.release (s : State) (g : Group) (scope : BitVec 2) (out : List LaneAcc) (carried : Nat) : State :=
  (s.syncVars g scope (atomsOf (devBytes out))).carryClock out carried

section released
variable (s : State) (g : Group) (scope : BitVec 2) (out : List LaneAcc) (carried : Nat)

theorem release_rest : s.release g scope out carried =
    { s with ids := (s.release g scope out carried).ids, vars := (s.release g scope out carried).vars,
             teams := (s.release g scope out carried).teams } := by
  unfold State.release
  rw [carryClock_rest, syncVars_rest]
theorem release_vars : (s.release g scope out carried).vars = (s.syncVars g scope (atomsOf (devBytes out))).vars := by
  unfold State.release
  rw [carryClock_rest]
theorem release_group (k : Nat) : (s.release g scope out carried).group k = s.group k := by rw [release_rest]; rfl
theorem release_byte (a : Nat) : (s.release g scope out carried).byte a = s.byte a := by rw [release_rest]; rfl
theorem release_team {k : Nat} {tm : Team} (h : s.team k = some tm) :
    ∃ tm', (s.release g scope out carried).team k = some tm' ∧ tm'.scratch = tm.scratch :=
  carryClock_team out carried (by rw [syncVars_rest]; exact h)

end released

section release
variable {s s' : State} {g : Group} {i : Issue} {n : Instr} {gd : BitVec 4} {sc : BitVec 2} {b : BitVec 5} {o d : BitVec 7}
  {f : BitVec 1} {disp : BitVec 16} {x : BitVec 4} {w : Nat} {ps : List (Nat × Place × List Loc)}

/-- A release of sound bytes is performed as it executes. -/
theorem laneRel_runs (he : exec n s = laneRel s gd sc b o d f disp x w)
    (h : Reached s s' g i (g.contributing i gd) (regSpan d (widthRegs w)) sc b o f disp pathsAtom false 1 w ps)
    (hp : g.passed = none) (hs : Sound s' g.world (devBytes (ps.map (storeAcc g d w))))
    (hr : s'.performed g.gid releaseWaits = true)
    (hm : s'.mayPerform ⟨s'.ids, g.gid, g.core, g.world, g.team, none, .store w (ps.map (storeAcc g d w)), false, 0⟩ = true) :
    ∃ t c time carried, Put s' t (fun a => (lastAt (stored (ps.map (storeAcc g d w))) a).getD (s'.byte a)) ∧
      exec n s = .next ((((t.scratchAccs (ps.map (storeAcc g d w))).release (g.raise c) (BitVec.ofNat 2 x.toNat)
        (ps.map (storeAcc g d w)) carried).modGroup g.gid
        fun k => (k.raise (g.raise c).lclock).raise time).completes g (i.flag f) i) := by
  have accs : (ps.map fun e => (e.1, e.2.2)).map (fun e => (⟨e.1, 0, e.2, (storeData (g.lane e.1) d w).1,
      (storeData (g.lane e.1) d w).2⟩ : LaneAcc)) = ps.map (storeAcc g d w) := by
    rw [List.map_map]
    exact List.map_congr_left fun e _ => by simp [storeData_eq, storeAcc]
  obtain ⟨t, time, written, put⟩ := writeAccs_clean (g.raise (s'.opTime g.gid releaseWaits)).core
    (g.raise (s'.opTime g.gid releaseWaits)).team (g.raise (s'.opTime g.gid releaseWaits)).lclock hs.clean
  refine ⟨t, s'.opTime g.gid releaseWaits, time, max (g.raise (s'.opTime g.gid releaseWaits)).lclock time, put, ?_⟩
  rw [he, laneRel, onGroup_at h.word]
  simp only [show s.hazard g _ _ _ = false from h.ready, h.flag, Bool.not_true, Bool.or_false, Bool.false_eq_true, if_false,
    checkedOnce, hp, h.checks, Res.unless, laneAddrs_eq, h.access, accs, hr, mustWait_free hs.free hs.owned hm, written]
  rfl

/-- What a release leaves of memory, of its group, of its atom's entry and of the scratchpads. -/
theorem laneRel_performed (he : exec n s = laneRel s gd sc b o d f disp x w)
    (h : Reached s s' g i (g.contributing i gd) (regSpan d (widthRegs w)) sc b o f disp pathsAtom false 1 w ps)
    (hp : g.passed = none) (hn : Near (ps.map (storeAcc g d w))) (hs : Sound s' g.world (devBytes (ps.map (storeAcc g d w))))
    (hg : s'.group g.gid = some g) (hr : s'.performed g.gid releaseWaits = true)
    (hm : s'.mayPerform ⟨s'.ids, g.gid, g.core, g.world, g.team, none, .store w (ps.map (storeAcc g d w)), false, 0⟩ = true) :
    ∃ t, exec n s = .next t ∧ Performed s' t g (i.flag f)
        (fun a => (lastAt (stored (ps.map (storeAcc g d w))) a).getD (s'.byte a)) [] [] (fun _ _ => ⟨0#32, false⟩) ∧
      (∀ a, atomsOf (devBytes (ps.map (storeAcc g d w))) = [a] → (∃ v ∈ s'.vars, v.atom = a) ∨ s'.varShare g.world a ≠ 0 →
        ∃ v ∈ t.vars, v.atom = a ∧ v.writer = s'.writerOf g ∧ v.scope = BitVec.ofNat 2 x.toNat) ∧
      ∀ k tm, s'.team k = some tm → ∃ tm', t.team k = some tm' ∧ ∀ p, mapGet 0#8 tm'.scratch p =
        (lastAt (padStored k (ps.map (storeAcc g d w))) p).getD (mapGet 0#8 tm.scratch p) := by
  obtain ⟨t, c, time, carried, put, runs⟩ := laneRel_runs he h hp hs hr hm
  generalize ps.map (storeAcc g d w) = out at *
  have frame := put.wrote.trans (scratchAccs_wrote t out)
  refine ⟨_, runs, performed_completes (k := (g.raise (g.raise c).lclock).raise time) ?_
    (((Effect.refl g [] _).raise _).raise time) (fun a => ?_) ?_ fun j hj => ?_, fun a ha hv => ?_, fun k tm hk => ?_⟩
  · exact State.group_modGroup_own (by rw [release_group, frame.group, hg]) (by intro h; rfl)
  · exact (release_byte _ _ _ _ _ a).trans ((scratchAccs_byte t out a).trans (put.bytes a))
  · show State.ops (State.release _ _ _ _ _) = _
    rw [release_rest]
    exact frame.ops
  · rw [State.group_modGroup _ _ _ _ (by intro h; rfl), if_neg hj, release_group, frame.group]
  · have entry : (∃ v ∈ (t.scratchAccs out).vars, v.atom = a) ∨ (t.scratchAccs out).varShare g.world a ≠ 0 := by
      rcases hv with ⟨v, hv, rfl⟩ | hv
      · have listed : v.atom ∈ (t.scratchAccs out).vars.map (·.atom) := frame.vars ▸ List.mem_map_of_mem hv
        obtain ⟨u, hu, e⟩ := List.mem_map.mp listed
        exact .inl ⟨u, hu, e⟩
      · refine .inr fun e => hv ?_
        rw [← e, State.varShare, State.varShare, frame.rest]
    obtain ⟨v, hv, e, hw, hx⟩ := syncVar_entry ((t.scratchAccs out).writerOf g) (BitVec.ofNat 2 x.toNat) entry
    refine ⟨v, ?_, e, hw.trans (frame.writerOf g), hx⟩
    rw [completes_rest]
    show v ∈ State.vars (State.release _ _ _ _ _)
    rw [release_vars, ha]
    exact hv
  · rw [completes_team]
    obtain ⟨ta, hta, bytes⟩ := scratchAccs_team hn (s := t) (k := k) (tm := tm) (by rw [State.team, put.teams]; exact hk)
    obtain ⟨tm', htm, e⟩ := release_team (t.scratchAccs out) (g.raise c) (BitVec.ofNat 2 x.toNat) out carried hta
    exact ⟨tm', htm, fun p => by rw [e, bytes]⟩

end release

end Sys2Proof.Machine

/-!
PROOFS. Acquires and fences (07 R182 to R184).
-/
namespace Sys2Proof.Machine

/-! ## The acquire actions (R183, R184) -/

/-- The copies that an acquire discards; from then on a view word is decoded from lines fetched later (R174). -/
def State.dropped (s : State) (core : Nat) (ro views : Bool) : State :=
  let s := { s with ro := if ro then dropCopies core s.ro else s.ro,
                    views := if views then dropCopies core s.views else s.views }
  if views then { s.draw with cvmarks := mapSet 0 s.cvmarks core (s.fresh + 1) } else s

/-- The greatest time of a write. -/
def State.lastWrite (s : State) : Nat := s.stamps.foldl (fun t e => max t e.2.1) 0

theorem le_foldl_max {α : Type} (f : α → Nat) (l : List α) (t : Nat) : t ≤ l.foldl (fun t e => max t (f e)) t := by
  induction l generalizing t with
  | nil => exact Nat.le_refl t
  | cons a l ih => exact (Nat.le_max_left _ _).trans (ih _)
theorem le_foldl_max_of_mem {α : Type} (f : α → Nat) {l : List α} {e : α} (h : e ∈ l) (t : Nat) :
    f e ≤ l.foldl (fun t e => max t (f e)) t := by
  induction l generalizing t with
  | nil => cases h
  | cons a l ih =>
    rcases List.mem_cons.mp h with rfl | h
    · exact (Nat.le_max_right _ _).trans (le_foldl_max f l _)
    · exact ih h _
theorem le_lastWrite {s : State} {e : Nat × Nat × Nat} (h : e ∈ s.stamps) : e.2.1 ≤ s.lastWrite :=
  le_foldl_max_of_mem (fun e : Nat × Nat × Nat => e.2.1) h 0

theorem dropped_rest (s : State) (core : Nat) (ro views : Bool) : s.dropped core ro views =
    { s with ro := if ro then dropCopies core s.ro else s.ro, views := if views then dropCopies core s.views else s.views,
             fresh := (s.dropped core ro views).fresh, cvmarks := (s.dropped core ro views).cvmarks } := by
  unfold State.dropped
  cases views <;> rfl
/-- An acquire discards copies and raises its group's clock, at DEVICE past every write. -/
theorem acquire_eq (s : State) (gid core scope : Nat) (ro views : Bool) : s.acquire gid core scope ro views =
    (s.dropped core ro views).modGroup gid fun g => g.raise (if 2 ≤ scope then s.lastWrite else 0) := by
  have stamps : (s.dropped core ro views).lastWrite = s.lastWrite := by
    rw [State.lastWrite, dropped_rest]
    rfl
  rw [← stamps]
  by_cases h : 2 ≤ scope
  · simp only [if_pos h]
    exact if_pos h
  · simp only [if_neg h]
    rw [State.modGroup_same _ _ _ fun g => by simp [Group.raise]]
    exact if_neg h

/-- A change `f` of the group and then an acquire of some copies: what both leave. -/
def State.acquired (s : State) (g : Group) (f : Group → Group) (scope : Nat) (ro views : Bool) : State :=
  (s.modGroup g.gid f).acquire g.gid g.core scope ro views

section acquired
variable (s : State) (g : Group) (f : Group → Group) (scope : Nat) (ro views : Bool)

theorem acquired_rest : s.acquired g f scope ro views =
    { s with ro := if ro then dropCopies g.core s.ro else s.ro, views := if views then dropCopies g.core s.views else s.views,
             fresh := (s.acquired g f scope ro views).fresh, cvmarks := (s.acquired g f scope ro views).cvmarks,
             groups := (s.acquired g f scope ro views).groups } := by
  unfold State.acquired
  rw [acquire_eq, dropped_rest]
  rfl
theorem acquired_group {k : Group} (hf : ∀ h, (f h).gid = h.gid) (hk : s.group g.gid = some k) :
    (s.acquired g f scope ro views).group g.gid = some ((f k).raise (if 2 ≤ scope then s.lastWrite else 0)) := by
  unfold State.acquired
  rw [acquire_eq]
  refine State.group_modGroup_own ?_ (by intro h; rfl)
  rw [dropped_rest]
  exact State.group_modGroup_own hk hf
theorem acquired_others (hf : ∀ h, (f h).gid = h.gid) (j : Nat) (hj : j ≠ g.gid) :
    (s.acquired g f scope ro views).group j = s.group j := by
  unfold State.acquired
  rw [acquire_eq, State.group_modGroup _ _ _ _ (by intro h; rfl), if_neg hj, dropped_rest]
  show (s.modGroup g.gid f).group j = _
  rw [State.group_modGroup _ _ _ _ hf, if_neg hj]
theorem acquired_byte (a : Nat) : (s.acquired g f scope ro views).byte a = s.byte a := by rw [acquired_rest]; rfl

end acquired

/-! ## FENCE (R184) -/

theorem fence_performed {s : State} {g : Group} {i : Issue} (h : AtWord s g i) (z : BitVec 2) (p : BitVec 4)
    (hp : s.performed g.gid (fenceWaits p.toNat) = true) (hh : s.performed g.gid (hostFence z.toNat p.toNat) = true) :
    ∃ t k, exec (.fence z p) s = .next t ∧ t.group g.gid = some k ∧ (∀ a, t.byte a = s.byte a) ∧
      (∀ k, k ≠ g.gid → t.group k = s.group k) ∧
      t.ro = (if p = 1#4 ∨ p = 15#4 then s.ro.filter (fun e => e.1 / copySpan != g.core) else s.ro) ∧
      t.views = (if p = 5#4 ∨ p = 15#4 then s.views.filter (fun e => e.1 / copySpan != g.core) else s.views) ∧
      (2 ≤ z.toNat → ∀ e ∈ s.stamps, e.2.1 ≤ k.lclock) ∧
      k = { g with lclock := k.lclock, lanes := k.lanes, issue := k.issue, popped := k.popped } := by
  have runs : exec (.fence z p) s = .next ((s.acquired g (·.raise (s.opTime g.gid (fenceWaits p.toNat))) z.toNat
      (p == 1#4 || p == 15#4) (p == 5#4 || p == 15#4)).wordDone g i) := by
    show onGroup s _ = _
    rw [onGroup_at h]
    simp only [hp, hh, Bool.not_true, Bool.or_self, Bool.false_eq_true, if_false]
    rfl
  have group := acquired_group s g (·.raise (s.opTime g.gid (fenceWaits p.toNat))) z.toNat (p == 1#4 || p == 15#4)
    (p == 5#4 || p == 15#4) (by intro h; rfl) h.here
  have others := acquired_others s g (·.raise (s.opTime g.gid (fenceWaits p.toNat))) z.toNat (p == 1#4 || p == 15#4)
    (p == 5#4 || p == 15#4) (by intro h; rfl)
  have frame := acquired_rest s g (·.raise (s.opTime g.gid (fenceWaits p.toNat))) z.toNat (p == 1#4 || p == 15#4)
    (p == 5#4 || p == 15#4)
  generalize s.acquired g (·.raise (s.opTime g.gid (fenceWaits p.toNat))) z.toNat (p == 1#4 || p == 15#4)
    (p == 5#4 || p == 15#4) = u at *
  have rest := elsewhere_wordDone u g i
  refine ⟨_, _, runs, State.group_wordDone i group, fun a => (rest.bytes a).trans (by rw [frame]; rfl),
    fun j hj => (rest.others j hj).trans (others j hj), ?_, ?_, fun hz e he => ?_, ?_⟩
  · rw [rest.rest, frame]
    simp [dropCopies]
  · rw [rest.rest, frame]
    simp [dropCopies]
  · rw [Group.retire_lclock, if_pos hz]
    exact (le_lastWrite he).trans (Nat.le_max_right _ _)
  · refine (Group.retire_rest _ _).trans ?_
    rw [Group.retire_lclock]
    rfl

/-! ## ACQ (R182) -/

/-- The entries of the atoms that an acquire reads, used last now. -/
def State.renewed (s : State) (atoms : List Nat) : State :=
  { s.newId with vars := updBy (fun v => atoms.contains v.atom) (fun v => { v with stamp := s.newId.ids }) s.vars }

/-- Whether an access names a word of scratchpad. -/
def LaneAcc.onPad (a : LaneAcc) : Bool := a.locs.any fun l => match l with | .scr _ _ _ => true | _ => false

/-- The effective scope of an acquire of accesses (R182). -/
def State.acqScope (s : State) (g : Group) (x : Nat) (accs : List LaneAcc) : Nat :=
  ((atomsOf (devBytes accs)).map fun a => acquireScope x (s.writerOf g) ((findBy (fun v => v.atom == a) s.vars).map
    (·.writer))).foldl max (if accs.any (·.onPad) then max x 1 else x)

theorem le_acqScope (s : State) (g : Group) (x : Nat) (accs : List LaneAcc) : x ≤ s.acqScope g x accs := by
  refine le_trans ?_ (le_foldl_max id _ _)
  split
  · exact Nat.le_max_left _ _
  · exact Nat.le_refl _
/-- An acquire of an atom without an entry, or last written from another cluster, is of DEVICE scope at least (R182). -/
theorem acqScope_wide {s : State} {g : Group} (x : Nat) {accs : List LaneAcc} {a : Nat} (ha : a ∈ atomsOf (devBytes accs))
    (hv : ∀ v ∈ s.vars, v.atom = a → v.writer.toNat / 2 ^ 10 ≠ (s.writerOf g).toNat / 2 ^ 10) : 2 ≤ s.acqScope g x accs := by
  have wide : 2 ≤ acquireScope x (s.writerOf g) ((findBy (fun v => v.atom == a) s.vars).map (·.writer)) := by
    cases h : findBy (fun v => v.atom == a) s.vars with
    | none => exact Nat.le_max_right _ _
    | some v =>
      have other := hv v (findBy_mem h) (by simpa using findBy_some h)
      have writer : v.writer ≠ s.writerOf g := fun e => other (by rw [e])
      simp only [Option.map_some, acquireScope, if_neg writer, if_neg other]
      split <;> omega
  have listed := List.mem_map_of_mem (f := fun a => acquireScope x (s.writerOf g) ((findBy (fun v => v.atom == a) s.vars).map
    (·.writer))) ha
  exact wide.trans (le_foldl_max_of_mem id listed _)

/-- A lane's part of an acquire: its current frame takes the value. -/
def acqAcc (g : Group) (e : Nat × Place × List Loc) : LaneAcc := ⟨e.1, (g.lane e.1).fid, e.2.2, [], false⟩
theorem acqAccs_eq (g : Group) (ps : List (Nat × Place × List Loc)) : (ps.map fun e => (e.1, e.2.2)).map
    (fun e => (⟨e.1, (g.lane e.1).fid, e.2, [], false⟩ : LaneAcc)) = ps.map (acqAcc g) := by
  rw [List.map_map]
  rfl
/-! ## Loads to current frames -/

/-- The current frame's register, read by its number. -/
theorem Lane.vreg_eq_vregAt (n : Lane) (r : Nat) : n.vreg r = n.vregAt n.fid r := by
  cases h : n.chain with
  | nil => simp [Lane.vreg, Lane.vregAt, h, findBy]
  | cons c cs => simp [Lane.vreg, Lane.vregAt, Lane.fid, h, findBy]
theorem Lane.setRun_fid (n : Lane) (fid d count : Nat) (f : Nat → Reg) : (n.setRun fid d count f).fid = n.fid := by
  have heads := congrArg List.head? (n.setRun_fids fid d count f)
  rw [List.head?_map, List.head?_map] at heads
  rw [Lane.fid, Lane.fid, heads]
theorem Lane.vreg_setRun {n : Lane} (h : n.chain ≠ []) (d count : Nat) (f : Nat → Reg) (r : Nat) :
    (n.setRun n.fid d count f).vreg r = if d ≤ r ∧ r < d + count then f (r - d) else n.vreg r := by
  have current : n.chain.any (fun c => c.fid == n.fid) = true := by
    cases hc : n.chain with
    | nil => exact absurd hc h
    | cons c cs => simp [Lane.fid, hc]
  rw [Lane.vreg_eq_vregAt, Lane.setRun_fid, Lane.vregAt_setRun, ← Lane.vreg_eq_vregAt]
  exact if_congr ⟨fun h => h.2.1, fun h => ⟨rfl, h, current⟩⟩ rfl rfl

/-- Of accesses of different lanes, those of one lane are its own. -/
theorem filter_lane {accs : List LaneAcc} (hn : (accs.map (·.lane)).Nodup) {a : LaneAcc} (ha : a ∈ accs) :
    accs.filter (fun b => b.lane == a.lane) = [a] := by
  induction accs with
  | nil => cases ha
  | cons b l ih =>
    obtain ⟨fresh, hn⟩ := List.nodup_cons.mp hn
    rcases List.mem_cons.mp ha with rfl | ha
    · have others : l.filter (fun b => b.lane == a.lane) = [] := List.filter_eq_nil_iff.mpr fun c hc e =>
        fresh (List.mem_map.mpr ⟨c, hc, by simpa using e⟩)
      simp [others]
    · have other : ¬ (b.lane == a.lane) = true := fun e => fresh (List.mem_map.mpr ⟨a, ha, by simpa using (beq_iff_eq.mp e).symm⟩)
      rw [List.filter_cons, if_neg other, ih hn ha]

/-- What an acquire writes to register `r` of lane `l`. -/
def acqWord (s : State) (d w : Nat) (accs : List LaneAcc) (l r : Nat) : Reg :=
  ⟨BitVec.ofNat 32 (ofBytes (((accs.filter fun a => a.lane == l).flatMap (locBytes s)).take w) / 2 ^ (32 * (r - d))),
    accs.any fun a => a.lane == l && locPoison s a⟩

theorem locBytes_length (s : State) (a : LaneAcc) : (locBytes s a).length ≤ a.locs.length := List.length_filterMap_le _ _

theorem acqWord_own {s : State} {d w : Nat} {accs : List LaneAcc} (hn : (accs.map (·.lane)).Nodup) {a : LaneAcc} (ha : a ∈ accs)
    (hl : a.locs.length = w) (hw : 4 ≤ w) {r : Nat} :
    acqWord s d w accs a.lane r = loadWord w false (readAcc s a) (r - d) := by
  have bytes : ((accs.filter fun b => b.lane == a.lane).flatMap (locBytes s)).take w = locBytes s a := by
    rw [filter_lane hn ha, List.flatMap_singleton, List.take_of_length_le (hl ▸ locBytes_length s a)]
  have poison : (accs.any fun b => b.lane == a.lane && locPoison s b) = locPoison s a := by
    rw [← List.any_filter, filter_lane hn ha]
    exact Bool.or_false _
  rw [acqWord, bytes, poison, loadWord, if_neg (show ¬ w < 4 by omega), ofBytes_word]
  rfl

/-- A load to the current frames of its lanes. -/
theorem loadInto_effect {s : State} {g : Group} {d : BitVec 7} {w : Nat} {accs : List LaneAcc}
    (hn : (accs.map (·.lane)).Nodup) (hw : 4 ≤ w) (hl : ∀ a ∈ accs, a.locs.length = w)
    (hf : ∀ a ∈ accs, a.fid = (g.lane a.lane).fid)
    (hc : ∀ a ∈ accs, (g.lane a.lane).chain ≠ []) :
    Effect g (g.loadInto d.toNat w false false (accs.map (readAcc s))) (accs.map (·.lane)) (regSpan d (widthRegs w))
      (acqWord s d.toNat w accs) := by
  have lanes : (accs.map (readAcc s)).map (·.lane) = accs.map (·.lane) := by
    rw [List.map_map]
    rfl
  have nodup : ((accs.map (readAcc s)).map (·.lane)).Nodup := lanes ▸ hn
  have span : ∀ r, r ∈ regSpan d (widthRegs w) ↔ d.toNat ≤ r ∧ r < d.toNat + widthRegs w := fun r => by
    simp only [regSpan, List.mem_map, List.mem_range]
    exact ⟨fun ⟨k, hk, e⟩ => by omega, fun h => ⟨r - d.toNat, by omega, by omega⟩⟩
  have rest := Group.loadInto_rest d.toNat w false g (accs.map (readAcc s))
  refine ⟨Nat.le_of_eq (by rw [rest]), fun l r => ?_, fun l => ?_, by rw [rest]⟩
  · obtain ⟨hit, miss⟩ := Group.lane_loadInto d.toNat w false nodup g l
    by_cases h : l ∈ accs.map (·.lane)
    · obtain ⟨a, ha, rfl⟩ := List.mem_map.mp h
      have write := hit (readAcc s a) (List.mem_map_of_mem ha) rfl
      have own : (readAcc s a).fid = (g.lane a.lane).fid := hf a ha
      rw [write, own, Lane.vreg_setRun (hc a ha), ← acqWord_own hn ha (hl a ha) hw]
      by_cases hr : r ∈ regSpan d (widthRegs w)
      · rw [if_pos ((span r).mp hr), if_pos (by simp [hr, h])]
      · rw [if_neg fun e => hr ((span r).mpr e), if_neg (by simp [hr])]
    · rw [miss (lanes ▸ h), if_neg (by simp [h])]
  · rw [(Group.loadInto_chain d.toNat w false nodup g l).1]

section word
variable {s s' : State} {g : Group} {i : Issue} {n : Instr} {gd : BitVec 4} {sc : BitVec 2} {b : BitVec 5} {o d : BitVec 7}
  {f : BitVec 1} {disp : BitVec 16} {x : BitVec 4} {w : Nat} {ps : List (Nat × Place × List Loc)}

/-- An acquire without contributing lanes has no effect (R182). -/
theorem laneAcq_empty (he : exec n s = laneAcq s gd sc b o d f disp x w)
    (h : Reached s s' g i (g.contributing i gd) (regSpan d (widthRegs w)) sc b o f disp pathsAtom false 0 w ps)
    (hp : g.passed = none) (hs : Sound s' g.world (devBytes (ps.map (acqAcc g)))) (hl : g.contributing i gd = [])
    (hm : s'.mayPerform ⟨s'.ids, g.gid, g.core, g.world, g.team, none, .load d.toNat w false false (ps.map (acqAcc g)), false,
      0⟩ = true) : exec n s = .next (s'.completes g (i.flag f) i) := by
  rw [he, laneAcq, onGroup_at h.word]
  simp only [show s.hazard g _ _ _ = false from h.ready, h.flag, Bool.not_true, Bool.or_false, Bool.false_eq_true, if_false,
    checkedOnce, hp, h.checks, Res.unless, laneAddrs_eq, h.access, acqAccs_eq, mustWait_free hs.free hs.owned hm]
  rw [if_pos hl]
  rfl

/-- An acquire of sound bytes that its core's L1 does not hold is performed as it executes. -/
theorem laneAcq_runs (he : exec n s = laneAcq s gd sc b o d f disp x w)
    (h : Reached s s' g i (g.contributing i gd) (regSpan d (widthRegs w)) sc b o f disp pathsAtom false 0 w ps)
    (hp : g.passed = none) (hn : Near (ps.map (acqAcc g))) (hs : Sound s' g.world (devBytes (ps.map (acqAcc g))))
    (hc : ∀ a ∈ devBytes (ps.map (acqAcc g)), mapGet none s'.l1 (copyKey g.core (a / 32)) = none)
    (hne : ∀ e ∈ ps, e.2.2 ≠ []) (hl : g.contributing i gd ≠ [])
    (hm : s'.mayPerform ⟨s'.ids, g.gid, g.core, g.world, g.team, none, .load d.toNat w false false (ps.map (acqAcc g)), false,
      0⟩ = true) :
    ∃ u time, Filled s' u ∧ exec n s = .next (((u.renewed (atomsOf (devBytes (ps.map (acqAcc g))))).acquired g
      (fun k => (k.loadInto d.toNat w false false ((ps.map (acqAcc g)).map (readAcc s'))).raise time)
      (s'.acqScope g x.toNat (ps.map (acqAcc g))) true true).completes g (i.flag f) i) := by
  obtain ⟨u, time, read, filled⟩ := readGroup_near (core := g.core) g.lclock hn hs.clean hc fun a ha => by
    obtain ⟨e, he, rfl⟩ := List.mem_map.mp ha
    exact hne e he
  refine ⟨u, max time ((u.renewed (atomsOf (devBytes (ps.map (acqAcc g))))).carriedClock (ps.map (acqAcc g))), filled, ?_⟩
  rw [he, laneAcq, onGroup_at h.word]
  simp only [show s.hazard g _ _ _ = false from h.ready, h.flag, Bool.not_true, Bool.or_false, Bool.false_eq_true, if_false,
    checkedOnce, hp, h.checks, Res.unless, laneAddrs_eq, h.access, acqAccs_eq, mustWait_free hs.free hs.owned hm,
    if_neg hl, hs.clean.mergeAll, read]
  rfl

/-- The registers that an acquire writes. -/
theorem acqAccs_effect
    (h : Reached s s' g i (g.contributing i gd) (regSpan d (widthRegs w)) sc b o f disp pathsAtom false 0 w ps)
    (hw : 4 ≤ w) (hlen : ∀ e ∈ ps, e.2.2.length = w) :
    Effect g (g.loadInto d.toNat w false false ((ps.map (acqAcc g)).map (readAcc s'))) (ps.map Prod.fst)
      (regSpan d (widthRegs w)) (acqWord s' d.toNat w (ps.map (acqAcc g))) := by
  have lanes : (ps.map (acqAcc g)).map (·.lane) = ps.map Prod.fst := by
    rw [List.map_map]
    rfl
  rw [← lanes]
  refine loadInto_effect ?_ hw (List.forall_mem_map.mpr hlen) (List.forall_mem_map.mpr fun _ _ => rfl)
    (List.forall_mem_map.mpr fun e he => ?_)
  · rw [lanes, h.lanes]
    exact contributing_nodup g i gd
  · exact Group.chain_ne_of_declared (addrChecks_bound h.checks e.1 (h.lanes ▸ List.mem_map_of_mem he) o.toNat (by simp))

/-- What an acquire leaves of memory, of its lanes' registers, of its core's copies and of its group's clock. -/
theorem laneAcq_performed (he : exec n s = laneAcq s gd sc b o d f disp x w)
    (h : Reached s s' g i (g.contributing i gd) (regSpan d (widthRegs w)) sc b o f disp pathsAtom false 0 w ps)
    (hw : 4 ≤ w) (hlen : ∀ e ∈ ps, e.2.2.length = w)
    (hp : g.passed = none) (hn : Near (ps.map (acqAcc g))) (hs : Sound s' g.world (devBytes (ps.map (acqAcc g))))
    (hg : s'.group g.gid = some g)
    (hc : ∀ a ∈ devBytes (ps.map (acqAcc g)), mapGet none s'.l1 (copyKey g.core (a / 32)) = none)
    (hm : s'.mayPerform ⟨s'.ids, g.gid, g.core, g.world, g.team, none, .load d.toNat w false false (ps.map (acqAcc g)), false,
      0⟩ = true) :
    ∃ t, exec n s = .next t ∧ Performed s' t g (i.flag f) s'.byte (ps.map Prod.fst) (regSpan d (widthRegs w))
        (acqWord s' d.toNat w (ps.map (acqAcc g))) ∧
      (g.contributing i gd ≠ [] → (∀ e ∈ t.ro, e.1 / copySpan ≠ g.core) ∧ (∀ e ∈ t.views, e.1 / copySpan ≠ g.core) ∧
        (2 ≤ x.toNat → ∀ h, t.group g.gid = some h → ∀ e ∈ s'.stamps, e.2.1 ≤ h.lclock)) ∧
      (∀ a, atomsOf (devBytes (ps.map (acqAcc g))) = [a] →
        (∀ v ∈ s'.vars, v.atom = a → v.writer.toNat / 2 ^ 10 ≠ (s'.writerOf g).toNat / 2 ^ 10) →
        ∀ h, t.group g.gid = some h → ∀ e ∈ s'.stamps, e.2.1 ≤ h.lclock) := by
  by_cases hl : g.contributing i gd = []
  · have empty : ps = [] := List.map_eq_nil_iff.mp (h.lanes.trans hl)
    subst empty
    have effect : Effect g g [] (regSpan d (widthRegs w)) (acqWord s' d.toNat w []) :=
      ⟨Nat.le_refl _, fun _ _ => rfl, fun _ => rfl, rfl⟩
    refine ⟨_, laneAcq_empty he h hp hs hl hm, performed_completes hg effect (fun _ => rfl) rfl fun _ _ => rfl,
      fun hne => absurd hl hne, fun a ha => ?_⟩
    cases ha
  · obtain ⟨u, time, filled, runs⟩ := laneAcq_runs he h hp hn hs hc
      (fun e he e0 => by
        have := hlen e he
        rw [e0, List.length_nil] at this
        omega) hl hm
    have loaded := acqAccs_effect h hw hlen
    have gid : ∀ k : Group, ((k.loadInto d.toNat w false false ((ps.map (acqAcc g)).map (readAcc s'))).raise time).gid =
      k.gid := fun k => Group.loadInto_gid _ _ _ _ k _
    have own : (u.renewed (atomsOf (devBytes (ps.map (acqAcc g))))).group g.gid = some g := (filled.group g.gid).trans hg
    have group := acquired_group _ g _ (s'.acqScope g x.toNat (ps.map (acqAcc g))) true true gid own
    have others := acquired_others (u.renewed (atomsOf (devBytes (ps.map (acqAcc g))))) g _
      (s'.acqScope g x.toNat (ps.map (acqAcc g))) true true gid
    have rest := acquired_rest (u.renewed (atomsOf (devBytes (ps.map (acqAcc g))))) g
      (fun k => (k.loadInto d.toNat w false false ((ps.map (acqAcc g)).map (readAcc s'))).raise time)
      (s'.acqScope g x.toNat (ps.map (acqAcc g))) true true
    generalize State.acquired (u.renewed _) g _ _ true true = v at runs group others rest
    have late : 2 ≤ s'.acqScope g x.toNat (ps.map (acqAcc g)) → ∀ k, (v.completes g (i.flag f) i).group g.gid = some k →
        ∀ e ∈ s'.stamps, e.2.1 ≤ k.lclock := fun hx k hk e he => by
      obtain ⟨e', he', same⟩ := filled.times e he
      rw [completes_clock _ _ _ _ group k hk, if_pos hx, ← same]
      exact (le_lastWrite (s := u.renewed _) he').trans (Nat.le_max_right _ _)
    refine ⟨_, runs, performed_completes group ((loaded.raise time).raise _) (fun a => ?_) ?_ fun j hj => ?_,
      fun _ => ⟨?_, ?_, fun hx => late (hx.trans (le_acqScope _ _ _ _))⟩,
      fun a ha hv => late (acqScope_wide _ (ha ▸ List.mem_singleton_self a) hv)⟩
    · rw [← filled.byte a, rest]
      rfl
    · rw [rest]
      show u.ops = _
      rw [filled.rest]
    · exact (others j hj).trans (filled.group j)
    · rw [completes_rest, rest]
      exact fun e he => by simpa using (List.mem_filter.mp he).2
    · rw [completes_rest, rest]
      exact fun e he => by simpa using (List.mem_filter.mp he).2

end word

end Sys2Proof.Machine

/-!
PROOFS. Update-only contributions (07 R178 to R180): the partials of a cluster, and `UPD`.
-/
namespace Sys2Proof.Machine

/-! ## Partials of an atom -/

/-- An entry listed leaves those of the other keys. -/
theorem findBy_mapIns_ne {α : Type} (m : List (Nat × α)) {k j : Nat} (v : α) (h : j ≠ k) :
    findBy (fun e => e.1 == j) (mapIns m k v) = findBy (fun e => e.1 == j) m := by
  induction m with
  | nil => simp [mapIns, findBy, Ne.symm h]
  | cons e m ih =>
    obtain ⟨i, u⟩ := e
    rw [mapIns]
    split
    · next hk =>
      subst hk
      simp [findBy, Ne.symm h]
    · split
      · simp [findBy, Ne.symm h]
      · rw [findBy, findBy, ih]
theorem mapGet_findBy {α : Type} (d : α) (m : List (Nat × α)) (k : Nat) :
    mapGet d m k = ((findBy (fun e => e.1 == k) m).map Prod.snd).getD d := by
  induction m with
  | nil => rfl
  | cons e m ih =>
    obtain ⟨i, u⟩ := e
    rw [mapGet, findBy, ih]
    by_cases h : k = i
    · simp [h]
    · simp [h, Ne.symm h]

/-- The partial that a cluster holds for word `k` of an atom. -/
def UAtom.part (u : UAtom) (cluster k : Nat) : Option Partial :=
  (findBy (fun h => h.1 == cluster) u.holders).bind fun h => (findBy (fun p => p.1 == k) h.2.2).map Prod.snd
theorem partialAt_eq (s : State) (cluster a k : Nat) : s.partialAt cluster a k = (s.uatom a).bind fun u => u.part cluster k := by
  unfold State.partialAt UAtom.part
  cases s.uatom a <;> rfl

/-- A contribution joins the partial of its word, and no other of its cluster (R178). -/
theorem UAtom.part_add (u : UAtom) (cluster use k v time j : Nat) : (u.add cluster use k v time).part cluster j =
    if j = k then some (contribute u.tag v (u.part cluster k)) else u.part cluster j := by
  have held : ∀ j, ((findBy (fun e => e.1 == j) (mapGet (0, []) u.holders cluster).2).map Prod.snd) = u.part cluster j := fun j => by
    rw [mapGet_findBy, UAtom.part]
    cases findBy (fun h : Nat × Nat × List (Nat × Partial) => h.1 == cluster) u.holders <;> rfl
  unfold UAtom.add
  simp only [held]
  rw [UAtom.part, findBy_mapIns]
  show (findBy _ (mapIns _ k _)).map Prod.snd = _
  by_cases h : j = k
  · subst h
    rw [findBy_mapIns, if_pos rfl]
    rfl
  · rw [findBy_mapIns_ne _ _ h, if_neg h, held]

/-! ## Atoms in U state -/

theorem State.uatom_modUatom_at (s : State) (a j : Nat) (f : UAtom → UAtom) (hf : ∀ u, (f u).atom = u.atom) :
    (s.modUatom a f).uatom j = if j = a then (s.uatom j).map f else s.uatom j := by
  unfold State.uatom State.modUatom
  rw [findBy_updBy _ _ _ _ (fun u _ => by rw [hf])]
  cases h : findBy (fun u => u.atom == j) s.uatoms with
  | none => simp
  | some u =>
    have hj : u.atom = j := by simpa using findBy_some h
    by_cases e : j = a <;> simp [hj, e]

/-- An atom ready to take contributions: in U state, with no partial where it was not. -/
def State.entered (s : State) (tag a : Nat) : State :=
  match s.uatom a with
  | some _ => s
  | none => { s with uatoms := s.uatoms ++ [⟨a, tag, [], [], 0⟩] }

/-- Where the atom's tag is the word's and the merge unit has room, nothing is merged and nothing evicted. -/
theorem enterU_entered {s : State} {cluster c tag a : Nat} (ht : ∀ u, s.uatom a = some u → u.tag = tag)
    (hr : (s.unitAtoms cluster).length < 256) : s.enterU cluster c tag a = s.entered tag a := by
  have room : s.unitRoom cluster c = s := by
    rw [State.unitRoom]
    exact if_neg (by omega)
  unfold State.enterU State.entered
  cases h : s.uatom a with
  | none => simp [room, h]
  | some u => simp [ht u h, room, h]

section entered
variable (s : State) (tag a : Nat)

theorem entered_rest : s.entered tag a = { s with uatoms := (s.entered tag a).uatoms } := by
  unfold State.entered
  split <;> rfl
theorem entered_uatom (b : Nat) : (s.entered tag a).uatom b =
    if b = a then some ((s.uatom a).getD ⟨a, tag, [], [], 0⟩) else s.uatom b := by
  unfold State.entered
  cases h : s.uatom a with
  | some u => by_cases e : b = a <;> simp [e, h]
  | none =>
    have absent : s.uatoms.find? (fun u => u.atom == a) = none := by rw [← findBy_eq_find?]; exact h
    simp only [State.uatom, findBy_eq_find?, List.find?_append]
    by_cases e : b = a
    · subst e
      simp [absent]
    · simp [e, Ne.symm e]
theorem entered_partialAt (cluster b k : Nat) : (s.entered tag a).partialAt cluster b k = s.partialAt cluster b k := by
  rw [partialAt_eq, partialAt_eq, entered_uatom]
  by_cases e : b = a
  · subst e
    cases s.uatom b <;> simp [UAtom.part, findBy]
  · rw [if_neg e]
theorem entered_unitAtoms (cluster : Nat) : (s.entered tag a).unitAtoms cluster = s.unitAtoms cluster := by
  unfold State.entered
  split
  · rfl
  · simp [State.unitAtoms, findBy]
theorem entered_nodup (h : (s.uatoms.map (·.atom)).Nodup) : ((s.entered tag a).uatoms.map (·.atom)).Nodup := by
  unfold State.entered
  split
  · exact h
  · next hn =>
    have absent : a ∉ s.uatoms.map (·.atom) := fun hm => by
      obtain ⟨u, hu, e⟩ := List.mem_map.mp hm
      rw [State.uatom, findBy_eq_find?, List.find?_eq_none] at hn
      exact hn u hu (by simpa using e)
    have apart : ∀ u ∈ s.uatoms, u.atom ≠ a := fun u hu e => absent (List.mem_map.mpr ⟨u, hu, e⟩)
    simpa using List.nodup_append.mpr ⟨h, List.nodup_singleton a, by simpa using apart⟩

end entered

/-! ## One contribution -/

/-- Room for `n` contributions of a tag to some atoms: none of another tag stands there, each atom is listed once, and the merge
unit of the cluster need evict nothing. -/
structure Room (s : State) (cluster tag : Nat) (atoms : List Nat) (n : Nat) : Prop where
  tags  : ∀ a ∈ atoms, ∀ u, s.uatom a = some u → u.tag = tag
  alone : (s.uatoms.map (·.atom)).Nodup
  room  : (s.unitAtoms cluster).length + n ≤ 256

/-- A contribution of a cluster to word `k` of an atom. -/
def State.join (s : State) (cluster c tag a k v : Nat) : State :=
  let s := (s.enterU cluster c tag a).newId
  let t := s.writeTime c [a]
  s.modUatom a fun u => u.add cluster s.ids k v t

/-- Of the entries that a change may list, those it picks. -/
theorem filterMap_updBy_length {α β : Type} (p : α → Bool) (f : α → α) (h : α → Option β) (l : List α) :
    ((updBy p f l).filterMap h).length ≤ (l.filterMap h).length + (l.filter p).length := by
  induction l with
  | nil => simp [updBy]
  | cons a l ih =>
    have head : ∀ (b : α) (m : List α), ((b :: m).filterMap h).length =
        (if (h b).isSome then 1 else 0) + (m.filterMap h).length := fun b m => by
      rw [List.filterMap_cons]
      cases h b with
      | none => simp
      | some c => simp [Nat.add_comm]
    rw [updBy, head, head, List.filter_cons]
    by_cases hp : p a = true
    · have atMost : (if (h (f a)).isSome then 1 else 0) ≤ 1 := by split <;> omega
      rw [if_pos hp, if_pos hp, List.length_cons]
      omega
    · rw [if_neg hp, if_neg hp]
      omega

section join
variable {s : State} {cluster c tag a k v n : Nat} {atoms : List Nat} (h : Room s cluster tag atoms (n + 1)) (ha : a ∈ atoms)
include h ha

theorem Room.join_eq : ∃ use time, s.join cluster c tag a k v =
    ((s.entered tag a).newId).modUatom a fun u => u.add cluster use k v time := by
  have room := h.room
  refine ⟨(s.enterU cluster c tag a).newId.ids, (s.enterU cluster c tag a).newId.writeTime c [a], ?_⟩
  rw [← enterU_entered (c := c) (h.tags a ha) (show (s.unitAtoms cluster).length < 256 by omega)]
  rfl

theorem Room.join_rest : s.join cluster c tag a k v =
    { s with uatoms := (s.join cluster c tag a k v).uatoms, ids := s.ids + 1 } := by
  obtain ⟨use, time, e⟩ := h.join_eq (c := c) (k := k) (v := v) ha
  rw [e, entered_rest]
  rfl
/-- A contribution joins its word's partial, and no other of the cluster. -/
theorem Room.join_partialAt (b j : Nat) : (s.join cluster c tag a k v).partialAt cluster b j =
    if b = a ∧ j = k then some (contribute tag v (s.partialAt cluster b j)) else s.partialAt cluster b j := by
  obtain ⟨use, time, e⟩ := h.join_eq (c := c) (k := k) (v := v) ha
  have there : (s.entered tag a).newId.uatom b = (s.entered tag a).uatom b := rfl
  rw [e, partialAt_eq, State.uatom_modUatom_at _ _ _ _ (by intro u; rfl), there, ← entered_partialAt s tag a, partialAt_eq, entered_uatom]
  by_cases eb : b = a
  · subst eb
    have tagged : ((s.uatom b).getD ⟨b, tag, [], [], 0⟩).tag = tag := by
      cases hu : s.uatom b with
      | none => rfl
      | some u => exact h.tags b ha u hu
    simp only [if_true, Option.map_some, Option.bind_some, UAtom.part_add, tagged, true_and]
    by_cases ej : j = k
    · simp [ej]
    · simp [ej]
  · simp [eb]
theorem Room.join_room : Room (s.join cluster c tag a k v) cluster tag atoms n := by
  obtain ⟨use, time, e⟩ := h.join_eq (c := c) (k := k) (v := v) ha
  have there : ∀ b, (s.entered tag a).newId.uatom b = (s.entered tag a).uatom b := fun _ => rfl
  rw [e]
  refine ⟨fun b hb u hu => ?_, ?_, ?_⟩
  · rw [State.uatom_modUatom_at _ _ _ _ (by intro u; rfl), there, entered_uatom] at hu
    by_cases eb : b = a
    · subst eb
      rw [if_pos rfl, if_pos rfl] at hu
      cases hu
      cases hu : s.uatom b with
      | none => rfl
      | some u => exact h.tags b ha u hu
    · rw [if_neg eb, if_neg eb] at hu
      exact h.tags b hb u hu
  · show ((updBy _ _ (s.entered tag a).uatoms).map (·.atom)).Nodup
    rw [map_updBy (fun u : UAtom => u.atom) _ _ (by intro u; rfl)]
    exact entered_nodup s tag a h.alone
  · have once : ((s.entered tag a).uatoms.filter fun u => u.atom == a).length ≤ 1 := by
      rw [← List.countP_eq_length_filter]
      have counted := List.nodup_iff_count_le_one.mp (entered_nodup s tag a h.alone) a
      rwa [List.count, List.countP_map] at counted
    have grown := filterMap_updBy_length (fun u : UAtom => u.atom == a) (fun u => u.add cluster use k v time)
      (fun u => (findBy (fun h => h.1 == cluster) u.holders).map fun h => (h.2.1, u.atom)) (s.entered tag a).uatoms
    have kept : ((s.entered tag a).unitAtoms cluster).length = (s.unitAtoms cluster).length := by rw [entered_unitAtoms]
    have room := h.room
    show (List.filterMap _ (updBy _ _ (s.entered tag a).uatoms)).length + n ≤ 256
    unfold State.unitAtoms at kept room
    omega

end join

/-! ## The contributions of a word -/

/-- The contribution of one lane's access. -/
def State.joinAcc (s : State) (cluster c tag w : Nat) (val : LaneAcc → Nat) (a : LaneAcc) : State :=
  match a.locs with
  | .mem p :: _ => s.join cluster c tag (p / 32) (p % 32 / w) (val a)
  | _ => s
/-- Whether an access names word `k` of an atom. -/
def LaneAcc.hits (w b k : Nat) (a : LaneAcc) : Bool :=
  match a.locs with
  | .mem p :: _ => p / 32 == b && p % 32 / w == k
  | _ => false

/-- The lanes' values join the partials of their words in order, and nothing but the atoms in U state changes. -/
theorem joinAccs {cluster c tag w : Nat} {val : LaneAcc → Nat} {atoms : List Nat} {accs : List LaneAcc} {s : State}
    (h : Room s cluster tag atoms accs.length) (ha : ∀ a ∈ accs, ∃ p ls, a.locs = .mem p :: ls ∧ p / 32 ∈ atoms) :
    (accs.foldl (fun s a => s.joinAcc cluster c tag w val a) s = { s with
      uatoms := (accs.foldl (fun s a => s.joinAcc cluster c tag w val a) s).uatoms,
      ids := (accs.foldl (fun s a => s.joinAcc cluster c tag w val a) s).ids }) ∧
    ∀ b k, (accs.foldl (fun s a => s.joinAcc cluster c tag w val a) s).partialAt cluster b k =
      (accs.filter (·.hits w b k)).foldl (fun p a => some (contribute tag (val a) p)) (s.partialAt cluster b k) := by
  induction accs generalizing s with
  | nil => exact ⟨rfl, fun _ _ => rfl⟩
  | cons a as ih =>
    obtain ⟨p, ls, hl, hp⟩ := ha a (by simp)
    have one : s.joinAcc cluster c tag w val a = s.join cluster c tag (p / 32) (p % 32 / w) (val a) := by
      rw [State.joinAcc, hl]
    obtain ⟨rest, parts⟩ := ih (h.join_room (c := c) (k := p % 32 / w) (v := val a) hp) fun b hb => ha b (by simp [hb])
    rw [List.foldl_cons, one]
    refine ⟨rest.trans (by rw [h.join_rest hp]), fun b k => ?_⟩
    have named : a.hits w b k = (p / 32 == b && p % 32 / w == k) := by rw [LaneAcc.hits, hl]
    rw [parts, h.join_partialAt hp, List.filter_cons, named]
    by_cases hit : b = p / 32 ∧ k = p % 32 / w
    · obtain ⟨rfl, rfl⟩ := hit
      simp
    · have missed : (p / 32 == b && p % 32 / w == k) = false := by
        simpa using fun e e' => hit ⟨e.symm, e'.symm⟩
      simp [hit, missed]

/-- A change of atoms in U state that leaves their partials. -/
theorem modTimes (atoms : List Nat) (t : Nat) (s : State) :
    (atoms.foldl (fun s a => s.modUatom a fun u => { u with time := max u.time t }) s = { s with
      uatoms := (atoms.foldl (fun s a => s.modUatom a fun u => { u with time := max u.time t }) s).uatoms }) ∧
    ∀ cluster b k, (atoms.foldl (fun s a => s.modUatom a fun u => { u with time := max u.time t }) s).partialAt cluster b k =
      s.partialAt cluster b k := by
  induction atoms generalizing s with
  | nil => exact ⟨rfl, fun _ _ _ => rfl⟩
  | cons a l ih =>
    obtain ⟨rest, parts⟩ := ih (s.modUatom a fun u => { u with time := max u.time t })
    rw [List.foldl_cons]
    refine ⟨rest, fun cluster b k => (parts cluster b k).trans ?_⟩
    rw [partialAt_eq, partialAt_eq, State.uatom_modUatom_at _ _ _ _ (by intro u; rfl)]
    split
    · cases s.uatom b <;> rfl
    · rfl
/-- A word's contributions noted at the homes of their atoms, as one write (11 R286). -/
def State.marked (s : State) (g : Group) (atoms : List Nat) (t : Nat) : State :=
  if atoms = [] then s else (s.stampAll atoms t).noteWriter atoms (s.writerOf g) none
def State.noted (s : State) (g : Group) (atoms : List Nat) (t : Nat) : State :=
  atoms.foldl (fun s a => s.modUatom a fun u => { u with time := max u.time t }) (s.marked g atoms t)

theorem stampAll_rest (atoms : List Nat) (t : Nat) (s : State) :
    s.stampAll atoms t = { s with stamps := (s.stampAll atoms t).stamps } := by
  unfold State.stampAll
  induction atoms generalizing s with
  | nil => rfl
  | cons a l ih =>
    rw [List.foldl_cons]
    exact ih _
theorem marked_rest (s : State) (g : Group) (atoms : List Nat) (t : Nat) : s.marked g atoms t =
    { s with stamps := (s.marked g atoms t).stamps, vars := (s.marked g atoms t).vars } := by
  unfold State.marked
  split
  · rfl
  · rw [stampAll_rest]
    rfl
theorem noted_rest (s : State) (g : Group) (atoms : List Nat) (t : Nat) : s.noted g atoms t =
    { s with uatoms := (s.noted g atoms t).uatoms, stamps := (s.noted g atoms t).stamps, vars := (s.noted g atoms t).vars } := by
  refine (modTimes atoms t (s.marked g atoms t)).1.trans ?_
  rw [State.noted, (modTimes atoms t (s.marked g atoms t)).1, marked_rest]
theorem noted_partialAt (s : State) (g : Group) (atoms : List Nat) (t cluster b k : Nat) :
    (s.noted g atoms t).partialAt cluster b k = s.partialAt cluster b k := by
  refine ((modTimes atoms t (s.marked g atoms t)).2 cluster b k).trans ?_
  rw [marked_rest]
  rfl

/-! ## UPD (R178) -/

section word
variable {s s' : State} {g : Group} {i : Issue} {gd : BitVec 4} {sc : BitVec 2} {b : BitVec 5} {o d : BitVec 7}
  {f : BitVec 1} {disp : BitVec 16} {x : BitVec 4} {ps : List (Nat × Place × List Loc)}

/-- What a word's lanes have contributed. -/
def updJoined (s : State) (g : Group) (d : BitVec 7) (tag : Nat) (accs : List LaneAcc) : State :=
  accs.foldl (fun s a => s.joinAcc (g.core / 4) g.lclock tag (tagBytes tag)
    (fun a => laneNum (g.lane a.lane) d (tagBytes tag / 4)) a) s

/-- A contribution whose bytes are free is performed as it executes. -/
theorem upd_runs
    (h : Reached s s' g i (g.contributing i gd) (regSpan d (widthRegs (tagBytes x.toNat))) sc b o f disp pathsUpd false 1
      (tagBytes x.toNat) ps)
    (hp : g.passed = none) (hw : walkCond g (x == 10#4) = none)
    (ht : ∀ l ∈ g.contributing i gd, tagAt g (regSpan d (widthRegs (tagBytes x.toNat))) l = false)
    (hf : s'.held (devBytes (atomAccs ps)) none = false) (ho : s'.reaches g.world (devBytes (atomAccs ps)) = true)
    (hm : s'.mayPerform ⟨s'.ids, g.gid, g.core, g.world, g.team, none, .store (tagBytes x.toNat) (atomAccs ps), false, 0⟩ = true) :
    ∃ t time, exec (.upd gd sc b o d f disp x) s = .next ((((updJoined s' g d x.toNat (atomAccs ps)).noted g
      (atomsOf (devBytes (atomAccs ps))) t).modGroup g.gid fun k => k.raise time).completes g (i.flag f) i) := by
  refine ⟨(updJoined s' g d x.toNat (atomAccs ps)).writeTime g.lclock (atomsOf (devBytes (atomAccs ps))), if
    atomsOf (devBytes (atomAccs ps)) = [] then 0 else
      (updJoined s' g d x.toNat (atomAccs ps)).writeTime g.lclock (atomsOf (devBytes (atomAccs ps))), ?_⟩
  show onGroup s _ = _
  rw [onGroup_at h.word]
  simp only [show s.hazard g _ _ _ = false from h.ready, h.flag, Bool.not_true, Bool.or_false, Bool.false_eq_true, if_false,
    checkedOnce, hp, hw, h.checks, firstCond, Res.unless, laneAddrs_eq, h.access, vPoison_clean 1 ht, atomAccs_eq,
    mustWait_free hf ho hm]
  rfl

/-- What contributions leave of memory, of the group and of their cluster's partials. -/
theorem upd_performed
    (h : Reached s s' g i (g.contributing i gd) (regSpan d (widthRegs (tagBytes x.toNat))) sc b o f disp pathsUpd false 1
      (tagBytes x.toNat) ps)
    (hp : g.passed = none) (hw : walkCond g (x == 10#4) = none)
    (ht : ∀ l ∈ g.contributing i gd, tagAt g (regSpan d (widthRegs (tagBytes x.toNat))) l = false)
    (hc : Coherent (atomAccs ps)) (hlen : ∀ e ∈ ps, e.2.2 ≠ [])
    (hf : s'.held (devBytes (atomAccs ps)) none = false) (ho : s'.reaches g.world (devBytes (atomAccs ps)) = true)
    (hm : s'.mayPerform ⟨s'.ids, g.gid, g.core, g.world, g.team, none, .store (tagBytes x.toNat) (atomAccs ps), false, 0⟩ = true)
    (hg : s'.group g.gid = some g)
    (hr : Room s' (g.core / 4) x.toNat ((devBytes (atomAccs ps)).map (· / 32)) (atomAccs ps).length) :
    ∃ t, exec (.upd gd sc b o d f disp x) s = .next t ∧
      Performed s' t g (i.flag f) s'.byte [] [] (fun _ _ => ⟨0#32, false⟩) ∧
      ∀ a k, t.partialAt (g.core / 4) a k = ((atomAccs ps).filter (·.hits (tagBytes x.toNat) a k)).foldl
        (fun p a => some (contribute x.toNat (laneNum (g.lane a.lane) d (tagBytes x.toNat / 4)) p))
        (s'.partialAt (g.core / 4) a k) := by
  obtain ⟨t, time, runs⟩ := upd_runs h hp hw ht hf ho hm
  have named : ∀ a ∈ atomAccs ps, ∃ p ls, a.locs = .mem p :: ls ∧ p / 32 ∈ (devBytes (atomAccs ps)).map (· / 32) := fun a ha => by
    have some_loc : a.locs ≠ [] := by
      obtain ⟨e, he, rfl⟩ := List.mem_map.mp ha
      exact hlen e he
    cases hl : a.locs with
    | nil => exact absurd hl some_loc
    | cons l ls =>
      obtain ⟨p, rfl, hp⟩ := hc a ha l (by simp [hl])
      exact ⟨p, ls, rfl, List.mem_map_of_mem (near_sub p (mem_near ha (by simp [hl]) hp))⟩
  obtain ⟨rest, parts⟩ := joinAccs (c := g.lclock) (w := tagBytes x.toNat)
    (val := fun a => laneNum (g.lane a.lane) d (tagBytes x.toNat / 4)) hr named
  have noted := noted_rest (updJoined s' g d x.toNat (atomAccs ps)) g (atomsOf (devBytes (atomAccs ps))) t
  have group : ∀ k, ((updJoined s' g d x.toNat (atomAccs ps)).noted g (atomsOf (devBytes (atomAccs ps))) t).group k = s'.group k :=
    fun k => by
      rw [noted, updJoined, rest]
      rfl
  refine ⟨_, runs, performed_completes (State.group_modGroup_own ((group _).trans hg) (by intro h; rfl))
    ((Effect.refl g [] _).raise time) (fun a => ?_) ?_ fun j hj => ?_, fun a k => ?_⟩
  · show State.byte (State.noted _ g _ t) a = _
    rw [noted, updJoined, rest]
    rfl
  · show State.ops (State.noted _ g _ t) = _
    rw [noted, updJoined, rest]
  · rw [State.group_modGroup _ _ _ _ (by intro h; rfl), if_neg hj, group]
  · rw [completes_rest]
    exact (noted_partialAt _ g _ t _ a k).trans (parts a k)

end word

end Sys2Proof.Machine

/-!
PROOFS. `UPD`, `REL`, `ACQ` and `FENCE` complete with their effects (07 R178 to R184, 11 R284).
-/
namespace Sys2Proof.Machine

theorem tagBytes_regs (tag : Nat) : tagBytes tag / 4 = widthRegs (tagBytes tag) := by
  unfold tagBytes
  split <;> rfl

/-- A number in two digits. -/
theorem foldl_two (f : Nat → Nat) (b : Nat) : (List.range 2).foldl (fun a k => a + f k * b ^ k) 0 = f 0 + b * f 1 := by
  simp [List.range_succ]
  ring
/-- The number in a lane's registers, one or two words of it. -/
theorem laneNum_tag (n : Lane) (d : BitVec 7) (tag : Nat) : laneNum n d (tagBytes tag / 4) = (n.vreg d.toNat).val.toNat +
    (if tagBytes tag = 8 then 2 ^ 32 * (n.vreg (d.toNat + 1)).val.toNat else 0) := by
  unfold tagBytes
  split
  · simp only [laneNum, pow_mul]
    exact foldl_two (fun k => (n.vreg (d.toNat + k)).val.toNat) (2 ^ 32)
  · simp [laneNum]

/-- A plain word whose lanes name device memory uses path 0x0 alone. -/
theorem Plain.reached_memory {s : State} {g : Group} {i : Issue} {ls regs : List Nat} {sc : BitVec 2} {b : BitVec 5}
    {o : BitVec 7} {f : BitVec 1} {disp : BitVec 16} {width : Nat} {loc : Nat → List Loc}
    (h : Plain s g i ls regs sc b o f disp width loc) {legal : Nat → Bool} (host : Bool) (need : Nat) (h0 : legal 0 = true)
    (hw : 0 < width) (hm : ∀ l ∈ ls, ∀ q ∈ loc l, ∃ p, q = .mem p) :
    Reached s s g i ls regs sc b o f disp legal host need width
      (ls.map fun l => (l, .va 0 (laneAddress g sc b o disp l), loc l)) := by
  have path : ∀ l ∈ ls, pathOf (laneAddress g sc b o disp l) = 0 := fun l hl => by
    refine (h.direct l hl).path.resolve_left fun h2 => ?_
    rcases (h.direct l hl).names with ⟨t, -, -, -, -, e⟩ | ⟨-, small, -⟩
    · obtain ⟨p, hp⟩ := hm l hl (.scr false t.key (laneAddress g sc b o disp l % 2 ^ 20))
        (e ▸ List.mem_map.mpr ⟨0, List.mem_range.mpr hw, rfl⟩)
      cases hp
    · rw [pathOf, Nat.div_eq_of_lt (by omega)] at h2
      cases h2
  have same : (ls.map fun l => (l, Place.va 0 (laneAddress g sc b o disp l), loc l)) = plainPlaces g ls sc b o disp loc :=
    List.map_congr_left fun l hl => by simp [directPlace, path l hl]
  rw [same]
  exact h.reached host need fun l hl => by rw [path l hl]; exact h0

/-- The lanes that name a word, by their places or by their accesses. -/
theorem hits_places (w a k : Nat) (f : Nat → Option Partial → Partial) (ps : List (Nat × Place × List Loc)) (z : Option Partial) :
    ((atomAccs ps).filter (·.hits w a k)).foldl (fun p a => some (f a.lane p)) z =
      (ps.filter fun e => LaneAcc.hits w a k ⟨e.1, 0, e.2.2, [], false⟩).foldl (fun p e => some (f e.1 p)) z := by
  rw [atomAccs, List.filter_map, List.foldl_map]
  rfl

/-- Settles O18: contributions join their cluster's partials, a release stores and names its writer, and an acquire or a fence
discards copies and raises the clock. -/
theorem updateReleaseAcquire : Obligations.UpdateReleaseAcquire := by
  unfold Obligations.UpdateReleaseAcquire
  refine ⟨?_, ?_⟩
  · intro s s' g i gd sc b o d f disp x ps ls w span accs cl val h hp hw ht hc hf ho hg hlen htag halone hroom hm
    have pos : 0 < w := by
      show 0 < tagBytes x.toNat
      unfold tagBytes
      split <;> decide
    have regs : span = regSpan d (widthRegs (tagBytes x.toNat)) := by rw [← tagBytes_regs]; rfl
    have reached : Reached s s' g i ls span sc b o f disp pathsUpd false 1 w ps := by
      rcases h with h | ⟨loc, h, rfl, rfl⟩
      · exact h
      · refine h.reached_memory false 1 rfl pos fun l hl q hq => ?_
        obtain ⟨p, hp, -⟩ := hc _ (List.mem_map_of_mem (List.mem_map_of_mem hl)) q hq
        exact ⟨p, hp⟩
    have count : accs.length = ls.length := by rw [← reached.lanes, List.length_map, List.length_map]
    rw [regs] at reached ht
    obtain ⟨t, runs, done, parts⟩ := upd_performed reached hp hw ht hc
      (fun e he e0 => by
        have := hlen e he
        rw [e0, List.length_nil] at this
        omega) hf ho hm hg
      ⟨fun a ha u hu => by
        obtain ⟨q, hq, rfl⟩ := List.mem_map.mp ha
        exact htag q hq u hu, halone, by rw [show (atomAccs ps).length = ls.length from count]; exact hroom⟩
    refine ⟨t, runs, done, fun a k => (parts a k).trans ?_⟩
    rw [hits_places _ _ _ (fun l p => contribute x.toNat (laneNum (g.lane l) d (tagBytes x.toNat / 4)) p)]
    simp only [laneNum_tag]
    exact congrArg (List.foldl _ _) (List.filter_congr fun e _ => rfl)
  · intro s s' g i gd sc b o d f disp x p z w ps ls span data out back plain rel acq
    have reached : ∀ need, (Reached s s' g i ls span sc b o f disp pathsAtom false need w ps ∨ plain) →
        Reached s s' g i ls span sc b o f disp pathsAtom false need w ps := fun need h => reached_or_plain rfl rfl h
    have release : ∀ n, exec n s = laneRel s gd sc b o d f disp x w → w / 4 = widthRegs w → rel n := by
      intro n he regs h hn hs hg hlen hp hr hm
      have span_eq : span = regSpan d (widthRegs w) := by rw [← regs]; rfl
      have stores : out = ps.map (storeAcc g d w) := by
        unfold storeAcc
        rw [← regs]
        rfl
      rw [stores] at hn hs hm ⊢
      exact laneRel_performed he (span_eq ▸ reached 1 h) hp hn hs hg hr hm
    have acquire : ∀ n, exec n s = laneAcq s gd sc b o d f disp x w → w / 4 = widthRegs w → 4 ≤ w → acq n := by
      intro n he regs hw h hn hs hg hlen hp hc hm
      have span_eq : span = regSpan d (widthRegs w) := by rw [← regs]; rfl
      obtain ⟨t, runs, done, dropped, wide⟩ := laneAcq_performed he (span_eq ▸ reached 0 h) hw hlen hp hn hs hg hc hm
      refine ⟨t, runs, ?_, dropped, wide⟩
      rw [span_eq]
      exact done
    refine ⟨fun hw => ?_, fun hw => ?_, fun h hp hh => ?_⟩
    · subst hw
      exact ⟨release _ rfl rfl, acquire _ rfl rfl (by decide)⟩
    · subst hw
      exact ⟨release _ rfl rfl, acquire _ rfl rfl (by decide)⟩
    · exact fence_performed h z p hp hh

end Sys2Proof.Machine

/-!
PROOFS. When a phase completes (08 R206), and branches (08 R193 to R195, R218).
-/
namespace Sys2Proof.Machine

/-! ## Sync words (08 R206) -/

theorem SyncWord.settle_eq (y : SyncWord) : y.settle =
    if y.acnt ≥ y.atgt ∧ y.brun ≥ y.btgt ∧ y.obs ≥ y.reg then
      { y with gen := (y.gen + 1) % 2 ^ 16, acnt := 0, brun := y.brun - y.btgt, obs := 0 } else y := by
  simp [SyncWord.settle, SyncWord.complete, and_assoc]

/-- Settles O28: each operation settles the word that it leaves. -/
theorem phaseCompletes : Obligations.PhaseCompletes := by
  unfold Obligations.PhaseCompletes
  intro y n g
  refine ⟨SyncWord.settle_eq _, SyncWord.settle_eq _, ?_⟩
  rw [SyncWord.observe, SyncWord.settle_eq]

/-! ## Lanes that leave a clause (02 R41) -/

theorem Group.issue_retire {g : Group} {i : Issue} (h : g.issue = some i) (n : Nat) : (g.retire n).issue =
    if i.lanes = 0#64 ∨ i.words.length ≤ i.idx + n then none else some { i with idx := i.idx + n } := by
  unfold Group.retire
  rw [h]
  dsimp only
  by_cases h0 : i.lanes = 0#64
  · simp [h0]
  · by_cases hl : i.words.length ≤ i.idx + n <;> simp [h0, hl]

/-- Where a lane stands when its group's word retires: the last word of a clause takes those still in it to the next. -/
theorem Group.pcv_retire {g : Group} {i : Issue} (h : g.issue = some i) {l : Nat}
    (hl : i.lanes.getLsbD l = true → g.lane l ≠ Lane.none) (n : Nat) : ((g.retire n).lane l).pcv =
      if i.lanes.getLsbD l && decide (i.words.length ≤ i.idx + n) then i.after else (g.lane l).pcv := by
  unfold Group.retire
  rw [h]
  dsimp only
  split
  · next none => simp [none, Group.lane]
  · split
    · next last =>
      let gone := g.mapLanes i.lanes.getLsbD fun _ n => { n with pcv := i.after }
      show (gone.lane l).pcv = _
      by_cases hin : i.lanes.getLsbD l = true
      · have lane : gone.lane l = _ := Group.lane_mapLanes_listed g _ _ (hl hin)
        rw [lane]
        simp [hin, last]
      · have lane : gone.lane l = _ := Group.lane_mapLanes g _ _ l fun e => absurd e hin
        rw [lane]
        simp [hin]
    · next more => simp [more, Group.lane]

/-- The lanes of a clause without some of its lanes. -/
theorem getLsbD_without (m : Mask) (ls : List Nat) (l : Nat) :
    (m &&& ~~~ laneMask ls).getLsbD l = (m.getLsbD l && !ls.contains l) := by
  by_cases h : l < 64
  · rw [BitVec.getLsbD_and, BitVec.getLsbD_not, laneMask_getLsbD ls h, decide_eq_true h, Bool.true_and]
  · simp [BitVec.getLsbD_of_ge m l (by omega)]

/-- A group whose lanes `ls` have left its clause, the rest standing where they did, when its word retires. -/
theorem Group.leaves_retire {g k : Group} {i : Issue} {ls : List Nat} {dest : Nat → DWord}
    (hk : k.issue = some { i with lanes := i.lanes &&& ~~~ laneMask ls })
    (hp : ∀ l, (g.lane l).live = true → (k.lane l).pcv = if ls.contains l then dest l else (g.lane l).pcv) :
    Leaves g (k.retire i.len) i ls dest := by
  refine ⟨Group.issue_retire hk _, fun l hl => ?_⟩
  have stays : (i.lanes &&& ~~~ laneMask ls).getLsbD l = true → k.lane l ≠ Lane.none := fun hin e => by
    rw [getLsbD_without, Bool.and_eq_true, Bool.not_eq_true'] at hin
    have pc := hp l hl
    rw [hin.2, if_neg Bool.false_ne_true, e] at pc
    rw [Lane.live, ← pc] at hl
    exact absurd hl (by decide)
  rw [Group.pcv_retire hk stays, hp l hl, getLsbD_without]
  cases ls.contains l <;> simp [Issue.after]

/-! ## Branches (08 R193 to R195, R218) -/

section word
variable {s : State} {g : Group} {i : Issue} {n : Instr} (h : AtWord s g i)
include h

/-- A word that sends lanes elsewhere with a new status branches. -/
theorem branches_of_effect {f : Group → Group} {ls : List Nat} {dest : Nat → DWord} {st : Word}
    (he : exec n s = .next (s.wordEffect g i f)) (hg : ∀ h, (f h).gid = h.gid)
    (hf : f g = { g with gstat := st }.branch ls dest) : ∃ t, exec n s = .next t ∧ Branches s t g i ls dest st := by
  let b := { g with gstat := st }.branch ls dest
  have moved : ∀ l, b.lane l = g.lane l ∨ b.lane l = { g.lane l with pcv := dest l } :=
    Group.lane_mapLanes_or g (ls.contains ·) fun l n => { n with pcv := dest l }
  refine ⟨_, he, b.retire i.len, (wordEffect_group s g g i f hg h.here).trans (by rw [hf]),
    Group.leaves_retire ?_ fun l hl => ?_, fun l => ?_, Group.retire_gstat _ _, ?_, wordEffect_elsewhere s g i f hg⟩
  · show Option.map _ g.issue = _
    rw [h.clause]
    rfl
  · have listed : g.lane l ≠ Lane.none := fun e => by rw [e] at hl; exact absurd hl (by decide)
    have lane : b.lane l = _ := Group.lane_mapLanes_listed g (ls.contains ·) (fun l n => { n with pcv := dest l }) listed
    rw [lane]
    split <;> rfl
  · have pc : (b.retire i.len).lane l = { b.lane l with pcv := ((b.retire i.len).lane l).pcv } := b.retire_lane _ l
    rw [SameButPc, pc]
    obtain e | e := moved l <;> rw [e]
  · rw [Group.retire_gstat, Group.retire_rest]
    rfl

omit h in
theorem Group.branch_nil (dest : Nat → DWord) : g.branch [] dest = g := by
  have lanes : g.mapLanes ([].contains ·) (fun l n => { n with pcv := dest l }) = g := by simp [Group.mapLanes]
  have kept : g.issue.map (fun i => { i with lanes := i.lanes &&& ~~~laneMask [] }) = g.issue := by
    have whole : ∀ m : Mask, m &&& ~~~laneMask [] = m := fun m =>
      BitVec.eq_of_getLsbD_eq fun l _ => by simp only [getLsbD_without, List.contains_nil, Bool.not_false, Bool.and_true]
    simp only [whole, Option.map_id']
  rw [Group.branch, lanes, Group.leave, kept]

/-- A word with no effect branches nowhere. -/
theorem branches_nowhere (dest : Nat → DWord) (he : exec n s = .next (s.wordDone g i)) :
    ∃ t, exec n s = .next t ∧ Branches s t g i [] dest g.gstat := by
  refine branches_of_effect h (f := fun g => g) ?_ (fun _ => rfl) (g.branch_nil dest).symm
  rw [he, State.wordEffect, State.modGroup_same _ _ _ fun _ => rfl]

theorem br_branches (o : BitVec 21) (gd : BitVec 4) : ∃ t, exec (.br o gd) s = .next t ∧
    Branches s t g i (g.contributing i gd) (fun _ => i.hdr + 4#64 * o.signExtend 64) g.gstat := by
  refine branches_of_effect h (f := fun k => k.branch (k.contributing i gd) fun _ => target i.hdr o) ?_ (fun _ => rfl) rfl
  show execBr o gd s = _
  rw [execBr, onGroup_at h, finish_done _ _ _ _ rfl]
  rfl

theorem bru_strict (o : BitVec 22) (n : BitVec 1) (c : BitVec 2) (hs : g.strict = true)
    (hu : g.ready.all i.lanes.getLsbD = false) :
    exec (.bru o n c) s = .next (s.raise g.gid i.len { cause := uniformity }) := by
  show execBru o n c s = _
  rw [execBru, onGroup_at h]
  simp only [hs, hu, Bool.not_false, Bool.and_self, if_true]
  rw [finish_trap _ _ _ (show uniformity ≠ 0 by decide)]

/-- `BRU` sends the clause where its C predicate says so, and notes lanes that wait elsewhere. -/
theorem bru_branches (o : BitVec 22) (n : BitVec 1) (c : BitVec 2)
    (hs : (!g.ready.all i.lanes.getLsbD && g.strict) = false) : ∃ t, exec (.bru o n c) s = .next t ∧
      Branches s t g i (if xor (g.cregs.getLsbD c.toNat) (n == 1#1) = true then maskLanes i.lanes else [])
        (fun _ => i.hdr + 4#64 * o.signExtend 64) (g.stick unifBit !g.ready.all i.lanes.getLsbD).gstat := by
  let f := fun k : Group =>
    let k := k.stick unifBit !g.ready.all i.lanes.getLsbD
    if xor (k.creg c.toNat) (n == 1#1) then k.branch (maskLanes i.lanes) fun _ => target i.hdr o else k
  refine branches_of_effect h (f := f) ?_ (fun k => ?_) ?_
  · show execBru o n c s = _
    rw [execBru, onGroup_at h]
    simp only [hs, Bool.false_eq_true, if_false]
    rw [finish_done _ _ _ _ rfl]
    rfl
  · dsimp only [f]
    split <;> rfl
  · show (if xor (g.creg c.toNat) (n == 1#1) then _ else _) = _
    rw [Group.creg]
    by_cases hc : xor (g.cregs.getLsbD c.toNat) (n == 1#1) = true
    · rw [if_pos hc, if_pos hc]
      rfl
    · rw [if_neg hc, if_neg hc]
      exact (Group.branch_nil _).symm

theorem brx_branches (a : BitVec 7) (gd : BitVec 4) (hr : Ready s g (g.contributing i gd) [a.toNat, a.toNat + 1] [])
    (hc : targetChecks g (g.contributing i gd) a = none) : ∃ t, exec (.brx a gd) s = .next t ∧
      Branches s t g i (g.contributing i gd) (fun l => pairOf g a l) g.gstat := by
  refine branches_of_effect h (f := fun k => k.branch (g.contributing i gd) (laneTarget k a)) ?_ (fun _ => rfl) rfl
  show execBrx a gd s = _
  rw [execBrx, onGroup_at h]
  simp only [show s.hazard g (g.contributing i gd) [a.toNat, a.toNat + 1] [] = false from hr, hc, Bool.false_eq_true, if_false,
    Res.unless]
  rw [finish_done _ _ _ _ rfl]
  rfl

end word

/-- Settles O22: each word by the group that it leaves. -/
theorem branching : Obligations.Branching := by
  unfold Obligations.Branching
  intro s g i gd o o' n c a h ls uniform jump
  have all : g.ready.all i.lanes.getLsbD = true ↔ uniform := List.all_eq_true
  refine ⟨br_branches h o gd, fun strict mixed => bru_strict h o' n c strict ?_, fun plain st even odd => ?_,
    brx_branches h a gd, branches_nowhere h _ ?_, branches_nowhere h _ ?_⟩
  · exact Bool.eq_false_iff.mpr fun e => mixed (all.mp e)
  · have status : (g.stick unifBit !g.ready.all i.lanes.getLsbD).gstat = st := by
      by_cases hu : uniform
      · rw [even hu, all.mpr hu]
        rfl
      · rw [odd hu, Bool.eq_false_iff.mpr fun e => hu (all.mp e)]
        rfl
    rw [← status]
    refine bru_branches h o' n c ?_
    obtain loose | even := plain
    · rw [Group.strict, loose, Bool.and_false]
    · rw [all.mpr even]
      rfl
  · show execNop gd s = _
    rw [execNop, onGroup_at h, finish_done _ _ _ _ rfl]
  · show execYield s = _
    rw [execYield, onGroup_at h, finish_done _ _ _ _ rfl]

end Sys2Proof.Machine

/-!
PROOFS. `CALL` and `CALLX` (08 R196).
-/
namespace Sys2Proof.Machine

/-! ## Waiting instructions (08 R190) -/

/-- A group that waits no longer. -/
def Group.proceeds (g : Group) : Group := { g with since := none }

section waiting
variable {s t : State} {g : Group} {i : Issue} (h : AtWord s g i) {f : Group → Issue → Res}
include h

theorem onWaiting_wait (hf : f g i = .wait t) : onWaiting s f = .next (t.noteWait g.gid) := by
  rw [onWaiting, onGroup_at h, hf]
  rfl
theorem onWaiting_done (hf : f g i = .done t) :
    onWaiting s f = .next ((t.modGroup g.gid Group.proceeds).wordDone g i) := by
  rw [onWaiting, onGroup_at h, hf]
  rfl
theorem onWaiting_trap {c : Cond} (hc : c.cause ≠ 0) (hf : f g i = .trap t c) :
    onWaiting s f = .next (t.raise g.gid i.len c) := by
  rw [onWaiting, onGroup_at h, hf]
  exact congrArg _ (finish_trap g i t hc)

end waiting

/-! ## The sets of lanes with one target -/

section sets
variable (t : Nat → DWord)

/-- The targets of lanes, each once, in the order of its lowest lane. -/
def targetsOf (k : Nat) (ls : List Nat) : List DWord := (targetSets t k ls).map Prod.fst

/-- A set holds the lanes with its target, one of them at least. -/
theorem mem_targetSets (k : Nat) : ∀ (ls : List Nat), ∀ e ∈ targetSets t k ls,
    e.2 = (ls.filter fun l => t l == e.1) ∧ ∃ l ∈ ls, t l = e.1 := by
  induction k with
  | zero => exact fun ls e he => absurd he (by simp [targetSets])
  | succ k ih =>
    intro ls e he
    cases ls with
    | nil => simp [targetSets] at he
    | cons l ls =>
      rw [targetSets, List.mem_cons] at he
      obtain rfl | he := he
      · exact ⟨rfl, l, List.mem_cons_self, rfl⟩
      · obtain ⟨set, m, hm, hd⟩ := ih _ e he
        obtain ⟨hm, hne⟩ := List.mem_filter.1 hm
        rw [bne_iff_ne, hd] at hne
        refine ⟨?_, m, List.mem_cons_of_mem _ hm, hd⟩
        rw [set, List.filter_filter, List.filter_cons_of_neg (by simpa using Ne.symm hne)]
        refine List.filter_congr fun x _ => ?_
        by_cases hx : t x = e.1
        · simp [hx, hne]
        · simp [hx]

theorem targetSets_eq (k : Nat) (ls : List Nat) :
    targetSets t k ls = (targetsOf t k ls).map fun d => (d, ls.filter fun l => t l == d) := by
  rw [targetsOf, List.map_map]
  refine (List.map_id _).symm.trans (List.map_congr_left fun e he => ?_)
  exact Prod.ext rfl (mem_targetSets t k ls e he).1

theorem targetsOf_nodup (k : Nat) (ls : List Nat) : (targetsOf t k ls).Nodup := by
  induction k generalizing ls with
  | zero => simp [targetsOf, targetSets]
  | succ k ih =>
    cases ls with
    | nil => simp [targetsOf, targetSets]
    | cons l ls =>
      refine List.nodup_cons.2 ⟨fun he => ?_, ih _⟩
      obtain ⟨e, he, hd⟩ := List.mem_map.1 he
      obtain ⟨-, m, hm, hm'⟩ := mem_targetSets t k _ e he
      have hne := (List.mem_filter.1 hm).2
      rw [hm', hd] at hne
      simp at hne

theorem mem_targetsOf {k : Nat} {ls : List Nat} (h : ls.length ≤ k) (d : DWord) :
    d ∈ targetsOf t k ls ↔ ∃ l ∈ ls, t l = d := by
  refine ⟨fun hd => ?_, ?_⟩
  · obtain ⟨e, he, rfl⟩ := List.mem_map.1 hd
    exact (mem_targetSets t k ls e he).2
  · rintro ⟨m, hm, rfl⟩
    induction k generalizing ls with
    | zero => simp [List.length_eq_zero_iff.1 (Nat.le_zero.1 h)] at hm
    | succ k ih =>
      cases ls with
      | nil => simp at hm
      | cons l ls =>
        show t m ∈ t l :: targetsOf t k (ls.filter fun x => t x != t l)
        by_cases he : t m = t l
        · simp [he]
        · refine List.mem_cons_of_mem _ (ih ((List.length_filter_le _ _).trans (Nat.le_of_succ_le_succ h)) ?_)
          have : m ∈ ls := (List.mem_cons.1 hm).resolve_left fun e => he (by rw [e])
          simp [this, he]

/-- There are as many sets as targets. -/
theorem targetSets_length {k : Nat} {ls : List Nat} (h : ls.length ≤ k) :
    (targetSets t k ls).length = (ls.map t).dedup.length := by
  have perm : (targetsOf t k ls).Perm (ls.map t).dedup :=
    (List.perm_ext_iff_of_nodup (targetsOf_nodup t k ls) (List.nodup_dedup _)).2 fun d => by
      rw [mem_targetsOf t h, List.mem_dedup, List.mem_map]
  rw [← perm.length_eq, targetsOf, List.length_map]

end sets

/-! ## The frames of a call (08 R196) -/

/-- A group changed twice. -/
theorem State.modGroup_modGroup (s : State) (gid : Nat) (f k : Group → Group) (hf : ∀ g, (f g).gid = g.gid) :
    (s.modGroup gid f).modGroup gid k = s.modGroup gid fun g => k (f g) := by
  unfold State.modGroup
  dsimp only
  congr 1
  induction s.groups with
  | nil => rfl
  | cons g l ih => by_cases h : g.gid = gid <;> simp [updBy, h, hf, ih]

/-- A frame opened for lanes, which go on at `x` (08 R196). -/
def Group.openFrame (d : Nat) (ret x : DWord) (ls : List Nat) (fid : Nat) (g : Group) : Group :=
  { g.mapLanes (ls.contains ·) (fun _ n => { n with pcv := x, chain := ⟨fid, []⟩ :: n.chain }) with
    frames := g.frames ++ [⟨fid, d, ret, none, false, fid, [], []⟩] }

section frames
variable (d : Nat) (ret : DWord) (t : Nat → DWord) (ls : List Nat)

/-- Frames opened one after another from number `fid` on, one for each target, for the lanes that have it. -/
def Group.openFrames : Group → Nat → List DWord → Group
  | g, _, [] => g
  | g, fid, x :: xs => Group.openFrames (g.openFrame d ret x (ls.filter fun l => t l == x) fid) (fid + 1) xs

theorem Group.openFrames_rest (g : Group) (fid : Nat) (xs : List DWord) : g.openFrames d ret t ls fid xs =
    { g with lanes := (g.openFrames d ret t ls fid xs).lanes, frames := (g.openFrames d ret t ls fid xs).frames } := by
  induction xs generalizing g fid with
  | nil => rfl
  | cons x xs ih => exact ih _ _

theorem Group.openFrames_gid (g : Group) (fid : Nat) (xs : List DWord) : (g.openFrames d ret t ls fid xs).gid = g.gid := by
  rw [Group.openFrames_rest]

theorem callFrames_cons (s : State) (gid : Nat) (x : DWord) (ms : List Nat) (r : List (DWord × List Nat)) :
    s.callFrames gid d ret ((x, ms) :: r) =
      (s.newId.modGroup gid (Group.openFrame d ret x ms s.ids)).callFrames gid d ret r := rfl

theorem callFrames_eq (gid : Nat) (s : State) (xs : List DWord) :
    s.callFrames gid d ret (xs.map fun x => (x, ls.filter fun l => t l == x)) =
      State.modGroup { s with ids := s.ids + xs.length } gid fun g => g.openFrames d ret t ls s.ids xs := by
  induction xs generalizing s with
  | nil => exact (State.modGroup_same _ _ _ fun _ => rfl).symm
  | cons x xs ih =>
    have two := State.modGroup_modGroup { s with ids := s.ids + (xs.length + 1) } gid
      (Group.openFrame d ret x (ls.filter fun l => t l == x) s.ids)
      (fun g => g.openFrames d ret t ls (s.ids + 1) xs) fun _ => rfl
    rw [List.map_cons, callFrames_cons, ih, State.modGroup_ids, State.newId, Nat.add_assoc, Nat.add_comm 1]
    exact two

theorem Group.openFrames_frames (g : Group) (fid : Nat) (xs : List DWord) : (g.openFrames d ret t ls fid xs).frames =
    g.frames ++ (List.range xs.length).map fun k => ⟨fid + k, d, ret, none, false, fid + k, [], []⟩ := by
  induction xs generalizing g fid with
  | nil => simp [Group.openFrames]
  | cons x xs ih =>
    rw [Group.openFrames, ih]
    simp [Group.openFrame, List.range_succ_eq_map, Function.comp_def, Nat.add_assoc, Nat.add_comm 1]

/-- A lane that does not call stands as it did. -/
theorem Group.lane_openFrame_other {l : Nat} (hl : l ∉ ls) (g : Group) (fid : Nat) (x : DWord) :
    (g.openFrame d ret x ls fid).lane l = g.lane l := by
  have out : ls.contains l ≠ true := by simpa using hl
  have lane := Group.lane_mapLanes g (ls.contains ·) (fun _ n => { n with pcv := x, chain := ⟨fid, []⟩ :: n.chain }) l
    fun e => absurd e out
  rwa [if_neg out] at lane

theorem Group.lane_openFrames_other {l : Nat} (g : Group) (fid : Nat) {xs : List DWord} (hl : l ∉ ls ∨ t l ∉ xs) :
    (g.openFrames d ret t ls fid xs).lane l = g.lane l := by
  induction xs generalizing g fid with
  | nil => rfl
  | cons x xs ih =>
    rw [Group.openFrames, ih _ _ (hl.imp_right fun h e => h (List.mem_cons_of_mem _ e)), Group.lane_openFrame_other]
    rw [List.mem_filter, beq_iff_eq]
    rintro ⟨hm, rfl⟩
    exact hl.elim (· hm) (· List.mem_cons_self)

/-- A calling lane goes to its target, in the frame of that target. -/
theorem Group.lane_openFrames {g : Group} {l : Nat} (hl : l ∈ ls) (hg : g.lane l ≠ Lane.none) (fid : Nat)
    {xs : List DWord} (hn : xs.Nodup) (hx : t l ∈ xs) : (g.openFrames d ret t ls fid xs).lane l =
      { g.lane l with pcv := t l, chain := ⟨fid + xs.idxOf (t l), []⟩ :: (g.lane l).chain } := by
  induction xs generalizing g fid with
  | nil => simp at hx
  | cons x xs ih =>
    obtain ⟨hn, hns⟩ := List.nodup_cons.1 hn
    rw [Group.openFrames]
    by_cases here : t l = x
    · subst here
      rw [Group.lane_openFrames_other _ _ _ _ _ _ (.inr hn), List.idxOf_cons_self]
      have lane := Group.lane_mapLanes_listed g ((ls.filter fun m => t m == t l).contains ·)
        (fun _ n => { n with pcv := t l, chain := ⟨fid, []⟩ :: n.chain }) hg
      rwa [if_pos (by simp [hl])] at lane
    · have same := Group.lane_openFrame_other d ret (ls.filter fun l => t l == x)
        (fun e => here (by simpa using (List.mem_filter.1 e).2)) g fid x
      rw [ih (by rwa [same]) _ hns ((List.mem_cons.1 hx).resolve_left here), same, List.idxOf_cons_ne _ (Ne.symm here)]
      simp only [Nat.add_assoc, Nat.add_comm 1]

end frames

/-! ## CALL and CALLX -/

theorem contributing_length (g : Group) (i : Issue) (gd : BitVec 4) : (g.contributing i gd).length ≤ 64 :=
  ((List.length_filter_le _ _).trans (List.length_filter_le _ _)).trans (List.length_range).le

section call
variable {s : State} {g : Group} {i : Issue} {n : Instr} {ls : List Nat} {d : Nat} {dest : Nat → DWord}
variable (h : AtWord s g i) (hl : ls.length ≤ 64)

/-- The lanes of a call have entered their frames. -/
def Group.entered (ls : List Nat) (g : Group) : Group := { g with request := none }.leave ls

/-- The group of a call whose frames are there. -/
def Group.called (g : Group) (i : Issue) (ls : List Nat) (d : Nat) (dest : Nat → DWord) (fid : Nat) : Group :=
  ((g.openFrames d i.after dest ls fid (targetsOf dest 64 ls)).entered ls).proceeds

include hl in
theorem Group.called_lane {l : Nat} (hm : l ∈ ls) (hg : g.lane l ≠ Lane.none) (fid : Nat) :
    (g.called i ls d dest fid).lane l = { g.lane l with
      pcv := dest l, chain := ⟨fid + (targetsOf dest 64 ls).idxOf (dest l), []⟩ :: (g.lane l).chain } :=
  Group.lane_openFrames d i.after dest ls hm hg fid (targetsOf_nodup dest 64 ls)
    ((mem_targetsOf dest hl _).2 ⟨l, hm, rfl⟩)

theorem Group.called_other {l : Nat} (hm : l ∉ ls) (fid : Nat) : (g.called i ls d dest fid).lane l = g.lane l :=
  Group.lane_openFrames_other d i.after dest ls g fid (.inl hm)

include h hl in
theorem Group.called_leaves (fid : Nat) : Leaves g ((g.called i ls d dest fid).retire i.len) i ls dest := by
  refine Group.leaves_retire ?_ fun l live => ?_
  · show Option.map _ (g.openFrames _ _ _ _ _ _).issue = _
    rw [Group.openFrames_rest]
    dsimp only
    rw [h.clause]
    rfl
  · have listed : g.lane l ≠ Lane.none := fun e => by rw [e] at live; exact absurd live (by decide)
    by_cases hm : l ∈ ls
    · rw [Group.called_lane hl hm listed, if_pos (by simpa using hm)]
    · rw [Group.called_other hm, if_neg (by simpa using hm)]

include hl in
/-- A calling lane has a frame of the declared count, zero-filled, that the lanes with its target share. -/
theorem Group.called_frame {l : Nat} (hm : l ∈ ls) (hg : g.lane l ≠ Lane.none) (fid : Nat) :
    ∃ f ∈ (g.called i ls d dest fid).frames, ((g.called i ls d dest fid).lane l).chain = ⟨f.fid, []⟩ :: (g.lane l).chain ∧
      f.count = d ∧ f.ret = i.after ∧ f.trap = none ∧ f.spilled = false ∧
      ∀ m ∈ ls, g.lane m ≠ Lane.none →
        (((g.called i ls d dest fid).lane m).fid = ((g.called i ls d dest fid).lane l).fid ↔ dest m = dest l) := by
  have known : ∀ m ∈ ls, dest m ∈ targetsOf dest 64 ls := fun m hm => (mem_targetsOf dest hl _).2 ⟨m, hm, rfl⟩
  let k := fid + (targetsOf dest 64 ls).idxOf (dest l)
  refine ⟨⟨k, d, i.after, none, false, k, [], []⟩, ?_, ?_, rfl, rfl, rfl, rfl, fun m hm' hg' => ?_⟩
  · show _ ∈ (g.openFrames d i.after dest ls fid _).frames
    rw [Group.openFrames_frames]
    exact List.mem_append_right _ (List.mem_map.2 ⟨_, List.mem_range.2 (List.idxOf_lt_length_of_mem (known l hm)), rfl⟩)
  · rw [Group.called_lane hl hm hg]
  · rw [Group.called_lane hl hm hg, Group.called_lane hl hm' hg']
    exact (Nat.add_left_cancel_iff).trans (List.idxOf_inj (known m hm'))

theorem Group.called_frames (fid : Nat) : ∀ f ∈ g.frames, f ∈ (g.called i ls d dest fid).frames := fun f hf => by
  show f ∈ (g.openFrames d i.after dest ls fid _).frames
  rw [Group.openFrames_frames]
  exact List.mem_append_left _ hf

/-- Where a call whose frames are there leads. -/
theorem call_takes : (((s.callFrames g.gid d i.after (targetSets dest 64 ls)).modGroup g.gid
      (Group.entered ls)).modGroup g.gid Group.proceeds).wordDone g i =
    State.wordEffect { s with ids := s.ids + (targetsOf dest 64 ls).length } g i fun k => k.called i ls d dest s.ids := by
  have frames := callFrames_eq d i.after dest ls g.gid s (targetsOf dest 64 ls)
  rw [← targetSets_eq] at frames
  rw [State.modGroup_modGroup _ _ (Group.entered ls) _ fun _ => rfl, frames,
    State.modGroup_modGroup _ _ _ _ fun k => k.openFrames_gid ..]
  rfl

end call

/-- How CALL and CALLX call. -/
def Calling (s : State) (g : Group) (i : Issue) (n : Instr) (ls : List Nat) (d : Nat) (dest : Nat → DWord) : Prop :=
  ∃ f, exec n s = onWaiting s f ∧ f g i = s.call g i ls d dest

section calling
variable {s : State} {g : Group} {i : Issue} {n : Instr} {ls : List Nat} {d : Nat} {dest : Nat → DWord}

theorem call_calling (dm : BitVec 7) (gd : BitVec 4) (o : BitVec 32) (hl : g.contributing i gd ≠ []) :
    Calling s g i (.call dm gd o) (g.contributing i gd) (dm.toNat + 1) fun _ => i.hdr + 4#64 * o.signExtend 64 :=
  ⟨_, rfl, if_neg hl⟩

theorem callx_calling (dm a : BitVec 7) (gd : BitVec 4) (hl : g.contributing i gd ≠ [])
    (hr : Ready s g (g.contributing i gd) [a.toNat, a.toNat + 1] []) (hc : targetChecks g (g.contributing i gd) a = none) :
    Calling s g i (.callx dm a gd) (g.contributing i gd) (dm.toNat + 1) fun l => pairOf g a l := by
  refine ⟨_, rfl, ?_⟩
  dsimp only
  rw [if_neg hl, if_neg (by simp only [show _ = false from hr, Bool.false_eq_true, not_false_eq_true]), hc]
  rfl

variable (h : AtWord s g i) (hc : Calling s g i n ls d dest) (hl : ls.length ≤ 64)

/-- The granules that a call needs (08 R196). -/
def callNeed (ls : List Nat) (d : Nat) (dest : Nat → DWord) : Nat := granules d * (targetSets dest 64 ls).length
/-- The calling lanes with no room for another frame. -/
def deepLanes (g : Group) (ls : List Nat) : List Nat := ls.filter fun l => decide ((g.lane l).depth = 255)

include h hc

theorem call_deep (hd : deepLanes g ls ≠ []) : exec n s = .next (s.raise g.gid i.len
    { cause := frameDepth, mask := laneMask (deepLanes g ls), index := d, aux := callNeed ls d dest }) := by
  obtain ⟨f, he, hf⟩ := hc
  rw [he]
  exact onWaiting_trap h (show frameDepth ≠ 0 by decide) (hf.trans (if_pos hd))

theorem call_limit (hd : deepLanes g ls = []) (hu : s.usable (s.poolOf g.core g.grid) < callNeed ls d dest + g.held') :
    exec n s = .next (s.raise g.gid i.len { cause := frameLimit, index := d, aux := callNeed ls d dest }) := by
  obtain ⟨f, he, hf⟩ := hc
  rw [he]
  exact onWaiting_trap h (show frameLimit ≠ 0 by decide) (hf.trans ((if_neg (not_not.2 hd)).trans (if_pos hu)))

omit h hc in
/-- A call within the limits, while the group has no request. -/
theorem call_within (hd : deepLanes g ls = []) (hu : callNeed ls d dest + g.held' ≤ s.usable (s.poolOf g.core g.grid))
    (hq : g.request = none) : s.call g i ls d dest =
      if s.canServe (s.poolOf g.core g.grid) s.clock g.slot (callNeed ls d dest) then
        .done ((s.callFrames g.gid d i.after (targetSets dest 64 ls)).modGroup g.gid (Group.entered ls))
      else .wait (s.modGroup g.gid fun g =>
        { g with request := some ⟨s.clock, callNeed ls d dest, .call d, false⟩ }) := by
  refine (if_neg (not_not.2 hd)).trans ((if_neg (not_lt.2 hu)).trans ?_)
  rw [hq]
  rfl

/-- A call whose frames cannot be had at once asks for them. -/
theorem call_asks (hd : deepLanes g ls = []) (hu : callNeed ls d dest + g.held' ≤ s.usable (s.poolOf g.core g.grid))
    (hq : g.request = none) (hn : s.canServe (s.poolOf g.core g.grid) s.clock g.slot (callNeed ls d dest) = false) :
    ∃ t, exec n s = .next t ∧ t.group g.gid =
      some ({ g with request := some ⟨s.clock, callNeed ls d dest, .call d, false⟩ }.stays s) := by
  obtain ⟨f, he, hf⟩ := hc
  rw [call_within hd hu hq, hn] at hf
  let asks := fun k : Group => { k with request := some ⟨s.clock, callNeed ls d dest, .call d, false⟩ }
  have asked : (s.modGroup g.gid asks).group g.gid = some (asks g) := State.group_modGroup_own h.here fun _ => rfl
  exact ⟨_, he.trans (onWaiting_wait h hf), State.group_modGroup_own (g := asks g) asked fun _ => rfl⟩

include hl in
/-- A call whose frames are there takes them (08 R196). -/
theorem call_goes (hd : deepLanes g ls = []) (hu : callNeed ls d dest + g.held' ≤ s.usable (s.poolOf g.core g.grid))
    (hq : g.request = none) (hs : s.canServe (s.poolOf g.core g.grid) s.clock g.slot (callNeed ls d dest) = true) :
    ∃ t k, exec n s = .next t ∧ t.group g.gid = some k ∧ Leaves g k i ls dest ∧ (∀ b, t.byte b = s.byte b) ∧
      (∀ j, j ≠ g.gid → t.group j = s.group j) ∧
      (∀ l, ls.contains l = true → (g.lane l).live = true → ∃ f ∈ k.frames, (k.lane l).chain = ⟨f.fid, []⟩ :: (g.lane l).chain ∧
        f.count = d ∧ f.ret = i.after ∧ f.trap = none ∧ f.spilled = false ∧
        ∀ m, ls.contains m = true → (g.lane m).live = true → ((k.lane m).fid = (k.lane l).fid ↔ dest m = dest l)) ∧
      (∀ l, ls.contains l = false → SameButPc (g.lane l) (k.lane l)) ∧ (∀ f ∈ g.frames, f ∈ k.frames) := by
  obtain ⟨f, he, hf⟩ := hc
  rw [call_within hd hu hq, hs] at hf
  let u : State := { s with ids := s.ids + (targetsOf dest 64 ls).length }
  let enter := fun k : Group => k.called i ls d dest s.ids
  have number : ∀ k, (enter k).gid = k.gid := fun k => k.openFrames_gid ..
  have elsewhere := wordEffect_elsewhere u g i enter number
  have listed : ∀ l, (g.lane l).live = true → g.lane l ≠ Lane.none := fun l hl e => by
    rw [e] at hl
    exact absurd hl (by decide)
  have pc := fun l => (enter g).retire_lane i.len l
  have fid : ∀ l, (((enter g).retire i.len).lane l).fid = ((enter g).lane l).fid := fun l => by rw [pc l]; rfl
  refine ⟨u.wordEffect g i enter, (enter g).retire i.len, ?_, wordEffect_group u g g i enter number h.here,
    Group.called_leaves h hl _, elsewhere.bytes, elsewhere.others, fun l hm live => ?_, fun l hm => ?_, ?_⟩
  · rw [he, onWaiting_done h hf, call_takes]
  · obtain ⟨f, hfr, hch, hcount, hret, htrap, hsp, hshare⟩ :=
      Group.called_frame hl (List.contains_iff_mem.1 hm) (listed l live) s.ids
    refine ⟨f, by rwa [Group.retire_frames], by rw [pc l]; exact hch, hcount, hret, htrap, hsp, fun m hm live => ?_⟩
    rw [fid, fid]
    exact hshare m (List.contains_iff_mem.1 hm) (listed m live)
  · rw [SameButPc, pc l, Group.called_other fun hm' => by simp [hm'] at hm]
  · rw [Group.retire_frames]
    exact Group.called_frames s.ids

end calling

/-- Settles O23: CALL and CALLX are calls, and a call takes its frames, asks for them, or traps. -/
theorem calls : Obligations.Calls := by
  unfold Obligations.Calls
  intro s g i dm a gd o n dest h ls form some d need p deep
  have length : ls.length ≤ 64 := contributing_length g i gd
  have calling : Calling s g i n ls d dest := by
    obtain ⟨rfl, rfl⟩ | ⟨rfl, rfl, ready, ok⟩ := form
    · exact call_calling dm gd o some
    · exact callx_calling dm a gd some ready ok
  have needs : need = callNeed ls d dest := by rw [callNeed, targetSets_length dest length, granules]
  clear_value need
  subst needs
  exact ⟨call_deep h calling, call_limit h calling, call_goes h calling length, call_asks h calling⟩

end Sys2Proof.Machine

/-!
PROOFS. `RET`, `UNWIND` and `EXIT` (08 R197 to R199).
-/
namespace Sys2Proof.Machine

/-! ## Frames released and wanted -/

theorem State.releaseFrames_eq (s : State) (gid : Nat) : ∃ f : Group → Group, s.releaseFrames gid = s.modGroup gid f ∧
    ∀ g, f g = { g with frames := (f g).frames, restores := (f g).restores, faults := (f g).faults, gstat := (f g).gstat } :=
  ⟨_, rfl, fun _ => rfl⟩

theorem State.wantFrames_eq (s : State) (gid : Nat) : ∃ f : Group → Group, s.wantFrames gid = s.modGroup gid f ∧
    ∀ g, f g = { g with restores := (f g).restores } :=
  ⟨_, rfl, fun _ => rfl⟩

/-- A group but for what the release of frames and the requests for spilled ones change. -/
def FramesOnly (g k : Group) : Prop :=
  k = { g with frames := k.frames, restores := k.restores, faults := k.faults, gstat := k.gstat }

/-- Lanes that have left their frames: frames without members go, and spilled ones are asked for. -/
theorem framesReleased {s : State} {g : Group} {f : Group → Group} (hg : s.group g.gid = some g) (hf : ∀ k, (f k).gid = k.gid) :
    ∃ k, FramesOnly (f g) k ∧ (((s.modGroup g.gid f).releaseFrames g.gid).wantFrames g.gid).group g.gid = some k ∧
      ∀ p, (((s.modGroup g.gid f).releaseFrames g.gid).wantFrames g.gid).byte p = s.byte p := by
  obtain ⟨r, hr, hr'⟩ := (s.modGroup g.gid f).releaseFrames_eq g.gid
  obtain ⟨w, hw, hw'⟩ := ((s.modGroup g.gid f).releaseFrames g.gid).wantFrames_eq g.gid
  refine ⟨w (r (f g)), ?_, ?_, ?_⟩
  · rw [FramesOnly, hw', hr']
  · rw [hw, hr]
    have one : (s.modGroup g.gid f).group g.gid = some (f g) := State.group_modGroup_own hg hf
    have two := State.group_modGroup_own one (f := r) fun k => by rw [hr']
    exact State.group_modGroup_own two fun k => by rw [hw']
  · rw [hw, hr]
    exact fun _ => rfl

/-- The lanes of a group that leave its clause. -/
theorem Leaves.of_lanes {g k : Group} {i : Issue} (hi : g.issue = some i) {ls : List Nat} {dest : Nat → DWord}
    (f : Nat → Lane → Lane) (hk : k.issue = (g.leave ls).issue) (hl : k.lanes = (g.mapLanes (ls.contains ·) f).lanes)
    (hf : ∀ l, ls.contains l = true → (g.lane l).live = true → (f l (g.lane l)).pcv = dest l) :
    Leaves g (k.retire i.len) i ls dest := by
  refine Group.leaves_retire (hk.trans ?_) fun l live => ?_
  · show Option.map _ g.issue = _
    rw [hi]
    rfl
  · have listed : g.lane l ≠ Lane.none := fun e => by rw [e] at live; exact absurd live (by decide)
    have lane : k.lane l = _ := (congrArg (mapGet Lane.none · l) hl).trans
      (Group.lane_mapLanes_listed g (ls.contains ·) f listed)
    rw [lane]
    by_cases hm : ls.contains l = true
    · rw [if_pos hm, if_pos hm, hf l hm live]
    · rw [if_neg hm, if_neg hm]

/-- The frames of a lane that a change picks, where the change gives a lane without a thread none. -/
theorem Group.chain_mapLanes {g : Group} {p : Nat → Bool} {f : Nat → Lane → Lane} {l : Nat} (hp : p l = true)
    (hf : (f l Lane.none).chain = []) : ((g.mapLanes p f).lane l).chain = (f l (g.lane l)).chain := by
  by_cases hg : g.lane l = Lane.none
  · obtain e | e := g.lane_mapLanes_or p f l <;> rw [e, hg]
    exact hf.symm
  · rw [Group.lane_mapLanes_listed g p f hg, if_pos hp]

/-- A word that takes lanes `ls` out of frames as `f` says and sends them to `dest`. -/
structure Drops (s : State) (g : Group) (i : Issue) (n : Instr) (ls : List Nat) (f : Nat → Lane → Lane) : Prop where
  goes : ∃ F : Group → Group,
    exec n s = .next ((((s.modGroup g.gid F).releaseFrames g.gid).wantFrames g.gid).wordDone g i) ∧
    (∀ k, (F k).gid = k.gid) ∧ (F g).issue = (g.leave ls).issue ∧ (F g).lanes = (g.mapLanes (ls.contains ·) f).lanes

theorem Drops.drops {s : State} {g : Group} {i : Issue} {n : Instr} {ls : List Nat} {f : Nat → Lane → Lane} {dest : Nat → DWord}
    (h : AtWord s g i) (hd : Drops s g i n ls f) (hf : ∀ l, ls.contains l = true → (g.lane l).live = true →
      (f l (g.lane l)).pcv = dest l) (hn : ∀ l, (f l Lane.none).chain = []) :
    ∃ t k, exec n s = .next t ∧ t.group g.gid = some k ∧ Leaves g k i ls dest ∧
      (∀ l, ls.contains l = true → (k.lane l).chain = (f l (g.lane l)).chain) ∧
      (∀ l, ls.contains l = false → SameButPc (g.lane l) (k.lane l)) ∧ ∀ p, t.byte p = s.byte p := by
  obtain ⟨F, he, hF, hi, hl⟩ := hd.goes
  obtain ⟨k, hk, hg, hb⟩ := framesReleased h.here hF
  have lanes : k.lanes = (g.mapLanes (ls.contains ·) f).lanes := by rw [hk]; exact hl
  have lane : ∀ l, k.lane l = (g.mapLanes (ls.contains ·) f).lane l := fun l => congrArg (mapGet Lane.none · l) lanes
  have pc := fun l => k.retire_lane i.len l
  refine ⟨_, k.retire i.len, he, State.group_wordDone i hg,
    Leaves.of_lanes h.clause f (by rw [hk]; exact hi) lanes hf, fun l hm => ?_, fun l hm => ?_,
    fun p => ((elsewhere_wordDone _ g i).bytes p).trans (hb p)⟩
  · rw [pc l]
    exact (congrArg Lane.chain (lane l)).trans (Group.chain_mapLanes hm (hn l))
  · rw [SameButPc, pc l, lane l, Group.lane_mapLanes _ _ _ _ fun e => absurd (hm.symm.trans e) (by decide),
      if_neg (by rw [hm]; decide)]

/-! ## RET (08 R197) -/

/-- The lanes that have no frame to return from. -/
def flatLanes (g : Group) (ls : List Nat) : List Nat := ls.filter fun l => decide ((g.lane l).depth = 0)

/-- A group whose lanes have returned, the traps of the records `seqs` resumed. -/
def Group.returned (ls : List Nat) (seqs : List (BitVec 32)) (g : Group) : Group :=
  { (g.mapLanes (ls.contains ·) fun l n => g.returnLane ls l n).leave ls with
    lapsed := g.lapsed.filter fun q => !seqs.contains q,
    waiting := match g.backToBar ls with | some (x, n) => .barrier x n true | none => g.waiting }

section word
variable {s : State} {g : Group} {i : Issue} (h : AtWord s g i) (gd : BitVec 4)
include h

theorem ret_flat (ht : g.trapFrames (g.contributing i gd) = []) (hf : flatLanes g (g.contributing i gd) ≠ []) :
    exec (.ret gd) s = .next (s.raise g.gid i.len
      { cause := frameDepth, mask := laneMask (flatLanes g (g.contributing i gd)) }) := by
  rw [flatLanes] at hf ⊢
  show execRet gd s = _
  rw [execRet, onGroup_at h]
  dsimp only
  rw [if_neg (by simp [ht]), if_pos hf, finish_trap _ _ _ (show frameDepth ≠ 0 by decide)]

omit h in
/-- A lane returns from an ordinary frame (08 R197). -/
theorem Group.returnLane_plain {ls : List Nat} {l : Nat} {f : Frame} (hf : g.frame (g.lane l).fid = some f)
    (hp : f.pointOf l = none) (hd : (g.lane l).depth ≠ 0) :
    g.returnLane ls l (g.lane l) = { g.lane l with pcv := f.retOf l, chain := (g.lane l).chain.drop 1 } := by
  unfold Group.returnLane
  unfold Lane.fid at hf
  unfold Lane.depth at hd
  cases hc : (g.lane l).chain with
  | nil => simp [hc] at hd
  | cons c below =>
    rw [hc, List.head?_cons, Option.map_some, Option.getD_some] at hf
    simp [hf, hp]

omit h in
/-- A frame that is no trap frame of the lanes stands for no trap in any of them. -/
theorem pointOf_none_of_trapFrames {ls : List Nat} {l : Nat} {f : Frame} (ht : g.trapFrames ls = []) (hl : l ∈ ls)
    (hf : g.frame (g.lane l).fid = some f) : f.pointOf l = none := by
  have none := List.filter_eq_nil_iff.1 ht f (findBy_mem hf)
  have fid : f.fid = (g.lane l).fid := by simpa using findBy_some hf
  by_contra some
  exact none (List.any_eq_true.2 ⟨l, hl, by simp [fid, Option.ne_none_iff_isSome.1 some]⟩)

theorem ret_drops (ht : g.trapFrames (g.contributing i gd) = []) (hf : flatLanes g (g.contributing i gd) = []) :
    Drops s g i (.ret gd) (g.contributing i gd) (g.returnLane (g.contributing i gd)) := by
  rw [flatLanes] at hf
  refine ⟨Group.returned (g.contributing i gd) (g.faults.filterMap fun e =>
    if (g.trapFrames (g.contributing i gd)).any fun f => f.fid == e.1 then some e.2 else none), ?_, fun _ => rfl, rfl, rfl⟩
  show execRet gd s = _
  rw [execRet, onGroup_at h]
  dsimp only
  rw [if_neg (by simp [ht]), if_neg (not_not.2 hf), if_neg (by simp [ht]), if_neg (by simp [ht]), finish_done _ _ _ _ rfl]
  rfl

/-- `RET` takes each lane back to where its frame returns (08 R197). -/
theorem ret_returns (f : Nat → Frame) (hf : flatLanes g (g.contributing i gd) = [])
    (ht : g.trapFrames (g.contributing i gd) = []) (hl : ∀ l ∈ g.contributing i gd, g.frame (g.lane l).fid = some (f l)) :
    ∃ t k, exec (.ret gd) s = .next t ∧ t.group g.gid = some k ∧
      Leaves g k i (g.contributing i gd) (fun l => (f l).retOf l) ∧
      (∀ l, (g.contributing i gd).contains l = true → (k.lane l).chain = (g.lane l).chain.drop 1) ∧
      (∀ l, (g.contributing i gd).contains l = false → SameButPc (g.lane l) (k.lane l)) ∧ ∀ p, t.byte p = s.byte p := by
  have returns : ∀ l, (g.contributing i gd).contains l = true → g.returnLane (g.contributing i gd) l (g.lane l) =
      { g.lane l with pcv := (f l).retOf l, chain := (g.lane l).chain.drop 1 } := fun l hm => by
    have hm := List.contains_iff_mem.1 hm
    refine Group.returnLane_plain (hl l hm) (pointOf_none_of_trapFrames ht hm (hl l hm)) fun e => ?_
    exact List.filter_eq_nil_iff.1 hf l hm (by simpa using e)
  obtain ⟨t, k, he, hk, leaves, chain, rest, bytes⟩ := (ret_drops h gd ht hf).drops h
    (dest := fun l => (f l).retOf l) (fun l hm _ => by rw [returns l hm]) fun _ => rfl
  exact ⟨t, k, he, hk, leaves, fun l hm => by rw [chain l hm, returns l hm], rest, bytes⟩

/-! ## UNWIND (08 R198) -/

/-- The lanes with fewer frames than `UNWIND` leaves. -/
def shortLanes (g : Group) (a : BitVec 5) (ls : List Nat) : List Nat :=
  ls.filter fun l => decide ((g.lane l).depth < (g.sreg a.toNat).val.toNat)

/-- A lane that goes on at `c` with `u` frames above its first. -/
def Lane.unwound (u : Nat) (c : DWord) (n : Lane) : Lane := { n with pcv := c, chain := n.chain.drop (n.depth - u) }

/-- A group whose lanes `ls` have dropped all but `u` of their frames above the first and go on at `c`. -/
def Group.unwinds (ls : List Nat) (u : Nat) (c : DWord) (k : Group) : Group :=
  { (k.mapLanes (ls.contains ·) fun _ n => n.unwound u c).leave ls with
    lapsed := k.lapse (ls.flatMap fun l => (k.lane l).chain.take ((k.lane l).depth - u)) }

section unwind
variable {b a : BitVec 5} (hl : g.contributing i gd ≠ []) (hr : Ready s g [] [] [a.toNat, b.toNat])
variable (ha : (g.sreg a.toNat).poison = false) (hb : (g.sreg b.toNat).poison = false)
include hl hr ha hb

/-- An `UNWIND` of lanes whose operands are there. -/
theorem unwind_runs : exec (.unwind b a gd) s = .next ((
    if !okTarget (g.sreg b.toNat).val then Res.trap s { cause := addrPath, addr := (g.sreg b.toNat).val.toNat }
    else if shortLanes g a (g.contributing i gd) ≠ [] then
      .trap s { cause := frameDepth, mask := laneMask (shortLanes g a (g.contributing i gd)) }
    else .done (((s.modGroup g.gid
        (Group.unwinds (g.contributing i gd) (g.sreg a.toNat).val.toNat (g.sreg b.toNat).val)).releaseFrames g.gid).wantFrames
          g.gid)).finish g.gid g i) := by
  have clean : sPoison g 2 [a.toNat, b.toNat] = none := sPoison_clean 2 (by simp [ha, hb])
  show execUnwind b a gd s = _
  rw [execUnwind, onGroup_at h]
  dsimp only
  rw [if_neg hl, if_neg (by simp only [show _ = false from hr, Bool.false_eq_true, not_false_eq_true]), clean]
  rfl

theorem unwind_astray (hc : okTarget (g.sreg b.toNat).val = false) : exec (.unwind b a gd) s =
    .next (s.raise g.gid i.len { cause := addrPath, addr := (g.sreg b.toNat).val.toNat }) := by
  rw [unwind_runs h gd hl hr ha hb, if_pos (by rw [hc]; rfl), finish_trap _ _ _ (show addrPath ≠ 0 by decide)]

theorem unwind_short (hc : okTarget (g.sreg b.toNat).val = true) (hs : shortLanes g a (g.contributing i gd) ≠ []) :
    exec (.unwind b a gd) s = .next (s.raise g.gid i.len
      { cause := frameDepth, mask := laneMask (shortLanes g a (g.contributing i gd)) }) := by
  rw [unwind_runs h gd hl hr ha hb, if_neg (by rw [hc]; decide), if_pos hs, finish_trap _ _ _ (show frameDepth ≠ 0 by decide)]

theorem unwind_drops (hc : okTarget (g.sreg b.toNat).val = true) (hs : shortLanes g a (g.contributing i gd) = []) :
    Drops s g i (.unwind b a gd) (g.contributing i gd) fun _ n =>
      n.unwound (g.sreg a.toNat).val.toNat (g.sreg b.toNat).val := by
  refine ⟨Group.unwinds (g.contributing i gd) (g.sreg a.toNat).val.toNat (g.sreg b.toNat).val, ?_, fun _ => rfl, rfl, rfl⟩
  rw [unwind_runs h gd hl hr ha hb, if_neg (by rw [hc]; decide), if_neg (not_not.2 hs), finish_done _ _ _ _ rfl]

/-- `UNWIND` drops frames down to the depth named and goes on at the address named (08 R198). -/
theorem unwind_goes (hc : okTarget (g.sreg b.toNat).val = true) (hs : shortLanes g a (g.contributing i gd) = []) :
    ∃ t k, exec (.unwind b a gd) s = .next t ∧ t.group g.gid = some k ∧
      Leaves g k i (g.contributing i gd) (fun _ => (g.sreg b.toNat).val) ∧ (∀ p, t.byte p = s.byte p) ∧
      (∀ l, (g.contributing i gd).contains l = true →
        (k.lane l).chain = (g.lane l).chain.drop ((g.lane l).depth - (g.sreg a.toNat).val.toNat)) ∧
      (∀ l, (g.contributing i gd).contains l = false → SameButPc (g.lane l) (k.lane l)) := by
  obtain ⟨t, k, he, hk, leaves, chain, rest, bytes⟩ := (unwind_drops h gd hl hr ha hb hc hs).drops h
    (dest := fun _ => (g.sreg b.toNat).val) (fun _ _ _ => rfl) fun _ => List.drop_nil
  exact ⟨t, k, he, hk, leaves, bytes, chain, rest⟩

end unwind

end word

/-! ## EXIT (08 R199) -/

/-- A group still there when it is settled has lost but frames that no lane is in. -/
theorem State.settle_keeps {s : State} {gid : Nat} {h : Group} (e : (s.settle gid).group gid = some h) :
    ∃ k, s.group gid = some k ∧ FramesOnly k h := by
  have released : ∀ h, (s.releaseFrames gid).group gid = some h → ∃ k, s.group gid = some k ∧ FramesOnly k h := by
    intro h e
    obtain ⟨r, hr, form⟩ := s.releaseFrames_eq gid
    rw [hr] at e
    obtain ⟨k, hk, rfl⟩ := State.group_of_modGroup (fun k => by rw [form]) e
    exact ⟨k, hk, form k⟩
  rw [State.settle] at e
  split at e
  · next g here =>
    split at e
    · rw [← State.group_gid here, State.group_endGroup] at e
      exact absurd e (by simp)
    · exact released h e
  · exact released h e

/-- A group with a live lane stays when it is settled. -/
theorem State.settle_stays {s : State} {gid : Nat} {k : Group} (hk : s.group gid = some k) {l : Nat} (hl : l ∈ k.liveLanes) :
    ∃ h, (s.settle gid).group gid = some h := by
  obtain ⟨r, hr, form⟩ := s.releaseFrames_eq gid
  have here : (s.releaseFrames gid).group gid = some (r k) := by
    rw [hr]
    exact State.group_modGroup_own hk fun k => by rw [form]
  have live : (r k).liveLanes = k.liveLanes := by rw [form]; rfl
  have stays : (s.releaseFrames gid).groupOver (r k) = false := by
    rw [State.groupOver, live, beq_false_of_ne (List.ne_nil_of_mem hl)]
    simp only [Bool.false_and]
  exact ⟨r k, by rw [State.settle, here]; dsimp only; rw [stays]; exact here⟩

/-- A group whose lanes `ls` have exited. -/
def Group.exits (ls : List Nat) (g : Group) : Group :=
  { (g.mapLanes (ls.contains ·) fun _ n => n.exited).leave ls with lapsed := g.lapse (ls.flatMap fun l => (g.lane l).chain) }

theorem Group.lane_exits (g : Group) (ls : List Nat) (l : Nat) :
    (g.exits ls).lane l = if ls.contains l then (g.lane l).exited else g.lane l :=
  Group.lane_mapLanes g (ls.contains ·) (fun _ n => n.exited) l fun _ => Lane.exited_none

theorem Group.mem_liveLanes_exits {g : Group} {ls : List Nat} {l : Nat} (hl : l ∈ g.liveLanes) (hn : ls.contains l = false) :
    l ∈ (g.exits ls).liveLanes := by
  obtain ⟨e, he, rfl⟩ := List.mem_map.1 hl
  obtain ⟨listed, live⟩ := List.mem_filter.1 he
  refine List.mem_map_of_mem (List.mem_filter.2 ⟨List.mem_map.2 ⟨e, listed, ?_⟩, live⟩)
  exact if_neg fun m => absurd (hn.symm.trans m) (by decide)

/-- A group there after its word is done was there before it. -/
theorem State.group_of_wordDone {s : State} {g k : Group} {i : Issue} (e : (s.wordDone g i).group g.gid = some k) :
    ∃ m, s.group g.gid = some m ∧ m.retire i.len = k := by
  obtain ⟨m, hm, form⟩ := State.group_of_modGroup (fun k => k.retire_gid _) e
  refine ⟨m, ?_, form⟩
  unfold State.meterScalar at hm
  split at hm <;> simpa using hm

section word
variable {s : State} {g : Group} {i : Issue} (h : AtWord s g i) (gd : BitVec 4)
include h

theorem exit_runs : exec (.exit gd) s =
    .next (((s.modGroup g.gid (Group.exits (g.contributing i gd))).settle g.gid).wordDone g i) := by
  show execExit gd s = _
  rw [execExit, onGroup_at h]
  dsimp only
  rw [finish_done _ _ _ _ rfl]
  rfl

/-- A lane that has exited is not live when its word is done; the other lanes only move on. -/
theorem exit_lanes {k : Group} (ls : List Nat) (hk : FramesOnly (g.exits ls) k) :
    (∀ l, ls.contains l = true → ((k.retire i.len).lane l).live = false) ∧
      ∀ l, ls.contains l = false → SameButPc (g.lane l) ((k.retire i.len).lane l) := by
  have lane : ∀ l, k.lane l = if ls.contains l then (g.lane l).exited else g.lane l := fun l => by
    rw [← Group.lane_exits, hk]
    rfl
  have issue : k.issue = some { i with lanes := i.lanes &&& ~~~ laneMask ls } := by
    rw [hk]
    show Option.map _ g.issue = _
    rw [h.clause]
    rfl
  refine ⟨fun l hm => ?_, fun l hm => ?_⟩
  · have gone : (i.lanes &&& ~~~ laneMask ls).getLsbD l = false := by rw [getLsbD_without, hm]; simp
    rw [Lane.live, Group.pcv_retire issue (fun e => absurd (gone.symm.trans e) (by decide)), gone, lane l, if_pos hm]
    rfl
  · have moved := k.retire_lane i.len l
    rwa [lane l, if_neg (by rw [hm]; decide)] at moved

/-- `EXIT` ends its lanes (08 R199). -/
theorem exit_ends : ∃ t, exec (.exit gd) s = .next t ∧ (∀ k, t.group g.gid = some k →
      (∀ l, (g.contributing i gd).contains l = true → (k.lane l).live = false) ∧
      (∀ l, (g.contributing i gd).contains l = false → SameButPc (g.lane l) (k.lane l))) ∧
    ((∃ l ∈ g.liveLanes, (g.contributing i gd).contains l = false) → ∃ k, t.group g.gid = some k) := by
  have there : (s.modGroup g.gid (Group.exits (g.contributing i gd))).group g.gid = some (g.exits (g.contributing i gd)) :=
    State.group_modGroup_own h.here fun _ => rfl
  refine ⟨_, exit_runs h gd, fun k hk => ?_, fun ⟨l, hl, hn⟩ => ?_⟩
  · obtain ⟨m, settled, rfl⟩ := State.group_of_wordDone hk
    obtain ⟨e, he, frames⟩ := State.settle_keeps settled
    obtain rfl := Option.some.inj (there.symm.trans he)
    exact exit_lanes h _ frames
  · obtain ⟨k, hk⟩ := State.settle_stays there (Group.mem_liveLanes_exits hl hn)
    exact ⟨_, State.group_wordDone i hk⟩

end word

/-- Settles O24: lanes go where their frames, the address named or their end says. -/
theorem returns : Obligations.Returns := by
  unfold Obligations.Returns
  intro s g i b a gd h
  exact ⟨fun hf ht => ret_flat h gd ht hf, fun f hf ht hl => ret_returns h gd f hf ht hl,
    fun hl hr ha hb => ⟨unwind_astray h gd hl hr ha hb, unwind_short h gd hl hr ha hb, unwind_goes h gd hl hr ha hb⟩,
    exit_ends h gd⟩

end Sys2Proof.Machine

/-!
PROOFS. Barriers (08 R203, R204).
-/
namespace Sys2Proof.Machine

/-! ## Greatest values and changes of many groups -/

theorem foldl_max_le {α : Type} (f : α → Nat) {l : List α} {t m : Nat} (ht : t ≤ m) (h : ∀ e ∈ l, f e ≤ m) :
    l.foldl (fun t e => max t (f e)) t ≤ m := by
  induction l generalizing t with
  | nil => exact ht
  | cons a l ih => exact ih (Nat.max_le.2 ⟨ht, h a (List.mem_cons_self ..)⟩) fun e he => h e (List.mem_cons_of_mem _ he)

/-- The greatest value over a list is that of its members. -/
theorem foldl_max_congr {α : Type} (f : α → Nat) {l m : List α} (h : ∀ e, e ∈ l ↔ e ∈ m) :
    l.foldl (fun t e => max t (f e)) 0 = m.foldl (fun t e => max t (f e)) 0 :=
  Nat.le_antisymm (foldl_max_le f (Nat.zero_le _) fun e he => le_foldl_max_of_mem f ((h e).1 he) 0)
    (foldl_max_le f (Nat.zero_le _) fun e he => le_foldl_max_of_mem f ((h e).2 he) 0)

/-- Entries that a change does not take out of a test's choice. -/
theorem filter_updBy {α : Type} {p q : α → Bool} {f : α → α} (h : ∀ a, p (f a) = p a) (l : List α) :
    (updBy q f l).filter p = (l.filter p).map fun a => if q a then f a else a := by
  induction l with
  | nil => rfl
  | cons a l ih =>
    have same : p (if q a then f a else a) = p a := by split <;> simp [h]
    rw [updBy, List.filter_cons, List.filter_cons, same, ih]
    split <;> rfl

/-- A change that leaves a group as it is when made again, made in each of a list of groups. -/
theorem State.group_foldl_modGroup {f : Group → Group} (hf : ∀ h, (f h).gid = h.gid) (again : ∀ h, f (f h) = f h)
    (ps : List Group) (s : State) (k : Nat) : (ps.foldl (fun s h => s.modGroup h.gid f) s).group k =
      if k ∈ ps.map (·.gid) then (s.group k).map f else s.group k := by
  induction ps generalizing s with
  | nil => rfl
  | cons p ps ih =>
    rw [List.foldl_cons, ih, State.group_modGroup _ _ _ _ hf, List.map_cons]
    by_cases hk : k = p.gid
    · have twice : ((s.group k).map f).map f = (s.group k).map f := by
        rw [Option.map_map]
        exact congrArg (Option.map · _) (funext again)
      rw [if_pos hk, if_pos (List.mem_cons.2 (.inl hk)), twice, ite_self]
    · rw [if_neg hk]
      exact if_congr (by rw [List.mem_cons, or_iff_right hk]) rfl rfl

/-! ## Barriers (08 R203, R204) -/

/-- Whether a group is of the team, or of the gang, of `g` and launched. -/
def State.party (s : State) (gang : Bool) (g h : Group) : Bool :=
  if gang then h.isLaunched && s.gangOf h == s.gangOf g else h.team == g.team && h.isLaunched

theorem State.parties_eq (s : State) (gang : Bool) (g : Group) : s.parties gang g = s.groups.filter (s.party gang g) := by
  cases gang <;> rfl

/-- A group that has arrived at a barrier with its writes performed at `t`. -/
def Group.arrives (t : Nat) (gang : Bool) (n : Nat) (h : Group) : Group := { h.raise t with waiting := .barrier gang n false }
/-- A group that a barrier lets go on at clock `c`. -/
def Group.released (c : Nat) (gang : Bool) (n : Nat) (h : Group) : Group := { h.raise c with waiting := .barrier gang n true }
/-- A group past its barrier. -/
def Group.passes (h : Group) : Group := { h with waiting := .no }

theorem Group.released_again (c : Nat) (gang : Bool) (n : Nat) (h : Group) :
    (h.released c gang n).released c gang n = h.released c gang n := by
  simp [Group.released, Group.raise]

theorem Group.released_arrives (t c n : Nat) (gang : Bool) (h : Group) : ∃ c' w,
    (h.arrives t gang n).released c gang n = { h with lclock := c', waiting := w } := by
  simp only [Group.released, Group.arrives, Group.raise]
  exact ⟨_, _, rfl⟩

/-- The parties of a barrier when one group has arrived at it. -/
theorem parties_arrives (s : State) (gang : Bool) (g : Group) (t n : Nat) :
    (s.modGroup g.gid (Group.arrives t gang n)).parties gang g =
      (s.parties gang g).map fun h => if h.gid == g.gid then h.arrives t gang n else h := by
  have party : (s.modGroup g.gid (Group.arrives t gang n)).party gang g = s.party gang g := rfl
  rw [State.parties_eq, State.parties_eq, party]
  exact filter_updBy (fun h => by cases gang <;> rfl) _

/-- A state in which `g` has arrived at its barrier. -/
def State.arrived (s : State) (g : Group) (gang : Bool) (n : Nat) : State :=
  s.modGroup g.gid (Group.arrives (s.opTime g.gid arriveWaits) gang n)
/-- The other parties of a barrier. -/
def State.others (s : State) (gang : Bool) (g : Group) : List Group := (s.parties gang g).filter fun h => h.gid != g.gid
/-- The greatest clock of the parties when `g` has arrived. -/
def State.lastArrival (s : State) (g : Group) (gang : Bool) (n : Nat) : Nat :=
  (g.arrives (s.opTime g.gid arriveWaits) gang n :: s.others gang g).foldl (fun c x => max c x.lclock) 0
/-- A state in which the last arrival, that of `g`, has released all. -/
def State.allReleased (s : State) (g : Group) (gang : Bool) (n c : Nat) : State :=
  ((s.arrived g gang n).parties gang g).foldl (fun s h => s.modGroup h.gid (Group.released c gang n))
    (s.arrived g gang n)

section word
variable {s : State} {g : Group} {i : Issue} (h : AtWord s g i) {k : BitVec 4} {gang : Bool}
variable (hn : (s.groups.map (·.gid)).Nodup) (hl : g.isLaunched = true)
include h

theorem mem_parties_self (hl : g.isLaunched = true) : g ∈ s.parties gang g := by
  rw [State.parties_eq]
  refine List.mem_filter.2 ⟨findBy_mem h.here, ?_⟩
  cases gang <;> simp [State.party, hl]

include hn hl

/-- The parties once `g` has arrived: `g` so, and the others as they were. -/
theorem mem_parties_arrived (n : Nat) (p : Group) : p ∈ (s.arrived g gang n).parties gang g ↔
    p ∈ g.arrives (s.opTime g.gid arriveWaits) gang n :: s.others gang g := by
  have own : ∀ p ∈ s.parties gang g, p.gid = g.gid → p = g := fun p hp e => by
    rw [State.parties_eq] at hp
    exact List.inj_on_of_nodup_map hn (List.mem_filter.1 hp).1 (findBy_mem h.here) e
  rw [State.arrived, parties_arrives, List.mem_map, List.mem_cons, State.others, List.mem_filter]
  constructor
  · rintro ⟨q, hq, rfl⟩
    by_cases e : q.gid = g.gid
    · obtain rfl := own q hq e
      exact .inl (if_pos (by simp))
    · rw [if_neg (by simpa using e)]
      exact .inr ⟨hq, by simpa using e⟩
  · rintro (rfl | ⟨hp, e⟩)
    · exact ⟨g, mem_parties_self h hl, if_pos (by simp)⟩
    · exact ⟨p, hp, if_neg (by simpa using e)⟩

/-! ### A group at its barrier -/

/-- What a barrier does with a group of a state that it lets go on. -/
def State.passing (s : State) (g : Group) (gang : Bool) : State :=
  s.acquired g Group.passes (if gang then 1 else 0) true true

omit h hn in
theorem barrier_runs (hr : ∀ l ∈ g.ready, i.lanes.getLsbD l = true) (hp : s.performed g.gid arriveWaits = true) (n : Nat) :
    ∃ f, barrier s gang n = onWaiting s f ∧ f g i =
      if g.waiting = .barrier gang n true then .done (s.passing g gang)
      else if ((s.arrived g gang n).parties gang g).all fun h => h.waiting == .barrier gang n false then
        .done ((s.allReleased g gang n
          (((s.arrived g gang n).parties gang g).foldl (fun c h => max c h.lclock) 0)).passing g gang)
      else .wait (s.arrived g gang n) := by
  refine ⟨_, rfl, ?_⟩
  dsimp only
  have all : g.ready.all i.lanes.getLsbD = true := List.all_eq_true.2 hr
  rw [if_neg (by rw [hl, all]; decide)]
  refine if_congr Iff.rfl rfl ?_
  rw [if_neg (by rw [hp]; simp)]
  rfl

omit hn hl h in
/-- A group that goes on at a clock and then retires its word. -/
theorem groupWord_retire {k : Group} (form : k = { g with lclock := k.lclock, waiting := .no, since := none })
    (hc : g.lclock ≤ k.lclock) (n : Nat) : GroupWord g (k.retire n) := by
  have lanes : k.lanes = g.lanes := by rw [form]
  refine ⟨fun l => ?_, by rwa [Group.retire_lclock], (k.retire_rest n).trans ?_⟩
  · rw [Group.lane, ← lanes]
    exact k.retire_lane n l
  · rw [Group.retire_lclock]
    exact congrArg (fun k' : Group =>
      { k' with lanes := (k.retire n).lanes, issue := (k.retire n).issue, popped := (k.retire n).popped }) form

omit hn hl h in
/-- A group let go on. -/
theorem passing_group {u : State} {m : Group} (hm : u.group g.gid = some m)
    (form : ∃ c w, m = { g with lclock := c, waiting := w }) (hc : g.lclock ≤ m.lclock) {t : State}
    (ht : t = ((u.passing g gang).modGroup g.gid Group.proceeds).wordDone g i) :
    t.mem = u.mem ∧ (∃ k, t.group g.gid = some k ∧ GroupWord g k ∧ m.lclock ≤ k.lclock) ∧
      ∀ j, j ≠ g.gid → t.group j = u.group j := by
  subst ht
  have group := acquired_group u g Group.passes (if gang then 1 else 0) true true (fun _ => rfl) hm
  have others := acquired_others u g Group.passes (if gang then 1 else 0) true true (fun _ => rfl)
  refine ⟨?_, ⟨_, State.group_wordDone i (State.group_modGroup_own group fun _ => rfl), groupWord_retire ?_ ?_ _, ?_⟩,
    fun j hj => ?_⟩
  · rw [State.mem_wordDone]
    exact (congrArg State.mem (acquired_rest u g Group.passes (if gang then 1 else 0) true true)).trans rfl
  · obtain ⟨c, w, rfl⟩ := form
    rfl
  · exact hc.trans (Nat.le_max_left _ _)
  · rw [Group.retire_lclock]
    exact Nat.le_max_left _ _
  · rw [(elsewhere_wordDone _ g i).others j hj, State.group_modGroup _ _ _ Group.proceeds fun _ => rfl, if_neg hj]
    exact others j hj

omit hn hl in
/-- A group that the barrier has released goes on. -/
theorem barrier_goes (hl : g.isLaunched = true) (hr : ∀ l ∈ g.ready, i.lanes.getLsbD l = true)
    (hp : s.performed g.gid arriveWaits = true) {n : Nat} (hw : g.waiting = .barrier gang n true) :
    ∃ t k, barrier s gang n = .next t ∧ t.mem = s.mem ∧ t.group g.gid = some k ∧ GroupWord g k := by
  obtain ⟨f, hf, runs⟩ := barrier_runs (gang := gang) hl hr hp n
  obtain ⟨mem, ⟨k, hk, word, -⟩, -⟩ := passing_group (gang := gang) (i := i) h.here ⟨_, _, rfl⟩ (Nat.le_refl _) rfl
  exact ⟨_, k, hf.trans (onWaiting_done h (runs.trans (if_pos hw))), mem, hk, word⟩

section
variable (hr : ∀ l ∈ g.ready, i.lanes.getLsbD l = true)
variable (hp : s.performed g.gid arriveWaits = true) {n : Nat} (hw : g.waiting ≠ .barrier gang n true)
include hr hp hw

/-- A group waits at a barrier that another has not reached. -/
theorem barrier_waits (hm : ∃ p ∈ s.others gang g, p.waiting ≠ .barrier gang n false) : ∃ t, barrier s gang n = .next t ∧
    t.group g.gid = some ((g.arrives (s.opTime g.gid arriveWaits) gang n).stays s) ∧ t.mem = s.mem := by
  obtain ⟨f, hf, runs⟩ := barrier_runs (gang := gang) hl hr hp n
  obtain ⟨p, hp, away⟩ := hm
  have short : ((s.arrived g gang n).parties gang g).all (fun h => h.waiting == .barrier gang n false) = false :=
    Bool.eq_false_iff.2 fun all => away
      (eq_of_beq (List.all_eq_true.1 all p ((mem_parties_arrived h hn hl _ _).2 (List.mem_cons_of_mem _ hp))))
  refine ⟨_, hf.trans (onWaiting_wait h (runs.trans ((if_neg hw).trans (if_neg (by rw [short]; decide))))), ?_, rfl⟩
  exact State.group_modGroup_own (g := g.arrives (s.opTime g.gid arriveWaits) gang n)
    (State.group_modGroup_own h.here fun _ => rfl) fun _ => rfl

omit hr hp hw h hn hl in
/-- Each party stands released at the greatest clock. -/
theorem allReleased_group (p : Group) (hp : p ∈ (s.arrived g gang n).parties gang g)
    (at_ : (s.arrived g gang n).group p.gid = some p) (c : Nat) :
    (s.allReleased g gang n c).group p.gid = some (p.released c gang n) := by
  rw [State.allReleased, State.group_foldl_modGroup (f := Group.released c gang n) (fun _ => rfl)
    (Group.released_again c gang n),
    if_pos (List.mem_map_of_mem hp), at_]
  rfl

/-- The last arrival at a barrier lets all go on, at the greatest clock among them. -/
theorem barrier_last (hm : ∀ p ∈ s.others gang g, p.waiting = .barrier gang n false) :
    ∃ t k, barrier s gang n = .next t ∧ t.mem = s.mem ∧ t.group g.gid = some k ∧ GroupWord g k ∧
      (∀ p ∈ s.others gang g, p.lclock ≤ k.lclock) ∧
      ∀ p ∈ s.others gang g, s.group p.gid = some p →
        t.group p.gid = some { p with lclock := s.lastArrival g gang n, waiting := .barrier gang n true } := by
  obtain ⟨f, hf, runs⟩ := barrier_runs (gang := gang) hl hr hp n
  have party := mem_parties_arrived (gang := gang) h hn hl n
  have all : ((s.arrived g gang n).parties gang g).all (fun h => h.waiting == .barrier gang n false) = true :=
    List.all_eq_true.2 fun p hp => by
      rcases List.mem_cons.1 ((party p).1 hp) with rfl | hp
      · exact beq_self_eq_true _
      · rw [hm p hp, beq_self_eq_true]
  rw [if_neg hw, if_pos all, show List.foldl _ 0 _ = s.lastArrival g gang n from foldl_max_congr Group.lclock party] at runs
  have least : ∀ p ∈ g.arrives (s.opTime g.gid arriveWaits) gang n :: s.others gang g, p.lclock ≤ s.lastArrival g gang n :=
    fun p hp => le_foldl_max_of_mem Group.lclock hp 0
  have arrived : (s.arrived g gang n).group g.gid = some (g.arrives (s.opTime g.gid arriveWaits) gang n) :=
    State.group_modGroup_own h.here fun _ => rfl
  have mine : (s.allReleased g gang n (s.lastArrival g gang n)).group g.gid =
      some ((g.arrives (s.opTime g.gid arriveWaits) gang n).released (s.lastArrival g gang n) gang n) :=
    allReleased_group _ ((party _).2 (List.mem_cons_self ..)) arrived (s.lastArrival g gang n)
  have later : g.lclock ≤ ((g.arrives (s.opTime g.gid arriveWaits) gang n).released (s.lastArrival g gang n) gang n).lclock :=
    (Nat.le_max_left ..).trans (Nat.le_max_left ..)
  obtain ⟨mem, ⟨k, hk, word, clock⟩, rest⟩ := passing_group (gang := gang) (i := i) (g := g) mine
    (Group.released_arrives ..) later rfl
  refine ⟨_, k, hf.trans (onWaiting_done h runs), mem.trans ?_, hk, word,
    fun p hp => (least p (List.mem_cons_of_mem _ hp)).trans ((Nat.le_max_right ..).trans clock), fun p hp at_ => ?_⟩
  · exact foldl_keeps State.mem ((s.arrived g gang n).parties gang g)
      (fun u h => u.modGroup h.gid (Group.released (s.lastArrival g gang n) gang n)) (fun _ _ => rfl) _
  · have away : p.gid ≠ g.gid := by simpa using (List.mem_filter.1 hp).2
    have at_ : (s.arrived g gang n).group p.gid = some p := by
      rw [State.arrived, State.group_modGroup _ _ _ (Group.arrives _ gang n) fun _ => rfl, if_neg away, at_]
    rw [rest _ away, allReleased_group p ((party p).2 (List.mem_cons_of_mem _ hp)) at_, Group.released, Group.raise,
      Nat.max_eq_right (least p (List.mem_cons_of_mem _ hp))]

end

end word

/-- Settles O27: a barrier waits for every party, and the last arrival releases all. -/
theorem barriers : Obligations.Barriers := by
  unfold Obligations.Barriers
  rintro s g i k gang n h hn rfl hl hr hp
  have runs : exec (if gang = true then .barGang k else .barTeam k) s = barrier s gang k.toNat := by cases gang <;> rfl
  rw [runs]
  exact ⟨barrier_goes h hl hr hp, fun hw => barrier_waits h hn hl hr hp hw, fun hw => barrier_last h hn hl hr hp hw⟩

end Sys2Proof.Machine

/-!
PROOFS. `ARRIVE`, `SWAIT` and `CWAIT` (08 R207 to R209).
-/
namespace Sys2Proof.Machine

/-! ## A sync word in a scratchpad (08 R205) -/

theorem length_toBytes (n v : Nat) : (toBytes n v).length = n := by
  induction n generalizing v with
  | zero => rfl
  | succ n ih => rw [toBytes, List.length_cons, ih]

theorem toBytes_ofBytes (l : List Byte) : toBytes l.length (ofBytes l) = l := by
  induction l with
  | nil => rfl
  | cons b l ih =>
    have small := b.isLt
    have low : BitVec.ofNat 8 (b.toNat + 256 * ofBytes l) = b := by
      apply BitVec.eq_of_toNat_eq
      rw [BitVec.toNat_ofNat]
      omega
    rw [List.length_cons, ofBytes, toBytes, low, show (b.toNat + 256 * ofBytes l) / 256 = ofBytes l by omega, ih]

theorem ofBytes_lt (l : List Byte) : ofBytes l < 256 ^ l.length := by
  induction l with
  | nil => exact Nat.one_pos
  | cons b l ih =>
    have small := b.isLt
    rw [ofBytes, List.length_cons, Nat.pow_succ]
    omega

/-- A 128-bit value is that of its fields. -/
theorem SyncWord.toNat_ofNat {v : Nat} (h : v < 2 ^ 128) : (SyncWord.ofNat v).toNat = v := by
  simp only [SyncWord.toNat, SyncWord.ofNat]
  omega

/-- The bytes of consecutive cells, by address. -/
theorem lastAt_zip_addrs (o : Nat) (bs : List Byte) (p : Nat) :
    lastAt (List.zip (addrs o bs.length) bs) p = if o ≤ p ∧ p < o + bs.length then some (bs.getD (p - o) 0#8) else none := by
  induction bs generalizing o with
  | nil =>
    rw [if_neg (by simp)]
    rfl
  | cons b bs ih =>
    have first : addrs o (b :: bs).length = o :: addrs (o + 1) bs.length := by
      rw [addrs, addrs, List.length_cons, List.range_succ_eq_map, List.map_cons, List.map_map]
      congr 1
      exact List.map_congr_left fun k _ => by simp; omega
    rw [first, List.zip_cons_cons, lastAt_cons, ih, List.length_cons]
    by_cases hp : o = p
    · subst hp
      simp
    · by_cases hin : o + 1 ≤ p ∧ p < o + 1 + bs.length
      · rw [if_pos hin, if_pos (c := o ≤ p ∧ _) (by omega), show p - o = p - (o + 1) + 1 by omega]
        rfl
      · rw [if_neg hin, if_neg hp, if_neg (by omega)]
        rfl

/-- A sync word put in a scratchpad. -/
def Team.putSync (t : Team) (o : Nat) (y : SyncWord) : Team := t.scratchStore (List.zip (addrs o 16) (toBytes 16 y.toNat)) false

theorem Team.putSync_byte (t : Team) (o : Nat) (y : SyncWord) (p : Nat) :
    mapGet 0#8 (t.putSync o y).scratch p = syncAt o y (mapGet 0#8 t.scratch) p := by
  have cells := lastAt_zip_addrs o (toBytes 16 y.toNat) p
  rw [length_toBytes] at cells
  rw [Team.putSync, Team.scratchStore_byte, cells, syncAt]
  split <;> rfl

/-- The sync word at an offset of a scratchpad. -/
def Team.syncWordAt (t : Team) (o : Nat) : SyncWord :=
  SyncWord.ofNat (ofBytes ((List.range 16).map fun k => mapGet 0#8 t.scratch (o + k)))

/-- A scratchpad holds the bytes of the sync word read from it. -/
theorem Team.syncAt_own (t : Team) (o p : Nat) :
    syncAt o (t.syncWordAt o) (mapGet 0#8 t.scratch) p = mapGet 0#8 t.scratch p := by
  rw [syncAt]
  split
  · next hp =>
    have value : (t.syncWordAt o).toNat = _ := SyncWord.toNat_ofNat (by
      simpa using ofBytes_lt ((List.range 16).map fun k => mapGet 0#8 t.scratch (o + k)))
    have bytes := toBytes_ofBytes ((List.range 16).map fun k => mapGet 0#8 t.scratch (o + k))
    rw [List.length_map, List.length_range] at bytes
    rw [value, bytes, List.getD_eq_getElem?_getD, List.getElem?_map, List.getElem?_range (by omega)]
    simp only [Option.map_some, Option.getD_some]
    rw [Nat.add_sub_cancel' hp.1]
  · rfl

/-- The two things said of the 16 bytes of a sync word and of the others. -/
theorem syncAt_split {o : Nat} {y : SyncWord} {f h : Nat → Byte} (hf : ∀ p, h p = syncAt o y f p) :
    (∀ k < 16, h (o + k) = (toBytes 16 y.toNat).getD k 0#8) ∧ ∀ k, (k < o ∨ o + 16 ≤ k) → h k = f k := by
  refine ⟨fun k hk => ?_, fun k hk => ?_⟩
  · rw [hf, syncAt, if_pos (by omega), Nat.add_sub_cancel_left]
  · rw [hf, syncAt, if_neg (by omega)]

/-! ## Operands of the sync instructions -/

section operands
variable {s : State} {g : Group} {b a : BitVec 5} {tk o : Nat} {tm : Team}
variable (ha : (g.sreg a.toNat).poison = false) (hb : (g.sreg b.toNat).poison = false)
include ha hb

omit ha hb in
theorem syncWord_clean (ht : s.team tk = some tm) (hc : ∀ k < 16, mapGet false tm.spoison ((o + k) / 4) = false) :
    s.syncWord tk o = (tm.syncWordAt o, false) := by
  have bytes : s.scratchBytes tk (addrs o 16) =
      (List.range 16).map fun k => (mapGet 0#8 tm.scratch (o + k), mapGet false tm.spoison ((o + k) / 4)) := by
    rw [State.scratchBytes, ht, addrs]
    exact List.map_map
  have clean : ((List.range 16).map fun k =>
      (mapGet 0#8 tm.scratch (o + k), mapGet false tm.spoison ((o + k) / 4))).any Prod.snd = false :=
    List.any_eq_false.2 fun e he => by
    obtain ⟨k, hk, rfl⟩ := List.mem_map.1 he
    rw [hc k (List.mem_range.1 hk)]
    exact Bool.false_ne_true
  rw [State.syncWord, bytes]
  rw [clean, List.map_map]
  rfl

theorem syncOperands_ok (hp : s.place g (fun p => p == 2 || p == 3) 16 (g.sreg a.toNat).val.toNat =
      some (.scr (pathOf (g.sreg a.toNat).val.toNat == 3) tk o)) (h16 : (g.sreg a.toNat).val.toNat % 16 = 0)
    (ht : s.team tk = some tm) (hc : ∀ k < 16, mapGet false tm.spoison ((o + k) / 4) = false) :
    s.syncOperands g b a = .ok (tk, o, tm.syncWordAt o) := by
  have place : s.syncPlace g (g.sreg a.toNat).val = .ok (tk, o) := by
    rw [State.syncPlace, Nat.div_mul_cancel (Nat.dvd_of_mod_eq_zero h16), hp]
    exact if_pos h16
  rw [State.syncOperands, sPoison_clean 0 (by simp [ha]), sPoison_clean 2 (by simp [hb]), place]
  simp only [firstCond, syncWord_clean ht hc, Bool.false_eq_true, if_false]

end operands

/-! ## ARRIVE and SWAIT (08 R207, R208) -/

theorem Group.creg_setC (g : Group) {k : Nat} (hk : k < 4) (v : Bool) (j : Nat) :
    (g.setC k v).creg j = if j = k then v else g.creg j := by
  have one : (BitVec.ofNat 4 (2 ^ k)).getLsbD j = decide (j = k) := by
    rw [BitVec.getLsbD_ofNat, Nat.testBit_two_pow]
    by_cases e : j = k
    · simp [e, hk]
    · simp [e, Ne.symm e]
  have out : ¬ j < 4 → g.cregs.getLsbD j = false := fun hj => BitVec.getLsbD_of_ge _ _ (by omega)
  cases v
  · rw [Group.creg, Group.setC, if_neg Bool.false_ne_true, BitVec.getLsbD_and, BitVec.getLsbD_not, one, Group.creg]
    by_cases hj : j < 4
    · by_cases e : j = k <;> simp [e, hj]
    · simp [out hj]
  · rw [Group.creg, Group.setC, if_pos rfl, BitVec.getLsbD_or, one, Group.creg]
    by_cases e : j = k <;> simp [e]

theorem State.team_wordDone (s : State) (g : Group) (i : Issue) (k : Nat) : (s.wordDone g i).team k = s.team k := by
  rw [(elsewhere_wordDone s g i).rest]
  rfl

/-- A team with the phase clock of a sync word raised. -/
def Team.raisePhase (o c : Nat) (t : Team) : Team := { t with phase := mapSet 0 t.phase o (max (mapGet 0 t.phase o) c) }
/-- A group whose arrival is refused or not, at clock `c`. -/
def Group.answered (c k : Nat) (refused : Bool) (g : Group) : Group := (g.raise c).setC k refused

section word
variable {s : State} {g : Group} {i : Issue} (h : AtWord s g i) {b a : BitVec 5} {tk o : Nat} {y : SyncWord}
variable (hr : Ready s g [] [] [a.toNat, b.toNat]) (hz : s.syncBusy g a = false) (hy : s.syncOperands g b a = .ok (tk, o, y))
include h hr hz hy

theorem arrive_runs (c : BitVec 2) (hp : s.performed g.gid arriveWaits = true) : exec (.arrive c b a) s = .next (
    if y.refuses then s.wordEffect g i (Group.answered (max g.lclock (s.opTime g.gid arriveWaits)) c.toNat y.refuses)
    else (((s.modGroup g.gid (Group.answered (max g.lclock (s.opTime g.gid arriveWaits)) c.toNat y.refuses)).setSync tk o
      (y.arrive ((g.sreg b.toNat).val.toNat % 65536))).raisePhase tk o
        (max g.lclock (s.opTime g.gid arriveWaits))).wordDone g i) := by
  show execArrive c b a s = _
  rw [execArrive, onGroup_at h]
  dsimp only
  rw [show s.hazard g [] [] [a.toNat, b.toNat] = false from hr, hz, hy]
  simp only [hp, Bool.or_self, Bool.not_true, Bool.false_eq_true, if_false]
  rw [finish_done _ _ _ _ rfl]
  cases y.refuses <;> rfl

omit h in
theorem swait_runs : ∃ f, exec (.swait b a) s = onWaiting s f ∧ f g i =
    if y.gen = (g.sreg b.toNat).val.toNat % 65536 then .wait s
    else .done ((if y.observe ((g.sreg b.toNat).val.toNat % 65536) = y then s
      else s.setSync tk o (y.observe ((g.sreg b.toNat).val.toNat % 65536))).acquired
        g (·.raise (s.phaseClock tk o)) 1 true true) := by
  refine ⟨_, rfl, ?_⟩
  dsimp only
  rw [show s.hazard g [] [] [a.toNat, b.toNat] = false from hr, hz, hy]
  rfl

variable {tm : Team} (ht : s.team tk = some tm) (hown : y = tm.syncWordAt o)
include ht hown

/-- `ARRIVE` adds to the word, or answers that it is refused (08 R207). -/
theorem arrive_answers (c : BitVec 2) (hp : s.performed g.gid arriveWaits = true) :
    ∃ t k tm', exec (.arrive c b a) s = .next t ∧ t.mem = s.mem ∧ t.group g.gid = some k ∧ t.team tk = some tm' ∧
      g.lclock ≤ k.lclock ∧ (∀ j, k.creg j = if j = c.toNat then decide (y.obs < y.reg) else g.creg j) ∧
      ∀ p, mapGet 0#8 tm'.scratch p = syncAt o (if y.obs < y.reg then y else y.arrive ((g.sreg b.toNat).val.toNat % 65536))
        (mapGet 0#8 tm.scratch) p := by
  have runs := arrive_runs h hr hz hy c hp
  generalize max g.lclock (s.opTime g.gid arriveWaits) = c0 at runs
  have group : (s.modGroup g.gid (Group.answered c0 c.toNat y.refuses)).group g.gid = some (g.answered c0 c.toNat y.refuses) :=
    State.group_modGroup_own h.here fun _ => rfl
  have later : g.lclock ≤ ((g.answered c0 c.toNat y.refuses).retire i.len).lclock := by
    rw [Group.retire_lclock]
    exact Nat.le_max_left _ _
  have creg : ∀ j, ((g.answered c0 c.toNat y.refuses).retire i.len).creg j =
      if j = c.toNat then y.refuses else g.creg j := fun j => by
    rw [Group.creg, Group.retire_cregs]
    exact Group.creg_setC _ c.isLt _ j
  by_cases refuses : y.obs < y.reg
  · have refused : y.refuses = true := decide_eq_true refuses
    rw [if_pos refused] at runs
    refine ⟨_, _, tm, runs, State.mem_wordDone .., State.group_wordDone i group,
      (State.team_wordDone ..).trans ht, later, creg, fun p => ?_⟩
    rw [if_pos refuses, hown, Team.syncAt_own]
  · have taken : y.refuses = false := decide_eq_false refuses
    rw [if_neg (by rw [taken]; decide)] at runs
    refine ⟨_, _, (tm.putSync o (y.arrive ((g.sreg b.toNat).val.toNat % 65536))).raisePhase o c0, runs, State.mem_wordDone ..,
      State.group_wordDone i group, (State.team_wordDone ..).trans ?_, later, creg, fun p => ?_⟩
    · exact State.team_modTeam (Team.raisePhase o c0) (fun _ => rfl)
        (State.team_modTeam (s := s.modGroup ..) (Team.putSync · o _) (fun _ => rfl) ht)
    · rw [if_neg refuses]
      exact tm.putSync_byte o _ p

omit ht hown in
/-- `SWAIT` waits out its generation (08 R208). -/
theorem swait_waits (hg : y.gen = (g.sreg b.toNat).val.toNat % 65536) : exec (.swait b a) s = .next (s.noteWait g.gid) := by
  obtain ⟨f, hf, runs⟩ := swait_runs hr hz hy
  exact hf.trans (onWaiting_wait h (runs.trans (if_pos hg)))

/-- `SWAIT` past its generation observes, as an acquire (08 R208). -/
theorem swait_observes (hg : y.gen ≠ (g.sreg b.toNat).val.toNat % 65536) :
    ∃ t k tm', exec (.swait b a) s = .next t ∧ t.mem = s.mem ∧ t.group g.gid = some k ∧ t.team tk = some tm' ∧
      mapGet 0 tm.phase o ≤ k.lclock ∧ (∀ j, k.creg j = g.creg j) ∧
      ∀ p, mapGet 0#8 tm'.scratch p = syncAt o (y.observe ((g.sreg b.toNat).val.toNat % 65536)) (mapGet 0#8 tm.scratch) p := by
  obtain ⟨f, hf, runs⟩ := swait_runs hr hz hy
  rw [if_neg hg] at runs
  generalize (g.sreg b.toNat).val.toNat % 65536 = n at runs
  have phase : s.phaseClock tk o = mapGet 0 tm.phase o := by rw [State.phaseClock, ht]; rfl
  rw [phase] at runs
  obtain ⟨u, hu, mem, group, tm', team, bytes⟩ : ∃ u, u = (if y.observe n = y then s else s.setSync tk o (y.observe n)) ∧
      u.mem = s.mem ∧ u.group g.gid = some g ∧ ∃ tm', u.team tk = some tm' ∧
        ∀ p, mapGet 0#8 tm'.scratch p = syncAt o (y.observe n) (mapGet 0#8 tm.scratch) p := by
    refine ⟨_, rfl, ?_⟩
    by_cases same : y.observe n = y
    · rw [if_pos same, same, hown]
      exact ⟨rfl, h.here, tm, ht, fun p => (tm.syncAt_own o p).symm⟩
    · rw [if_neg same]
      exact ⟨rfl, h.here, _, State.team_modTeam (Team.putSync · o _) (fun _ => rfl) ht, tm.putSync_byte o _⟩
  rw [← hu] at runs
  have acquired := acquired_group u g (·.raise (mapGet 0 tm.phase o)) 1 true true (fun _ => rfl) group
  refine ⟨_, _, tm', hf.trans (onWaiting_done h runs), ?_,
    State.group_wordDone i (State.group_modGroup_own acquired fun _ => rfl), ?_, ?_, fun j => ?_, bytes⟩
  · rw [State.mem_wordDone]
    exact (congrArg State.mem (acquired_rest u g (·.raise (mapGet 0 tm.phase o)) 1 true true)).trans mem
  · rw [State.team_wordDone]
    exact (congrArg (State.team · tk) (acquired_rest u g (·.raise (mapGet 0 tm.phase o)) 1 true true)).trans team
  · rw [Group.retire_lclock]
    exact (Nat.le_max_right _ _).trans (Nat.le_max_left _ _)
  · rw [Group.creg, Group.retire_cregs]
    rfl

end word

/-! ## CWAIT (08 R209) -/

/-- The accesses of a counter's lanes. -/
def counterAccs (ps : List (Nat × Place × List Loc)) : List LaneAcc := ps.map fun e => ⟨e.1, 0, e.2.2, [], false⟩

/-- The scope of the acquire of a counter, of DEVICE at least. -/
def State.counterScope (s : State) (g : Group) (accs : List LaneAcc) : Nat :=
  (atomsOf (devBytes accs)).foldl (fun m a =>
    max m (acquireScope 2 (s.writerOf g) ((findBy (fun v => v.atom == a) s.vars).map (·.writer)))) 2

section word
variable {s s' : State} {g : Group} {i : Issue} (h : AtWord s g i) {b a : BitVec 5} {ps : List (Nat × Place × List Loc)}
variable (hr : Ready s g [] [] [a.toNat, b.toNat]) (ha : (g.sreg a.toNat).poison = false) (hb : (g.sreg b.toNat).poison = false)
variable (hps : s.access g (· == 0) false 0 8 [(64, (g.sreg a.toNat).val.toNat)] = (s', .ok ps))
variable (hc : Coherent (counterAccs ps)) (hs : Sound s' g.world (devBytes (counterAccs ps)))
variable (h8 : ∀ e ∈ ps, e.2.2.length = 8)
variable (hl : ∀ x ∈ devBytes (counterAccs ps), mapGet none s'.l1 (copyKey g.core (x / 32)) = none)
variable (hm : s'.mayPerform
  ⟨s'.ids, g.gid, g.core, g.world, g.team, none, .load 0 8 false true (counterAccs ps), false, 0⟩ = true)
include hr ha hb hps hc hs h8 hl hm

/-- `CWAIT` reads its counter, and waits or goes on by what it holds. -/
theorem cwait_runs : ∃ f u c, exec (.cwait b a) s = onWaiting s f ∧ Filled s' u ∧ f g i =
    if ofBytes ((counterAccs ps).flatMap (locBytes s')) < (g.sreg b.toNat).val.toNat then .wait (u.modGroup g.gid (·.raise c))
    else .done (u.acquired g (·.raise c) (s'.counterScope g (counterAccs ps)) true true) := by
  have full : ∀ e ∈ counterAccs ps, e.locs ≠ [] := fun e he => by
    obtain ⟨q, hq, rfl⟩ := List.mem_map.1 he
    exact List.ne_nil_of_length_pos (by rw [h8 q hq]; decide)
  obtain ⟨u, time, read, filled⟩ := readGroup_near g.lclock (fun q hq => .inl (hc q hq)) hs.clean hl full
  refine ⟨_, u, time, rfl, filled, ?_⟩
  dsimp only
  have one : (counterAccs ps).map (·.lane) = [64] := by
    rw [counterAccs, List.map_map]
    exact access_lanes hps
  obtain ⟨e, only⟩ : ∃ e, counterAccs ps = [e] := List.length_eq_one_iff.1 (by simpa using congrArg List.length one)
  have clean : ((counterAccs ps).map (readAcc s')).any (·.poison) = false := by
    refine List.any_eq_false.2 fun r hr => ?_
    obtain ⟨q, hq, rfl⟩ := List.mem_map.1 hr
    have coherent : locPoison s' q = false := List.any_eq_false.2 fun l hl => by
      obtain ⟨p, rfl, -⟩ := hc q hq l hl
      exact Bool.false_ne_true
    exact Bool.eq_false_iff.1 coherent
  have value : ((((counterAccs ps).map (readAcc s')).head?.map fun r => ofBytes r.bytes).getD 0) =
      ofBytes ((counterAccs ps).flatMap (locBytes s')) := by
    rw [only]
    simp [readAcc]
  rw [show s.hazard g [] [] [a.toNat, b.toNat] = false from hr, sPoison_clean 0 (by simp [ha]), sPoison_clean 2 (by simp [hb])]
  simp only [firstCond, Res.unless, hps, Bool.false_eq_true, if_false]
  rw [show (ps.map fun e => (⟨e.1, 0, e.2.2, [], false⟩ : LaneAcc)) = counterAccs ps from rfl, hs.free, hm, read]
  simp only [Bool.not_true, Bool.or_self, Bool.false_eq_true, if_false, clean, value]
  rfl

omit ha hb hr hps hc hs h8 hl hm in
/-- A group that goes on past a wait of its own. -/
theorem groupWord_acquired {k : Group} (form : k = { g with lclock := k.lclock, since := none }) (later : g.lclock ≤ k.lclock)
    (n : Nat) : GroupWord { g with waiting := .no } { k.retire n with waiting := .no } := by
  have lanes : k.lanes = g.lanes := by rw [form]
  refine ⟨fun l => ?_, ?_, ?_⟩
  · show SameButPc (mapGet Lane.none g.lanes l) _
    rw [← lanes]
    exact k.retire_lane n l
  · show g.lclock ≤ (k.retire n).lclock
    rwa [Group.retire_lclock]
  · rw [Group.retire_lclock]
    exact congrArg (fun m : Group => { m with waiting := .no }) ((k.retire_rest n).trans (congrArg (fun m : Group =>
      { m with lanes := (k.retire n).lanes, issue := (k.retire n).issue, popped := (k.retire n).popped }) form))

include h

/-- `CWAIT` waits while its counter is below S[b] (08 R209). -/
theorem cwait_waits (at' : s'.group g.gid = some g)
    (low : ofBytes ((counterAccs ps).flatMap (locBytes s')) < (g.sreg b.toNat).val.toNat) :
    ∃ t k, exec (.cwait b a) s = .next t ∧ t.group g.gid = some k ∧ k.issue = g.issue ∧ ∀ p, t.byte p = s'.byte p := by
  obtain ⟨f, u, c, hf, filled, runs⟩ := cwait_runs (i := i) hr ha hb hps hc hs h8 hl hm
  refine ⟨_, _, hf.trans (onWaiting_wait h (runs.trans (if_pos low))), State.group_modGroup_own (g := g.raise c)
    (State.group_modGroup_own ((filled.group _).trans at') fun _ => rfl) (fun _ => rfl), rfl, filled.byte⟩

/-- `CWAIT` of a counter that has come to S[b] completes as an acquire (08 R209). -/
theorem cwait_goes (at' : s'.group g.gid = some g)
    (high : (g.sreg b.toNat).val.toNat ≤ ofBytes ((counterAccs ps).flatMap (locBytes s'))) :
    ∃ t k, exec (.cwait b a) s = .next t ∧ t.group g.gid = some k ∧ (∀ p, t.byte p = s'.byte p) ∧
      (∀ e ∈ t.ro, e.1 / copySpan ≠ g.core) ∧ (∀ e ∈ t.views, e.1 / copySpan ≠ g.core) ∧
      (∀ e ∈ s'.stamps, e.2.1 ≤ k.lclock) ∧ GroupWord { g with waiting := .no } { k with waiting := .no } := by
  obtain ⟨f, u, c, hf, filled, runs⟩ := cwait_runs (i := i) hr ha hb hps hc hs h8 hl hm
  rw [if_neg (Nat.not_lt.2 high)] at runs
  have wide : 2 ≤ s'.counterScope g (counterAccs ps) := le_foldl_max _ _ _
  generalize s'.counterScope g (counterAccs ps) = scope at runs wide
  have group := acquired_group u g (·.raise c) scope true true (fun _ => rfl) ((filled.group _).trans at')
  have rest := acquired_rest u g (·.raise c) scope true true
  rw [if_pos wide] at group
  generalize u.acquired g (·.raise c) scope true true = v at runs group rest
  have done := elsewhere_wordDone (v.modGroup g.gid Group.proceeds) g i
  have dropped : ∀ m : List (Nat × Option Copied), ∀ e ∈ dropCopies g.core m, e.1 / copySpan ≠ g.core := fun m e he => by
    simpa using (List.mem_filter.1 he).2
  refine ⟨_, _, hf.trans (onWaiting_done h runs), State.group_wordDone i (State.group_modGroup_own group fun _ => rfl),
    fun p => (done.bytes p).trans ?_, ?_, ?_, fun e he => ?_, groupWord_acquired rfl ?_ _⟩
  · show v.byte p = _
    rw [rest]
    exact filled.byte p
  · rw [done.rest]
    show ∀ e ∈ v.ro, _
    rw [rest]
    exact dropped _
  · rw [done.rest]
    show ∀ e ∈ v.views, _
    rw [rest]
    exact dropped _
  · obtain ⟨x, hx, same⟩ := filled.times e he
    rw [Group.retire_lclock, ← same]
    exact (le_lastWrite hx).trans (Nat.le_max_right _ _)
  · exact (Nat.le_max_left _ _).trans (Nat.le_max_left _ _)

end word

/-- Settles O29: `ARRIVE`, `SWAIT` and `CWAIT` act on their word alone. -/
theorem syncWords : Obligations.SyncWords := by
  unfold Obligations.SyncWords
  intro s g i c b a tk o tm h hr ha hb
  refine ⟨fun hp h16 ht hz hc => ?_, fun s' ps hps hcoh hs h8 at' hl hm =>
    ⟨cwait_waits h hr ha hb hps hcoh hs h8 hl hm at', cwait_goes h hr ha hb hps hcoh hs h8 hl hm at'⟩⟩
  have operands := syncOperands_ok ha hb hp h16 ht hc
  refine ⟨fun performed => ?_, swait_waits h hr hz operands, fun past => ?_⟩
  · obtain ⟨t, k, tm', runs, mem, group, team, clock, creg, bytes⟩ := arrive_answers h hr hz operands ht rfl c performed
    exact ⟨t, k, tm', runs, mem, group, team, clock, creg, syncAt_split bytes⟩
  · obtain ⟨t, k, tm', runs, mem, group, team, clock, creg, bytes⟩ := swait_observes h hr hz operands ht rfl past
    exact ⟨t, k, tm', runs, mem, group, team, clock, creg, syncAt_split bytes⟩

end Sys2Proof.Machine

/-!
PROOFS. A task that outlives the lanes of the group that posted it (08 R199, 12 R304): why `TasksAndWalks` fails.
-/
namespace Sys2Proof.Machine

/-! ## A task whose issuing group has exited (08 R199, 12 R304) -/

/-- A team with nothing but its scratchpad. -/
def taskTeam : Team :=
  { key := 2, grid := 3, world := 60, core := 0, slot := 0, teamid := 0, gang := 4,
    kernel := ⟨0x1000#64, 0#64, 16, 2, 0, 4096, 0, 0, 0#16, 0, 0#16⟩, args := 0#64, scratch := [], spoison := [], tiles := [],
    tstate := [], phase := [], bins := [], error := false }

/-- A task without operands, past its body and issued by group 10 as operation 8, that is to arrive at the sync word at 0. -/
def endingTask : Task :=
  ⟨7, 0, 2, 10, none, false, some 8, 0, 0x2000#64, 0#64, 0, 0, 0, [], 0, .draining, 0, 0, 0, none, false, 0⟩

/-- Group 10, its lanes exited, waits on flag 0 for its task alone; group 12 of its team goes on. -/
def endingMachine : State :=
  let s := { State.reset with teams := [taskTeam], tasks := [endingTask], ids := 10,
                              ops := [⟨8, 10, 0, 60, 2, some 0, .task 7, false, 0⟩] }
  let s := s.addGroup taskTeam 0 .launched 0x1000#64 [] [] 0
  (s.addGroup taskTeam 1 .launched 0x1000#64 [(0, 1024#32, none, 0#32)] [] 0).modGroup 10 fun g => { g with flags := [(0, 1)] }

/-- The task's arrival ends group 10, which its team notes among the groups it has had. -/
theorem endingMachine_past : (match exec (.taskEnd 7) endingMachine with
    | .next t => (t.team 2).map (·.past)
    | _ => none) = some [(10, 0)] := by decide +kernel

theorem endingMachine_asyncs : ∀ h ∈ endingMachine.groups, h.asyncs = [] := by decide +kernel

/-- Refutes O38: the completion of a task's operation ends a group that has exited and waits for nothing else (02 R39), and
its team then notes it among its past groups; the statement lets nothing of the team but scratchpad and phase clocks move. -/
theorem not_tasksAndWalks : ¬ Obligations.TasksAndWalks := by
  unfold Obligations.TasksAndWalks
  rintro ⟨-, -, stages⟩
  obtain ⟨-, -, -, -, -, -, -, -, ends, -⟩ := stages endingMachine 7 endingTask (by decide +kernel) rfl (by decide +kernel)
  obtain ⟨t, u, runs, -, -, team, pad, -⟩ := ends rfl rfl (by decide) (by decide +kernel) rfl (.inl (by decide +kernel)) taskTeam
    (by decide +kernel) (by decide +kernel) (by decide +kernel) fun _ h _ hg => endingMachine_asyncs h (findBy_mem hg)
  have past := endingMachine_past
  rw [runs] at past
  change (t.team 2).map (·.past) = _ at past
  rw [show t.team 2 = some u from team, pad.rest] at past
  exact absurd (Option.some.inj past) (show taskTeam.past ≠ [(10, 0)] by decide)

end Sys2Proof.Machine

/-!
PROOFS. `LAUNCH` accepted, waiting and refused (08 R216, 16 R353 to R356).
-/
namespace Sys2Proof.Machine

/-! ## A launch accepted (08 R216, 16 R356) -/

/-- A state with a launch as read at the end of its queue. -/
def State.enroll (s : State) (g : Group) : LaunchRead → State
  | .grid l k t => (s.newGrid g.world l k t (s.launchCluster g) none false).enqueue g.world l.prio false s.ids
  | .graph l xs es t =>
    ({ s with graphs := s.graphs ++ [newGraph s.ids g.world l xs es t (s.launchCluster g)], ids := s.ids + 1 }.startSpan
      g.world).enqueue g.world l.prio true s.ids

/-- A group that waits with what its launch has read. -/
def Group.holdsLaunch (r : LaunchRead) (h : Group) : Group := { h with launching := some r }
/-- A group whose launch has been accepted. -/
def Group.launchTaken (h : Group) : Group := { h with launching := none }

/-- What `LAUNCH` makes of the grids, the graphs, the queues and the polder of a state `s` as it is accepted. -/
def Enrolled (s t : State) (g : Group) (r : LaunchRead) : Prop := match r with
  | .grid l k time => ∃ m, t.grids = s.grids ++ [m] ∧ t.graphs = s.graphs ∧
    t.launches = s.launches ++ [⟨g.world, l.prio, false, m.key, s.clock, false⟩] ∧
    (t.polder g.world).gridid = (s.polder g.world).gridid + 1#32 ∧
    m = ⟨s.ids, g.world, (s.polder g.world).gridid, l.prio, l.attr.getLsbD 0 || k.attr.getLsbD 0,
      l.attr.getLsbD 1 || k.attr.getLsbD 1, k, l.gx, l.gy, l.gz, l.gang, l.args, l.ctr, l.cinc, l.poolcap, 0, 0,
      time, s.launchCluster g, none, false, l.target, (s.polder g.world).meters, time, false, none⟩
  | .graph l xs es time => t.grids = s.grids ∧
    t.graphs = s.graphs ++ [newGraph s.ids g.world l xs es time (s.launchCluster g)] ∧
    t.launches = s.launches ++ [⟨g.world, l.prio, true, s.ids, s.clock, false⟩]

theorem enroll_modGroup (s : State) (g : Group) (r : LaunchRead) (k : Nat) (F : Group → Group) :
    (s.modGroup k F).enroll g r = (s.enroll g r).modGroup k F := by cases r <;> rfl
theorem enroll_groups (s : State) (g : Group) (r : LaunchRead) : (s.enroll g r).groups = s.groups := by cases r <;> rfl
theorem enroll_mem (s : State) (g : Group) (r : LaunchRead) : (s.enroll g r).mem = s.mem := by cases r <;> rfl

theorem enroll_enrolled {s t : State} (g : Group) (r : LaunchRead) (h1 : t.grids = (s.enroll g r).grids)
    (h2 : t.graphs = (s.enroll g r).graphs) (h3 : t.launches = (s.enroll g r).launches)
    (h4 : (t.polder g.world).gridid = ((s.enroll g r).polder g.world).gridid) : Enrolled s t g r := by
  cases r with
  | grid l k time =>
    refine ⟨_, h1, h2, h3, h4.trans ?_, rfl⟩
    show (State.polder (State.setPolder _ _ _) _).gridid = _
    rw [State.polder_setPolder, if_pos rfl]
  | graph l xs es time => exact ⟨h1, h2, h3⟩

theorem accept_done {u : State} {g : Group} {r : LaunchRead} (b : BitVec 5) (room : u.queued g.world r.prio < 256) :
    u.accept g b r = .done ((((u.enroll g r).modGroup g.gid Group.launchTaken).meter g.world 26 1).launchDone g b 0) := by
  rw [State.accept, if_neg (Nat.not_le.2 room)]
  cases r <;> rfl
theorem accept_full {u : State} {g : Group} {r : LaunchRead} (b : BitVec 5) (full : 256 ≤ u.queued g.world r.prio) :
    u.accept g b r = .wait (u.modGroup g.gid (Group.holdsLaunch r)) := if_pos full

/-! ### The end of a launch -/

theorem Group.setS_proceeds (g : Group) (d : Nat) (v : SReg) : (g.setS d v).proceeds = g.proceeds.setS d v := by
  unfold Group.setS
  split <;> rfl

/-- A state in which a launch of `g` is done with status `n`. -/
def State.launchEnd (u : State) (g : Group) (i : Issue) (b : BitVec 5) (n : Nat) : State :=
  ((u.launchDone g b n).modGroup g.gid Group.proceeds).wordDone g i

section done
variable {u : State} {g k : Group} (i : Issue) (b : BitVec 5) (n : Nat)

theorem launchEnd_status (hk : u.group g.gid = some k) (form : k = { g with lclock := k.lclock, launching := none })
    (later : g.lclock ≤ k.lclock) : LaunchStatus (u.launchEnd g i b n) g b n := by
  have done : (u.launchDone g b n).group g.gid = some (k.setS b.toNat ⟨BitVec.ofNat 64 n, false⟩) :=
    State.group_modGroup_own hk fun h => h.setS_gid _ _
  have final := State.group_wordDone i (State.group_modGroup_own done (f := Group.proceeds) fun _ => rfl)
  rw [Group.setS_proceeds] at final
  have clock : ((k.proceeds.setS b.toNat ⟨BitVec.ofNat 64 n, false⟩).retire i.len).lclock = k.lclock := by
    rw [Group.retire_lclock, Group.setS_lclock]
    rfl
  have frame := k.proceeds.setS_retire_frame b.toNat ⟨BitVec.ofNat 64 n, false⟩ i.len
  refine ⟨_, final, by rwa [clock], ?_⟩
  rw [clock]
  have start : { g with lclock := k.lclock, since := none, launching := none } = k.proceeds :=
    congrArg Group.proceeds form.symm
  rwa [start]

theorem launchEnd_rest : u.launchEnd g i b n =
    { u with groups := (u.launchEnd g i b n).groups, pldrs := (u.launchEnd g i b n).pldrs } :=
  (elsewhere_wordDone ((u.launchDone g b n).modGroup g.gid Group.proceeds) g i).rest

theorem launchEnd_gridid (w : Nat) : ((u.launchEnd g i b n).polder w).gridid = (u.polder w).gridid := by
  obtain ⟨m, polder, -⟩ := (elsewhere_wordDone ((u.launchDone g b n).modGroup g.gid Group.proceeds) g i).polder w
  rw [State.launchEnd, polder]
  rfl

end done

section word
variable {s s2 : State} {g : Group} {i : Issue} (h : AtWord s g i) {b a : BitVec 5} {r : LaunchRead}
variable {f : Group → Issue → Res} (hf : exec (.launch b a) s = onWaiting s f) {c : Nat}
variable (runs : f g i = (s2.modGroup g.gid (·.raise c)).accept g b r) (here : s2.group g.gid = some g)
include h hf runs here

/-- A launch whose queue has room is accepted. -/
theorem accept_enrolls (room : s2.queued g.world r.prio < 256) : ∃ t, exec (.launch b a) s = .next t ∧ LaunchStatus t g b 0 ∧
    t.mem = s2.mem ∧ Enrolled s2 t g r := by
  have accepts : (s2.modGroup g.gid (·.raise c)).accept g b r = .done ((((s2.enroll g r).modGroup g.gid
      (·.raise c)).modGroup g.gid Group.launchTaken).meter g.world 26 1 |>.launchDone g b 0) := by
    rw [accept_done b (u := s2.modGroup g.gid (·.raise c)) room, enroll_modGroup]
  have group : (((s2.enroll g r).modGroup g.gid (·.raise c)).modGroup g.gid Group.launchTaken |>.meter g.world 26 1).group
      g.gid = some (g.raise c).launchTaken := by
    rw [State.group_meter]
    refine State.group_modGroup_own (State.group_modGroup_own ?_ fun _ => rfl) fun _ => rfl
    rw [State.group, enroll_groups]
    exact here
  obtain ⟨m, meters, -⟩ := (((s2.enroll g r).modGroup g.gid (·.raise c)).modGroup g.gid Group.launchTaken).polder_meter
    g.world 26 1 g.world
  have rest := launchEnd_rest (u := (((s2.enroll g r).modGroup g.gid (·.raise c)).modGroup g.gid Group.launchTaken).meter
    g.world 26 1) (g := g) i b 0
  refine ⟨_, hf.trans (onWaiting_done h (runs.trans accepts)), launchEnd_status i b 0 group rfl (Nat.le_max_left _ _), ?_,
    enroll_enrolled g r ?_ ?_ ?_ ?_⟩
  · refine (congrArg State.mem rest).trans ?_
    simp [enroll_mem]
  · refine (congrArg State.grids rest).trans ?_
    simp
  · refine (congrArg State.graphs rest).trans ?_
    simp
  · refine (congrArg State.launches rest).trans ?_
    simp
  · refine (launchEnd_gridid i b 0 _).trans ?_
    rw [meters]
    rfl

/-- A launch whose queue is full waits with what it has read. -/
theorem accept_waits (full : 256 ≤ s2.queued g.world r.prio) : ∃ t, exec (.launch b a) s = .next t ∧ t.mem = s2.mem ∧
    t.launches = s2.launches ∧ t.group g.gid = some (((g.raise c).holdsLaunch r).stays s2) := by
  have waits := accept_full b (u := s2.modGroup g.gid (·.raise c)) full
  refine ⟨_, hf.trans (onWaiting_wait h (runs.trans waits)), rfl, rfl, ?_⟩
  have raised : (s2.modGroup g.gid (·.raise c)).group g.gid = some (g.raise c) := State.group_modGroup_own here fun _ => rfl
  exact State.group_modGroup_own (g := (g.raise c).holdsLaunch r) (State.group_modGroup_own raised fun _ => rfl) fun _ => rfl

end word

/-! ## LAUNCH (08 R216) -/

section word
variable {s : State} {g : Group} {i : Issue} (h : AtWord s g i) (b : BitVec 5) {a : BitVec 5}

/-- A group whose launch has been read goes on to its acceptance. -/
theorem launch_resumes {r : LaunchRead} (hr : g.launching = some r) : ∃ f, exec (.launch b a) s = onWaiting s f ∧
    f g i = (s.modGroup g.gid (·.raise 0)).accept g b r := by
  refine ⟨_, rfl, ?_⟩
  rw [State.modGroup_same _ _ _ fun k => by simp [Group.raise]]
  dsimp only
  rw [hr]

include h

/-- `LAUNCH` with what it has read: accepted where its queue has room, and waiting else. -/
theorem launch_held {r : LaunchRead} (hr : g.launching = some r) :
    (256 ≤ s.queued g.world r.prio → ∃ t, exec (.launch b a) s = .next t ∧ t.mem = s.mem ∧ t.launches = s.launches ∧
      t.group g.gid = some (g.stays s)) ∧
    (s.queued g.world r.prio < 256 → ∃ t, exec (.launch b a) s = .next t ∧ LaunchStatus t g b 0 ∧ t.mem = s.mem ∧
      Enrolled s t g r) := by
  obtain ⟨f, hf, runs⟩ := launch_resumes (i := i) b (a := a) hr
  have same : (g.raise 0).holdsLaunch r = g := by
    rw [Group.raise, Nat.max_zero, Group.holdsLaunch, ← hr]
  refine ⟨fun full => ?_, accept_enrolls h hf runs h.here⟩
  have waits := accept_waits h hf runs h.here full
  rwa [same] at waits

section reads
variable (hl : g.launching = none) (hz : Ready s g [] [] [a.toNat, b.toNat]) (ha : (g.sreg a.toNat).poison = false)
variable (h56 : (g.sreg a.toNat).val.toNat < 2 ^ 56) (hp : g.world = 60 → s.physOk (g.sreg a.toNat).val.toNat = true)
variable (h64 : (g.sreg a.toNat).val.toNat % 64 = 0)
include hl hz ha h56 hp h64

omit h in
/-- `LAUNCH` at a record that it may read. -/
theorem launch_runs : ∃ f, exec (.launch b a) s = onWaiting s f ∧ f g i =
    if !s.performed g.gid launchWaits || !s.active g.world then .wait s
    else match s.takeLaunch g.core g.world (max g.lclock (s.opTime g.gid launchWaits)) (g.sreg a.toNat).val.toNat with
      | (s, .error .wait) => .wait s
      | (s, .error (.trap c)) => .trap s c
      | (s, .ok (.error n, t)) => .done ((s.modGroup g.gid (·.raise t)).launchDone g b n)
      | (s, .ok (.ok r, t)) => (s.modGroup g.gid (·.raise t)).accept g b r := by
  refine ⟨_, rfl, ?_⟩
  have low : ¬((g.sreg a.toNat).val.toNat / 2 ^ 56 ≠ 0 ∨ (g.world = 60 ∧ s.physOk (g.sreg a.toNat).val.toNat = false)) := by
    rintro (e | ⟨e, f⟩)
    · exact e (Nat.div_eq_of_lt h56)
    · exact absurd (hp e) (by rw [f]; decide)
  dsimp only
  rw [hl, show s.hazard g [] [] [a.toNat, b.toNat] = false from hz, sPoison_clean 0 (by simp [ha]), if_neg low,
    if_neg (not_not.2 h64)]
  simp only [firstCond, Bool.false_eq_true, if_false]
  refine if_congr Iff.rfl rfl ?_
  rcases s.takeLaunch g.core g.world (max g.lclock (s.opTime g.gid launchWaits)) (g.sreg a.toNat).val.toNat with
    ⟨s1, (_ | c) | ⟨n | r, t⟩⟩ <;> rfl

theorem launch_waits (hw : s.performed g.gid launchWaits = false) : exec (.launch b a) s = .next (s.noteWait g.gid) := by
  obtain ⟨f, hf, runs⟩ := launch_runs (i := i) b hl hz ha h56 hp h64
  exact hf.trans (onWaiting_wait h (runs.trans (if_pos (by rw [hw]; rfl))))

section taken
variable (hw : s.performed g.gid launchWaits = true) (hact : s.active g.world = true) {s1 : State} {time : Nat}
variable (here : s1.group g.gid = some g)
include hw hact here

/-- A launch refused leaves its status. -/
theorem launch_refused {n : Nat} (take : s.takeLaunch g.core g.world (max g.lclock (s.opTime g.gid launchWaits))
      (g.sreg a.toNat).val.toNat = (s1, .ok (.error n, time))) :
    ∃ t, exec (.launch b a) s = .next t ∧ LaunchStatus t g b n ∧ t.mem = s1.mem ∧ t.launches = s1.launches ∧
      t.grids = s1.grids ∧ t.graphs = s1.graphs := by
  obtain ⟨f, hf, runs⟩ := launch_runs (i := i) b hl hz ha h56 hp h64
  rw [if_neg (by rw [hw, hact]; decide), take] at runs
  have group : (s1.modGroup g.gid (·.raise time)).group g.gid = some (g.raise time) :=
    State.group_modGroup_own here fun _ => rfl
  have rest := launchEnd_rest (u := s1.modGroup g.gid (·.raise time)) (g := g) i b n
  refine ⟨_, hf.trans (onWaiting_done h runs), launchEnd_status i b n group ?_ (Nat.le_max_left _ _),
    (congrArg State.mem rest).trans rfl, (congrArg State.launches rest).trans rfl, (congrArg State.grids rest).trans rfl,
    (congrArg State.graphs rest).trans rfl⟩
  rw [← hl]
  rfl

/-- A sound launch is accepted where its queue has room, and waits with what it has read else. -/
theorem launch_taken {r : LaunchRead} (take : s.takeLaunch g.core g.world (max g.lclock (s.opTime g.gid launchWaits))
      (g.sreg a.toNat).val.toNat = (s1, .ok (.ok r, time))) :
    (s1.queued g.world r.prio < 256 → ∃ t, exec (.launch b a) s = .next t ∧ LaunchStatus t g b 0 ∧ t.mem = s1.mem ∧
      Enrolled s1 t g r) ∧
    (256 ≤ s1.queued g.world r.prio → ∃ t, exec (.launch b a) s = .next t ∧ t.mem = s1.mem ∧ t.launches = s1.launches ∧
      t.group g.gid = some (((g.raise time).holdsLaunch r).stays s1)) := by
  obtain ⟨f, hf, runs⟩ := launch_runs (i := i) b hl hz ha h56 hp h64
  rw [if_neg (by rw [hw, hact]; decide), take] at runs
  exact ⟨accept_enrolls h hf runs here, accept_waits h hf runs here⟩

end taken
end reads
end word
end Sys2Proof.Machine

/-!
PROOFS. What a launch reads, at one time (08 R216, 16 R355).
-/
namespace Sys2Proof.Machine

/-! ## The one logical time of a launch's reads (08 R216) -/

/-- The reads of a launch have one time, no earlier than the group's clock and each write of what they read. -/
theorem readAt_time (s : State) (c : Nat) (pas : List Nat) : ∃ t time, s.readAt c pas = (t, time) ∧ t.mem = s.mem ∧ c ≤ time ∧
    ∀ p ∈ pas, (s.stamp (p / 32)).1 ≤ time := by
  have mem : (s.readAt c pas).1.mem = s.mem :=
    foldl_keeps State.mem (atomsOf pas) (fun u a => u.setStamp a ((u.stamp a).1, max (s.readAt c pas).2 (u.stamp a).2))
      (fun _ _ => rfl) s
  refine ⟨_, _, rfl, mem, le_foldl_max _ _ _, fun p hp => ?_⟩
  exact le_foldl_max_of_mem (fun a => (s.stamp a).1) (mem_atomsOf.2 ⟨p, hp, rfl⟩) c

section take
variable {s s1 : State} {core w c a : Nat} {r : List Byte} {pas : List Nat}
variable (hr : s.takeClean core w c a 64 = (s1, .ok (r, pas)))

/-- What a launch reads is answered by `f` of the reads' one time, `s2` being where the reads of `pas` lead. -/
def ReadsAt (s s2 : State) (core w c a : Nat) (pas : List Nat) (f : Nat → Except Nat LaunchRead) : Prop := ∃ t time,
  s.takeLaunch core w c a = (t, .ok (f time, time)) ∧ t.mem = s2.mem ∧ c ≤ time ∧ ∀ p ∈ pas, (s2.stamp (p / 32)).1 ≤ time

/-- What a launch of a graph is as its record `r` and its template are read at a time. -/
def graphAnswer (r : List Byte) (t : Nat) : Option (List NodeBody × List (Nat × Nat)) → Except Nat LaunchRead
  | none => .error 1
  | some (xs, es) => if launchStatus r none = 0 then .ok (.graph (launchOf r) xs es t) else .error (launchStatus r none)

include hr

theorem takeLaunch_refuses_grid {s2 : State} {n : Nat} {more : List Nat} (hk : launchKind r = 0)
    (hg : s1.takeGrid core w c r = (s2, .ok (.error n, more))) : ReadsAt s s2 core w c a (pas ++ more) fun _ => .error n := by
  obtain ⟨t, time, read, spec⟩ := readAt_time s2 c (pas ++ more)
  refine ⟨t, time, ?_, spec⟩
  rw [State.takeLaunch, hr]
  simp only [hk, hg, read, if_true]

theorem takeLaunch_grid {s2 : State} {l : Launch} {k : Kernel} {more : List Nat} (hk : launchKind r = 0)
    (hg : s1.takeGrid core w c r = (s2, .ok (.ok (l, k), more))) :
    ReadsAt s s2 core w c a (pas ++ more) fun t => .ok (.grid l k t) := by
  obtain ⟨t, time, read, spec⟩ := readAt_time s2 c (pas ++ more)
  refine ⟨t, time, ?_, spec⟩
  rw [State.takeLaunch, hr]
  simp only [hk, hg, read, if_true]

theorem takeLaunch_stray (hk : launchKind r = 1) (hp : lowPath (launchOf r).target.toNat 64 = false) :
    ReadsAt s s1 core w c a (pas ++ []) fun _ => .error 1 := by
  obtain ⟨t, time, read, spec⟩ := readAt_time s1 c (pas ++ [])
  refine ⟨t, time, ?_, spec⟩
  rw [State.takeLaunch, hr]
  simp only [hk, hp, read, Nat.one_ne_zero, Bool.not_false, if_false, if_true]

theorem takeLaunch_graph {s2 : State} {x : Option (List NodeBody × List (Nat × Nat))} {more : List Nat} (hk : launchKind r = 1)
    (hp : lowPath (launchOf r).target.toNat 64 = true)
    (hg : s1.takeGraph core w c (launchOf r).target.toNat = (s2, .ok (x, more))) :
    ReadsAt s s2 core w c a (pas ++ more) fun t => graphAnswer r t x := by
  obtain ⟨t, time, read, spec⟩ := readAt_time s2 c (pas ++ more)
  refine ⟨t, time, ?_, spec⟩
  rw [State.takeLaunch, hr]
  rcases x with _ | ⟨xs, es⟩ <;> simp [hk, hp, hg, read, graphAnswer]

end take
end Sys2Proof.Machine

/-!
PROOFS. Groups as they start, and bins (16 R358, 08 R201, 10 R261).
-/
namespace Sys2Proof.Machine

/-! ## A group as its launch starts it (16 R358) -/

/-- A map listed over the first numbers. -/
theorem mapGet_range {α : Type} (d : α) (f : Nat → α) {n l : Nat} (h : l < n) :
    mapGet d ((List.range n).map fun k => (k, f k)) l = f l := by
  have from_ : ∀ m a, a ≤ l → l < a + m → mapGet d ((List.range' a m).map fun k => (k, f k)) l = f l := by
    intro m
    induction m with
    | zero => intro a h1 h2; omega
    | succ m ih =>
      intro a h1 h2
      rw [List.range'_succ, List.map_cons, mapGet]
      by_cases e : l = a
      · rw [if_pos e, e]
      · rw [if_neg e]
        exact ih (a + 1) (by omega) (by omega)
  rw [List.range_eq_range']
  exact from_ n 0 (Nat.zero_le _) (by omega)

/-- Threads from lane 0: TIDs, and what V0 holds where it is given. -/
def threads (n teamid : Nat) (tid : Nat → Word) (v0 : Nat → Option Reg) : List Thread :=
  (List.range n).map fun l => (l, tid l, v0 l, threadSeed (tid l) teamid)

/-- A group added stands in its slot as its launch starts it. -/
theorem addGroup_started (s : State) (t : Team) (slot : Nat) (kind : GroupKind) (entry : DWord) (n : Nat) (tid : Nat → Word)
    (v0 : Nat → Option Reg) (clock : Nat) : ∃ g, s.addGroup t slot kind entry (threads n t.teamid tid v0)
      (startRegs [(1, ⟨t.args, false⟩)]) clock = { s with groups := s.groups ++ [g], ids := s.ids + 2 } ∧ g.slot = slot ∧
      g.kind = kind ∧ Started g t entry n tid (fun l => (v0 l).getD ⟨0#32, false⟩) clock := by
  refine ⟨_, rfl, rfl, rfl, ⟨rfl, rfl, rfl, rfl, rfl⟩, fun l hl => ?_, fun r => ?_, ⟨rfl, rfl, rfl, rfl, rfl, rfl, rfl⟩,
    s.ids + 1, rfl⟩
  · simp only [Group.lane, threads, List.map_map, Function.comp_def]
    rw [mapGet_range Lane.none _ hl]
    refine ⟨rfl, rfl, rfl, rfl, fun r => ?_⟩
    cases v0 l with
    | none => simp [Lane.vreg, mapGet]
    | some v => simp [Lane.vreg, mapGet]
  · simp only [Group.sreg, startRegs, List.foldl_cons, List.foldl_nil, mapGet_mapSet, mapGet]
    by_cases h0 : r = 0 <;> simp [h0]

/-! ## Bins (10 R261) -/

/-- An entry of a list replaced. -/
theorem getElem?_map_zipIdx_at {α : Type} (l : List α) (n : Nat) (f : α → α) (j : Nat) :
    (l.zipIdx.map fun e => if e.2 = n then f e.1 else e.1)[j]? = if j = n then (l[j]?).map f else l[j]? := by
  rw [List.getElem?_map, List.getElem?_zipIdx]
  by_cases h : j = n <;> cases l[j]? <;> simp [h]

/-- The threads of records in order. -/
theorem threads_recs (rs : List BinRec) (teamid : Nat) :
    (rs.take 64).zipIdx.map (fun e => ((e.2, e.1.tid, some e.1.payload, threadSeed e.1.tid teamid) : Thread)) =
      threads (min rs.length 64) teamid (fun l => ((rs[l]?).map (·.tid)).getD 0#32) fun l => (rs[l]?).map (·.payload) := by
  refine List.ext_getElem? fun j => ?_
  rw [threads, List.getElem?_map, List.getElem?_zipIdx, List.getElem?_map]
  by_cases h : j < min rs.length 64
  · have inside : (rs.take 64)[j]? = rs[j]? := List.getElem?_take_of_lt (by omega)
    have here : rs[j]? = some (rs[j]'(by omega)) := List.getElem?_eq_getElem (by omega)
    rw [List.getElem?_range h, inside]
    simp [here]
  · rw [List.getElem?_eq_none (l := rs.take 64) (by rw [List.length_take]; omega),
      List.getElem?_eq_none (l := List.range _) (by rw [List.length_range]; omega)]
    rfl

/-- A team with one of its bins changed. -/
def Team.withBin (n : Nat) (f : Bin → Bin) (t : Team) : Team :=
  { t with bins := t.bins.zipIdx.map fun e => if e.2 = n then f e.1 else e.1 }

theorem Team.withBin_bins {t : Team} {n : Nat} {b : Bin} (hb : t.bins[n]? = some b) (f : Bin → Bin) :
    (t.withBin n f).bins[n]? = some (f b) ∧ ∀ j, j ≠ n → (t.withBin n f).bins[j]? = t.bins[j]? := by
  refine ⟨(getElem?_map_zipIdx_at _ _ _ _).trans ?_, fun j hj => (getElem?_map_zipIdx_at _ _ _ _).trans (if_neg hj)⟩
  rw [if_pos rfl, hb]
  rfl

section bins
variable {s : State} {t : Team} {n : Nat} {b : Bin} (ht : s.team t.key = some t) (hb : t.bins[n]? = some b)
variable (hm : s.mayStart t = true)
include ht hb hm

/-- A bin whose timer has passed is due (08 R201). -/
theorem bintimer_due {r : BinRec} (hr : b.recs.head? = some r) (late : r.posted + t.kernel.timer ≤ s.clock) :
    ∃ u v, exec (.bintimerExpiry t.key n) s = .next u ∧ u = { s with teams := u.teams } ∧ u.team t.key = some v ∧
      v.bins[n]? = some { b with due := true } ∧ ∀ j, j ≠ n → v.bins[j]? = t.bins[j]? := by
  have runs : exec (.bintimerExpiry t.key n) s = .next (s.modTeam t.key (Team.withBin n fun b => { b with due := true })) := by
    show execBintimerExpiry t.key n s = _
    rw [execBintimerExpiry, ht]
    simp only [hb, Option.bind_some, hr, hm, late, decide_true, Bool.and_self, if_true]
    rfl
  exact ⟨_, _, runs, rfl, State.team_modTeam (Team.withBin n _) (fun _ => rfl) ht, Team.withBin_bins hb _⟩

/-- A ready bin starts a group of its records (10 R261). -/
theorem binLaunch_starts {age slot : Nat} (hr : b.ready t.kernel.timer = some age) (hs : s.freeSlot t.core = some slot)
    (hl : t.lowerBin n age = false) (hc : s.canServe (s.poolOf t.core t.grid) age 256 (granules t.kernel.frame) = true) :
    ∃ u v g, exec (.binLaunch t.key n) s = .next u ∧ u.mem = s.mem ∧ u.groups = s.groups ++ [g] ∧ g.slot = slot ∧
      g.kind = .spawned ∧ u.team t.key = some v ∧ (∀ j, j ≠ n → v.bins[j]? = t.bins[j]?) ∧
      v.bins[n]? = some ⟨if b.recs.drop 64 = [] then none else b.key, b.recs.drop 64, false⟩ ∧
      Started g t (b.key.getD 0#64) (min b.recs.length 64) (fun l => ((b.recs[l]?).map (·.tid)).getD 0#32)
        (fun l => ((b.recs[l]?).map (·.payload)).getD ⟨0#32, false⟩) (((s.grid t.grid).map (·.launcher)).getD 0) := by
  obtain ⟨g, adds, at_, kind, started⟩ := addGroup_started s t slot .spawned (b.key.getD 0#64) (min b.recs.length 64)
    (fun l => ((b.recs[l]?).map (·.tid)).getD 0#32) (fun l => (b.recs[l]?).map (·.payload))
    (((s.grid t.grid).map (·.launcher)).getD 0)
  rw [← threads_recs] at adds
  have runs : exec (.binLaunch t.key n) s = .next ({ s with groups := s.groups ++ [g], ids := s.ids + 2 }.modTeam t.key
      (Team.withBin n fun _ => ⟨if b.recs.drop 64 = [] then none else b.key, b.recs.drop 64, false⟩)) := by
    show execBinLaunch t.key n s = _
    rw [execBinLaunch, ht]
    simp only [hb, hr, hs, hm, hl, hc, Bool.not_true, Bool.or_self, Bool.false_eq_true, if_false, adds]
    rfl
  obtain ⟨own, others⟩ := Team.withBin_bins hb fun _ => ⟨if b.recs.drop 64 = [] then none else b.key, b.recs.drop 64, false⟩
  exact ⟨_, _, g, runs, rfl, rfl, at_, kind, State.team_modTeam (Team.withBin n _) (fun _ => rfl) ht, others, own, started⟩

end bins
end Sys2Proof.Machine

/-!
PROOFS. Teams placed whole (16 R358, R359).
-/
namespace Sys2Proof.Machine

/-! ## Free slots (16 R358, R359) -/

/-- As many slots of a core are free as it has beside those of its groups. -/
theorem freeSlots_length {s : State} {core m : Nat} (h : m ≤ (s.freeOf core).1) : (s.freeSlots core m).length = m := by
  have room : m ≤ 256 - (s.groups.filter fun g => g.core == core).length := h
  let taken := fun k => s.groups.any fun g => g.core == core && g.slot == k
  have named : (List.range 256).filter taken ⊆ (s.groups.filter fun g => g.core == core).map (·.slot) := fun k hk => by
    obtain ⟨g, hg, e⟩ := List.any_eq_true.1 (List.mem_filter.1 hk).2
    rw [Bool.and_eq_true] at e
    exact List.mem_map.2 ⟨g, List.mem_filter.2 ⟨hg, e.1⟩, eq_of_beq e.2⟩
  have few := (List.subperm_of_subset (List.nodup_range.filter taken) named).length_le
  have split := List.length_eq_length_filter_add (l := List.range 256) taken
  rw [List.length_range] at split
  rw [List.length_map] at few
  have free : (s.freeSlots core m).length = min m ((List.range 256).filter fun k => !taken k).length := List.length_take
  omega

theorem freeSlots_free {s : State} {core m k : Nat} (h : k ∈ s.freeSlots core m) :
    ∀ g ∈ s.groups, g.core = core → g.slot ≠ k := fun g hg hc hk => by
  have free := (List.mem_filter.1 (List.mem_of_mem_take h)).2
  rw [Bool.not_eq_true', List.any_eq_false] at free
  exact free g hg (by simp [hc, hk])

/-! ## A team placed (16 R358) -/

/-- A group as a placement starts it at `e`, a slot and a number: its threads are numbered from 64 times that. -/
def LaunchedAt (x : Team) (clock : Nat) (e : Nat × Nat) (g : Group) : Prop := g.slot = e.1 ∧ g.kind = .launched ∧
  Started g x x.kernel.entry 64 (fun l => BitVec.ofNat 32 (64 * e.2 + l)) (fun _ => ⟨0#32, false⟩) clock

/-- The groups of a team started one after another. -/
theorem addGroups_launched (x : Team) (clock : Nat) (slots : List (Nat × Nat)) (s : State) :
    ∃ gs n, slots.foldl (fun s e => s.addGroup x e.1 .launched x.kernel.entry
        (threads 64 x.teamid (fun l => BitVec.ofNat 32 (64 * e.2 + l)) fun _ => none)
        (startRegs [(1, ⟨x.args, false⟩)]) clock) s =
      { s with groups := s.groups ++ gs, ids := n } ∧ (∀ e ∈ slots, ∃ g ∈ gs, LaunchedAt x clock e g) ∧
      ∀ g ∈ gs, ∃ e ∈ slots, LaunchedAt x clock e g := by
  induction slots generalizing s with
  | nil => exact ⟨[], s.ids, by rw [List.append_nil]; rfl, by simp, by simp⟩
  | cons e slots ih =>
    obtain ⟨g, adds, slot, kind, started⟩ := addGroup_started s x e.1 .launched x.kernel.entry 64
      (fun l => BitVec.ofNat 32 (64 * e.2 + l)) (fun _ => none) clock
    obtain ⟨gs, n, rest, each, all⟩ := ih { s with groups := s.groups ++ [g], ids := s.ids + 2 }
    refine ⟨g :: gs, n, ?_, List.forall_mem_cons.2 ⟨⟨g, List.mem_cons_self .., slot, kind, started⟩, fun d hd => ?_⟩,
      List.forall_mem_cons.2 ⟨⟨e, List.mem_cons_self .., slot, kind, started⟩, fun h hh => ?_⟩⟩
    · rw [List.foldl_cons, adds, rest]
      simp
    · obtain ⟨h, hh, launched⟩ := each d hd
      exact ⟨h, List.mem_cons_of_mem _ hh, launched⟩
    · obtain ⟨d, hd, launched⟩ := all h hh
      exact ⟨d, List.mem_cons_of_mem _ hd, launched⟩

/-- A team of a grid as it is placed. -/
structure PlacedTeam (x : Team) (k : Grid) (core teamid gang : Nat) : Prop where
  grid    : x.grid = k.key
  world   : x.world = k.world
  core    : x.core = core
  teamid  : x.teamid = teamid
  gang    : x.gang = gang
  kernel  : x.kernel = k.kernel
  args    : x.args = k.args
  scratch : x.scratch = []
  tiles   : x.tiles = []
  bins    : x.bins = List.replicate k.kernel.bins ⟨none, [], false⟩

/-- The team that is placed. -/
def State.newTeam (s : State) (k : Grid) (core teamid gang : Nat) : Team :=
  { key := s.ids, grid := k.key, world := k.world, core := core,
    slot := (findBy (fun x => !s.teams.any fun t => t.core == core && t.slot == x) (List.range 256)).getD 0, teamid := teamid,
    gang := gang, kernel := k.kernel, args := k.args, scratch := [], spoison := [], tiles := [], tstate := [], phase := [],
    bins := List.replicate k.kernel.bins ⟨none, [], false⟩, error := false }

theorem newTeam_placed (s : State) (k : Grid) (core teamid gang : Nat) :
    PlacedTeam (s.newTeam k core teamid gang) k core teamid gang := ⟨rfl, rfl, rfl, rfl, rfl, rfl, rfl, rfl, rfl, rfl⟩

/-- A team placed on a core that has room for its groups. -/
theorem placeTeam_places {s : State} {k : Grid} {core : Nat} (room : k.kernel.groups ≤ (s.freeOf core).1) (teamid gang : Nat) :
    ∃ x gs n, s.placeTeam k core teamid gang = { s with teams := s.teams ++ [x], groups := s.groups ++ gs, ids := n } ∧
      PlacedTeam x k core teamid gang ∧ (∀ g ∈ gs, g.core = core ∧ g ∉ s.groups) ∧
      ∀ j < k.kernel.groups, ∃ g ∈ gs, g.kind = .launched ∧
        Started g x k.kernel.entry 64 (fun l => BitVec.ofNat 32 (64 * j + l)) (fun _ => ⟨0#32, false⟩) k.launcher := by
  obtain ⟨gs, n, adds, each, all⟩ := addGroups_launched (s.newTeam k core teamid gang) k.launcher
    (s.freeSlots core k.kernel.groups).zipIdx { s with teams := s.teams ++ [s.newTeam k core teamid gang], ids := s.ids + 1 }
  refine ⟨_, gs, n, adds, newTeam_placed s k core teamid gang, fun g hg => ?_, fun j hj => ?_⟩
  · obtain ⟨e, he, slot, -, started⟩ := all g hg
    have stands : g.core = core := started.place.1
    exact ⟨stands, fun old => freeSlots_free (List.fst_mem_of_mem_zipIdx he) g old stands slot⟩
  · have here : j < (s.freeSlots core k.kernel.groups).length := by rwa [freeSlots_length room]
    obtain ⟨g, hg, -, kind, started⟩ := each ((s.freeSlots core k.kernel.groups)[j], j) (List.mk_mem_zipIdx_iff_getElem?.2
      (List.getElem?_eq_getElem here))
    exact ⟨g, hg, kind, started⟩

/-! ## A gang placed (16 R358) -/

/-- A core's free slots are as they were where no group of it is added. -/
theorem freeOf_slots {s t : State} {gs : List Group} {core : Nat} (hg : t.groups = s.groups ++ gs)
    (away : ∀ g ∈ gs, g.core ≠ core) : (t.freeOf core).1 = (s.freeOf core).1 := by
  have none : gs.filter (fun g => g.core == core) = [] := List.filter_eq_nil_iff.2 fun g h => by simpa using away g h
  show 256 - (t.groups.filter fun g => g.core == core).length = 256 - (s.groups.filter fun g => g.core == core).length
  rw [hg, List.filter_append, none, List.append_nil]

/-- Teams placed on consecutive cores from `base`. -/
structure PlacedTeams (s : State) (k : Grid) (base gang : Nat) (new : List Team) (gs : List Group) : Prop where
  cores : ∀ g ∈ gs, g.core < base + new.length
  teams : ∀ i x, new[i]? = some x → PlacedTeam x k (base + i) (k.next + i) gang ∧
    ∀ j < k.kernel.groups, ∃ g ∈ gs, g ∉ s.groups ∧ g.kind = .launched ∧
      Started g x k.kernel.entry 64 (fun l => BitVec.ofNat 32 (64 * j + l)) (fun _ => ⟨0#32, false⟩) k.launcher

theorem placeTeams_places {s : State} {k : Grid} {base : Nat} (gang n : Nat)
    (room : ∀ i < n, k.kernel.groups ≤ (s.freeOf (base + i)).1) : ∃ new gs ids,
      (List.range n).foldl (fun s i => s.placeTeam k (base + i) (k.next + i) gang) s =
        { s with teams := s.teams ++ new, groups := s.groups ++ gs, ids := ids } ∧ new.length = n ∧
      PlacedTeams s k base gang new gs := by
  induction n with
  | zero => exact ⟨[], [], s.ids, by simp, rfl, by simp, by simp⟩
  | succ n ih =>
    obtain ⟨new, gs, ids, before, rfl, cores, teams⟩ := ih fun i hi => room i (Nat.lt_succ_of_lt hi)
    have room' : k.kernel.groups ≤ (State.freeOf { s with teams := s.teams ++ new, groups := s.groups ++ gs, ids := ids }
        (base + new.length)).1 := by
      rw [freeOf_slots (s := s) (gs := gs) rfl fun g hg => Nat.ne_of_lt (cores g hg)]
      exact room _ (Nat.lt_succ_self _)
    obtain ⟨x, hs, ids', places, placed, stands, started⟩ := placeTeam_places room' (k.next + new.length) gang
    refine ⟨new ++ [x], gs ++ hs, ids', ?_, by simp, fun g hg => ?_, fun i y hi => ?_⟩
    · rw [List.range_succ, List.foldl_append, before, List.foldl_cons, List.foldl_nil, places]
      simp
    · rw [List.length_append, List.length_singleton]
      rcases List.mem_append.1 hg with hg | hg
      · have := cores g hg
        omega
      · have := (stands g hg).1
        omega
    · by_cases last : i = new.length
      · subst last
        obtain rfl : x = y := by simpa using hi
        refine ⟨placed, fun j hj => ?_⟩
        obtain ⟨g, hg, kind, starts⟩ := started j hj
        exact ⟨g, List.mem_append_right _ hg, fun old => (stands g hg).2 (List.mem_append_left _ old), kind, starts⟩
      · have inside : i < new.length := by
          have := (List.getElem?_eq_some_iff.1 hi).1
          simp at this
          omega
        rw [List.getElem?_append_left inside] at hi
        obtain ⟨placed, started⟩ := teams i y hi
        refine ⟨placed, fun j hj => ?_⟩
        obtain ⟨g, hg, rest⟩ := started j hj
        exact ⟨g, List.mem_append_left _ hg, rest⟩

/-- A grid's teams fit where each core has room for its groups. -/
theorem freeOf_of_fits {s : State} {k : Grid} {core : Nat} (h : (s.fits k core).isSome = true) :
    k.kernel.groups ≤ (s.freeOf core).1 := by
  by_contra few
  unfold State.fits at h
  dsimp only at h
  rw [decide_eq_false few] at h
  simp at h

theorem fits_of_gangFits {s : State} {k : Grid} {base n : Nat} (h : (s.gangFits k base n).isSome = true) :
    ∀ i < n, (s.fits k (base + i)).isSome = true := by
  induction n with
  | zero => intro i hi; omega
  | succ n ih =>
    rw [State.gangFits] at h
    cases hg : s.gangFits k base n with
    | none => simp [hg] at h
    | some v =>
      cases hf : s.fits k (base + n) with
      | none => simp [hg, hf] at h
      | some w =>
        intro i hi
        rcases Nat.lt_succ_iff_lt_or_eq.1 hi with hi | rfl
        · exact ih (by simp [hg]) i hi
        · simp [hf]

end Sys2Proof.Machine

/-!
PROOFS. The least loaded place of a gang, and the heads of queues (16 R357 to R360).
-/
namespace Sys2Proof.Machine

/-! ## A gang placed on the least loaded cores (16 R358, R360) -/

/-- The queue objects of a grid's gang. -/
def gangQueues (k : Grid) (gang : Nat) : List Queue :=
  (List.range k.kernel.queues).map fun i => ⟨gang, i, k.kernel.qkind.getLsbD i, [], .never, none, false⟩

/-- A grid with more of its teams placed. -/
def Grid.placed (n : Nat) (k : Grid) : Grid := { k with next := k.next + n }

/-- A state with teams, their groups and their queue objects beside those it has. -/
def State.joined (s : State) (new : List Team) (gs : List Group) (qs : List Queue) (ids : Nat) : State :=
  { s with teams := s.teams ++ new, groups := s.groups ++ gs, ids := ids, queues := s.queues ++ qs }

theorem placeGang_places {s : State} {k : Grid} {base n : Nat} (room : ∀ i < n, k.kernel.groups ≤ (s.freeOf (base + i)).1) :
    ∃ new gs ids, s.placeGang k base n = (s.joined new gs (gangQueues k s.ids) ids).modGrid k.key (Grid.placed n) ∧
      new.length = n ∧ PlacedTeams s k base s.ids new gs := by
  obtain ⟨new, gs, ids, places, length, cores, teams⟩ := placeTeams_places
    (s := { s with ids := s.ids + 1, queues := s.queues ++ gangQueues k s.ids }) s.ids n room
  exact ⟨new, gs, ids, congrArg (State.modGrid · k.key (Grid.placed n)) places, length, cores, teams⟩

/-- The least loaded of some cores is one of them. -/
theorem leastLoaded_mem {cands : List (Nat × (Nat × Nat × Nat))} {b : Nat} (h : leastLoaded cands = some b) :
    ∃ v, (b, v) ∈ cands := by
  obtain ⟨⟨b', v⟩, best, rfl⟩ := Option.map_eq_some_iff.1 h
  refine ⟨v, ?_⟩
  have kept : ∀ o : Option (Nat × (Nat × Nat × Nat)), (∀ c, o = some c → c ∈ cands) → ∀ l ⊆ cands, ∀ c, l.foldl (fun best c =>
      match best with
      | none => some c
      | some (cb, (a, b, d)) =>
        let (_, (x, y, z)) := c
        if a < x ∨ (a = x ∧ (b < y ∨ (b = y ∧ d < z))) then some c else some (cb, (a, b, d))) o = some c → c ∈ cands := by
    intro o ho l
    induction l generalizing o with
    | nil => intro _ c hc; exact ho c hc
    | cons e l ih =>
      intro hl c hc
      have he := hl (List.mem_cons_self ..)
      refine ih _ (fun d hd => ?_) (fun x hx => hl (List.mem_cons_of_mem _ hx)) c hc
      rcases o with _ | ⟨cb, a, b, d'⟩
      · exact Option.some.inj hd ▸ he
      · dsimp only at hd
        split at hd
        · exact Option.some.inj hd ▸ he
        · exact Option.some.inj hd ▸ ho _ rfl
  exact kept none (by simp) cands (List.Subset.refl _) _ best

theorem gangFits_of_bestPlace {s : State} {k : Grid} {n base : Nat} (h : s.bestPlace k n = some base) :
    (s.gangFits k base n).isSome = true := by
  obtain ⟨v, hv⟩ := leastLoaded_mem h
  obtain ⟨cl, -, hb⟩ := List.mem_flatMap.1 hv
  obtain ⟨b, -, hb⟩ := List.mem_filterMap.1 hb
  obtain ⟨x, fits, e⟩ := Option.map_eq_some_iff.1 hb
  obtain ⟨rfl, rfl⟩ := Prod.mk.inj e
  simp [fits]

theorem room_of_bestPlace {s : State} {k : Grid} {n base : Nat} (h : s.bestPlace k n = some base) :
    ∀ i < n, k.kernel.groups ≤ (s.freeOf (base + i)).1 :=
  fun i hi => freeOf_of_fits (fits_of_gangFits (gangFits_of_bestPlace h) i hi)

/-! ## Heads of queues whose entries only age (16 R357) -/

/-- A change of a queue's entries in nothing but their age and whether they reserve. -/
def Ages (f : LaunchEntry → LaunchEntry) : Prop := ∀ e, f e = { e with since := (f e).since, reserving := (f e).reserving }

/-- A state whose queues' entries are changed. -/
def State.mapLaunches (s : State) (f : LaunchEntry → LaunchEntry) : State := { s with launches := s.launches.map f }

theorem findBy_map {α β : Type} (p : β → Bool) (f : α → β) (l : List α) : findBy p (l.map f) = (findBy (p ∘ f) l).map f := by
  rw [findBy_eq_find?, findBy_eq_find?, List.find?_map]

theorem head_mapLaunches (s : State) {f : LaunchEntry → LaunchEntry} (hf : Ages f) (w p : Nat) (line : Option Nat) :
    (s.mapLaunches f).head w p line = (s.head w p line).map f := by
  have graphOf : ∀ e, (s.mapLaunches f).graphOf (f e) = s.graphOf e := fun e => by rw [hf e]; rfl
  have listed : (s.mapLaunches f).launches.filter (fun e => e.world == w && e.prio == p && (s.mapLaunches f).lineOf e == line &&
      !(e.graph && (((s.mapLaunches f).graph e.key).map fun k => !(s.mapLaunches f).graphHeld k).getD false)) =
      (s.launches.filter fun e => e.world == w && e.prio == p && s.lineOf e == line &&
        !(e.graph && ((s.graph e.key).map fun k => !s.graphHeld k).getD false)).map f := by
    refine (List.filter_map ..).trans (congrArg (List.map f) (List.filter_congr fun e _ => ?_))
    rw [Function.comp, hf e]
    rfl
  rw [State.head, State.head, listed]
  cases s.launches.filter fun e => e.world == w && e.prio == p && s.lineOf e == line &&
      !(e.graph && ((s.graph e.key).map fun k => !s.graphHeld k).getD false) with
  | nil => rfl
  | cons e l =>
    have graph : (f e).graph = e.graph := by rw [hf e]
    have passes : (fun d : LaunchEntry => !d.graph && (((s.mapLaunches f).graphOf d).map fun k =>
        decide (k.key < (f e).key)).getD false) ∘ f = fun d => !d.graph && ((s.graphOf d).map fun k =>
          decide (k.key < e.key)).getD false := funext fun d => by
      rw [Function.comp, graphOf, hf d, hf e]
    rw [List.map_cons]
    dsimp only
    rw [graph, findBy_map, passes]
    split
    · cases findBy (fun d => !d.graph && ((s.graphOf d).map fun k => decide (k.key < e.key)).getD false) l <;> rfl
    · rfl

end Sys2Proof.Machine

/-!
PROOFS. Placement and reserving heads (16 R357 to R359).
-/
namespace Sys2Proof.Machine

/-! ## Placement opportunities (16 R357 to R359) -/

theorem mapLaunches_self (s : State) : s.mapLaunches id = s := by rw [State.mapLaunches, List.map_id]

/-- A grid read after a change of its own, by a change that keeps its number. -/
theorem State.grid_modGrid {s : State} {j : Nat} {k : Grid} (f : Grid → Grid) (hf : ∀ k, (f k).key = k.key)
    (h : s.grid j = some k) : (s.modGrid j f).grid j = some (f k) := by
  have own : k.key = j := by simpa using findBy_some h
  unfold State.grid State.modGrid at *
  rw [findBy_updBy _ _ _ _ (fun a _ => by rw [hf]), h]
  simp [own]

/-- An entry of a number changed. -/
theorem updBy_eq_map {α : Type} (p : α → Bool) (f : α → α) (l : List α) :
    updBy p f l = l.map fun e => if p e then f e else e := by
  induction l with
  | nil => rfl
  | cons e l ih => rw [updBy, ih, List.map_cons]

/-- An entry whose age begins at a clock. -/
def LaunchEntry.agedAt (c : Nat) (f : LaunchEntry) : LaunchEntry := { f with since := c }

/-- What holds of a state and stays with each step of a fold holds at its end. -/
theorem foldl_keeps_of {α β : Type} {P : β → Prop} {f : β → α → β} (h : ∀ t a, P t → P (f t a)) (l : List α) (s : β) (hs : P s) :
    P (l.foldl f s) := by
  induction l generalizing s with
  | nil => exact hs
  | cons a l ih => exact ih _ (h _ _ hs)

/-- Noting which heads fit changes only the ages of entries. -/
theorem noteFits_ages (s : State) (w : Nat) : ∃ f, Ages f ∧ s.noteFits w = s.mapLaunches f := by
  refine foldl_keeps_of (P := fun t => ∃ f, Ages f ∧ t = s.mapLaunches f) (fun t line ht => ?_) _ s
    ⟨id, fun _ => rfl, (mapLaunches_self s).symm⟩
  refine foldl_keeps_of (P := fun t => ∃ f, Ages f ∧ t = s.mapLaunches f) (fun t p ht => ?_) _ t ht
  obtain ⟨f, hf, rfl⟩ := ht
  split
  · next e _ =>
    split
    · refine ⟨fun d => if (f d).key == e.key then (f d).agedAt s.clock else f d, fun d => ?_, ?_⟩
      · dsimp only
        split
        · rw [hf d]
          rfl
        · exact hf d
      · show { s with launches := updBy _ _ (s.launches.map f) } = _
        rw [updBy_eq_map, List.map_map]
        rfl
    · exact ⟨f, hf, rfl⟩
  · exact ⟨f, hf, rfl⟩

/-- A state with other entries in its queues. -/
def State.withLaunches (s : State) (l : List LaunchEntry) : State := { s with launches := l }

theorem freshHead_launches (s : State) (w p : Nat) (line : Option Nat) : ∃ l, s.freshHead w p line = s.withLaunches l := by
  unfold State.freshHead
  split
  · exact ⟨_, rfl⟩
  · exact ⟨s.launches, rfl⟩

/-- The head of a queue placed where its grid has a best place. -/
theorem placeHead_places {s : State} {w p : Nat} {e : LaunchEntry} {k : Grid} {base : Nat} (hk : s.grid e.key = some k)
    (hb : s.bestPlace k (min k.gang (k.total - k.next)) = some base) : ∃ l, s.placeHead w p e =
      some ((s.placeGang k base (min k.gang (k.total - k.next))).withLaunches l) := by
  rw [State.placeHead, hk]
  dsimp only
  rw [hb, Option.map_some]
  split
  · obtain ⟨l, fresh⟩ := freshHead_launches ((s.placeGang k base (min k.gang (k.total - k.next))).withLaunches
      (dropBy (fun f => f.key == e.key) (s.placeGang k base (min k.gang (k.total - k.next))).launches)) w p (s.lineOf e)
    exact ⟨l, congrArg some fresh⟩
  · obtain ⟨l, fresh⟩ := freshHead_launches (s.placeGang k base (min k.gang (k.total - k.next))) w p (s.lineOf e)
    exact ⟨l, congrArg some fresh⟩

theorem bestPlace_mapLaunches (s : State) (f : LaunchEntry → LaunchEntry) (k : Grid) (n : Nat) :
    (s.mapLaunches f).bestPlace k n = s.bestPlace k n := by
  have fits : ∀ core, (s.mapLaunches f).fits k core = s.fits k core := fun _ => rfl
  have gangs : ∀ b, (s.mapLaunches f).gangFits k b n = s.gangFits k b n := fun b => by
    induction n with
    | zero => rfl
    | succ n ih => rw [State.gangFits, State.gangFits, ih, fits]
  rw [State.bestPlace, State.bestPlace, funext gangs]

/-- A queue whose head is a grid that fits is served where those above it are empty. -/
theorem placeFirst_head {s t : State} {w p : Nat} {line : Option Nat} {e : LaunchEntry} (above below : List Nat)
    (empty : ∀ q ∈ above, s.head w q line = none) (head : s.head w p line = some e) (grid : e.graph = false)
    (place : s.placeHead w p e = some t) : s.placeFirst w line (above ++ p :: below) = some t := by
  induction above with
  | nil =>
    rw [List.nil_append, State.placeFirst, head]
    simp only [grid, place, Bool.false_eq_true, if_false]
  | cons q above ih =>
    rw [List.cons_append, State.placeFirst, empty q (List.mem_cons_self ..)]
    exact ih fun q hq => empty q (List.mem_cons_of_mem _ hq)

theorem placeFirst_empty {s : State} {w : Nat} {line : Option Nat} (qs : List Nat) (empty : ∀ q ∈ qs, s.head w q line = none) :
    s.placeFirst w line qs = none := by
  induction qs with
  | nil => rfl
  | cons q qs ih =>
    rw [State.placeFirst, empty q (List.mem_cons_self ..)]
    exact ih fun q hq => empty q (List.mem_cons_of_mem _ hq)

/-- The queues above one, and those from it on. -/
theorem queues_split {p : Nat} (h : p < 4) :
    ∃ above below, [3, 2, 1, 0] = above ++ p :: below ∧ ∀ q ∈ above, p < q ∧ q < 4 := by
  have cases_ : p = 0 ∨ p = 1 ∨ p = 2 ∨ p = 3 := by omega
  rcases cases_ with rfl | rfl | rfl | rfl
  · exact ⟨[3, 2, 1], [], rfl, by decide⟩
  · exact ⟨[3, 2], [0], rfl, by decide⟩
  · exact ⟨[3], [1, 0], rfl, by decide⟩
  · exact ⟨[], [2, 1, 0], rfl, by decide⟩

section placement
variable {s : State} {w p : Nat} {e : LaunchEntry} {k : Grid} {base : Nat} {line : Option Nat} {pre post : List (Option Nat)}
variable (hm : s.mayPlace w = true) (hp : p < 4) (hl : launchLines w = pre ++ line :: post)
variable (hpre : ∀ m ∈ pre, ∀ q < 4, s.head w q m = none) (habove : ∀ q, p < q → q < 4 → s.head w q line = none)
variable (head : s.head w p line = some e) (grid : e.graph = false) (hk : s.grid e.key = some k)
variable (hb : s.bestPlace k (min k.gang (k.total - k.next)) = some base)
include hm hp hl hpre habove head grid hk hb

/-- A placement opportunity places a gang of the first head. -/
theorem teamPlacement_runs : ∃ f l, exec (.teamPlacement w) s =
    .next (((s.mapLaunches f).placeGang k base (min k.gang (k.total - k.next))).withLaunches l) := by
  obtain ⟨f, ages, noted⟩ := noteFits_ages s w
  have heads : ∀ q m, (s.mapLaunches f).head w q m = (s.head w q m).map f := head_mapLaunches s ages w
  obtain ⟨above, below, queues, higher⟩ := queues_split hp
  have aged : (f e).graph = e.graph ∧ (f e).key = e.key := by rw [ages e]; exact ⟨rfl, rfl⟩
  obtain ⟨l, places⟩ := placeHead_places (s := s.mapLaunches f) (w := w) (p := p) (e := f e) (k := k) (base := base)
    (by rw [aged.2]; exact hk) ((bestPlace_mapLaunches ..).trans hb)
  have first : (s.mapLaunches f).placeFirst w line [3, 2, 1, 0] =
      some (((s.mapLaunches f).placeGang k base (min k.gang (k.total - k.next))).withLaunches l) := by
    rw [queues]
    refine placeFirst_head above below (fun q hq => ?_) (by rw [heads, head]; rfl) (aged.1.trans grid) places
    rw [heads, habove q (higher q hq).1 (higher q hq).2]
    rfl
  have earlier : pre.findSome? (fun m => (s.mapLaunches f).placeFirst w m [3, 2, 1, 0]) = none :=
    List.findSome?_eq_none_iff.2 fun m hm => placeFirst_empty _ fun q hq => by
      rw [heads, hpre m hm q (by simp at hq; omega)]
      rfl
  refine ⟨f, l, ?_⟩
  show execTeamPlacement w s = _
  rw [execTeamPlacement, if_pos hm, noted, hl]
  dsimp only
  rw [List.findSome?_append, earlier, List.findSome?_cons, first, Option.none_or]
  rfl

/-- The gang of the first head stands whole on the least loaded cores that fit it. -/
theorem teamPlacement_places (hkey : k.key = e.key) : ∃ (t : State) (new : List Team), exec (.teamPlacement w) s = .next t ∧
    t.mem = s.mem ∧ t.teams = s.teams ++ new ∧ new.length = min k.gang (k.total - k.next) ∧
    t.grid k.key = some (k.placed (min k.gang (k.total - k.next))) ∧
    (∀ i x, new[i]? = some x → PlacedTeam x k (base + i) (k.next + i) s.ids ∧
      ∀ j < k.kernel.groups, ∃ g ∈ t.groups, g ∉ s.groups ∧ g.kind = .launched ∧
        Started g x k.kernel.entry 64 (fun l => BitVec.ofNat 32 (64 * j + l)) (fun _ => ⟨0#32, false⟩) k.launcher) ∧
    ∀ q ∈ gangQueues k s.ids, q ∈ t.queues := by
  obtain ⟨f, l, runs⟩ := teamPlacement_runs hm hp hl hpre habove head grid hk hb
  obtain ⟨new, gs, ids, places, length, -, teams⟩ := placeGang_places (s := s.mapLaunches f) (k := k) (base := base)
    (n := min k.gang (k.total - k.next)) (room_of_bestPlace ((bestPlace_mapLaunches ..).trans hb))
  rw [places] at runs
  refine ⟨_, new, runs, rfl, rfl, length, ?_, fun i x hi => ?_, fun q hq => List.mem_append_right _ hq⟩
  · exact State.grid_modGrid (s := (s.mapLaunches f).joined new gs _ ids) (Grid.placed _) (fun _ => rfl)
      (by rw [← hkey] at hk; exact hk)
  · obtain ⟨placed, started⟩ := teams i x hi
    refine ⟨placed, fun j hj => ?_⟩
    obtain ⟨g, hg, rest⟩ := started j hj
    exact ⟨g, List.mem_append_right _ hg, rest⟩

end placement

/-! ## A head that reserves (16 R357) -/

/-- An entry of a number that reserves. -/
def reserves (key : Nat) (f : LaunchEntry) : LaunchEntry := if f.key = key then { f with reserving := true } else f

theorem reserves_ages (key : Nat) : Ages (reserves key) := fun e => by
  unfold reserves
  split <;> rfl

section reserving
variable {s : State} {w p : Nat} {e : LaunchEntry} {line : Option Nat} (hline : line ∈ launchLines w)
variable (head : s.head w p line = some e) (hother : ∀ m ∈ launchLines w, m ≠ line → s.head w p m = none)

/-- What a head of a queue becomes as it is seen not to fit. -/
def State.reserveHead (w p : Nat) (s : State) (line : Option Nat) : State := match s.head w p line with
  | some e =>
    if (s.grid e.key).isNone || s.clock < e.since + 2 ^ 20 || (s.placeHead w p e).isSome then s
    else { s with launches := updBy (fun f => f.key == e.key) (fun f => { f with reserving := true }) s.launches }
  | none => s

theorem headReserving_eq (s : State) (w p : Nat) :
    exec (.headReserving w p) s = .next ((launchLines w).foldl (State.reserveHead w p) s) := rfl

theorem launchLines_nodup (w : Nat) : (launchLines w).Nodup := by
  unfold launchLines
  split
  · exact List.nodup_range.map fun _ _ h => Option.some.inj h
  · exact List.nodup_singleton _

/-- Queues without heads are left alone. -/
theorem foldl_reserveHead_empty (ls : List (Option Nat)) {t : State} (empty : ∀ m ∈ ls, t.head w p m = none) :
    ls.foldl (State.reserveHead w p) t = t := by
  induction ls with
  | nil => rfl
  | cons m ls ih =>
    have stays : t.reserveHead w p m = t := by rw [State.reserveHead, empty m (List.mem_cons_self ..)]
    rw [List.foldl_cons, stays]
    exact ih fun m hm => empty m (List.mem_cons_of_mem _ hm)

include hline hother

theorem headReserving_runs {f : LaunchEntry → LaunchEntry} (hf : Ages f) (step : s.reserveHead w p line = s.mapLaunches f) :
    exec (.headReserving w p) s = .next (s.mapLaunches f) := by
  obtain ⟨pre, post, lines⟩ := List.append_of_mem hline
  have nodup := launchLines_nodup w
  rw [lines, List.nodup_middle, List.nodup_cons] at nodup
  have away : ∀ m ∈ pre ++ post, s.head w p m = none := fun m hm => by
    refine hother m ?_ fun same => nodup.1 (same ▸ hm)
    rw [lines, List.mem_append, List.mem_cons]
    exact (List.mem_append.1 hm).imp_right .inr
  rw [headReserving_eq, lines, List.foldl_append, List.foldl_cons, foldl_reserveHead_empty pre fun m hm =>
    away m (List.mem_append_left _ hm), step, foldl_reserveHead_empty post fun m hm => by
      rw [head_mapLaunches s hf, away m (List.mem_append_right _ hm)]
      rfl]

include head

/-- A head that has not waited 2^20 cycles does not reserve yet. -/
theorem headReserving_early (early : s.clock < e.since + 2 ^ 20) : exec (.headReserving w p) s = .next s := by
  have step : s.reserveHead w p line = s.mapLaunches id := by
    rw [State.reserveHead, head, mapLaunches_self]
    exact if_pos (by rw [decide_eq_true early]; simp)
  rw [headReserving_runs hline hother (fun _ => rfl) step, mapLaunches_self]

/-- A head that does not fit and has waited 2^20 cycles reserves. -/
theorem headReserving_late (hg : s.grid e.key ≠ none) (misfit : s.placeHead w p e = none) (late : e.since + 2 ^ 20 ≤ s.clock) :
    exec (.headReserving w p) s = .next (s.mapLaunches (reserves e.key)) := by
  refine headReserving_runs hline hother (reserves_ages _) ?_
  rw [State.reserveHead, head]
  dsimp only
  rw [decide_eq_false (Nat.not_lt.2 late), if_neg (by simp [hg, misfit]), updBy_eq_map]
  have same : (fun f : LaunchEntry => if (f.key == e.key) = true then { f with reserving := true } else f) = reserves e.key :=
    funext fun f => if_congr (by simp) rfl rfl
  rw [same]
  rfl

end reserving
end Sys2Proof.Machine

/-!
PROOFS. The lock-keeper and the end of a grid (16 R351, R363), and the launches and the distributor together.
-/
namespace Sys2Proof.Machine

/-! ## The lock-keeper (16 R351) -/

/-- A lock-keeper's kernel has one group. -/
theorem keeperKernel_groups {s s1 : State} {w core : Nat} {k : Kernel} (h : s.keeperKernel w core = (s1, some k)) :
    k.groups = 1 := by
  unfold State.keeperKernel at h
  dsimp only at h
  split at h
  · obtain rfl := Option.some.inj (Prod.mk.inj h).2
    rfl
  · split at h
    · cases (Prod.mk.inj h).2
    · split at h
      · split at h
        · next c =>
          obtain rfl := Option.some.inj (Prod.mk.inj h).2
          exact eq_of_beq (Bool.and_eq_true _ _ ▸ c).2
        · cases (Prod.mk.inj h).2
      · cases (Prod.mk.inj h).2

/-- An entry put behind others that do not have its number. -/
theorem findBy_append_fresh {α : Type} {p : α → Bool} {l : List α} {a : α} (hl : ∀ b ∈ l, p b = false) (ha : p a = true) :
    findBy p (l ++ [a]) = some a := by
  rw [findBy_eq_find?, List.find?_append, List.find?_eq_none.2 fun b hb => by rw [hl b hb]; decide]
  simp [ha]

/-- The grid of a lock-keeper as it starts. -/
def keeperGrid (s : State) (w : Nat) (k : Kernel) : Grid :=
  let p := s.polder w
  let l := keeperLaunch p.lkdesc p.lkargs
  ⟨s.ids, w, p.gridid, l.prio, l.attr.getLsbD 0 || k.attr.getLsbD 0, l.attr.getLsbD 1 || k.attr.getLsbD 1, k, l.gx, l.gy, l.gz,
    l.gang, l.args, l.ctr, l.cinc, l.poolcap, 0, 0, 0, none, none, true, l.target, p.meters, 0, false, none⟩

section keeper
variable {s s1 s2 : State} {w : Nat} {k : Kernel}

theorem startKeeper_places (hs : s1.startKeeper w k = some s2) (hg : ∀ g ∈ s1.grids, g.key < s1.ids) : ∃ (u : State) (c : Nat),
    u.mem = s1.mem ∧ u.grid s1.ids = some (keeperGrid s1 w k) ∧ (u.fits (keeperGrid s1 w k) c).isSome = true ∧
    s2 = u.placeGang (keeperGrid s1 w k) c 1 := by
  have there : (s1.newGrid w (keeperLaunch (s1.polder w).lkdesc (s1.polder w).lkargs) k 0 none none true).grid s1.ids =
      some (keeperGrid s1 w k) :=
    findBy_append_fresh (fun g h => by simpa using Nat.ne_of_lt (hg g h)) (by simp)
  unfold State.startKeeper at hs
  dsimp only at hs
  rw [there] at hs
  obtain ⟨c, hc, rfl⟩ := Option.map_eq_some_iff.1 hs
  have fits := findBy_some hc
  exact ⟨s1.newGrid w (keeperLaunch (s1.polder w).lkdesc (s1.polder w).lkargs) k 0 none none true, c, rfl, there, fits, rfl⟩

/-- A lock-keeper that ended starts again. -/
theorem lockkeeperRestart_starts (hl : (s.polder w).lkended = true) (hm : s.mayPlace w = true)
    (hk : s.keeperKernel w ((s.lowestCore w).getD 0) = (s1, some k)) (hs : s1.startKeeper w k = some s2)
    (hg : ∀ g ∈ s1.grids, g.key < s1.ids) : ∃ t g, exec (.lockkeeperRestart w) s = .next t ∧ t.mem = s1.mem ∧
      (t.polder w).lkended = false ∧ t.grid s1.ids = some g ∧ g.world = w ∧ g.kernel = k ∧ g.prio = 3 ∧ g.keeper = true ∧
      g.next = 1 ∧ g.args = (s1.polder w).lkargs ∧ ∃ x ∈ t.teams, x.grid = s1.ids ∧ ∃ h ∈ t.groups,
        Started h x k.entry 64 (fun l => BitVec.ofNat 32 l) (fun _ => ⟨0#32, false⟩) 0 := by
  obtain ⟨u, c, mem, grid, fits, rfl⟩ := startKeeper_places hs hg
  obtain ⟨new, gs, ids, places, one, -, teams⟩ := placeGang_places (s := u) (k := keeperGrid s1 w k) (base := c) (n := 1)
    fun i hi => by
    obtain rfl : i = 0 := by omega
    exact freeOf_of_fits fits
  obtain ⟨x, rfl⟩ := List.length_eq_one_iff.1 one
  obtain ⟨placed, started⟩ := teams 0 x rfl
  obtain ⟨h, hh, -, -, starts⟩ := started 0 (show 0 < k.groups by rw [keeperKernel_groups hk]; decide)
  have runs : exec (.lockkeeperRestart w) s = .next ((u.placeGang (keeperGrid s1 w k) c 1).setPolder w
      { (u.placeGang (keeperGrid s1 w k) c 1).polder w with lkended := false }) := by
    show execLockkeeperRestart w s = _
    rw [execLockkeeperRestart, hl, hm, hk]
    simp only [hs, Bool.not_true, Bool.or_self, Bool.false_eq_true, if_false]
  rw [places] at runs
  refine ⟨_, _, runs, mem, ?_, State.grid_modGrid (s := u.joined [x] gs _ ids) (Grid.placed 1) (fun _ => rfl) grid, rfl, rfl,
    rfl, rfl, rfl, rfl, x, List.mem_append_right _ (List.mem_cons_self ..), placed.grid, h, List.mem_append_right _ hh, ?_⟩
  · rw [State.polder_setPolder, if_pos rfl]
  · have first : Started h x k.entry 64 (fun l => BitVec.ofNat 32 (64 * 0 + l)) (fun _ => ⟨0#32, false⟩) 0 := starts
    simpa using first

end keeper

/-! ## The end of a grid (16 R363) -/

theorem of_mem_mapIns {α : Type} {m : List (Nat × α)} {k : Nat} {v : α} {e : Nat × α} (h : e ∈ mapIns m k v) :
    e ∈ m ∨ e = (k, v) := by
  induction m with
  | nil => exact .inr (List.mem_singleton.1 h)
  | cons x m ih =>
    obtain ⟨j, u⟩ := x
    rw [mapIns] at h
    split at h
    · exact (List.mem_cons.1 h).symm.imp_left (List.mem_cons_of_mem _)
    · split at h
      · exact (List.mem_cons.1 h).symm
      · rcases List.mem_cons.1 h with rfl | h
        · exact .inl (List.mem_cons_self ..)
        · exact (ih h).imp_left (List.mem_cons_of_mem _)

theorem mapGet_default_or {α : Type} (d : α) (m : List (Nat × α)) (k : Nat) : mapGet d m k = d ∨ (k, mapGet d m k) ∈ m := by
  induction m with
  | nil => exact .inl rfl
  | cons x m ih =>
    obtain ⟨j, u⟩ := x
    rw [mapGet]
    split
    · next e => exact .inr (e ▸ List.mem_cons_self ..)
    · exact ih.imp_right (List.mem_cons_of_mem _)

theorem foldl_fixed {α β : Type} {f : β → α → β} {s : β} (l : List α) (h : ∀ a ∈ l, f s a = s) : l.foldl f s = s := by
  induction l with
  | nil => rfl
  | cons a l ih => rw [List.foldl_cons, h a (List.mem_cons_self ..), ih fun b hb => h b (List.mem_cons_of_mem _ hb)]

section quiet
variable {s : State} (h : s.noneWait)
include h

theorem waitrec_of_noneWait (w : Nat) : (s.polder w).waitrec = [] := by
  obtain ⟨-, waits, -⟩ := h
  rcases mapGet_default_or Polder.reset s.pldrs w with e | listed
  · rw [State.polder, e]
    rfl
  · exact waits _ listed

/-- A range released lets nothing go on where nothing waits. -/
theorem registerWaiting_of_noneWait : s.registerWaiting = s := by
  have records : (s.pldrs.map Prod.fst).foldl (fun s w => s.postWaiting w (s.polder w).waitrec.length) s = s :=
    foldl_fixed _ fun w _ => by rw [waitrec_of_noneWait h w]; rfl
  obtain ⟨ops, -, pf⟩ := h
  have posted : s.postPfWaiting = s := by
    have same : { s.trust with pfwait := [] } = s.trust := by rw [← pf]
    rw [State.postPfWaiting, pf, List.foldl_nil, same]
  rw [State.registerWaiting, records, posted]
  refine foldl_fixed _ fun o _ => ?_
  split
  · next c hc =>
    obtain ⟨p, hp, copy⟩ := Option.bind_eq_some_iff.1 hc
    have kind : p.kind = .copy c := by
      unfold Op.copy? at copy
      split at copy
      · next e => rw [e, Option.some.inj copy]
      · cases copy
    rw [State.register, if_pos]
    exact (ops p (findBy_mem hp) c kind).imp_right fun r => .inl (Option.ne_none_iff_isSome.1 r)
  · rfl

theorem noneWait_setPolder {w : Nat} {p : Polder} (hp : p.waitrec = (s.polder w).waitrec) : (s.setPolder w p).noneWait := by
  have empty := waitrec_of_noneWait h w
  obtain ⟨ops, waits, pf⟩ := h
  refine ⟨ops, fun e he => ?_, pf⟩
  rcases of_mem_mapIns he with old | rfl
  · exact waits e old
  · exact hp.trans empty

theorem noneWait_meter (w m n : Nat) : (s.meter w m n).noneWait := by
  unfold State.meter
  split
  · exact noneWait_setPolder h rfl
  · exact h

end quiet

/-- A state without a grid and its tags. -/
def State.forgets (s : State) (key : Nat) : State :=
  { s with grids := dropBy (fun g => g.key == key) s.grids, tags := s.tags.filter fun t => t.2.grid != key }

/-- A state without the ranges that a grid's teams left. -/
def State.leavesRanges (s : State) (k : Grid) : State :=
  { s with ranges := s.ranges.filter fun r => r.grid != k.key || r.team == 0 }

/-- A grid dropped where nothing waits and no service cluster takes note. -/
theorem dropGrid_eq {s : State} {k : Grid} (h : s.noneWait) (hc : k.cluster = none) : s.dropGrid k =
    let u := (s.forgets k.key).leavesRanges k
    if k.keeper then u.setPolder k.world { u.polder k.world with lkended := true } else u := by
  have quiet : ((s.forgets k.key).leavesRanges k).registerWaiting = (s.forgets k.key).leavesRanges k :=
    registerWaiting_of_noneWait (s := (s.forgets k.key).leavesRanges k) h
  have drops : s.dropGrid k = (if k.keeper then ((s.forgets k.key).leavesRanges k).registerWaiting.setPolder k.world
      { ((s.forgets k.key).leavesRanges k).registerWaiting.polder k.world with lkended := true }
      else ((s.forgets k.key).leavesRanges k).registerWaiting).serviceEnd k.cluster := rfl
  rw [drops, hc, quiet]
  rfl

theorem meter_pldrs (s : State) (w m n : Nat) : s.meter w m n = { s with pldrs := (s.meter w m n).pldrs } := by
  unfold State.meter
  split <;> rfl

/-- A grid that ends where nothing waits takes with it its tags and ranges, beside what its polder and a graph note. -/
theorem finishGrid_forgets {s : State} {k : Grid} (h : s.noneWait) (hc : k.cluster = none) (clock : Nat) :
    ∃ rs ps ks, s.finishGrid k clock = { s.forgets k.key with ranges := rs, pldrs := ps, graphs := ks } := by
  rw [State.finishGrid, dropGrid_eq (noneWait_meter h _ _ _) hc, meter_pldrs]
  dsimp only
  split
  · exact ⟨_, _, _, rfl⟩
  · exact ⟨_, _, _, rfl⟩

section gone
variable {s s1 : State} {k : Grid} {time : Nat} (hk : s.grid k.key = some k) (he : k.total ≤ k.ended) (hh : k.held = none)
variable (ha : s.active k.world = true) (hn : s1.noneWait) (hc : k.cluster = none)
include hk he hh ha hn hc

/-- A grid whose teams have all ended is gone with its tags. -/
theorem gridCompletion_forgets (hadd : if k.ctr = 0#64 then s1 = s
      else s.addCounter (s.engineCore k.world) k.world 0 k.clock k.ctr.toNat k.cinc.toNat = .done s1 time) :
    ∃ t, exec (.gridCompletion k.key) s = .next t ∧ t.mem = s1.mem ∧ t.grid k.key = none ∧
      (∀ j, j ≠ k.key → t.grid j = s1.grid j) ∧ (∀ e, e ∈ t.tags ↔ e ∈ s1.tags ∧ e.2.grid ≠ k.key) ∧ t.groups = s1.groups := by
  obtain ⟨clock, runs⟩ : ∃ clock, exec (.gridCompletion k.key) s = .next (s1.finishGrid k clock) := by
    show ∃ clock, execGridCompletion k.key s = _
    rw [execGridCompletion, hk]
    dsimp only
    rw [hh, ha, decide_eq_false (Nat.not_lt.2 he)]
    by_cases hz : k.ctr = 0#64
    · rw [if_pos hz] at hadd
      exact ⟨k.clock, by rw [if_pos hz, hadd]; rfl⟩
    · rw [if_neg hz] at hadd
      exact ⟨time, by rw [if_neg hz, hadd]; rfl⟩
  obtain ⟨rs, ps, ks, gone⟩ := finishGrid_forgets hn hc clock
  rw [gone] at runs
  refine ⟨_, runs, rfl, findBy_dropBy_same _ _, fun j hj => ?_, fun e => ?_, rfl⟩
  · show findBy _ (dropBy _ s1.grids) = findBy _ s1.grids
    rw [findBy_eq_find?, findBy_eq_find?, dropBy_eq_filter, List.find?_filter]
    refine congrArg (List.find? · s1.grids) (funext fun g => ?_)
    by_cases own : g.key = j <;> simp [own, hj]
  · show e ∈ s1.tags.filter _ ↔ _
    rw [List.mem_filter]
    simp

end gone
/-- Settles O43: launches are read once and accepted in order, gangs stand whole on the least loaded cores, and what ends or
falls due is noted. -/
theorem launchAndDistribution : Obligations.LaunchAndDistribution := by
  unfold Obligations.LaunchAndDistribution
  refine ⟨fun s g i b a h => ⟨fun r hr => launch_held h b hr, fun hl hz ha h56 hp h64 =>
      ⟨launch_waits h b hl hz ha h56 hp h64, fun hw hact s1 x time take here => ⟨fun n hx => ?_, fun r hx => ?_⟩⟩⟩,
    fun s s1 core w c a r pas hr => ⟨fun s2 n more hk hg => takeLaunch_refuses_grid hr hk hg,
      fun s2 l k more hk hg => takeLaunch_grid hr hk hg, fun hk hp => takeLaunch_stray hr hk hp,
      fun s2 x more hk hp hg => ?_⟩,
    fun s w p e k base line pre post hm hp hl hpre habove head grid hk hkey hb => ?_,
    fun s w p e line hline head hother _ hg misfit => ⟨headReserving_early hline head hother,
      fun late => ⟨_, headReserving_late hline head hother hg misfit late, rfl, rfl⟩⟩,
    fun s s1 s2 w k hl hm hk hs hg => lockkeeperRestart_starts hl hm hk hs hg,
    fun s s1 k time hk he hh ha hn hc hadd => gridCompletion_forgets hk he hh ha hn hc hadd,
    fun s t n b ht hb hm => ⟨fun r hr late => bintimer_due ht hb hm hr late,
      fun age slot hr hs hl hc _ => binLaunch_starts ht hb hm hr hs hl hc⟩⟩
  · subst hx
    exact launch_refused h b hl hz ha h56 hp h64 hw hact here take
  · subst hx
    exact launch_taken h b hl hz ha h56 hp h64 hw hact here take
  · rcases x with _ | ⟨xs, es⟩ <;> exact takeLaunch_graph hr hk hp hg
  · obtain ⟨t, new, runs, mem, teams, length, own, each, queues⟩ :=
      teamPlacement_places hm hp hl hpre habove head grid hk hb hkey
    refine ⟨t, new, runs, mem, teams, length, own, fun i x hi => ?_,
      fun j hj _ => queues _ (List.mem_map.2 ⟨j, List.mem_range.2 hj, rfl⟩)⟩
    obtain ⟨placed, started⟩ := each i x hi
    exact ⟨placed.grid, placed.world, placed.core, placed.teamid, placed.gang, placed.kernel, placed.args, placed.scratch,
      placed.tiles, placed.bins, started⟩

end Sys2Proof.Machine
